-- ==== Sys2Proof/Word.lean ====
section
/-! DEFINITION. The word types of the model: bytes and register words (R7, R8), and the two-level little-endian view of them. -/
namespace Sys2Proof

/-- One byte (R7). -/
abbrev Byte := BitVec 8
/-- A BAR0 or BAR4 register, 32 bits (R8). -/
abbrev Word := BitVec 32
/-- A control-core general register, 64 bits (Control core, R65). -/
abbrev DWord := BitVec 64
/-- A command descriptor, 64 bytes as one number with byte 0 in bits 7..0 (R7, R75). -/
abbrev Desc := BitVec 512

end Sys2Proof
end

