-- ==== Sys2Proof/Syntax.lean ====
section
/-! DEFINITION. The commands: one constructor of Instr per row of spec/opcode_table.json, with the row's operands. A row that is
an EVENT inside the part carries what the part cannot know by itself (a measured value, a training outcome, data a host returned). -/
namespace Sys2Proof

/-- The two host ports (R302). -/
inductive Port where | p0 | p1
  deriving DecidableEq, Repr

/-- The requesters of register accesses and transactions (R369): the two ports and the HKC. -/
inductive Req where | p0 | p1 | hkc
  deriving DecidableEq, Repr

/-- The register windows of a port (Table 11.2). -/
inductive Bar where | bar0 | bar4
  deriving DecidableEq, Repr

/-- A physical tile site: compute stack and site index (Tile numbering, chapter 1). -/
structure Site where
  stack : Fin 12
  site  : Fin 160
  deriving DecidableEq, Repr

/-- One 64-byte line of DRAM: of a slice (by site and slice offset) or of an edge stack (by in-stack offset). -/
inductive LineRef where
  | slice (t : Site) (off : Nat)
  | edge (e : Fin 12) (off : Nat)
  deriving DecidableEq, Repr

/-- A refresh channel (R181): a vertical channel of a site, or a pseudo-channel of an edge stack. -/
inductive ChanRef where
  | slice (t : Site) (ch : Fin 2)
  | edge (e : Fin 12) (pc : Fin 32)
  deriving DecidableEq, Repr

/-- A table message of an APPEND (R210, R211): take a swatch of segment n, copy-on-write of a shared swatch, end of that copy, FILL update. -/
inductive TableMsg where
  | take (n : Fin 12)
  | cow (n : Fin 12) (swatch : Nat)
  | cowDone (swatch fill : Nat)
  | fill (swatch fill : Nat)
  deriving DecidableEq, Repr

/-- A report or decision of the tack channel (R257, R288): late or arrived, the longest pace request, the first late module, the
minimum widths of ports 0 to 11. -/
structure TackMsg where
  tack   : Nat
  late   : Bool
  pace   : Nat
  lateXyz : Option (Nat × Nat × Nat)
  minw   : List Nat
  from_  : Nat
  second : Bool
  deriving DecidableEq, Repr

/-- What a training state of a port ended with (Table 10.3, R269, R271): the far end's data where EXCHANGE ends, the masks, the delay. -/
structure TrainInfo where
  laneMask : BitVec 4
  farMask  : BitVec 4
  farX : Nat
  farY : Nat
  farZ : Nat
  farDX : Nat
  farDY : Nat
  farDZ : Nat
  farPort : Nat
  latNom  : Nat
  precode : BitVec 4
  deriving DecidableEq, Repr

/-- A flit as Table 10.5 lays it out; payload is bytes 12 to 251. -/
structure Flit where
  type  : Nat
  seq   : Nat
  ack   : Nat
  nak   : Bool
  hx    : Int
  hy    : Int
  hz    : Int
  plane : Bool
  ftile : Nat
  chan  : Nat
  last  : Bool
  srcX  : Nat
  srcY  : Nat
  srcZ  : Nat
  stile : Nat
  payload : List Byte
  deriving DecidableEq, Repr

/-- The header of a management frame (R295): every module (0xFFF) or the coordinate it goes to, the source coordinate, the hop limit; and the
inbound port. -/
structure MgmtDest where
  broadcast : Bool
  x : Nat
  y : Nat
  z : Nat
  src : Nat × Nat × Nat
  hops : Nat
  inPort : Fin 12
  deriving DecidableEq, Repr

/-- Why a host port is reset (R322). -/
inductive PortResetCause where | perst | hotReset | linkLoss
  deriving DecidableEq, Repr

/-- A block reset selection (Table 13.3). -/
inductive BlockRef where
  | tile (t : Site)
  | nbu (e : Fin 12) (u : Fin 32)
  | shuttle (d : Fin 4)
  | check (d : Fin 4)
  deriving DecidableEq, Repr

/-- A failed item of a bring-up step: KIND and ITEM of Table 12.6, CODE of Table 12.3 and the step's DETAIL. -/
structure ItemFail where
  kind : Nat
  item : Nat
  code : Nat
  detail : Nat
  deriving DecidableEq, Repr

/-- An edge pin's eye as step 7 measures it (R187): edge stack, pseudo-channel, pin, width in 1/64 UI, height in mV. -/
structure PinEye where
  e      : Fin 12
  pc     : Fin 32
  pin    : Fin 72
  width  : Nat
  height : Nat
  deriving DecidableEq, Repr

/-- How a received TLP stands: poisoned (R304), or with a false ECRC (Table 11.1). -/
inductive Tlp | good | poisoned | badEcrc
  deriving DecidableEq, Repr

/-- What a PCIe link trains to (Table 11.1): x1 to x16, 2.5 to 64 GT/s. -/
structure PcieLink where
  width : Fin 5
  rate  : Fin 6
  deriving DecidableEq, Repr

/-- The other options that a configuration write sets (Table 11.1): Max Payload Size 128 to 512 bytes, Max Read Request Size 128 to 4,096, ECRC,
MSI-X Enable and Function Mask, AER severities and masks, and the AER status bits it clears. -/
structure PcieConfig where
  payload   : Fin 3
  readSize  : Fin 6
  ecrcGen   : Bool
  ecrcCheck : Bool
  msixOn    : Bool
  msixMask  : Bool
  severity  : BitVec 32
  aerMask   : BitVec 32
  aerClear  : BitVec 32
  deriving DecidableEq, Repr

/-- The four filtered reset pins (R360). -/
inductive ResetPin where | por | sysrst | perst0 | perst1
  deriving DecidableEq, Repr

/-- The commands of spec/opcode_table.json. -/
inductive Instr where
  /-- REGISTER_WRITE (R10): A write to a register field that has no row of its own takes effect as its access code defines. -/
  | registerWrite (q : Req) (bar : Bar) (off size : Nat) (val : DWord) (tlp : Tlp)
  /-- LO_READ_LATCH (R8): A read of an _LO register returns its value and latches the matching _HI value for the same requester. -/
  | loReadLatch (q : Req) (bar : Bar) (off size : Nat)
  /-- ADD (R65): ALU instruction ADD writes rs1 plus rs2 to rd. -/
  | add (t : Site) (rd rs1 rs2 : BitVec 5)
  /-- SUB (R65): ALU instruction SUB writes rs1 minus rs2 to rd. -/
  | sub (t : Site) (rd rs1 rs2 : BitVec 5)
  /-- AND (R65): ALU instruction AND writes the bitwise and of rs1 and rs2 to rd. -/
  | and_ (t : Site) (rd rs1 rs2 : BitVec 5)
  /-- OR (R65): ALU instruction OR writes the bitwise or of rs1 and rs2 to rd. -/
  | or_ (t : Site) (rd rs1 rs2 : BitVec 5)
  /-- XOR (R65): ALU instruction XOR writes the bitwise exclusive-or of rs1 and rs2 to rd. -/
  | xor (t : Site) (rd rs1 rs2 : BitVec 5)
  /-- SHL (R65): ALU instruction SHL shifts rs1 left by rs2[5:0]. -/
  | shl (t : Site) (rd rs1 rs2 : BitVec 5)
  /-- SHR (R65): ALU instruction SHR shifts rs1 right logically by rs2[5:0]. -/
  | shr (t : Site) (rd rs1 rs2 : BitVec 5)
  /-- SAR (R65): ALU instruction SAR shifts rs1 right arithmetically by rs2[5:0]. -/
  | sar (t : Site) (rd rs1 rs2 : BitVec 5)
  /-- SLT (R65): ALU instruction SLT sets rd when rs1 is less than rs2, signed. -/
  | slt (t : Site) (rd rs1 rs2 : BitVec 5)
  /-- SLTU (R65): ALU instruction SLTU sets rd when rs1 is less than rs2, unsigned. -/
  | sltu (t : Site) (rd rs1 rs2 : BitVec 5)
  /-- MUL (R65): ALU instruction MUL writes the low 64 bits of the product. -/
  | mul (t : Site) (rd rs1 rs2 : BitVec 5)
  /-- MULHU (R65): ALU instruction MULHU writes the high 64 bits of the unsigned product. -/
  | mulhu (t : Site) (rd rs1 rs2 : BitVec 5)
  /-- ADDI (R65): ADDI writes rs1 plus the sign-extended immediate to rd. -/
  | addi (t : Site) (rd rs1 : BitVec 5) (imm : BitVec 16)
  /-- ANDI (R65): ANDI writes rs1 and the immediate to rd. -/
  | andi (t : Site) (rd rs1 : BitVec 5) (imm : BitVec 16)
  /-- ORI (R65): ORI writes rs1 or the immediate to rd. -/
  | ori (t : Site) (rd rs1 : BitVec 5) (imm : BitVec 16)
  /-- XORI (R65): XORI writes rs1 exclusive-or the immediate to rd. -/
  | xori (t : Site) (rd rs1 : BitVec 5) (imm : BitVec 16)
  /-- SHI (R65): SHI shifts rs1 left or right logically by an immediate amount. -/
  | shi (t : Site) (rd rs1 : BitVec 5) (imm : BitVec 16)
  /-- LUI (R65): LUI writes the immediate shifted left 16 and sign-extended to rd. -/
  | lui (t : Site) (rd : BitVec 5) (imm : BitVec 16)
  /-- LD (R66): LD loads 64 bits from data SRAM or the bobbin window into rd. -/
  | ld (t : Site) (rd rs1 : BitVec 5) (imm : BitVec 16)
  /-- LW (R66): LW loads 32 bits zero-extended into rd. -/
  | lw (t : Site) (rd rs1 : BitVec 5) (imm : BitVec 16)
  /-- LB (R66): LB loads 8 bits zero-extended into rd. -/
  | lb (t : Site) (rd rs1 : BitVec 5) (imm : BitVec 16)
  /-- SD (R66): SD stores the low 64 bits of rd. -/
  | sd (t : Site) (rd rs1 : BitVec 5) (imm : BitVec 16)
  /-- SW (R66): SW stores the low 32 bits of rd. -/
  | sw (t : Site) (rd rs1 : BitVec 5) (imm : BitVec 16)
  /-- SB (R66): SB stores the low 8 bits of rd. -/
  | sb (t : Site) (rd rs1 : BitVec 5) (imm : BitVec 16)
  /-- BEQ (R65): BEQ branches when rs1 equals rs2. -/
  | beq (t : Site) (rs1 rs2 : BitVec 5) (off : BitVec 16)
  /-- BNE (R65): BNE branches when rs1 differs from rs2. -/
  | bne (t : Site) (rs1 rs2 : BitVec 5) (off : BitVec 16)
  /-- BLT (R65): BLT branches when rs1 is less than rs2, signed. -/
  | blt (t : Site) (rs1 rs2 : BitVec 5) (off : BitVec 16)
  /-- BGE (R65): BGE branches when rs1 is not less than rs2, signed. -/
  | bge (t : Site) (rs1 rs2 : BitVec 5) (off : BitVec 16)
  /-- BLTU (R65): BLTU branches when rs1 is less than rs2, unsigned. -/
  | bltu (t : Site) (rs1 rs2 : BitVec 5) (off : BitVec 16)
  /-- BGEU (R65): BGEU branches when rs1 is not less than rs2, unsigned. -/
  | bgeu (t : Site) (rs1 rs2 : BitVec 5) (off : BitVec 16)
  /-- J (R65): J jumps by a sign-extended instruction offset. -/
  | j (t : Site) (off : BitVec 26)
  /-- JAL (R65): JAL jumps and writes the address of the next instruction to g31. -/
  | jal (t : Site) (off : BitVec 26)
  /-- JR (R65): JR jumps to rs1 plus the immediate and writes the return address to rd. -/
  | jr (t : Site) (rd rs1 : BitVec 5) (imm : BitVec 16)
  /-- CQPUSH (R66): CQPUSH waits for room in the command queue for a descriptor at a data-SRAM address. -/
  | cqpush (t : Site) (rs1 : BitVec 5) (imm : BitVec 16)
  /-- CQPUSH_APPEND (R66): Once the queue has room, CQPUSH reserves the tail, copies 64 bytes over 8 TCLK cycles and appends the entry. -/
  | cqpushAppend (t : Site)
  /-- CQWAIT (R67): CQWAIT stalls until the command with the given sequence has retired. -/
  | cqwait (t : Site) (rs1 : BitVec 5)
  /-- CQWAIT_RETURN (R67): CQWAIT returns once CQ_DONE shows the waited command retired. -/
  | cqwaitReturn (t : Site) (rs1 : BitVec 5)
  /-- CSRR (R97): CSRR reads a register of the own tile window into rd, as a host read does. -/
  | csrr (t : Site) (rd : BitVec 5) (imm : BitVec 16)
  /-- CSRW (R97): CSRW writes a register of the own tile window with the effect of a host write, except Table 3.14 registers. -/
  | csrw (t : Site) (rs1 : BitVec 5) (imm : BitVec 16)
  /-- TAPER (R65): TAPER writes the tape count to rd. -/
  | taper (t : Site) (rd : BitVec 5)
  /-- HALT (R65): HALT stops fetching and makes the tile halted, or idle once drained and the queue is empty. -/
  | halt (t : Site)
  /-- CC_RUN (R66): Setting CC_CTRL.RUN makes the core fetch from CC_PC and re-execute a stalled instruction from its start. -/
  | ccRun (q : Req) (t : Site)
  /-- CC_HALT (R66): Clearing CC_CTRL.RUN halts the core, at once during a stall or after a begun CQPUSH copy. -/
  | ccHalt (q : Req) (t : Site)
  /-- CC_STEP (R97): Writing CC_CTRL.STEP executes one instruction while the core is halted. -/
  | ccStep (q : Req) (t : Site)
  /-- CC_MEM_DATA_READ (R97): A read of CC_MEM_DATA returns the SRAM word at CC_MEM_ADDR and advances it when AUTOINC is set. -/
  | ccMemDataRead (q : Req) (t : Site)
  /-- CC_MEM_DATA_WRITE (R97): A host write of CC_MEM_DATA writes the SRAM word at CC_MEM_ADDR, advancing it under AUTOINC, unless the tile runs. -/
  | ccMemDataWrite (q : Req) (t : Site) (val : Word)
  /-- TILE_DRAINED (R90): After a fault, once earlier commands on other engines have completed, the tile sets DRAINED and stops reporting tack arrival. -/
  | tileDrained (t : Site)
  /-- COMMAND_RETIRE (R73): A completed command retires in queue order and CQ_DONE takes its sequence. -/
  | commandRetire (t : Site)
  /-- RESERVED_OPCODE (R71): A descriptor with a reserved opcode is refused with code 0x01. -/
  | reservedOpcode (t : Site)
  /-- NOP (R89): NOP issues and blocks later issue for DELAY TCLK cycles. -/
  | nop (t : Site)
  /-- NOP_DELAY_EXPIRE (R89): The NOP's delay expires and the NOP completes. -/
  | nopDelayExpire (t : Site)
  /-- FENCE (R89): FENCE issues and blocks later issue until earlier commands on the masked engines complete. -/
  | fence (t : Site)
  /-- FENCE_COMPLETE (R89): FENCE completes once every earlier command on its masked engines has completed. -/
  | fenceComplete (t : Site)
  /-- MM (R79): MM is checked at issue and handed to the array engine to compute D := alpha op(A,B). -/
  | mm (t : Site)
  /-- MMA (R79): MMA is checked at issue and handed to the array engine to compute D := beta C + alpha op(A,B). -/
  | mma (t : Site)
  /-- ARRAY_PRODUCT_START (R88): An issued MM or MMA starts on the arrays once the engine's earlier product allows it. -/
  | arrayProductStart (t : Site)
  /-- MM_OUTPUT_BEAT (R36): An output beat leaves the array and is written to the bobbin 6 ACLK cycles later. -/
  | mmOutputBeat (t : Site)
  /-- MM_COMPLETE (R88): The last bobbin write of an MM or MMA is performed and the command completes. -/
  | mmComplete (t : Site)
  /-- ATTN (R135): ATTN is checked at issue and takes the array and vector engines for fused attention. -/
  | attn (t : Site)
  /-- ATTN_BLOCK (R124): ATTN processes one KV block once it is available, updating m, l and o. -/
  | attnBlock (t : Site)
  /-- ATTN_COMPLETE (R137): ATTN completes, with FINAL writing normalised O and the row statistics. -/
  | attnComplete (t : Site)
  /-- ATTN_BWD (R140): ATTN_BWD is checked at issue and recomputes probabilities to form dQ, dK and dV. -/
  | attnBwd (t : Site)
  /-- ATTN_BWD_COMPLETE (R140): ATTN_BWD completes after its fixed duration with dQ, dK and dV written. -/
  | attnBwdComplete (t : Site)
  /-- VEC (R101): VEC is checked at issue and handed to the vector engine. -/
  | vec (t : Site)
  /-- VEC_GROUP (R106): The vector engine runs the program over one 64-column group and performs its stores. -/
  | vecGroup (t : Site)
  /-- VEC_COMPLETE (R105): A VEC command completes after its groups, or its reduction, top-k or sampling. -/
  | vecComplete (t : Site)
  /-- RNGK (R119): RNGK loads the tile's seed register. -/
  | rngk (t : Site)
  /-- SHUT_COPY (R220): A SHUT copy is checked at issue and takes a shuttle channel. -/
  | shutCopy (t : Site)
  /-- SHUT_GATHER (R221): A SHUT gather is checked at issue and takes a shuttle channel. -/
  | shutGather (t : Site)
  /-- SWATCH_WALK (R223): A swatch walk is checked at issue, sets or keeps the ring geometry and clears STOPPED. -/
  | swatchWalk (t : Site)
  /-- SHUTTLE_ACCESS (R217): A shuttle performs one translated access of its transfer in transfer order. -/
  | shuttleAccess (t : Site) (c : Fin 4)
  /-- WALK_BLOCK (R222): Once the ring has room, the walk assembles one KV block into the ring and increments PROD. -/
  | walkBlock (t : Site) (c : Fin 4)
  /-- SEND (R226): SEND is checked at issue and sends LEN bytes of the own bobbin to a tile channel over the mesh or fabric. -/
  | send (t : Site)
  /-- RECV (R227): RECV posts a buffer for a receive channel. -/
  | recv (t : Site)
  /-- MESH_DATA_ARRIVE (R227): Data arriving for a channel are written to its posted RECV buffer. -/
  | meshDataArrive (m : Nat)
  /-- SEND_COMPLETE (R227): A mesh SEND completes when its last byte has been written at the destination. -/
  | sendComplete (t : Site) (c : Fin 4)
  /-- TACK (R253): TACK is checked for numbering and issues toward arrival at its tack. -/
  | tack (t : Site)
  /-- TACK_ARRIVAL (R254): Once every earlier command has completed, the tile's arrival at the tack is reported to the aggregator. -/
  | tackArrival (t : Site)
  /-- WAIT (R254): WAIT issues and compares the schedule count with TARGET. -/
  | wait (t : Site)
  /-- WAIT_COMPLETE (R254): A WAIT completes when the schedule count reaches TARGET outside any pause, or late at once. -/
  | waitComplete (t : Site)
  /-- CHK (R442): CHK is checked at issue and submits a scan descriptor to the base die's check unit. -/
  | chk (t : Site)
  /-- PRIVATE_READ (R158): The slice controller serves a private line read with fixed tape latency. -/
  | privateRead (t : Site) (off : Nat)
  /-- PRIVATE_WRITE (R158): The slice controller performs a private line write with fixed tape latency. -/
  | privateWrite (t : Site) (off : Nat) (data : List Byte)
  /-- EDGE_LINE_REQUEST (R161): The edge controller serves a line request, scheduled requests first. -/
  | edgeLineRequest (e : Fin 12) (off : Nat) (wr : Option (List Byte)) (by_ : Option (Site × Nat))
  /-- NEEDLE_READ (R163): The edge stack reads a line and returns 16 bytes over the needle path. -/
  | needleRead (e : Fin 12) (off : Nat) (by_ : Option (Site × Nat))
  /-- BAR2_READ (R165): A host read through BAR2 is mapped through its window and served. -/
  | bar2Read (p : Port) (h len : Nat)
  /-- BAR2_WRITE (R169): A host write through BAR2 is mapped through its window and performed. -/
  | bar2Write (p : Port) (h : Nat) (data : List Byte) (tlp : Tlp)
  /-- SCRUB_READ (R175): The patrol scrubber reads a line in a spare window or idle slot and corrects it. -/
  | scrubRead (l : LineRef)
  /-- FLIP_ARM (R177): Setting FLIP_CTRL.ARM arms the flip mask for the next write in scope. -/
  | flipArm (q : Req) (edge : Bool) (k : Fin 12) (val : Word)
  /-- REFRESH_WINDOW (R181): At a window tape count the channel refreshes or gives the window to scrub. -/
  | refreshWindow (c : ChanRef) (need : Nat)
  /-- MARGIN_SCAN_START (R188): Writing EDGE_MARGIN_CTRL.START begins or refuses a margin scan of a pin. -/
  | marginScanStart (q : Req) (e : Fin 12) (val : Word)
  /-- MARGIN_SCAN_DONE (R188): A margin scan completes, writes EDGE_MARGIN_RESULT and sets DONE. -/
  | marginScanDone (e : Fin 12) (left right low high : Byte)
  /-- NBU_DOORBELL (R193): A write to bytes 0-3 of an enabled ring header sets PROD, or is ignored with RING_ERR. -/
  | nbuDoorbell (e : Fin 12) (u : Fin 32) (r : Fin 4) (val : Word)
  /-- NBU_APPEND (R211): APPEND quantises and appends COUNT KV positions to a sequence's swatches. -/
  | nbuAppend (e : Fin 12) (u : Fin 32) (r : Fin 4)
  /-- NBU_COPY (R197): COPY copies LEN bytes within the stack. -/
  | nbuCopy (e : Fin 12) (u : Fin 32) (r : Fin 4)
  /-- NBU_FILL (R197): FILL writes ARG3 to every 8 bytes of the destination. -/
  | nbuFill (e : Fin 12) (u : Fin 32) (r : Fin 4)
  /-- NBU_AXPY (R197): AXPY computes y := alpha x + y with one rounding and conversion. -/
  | nbuAxpy (e : Fin 12) (u : Fin 32) (r : Fin 4)
  /-- NBU_REDUCE (R197): REDUCE returns the canonical-tree FP32 sum of the source. -/
  | nbuReduce (e : Fin 12) (u : Fin 32) (r : Fin 4)
  /-- NBU_GATHER (R197): GATHER copies indexed elements to a contiguous destination. -/
  | nbuGather (e : Fin 12) (u : Fin 32) (r : Fin 4)
  /-- NBU_SCATTER (R197): SCATTER copies contiguous elements to indexed destinations. -/
  | nbuScatter (e : Fin 12) (u : Fin 32) (r : Fin 4)
  /-- NBU_CHECK_CRC32C (R197): CHECK sub-operation 0 returns the CRC-32C running value over the source. -/
  | nbuCheckCrc32c (e : Fin 12) (u : Fin 32) (r : Fin 4)
  /-- NBU_CHECK_CRC64 (R197): CHECK sub-operation 1 returns the CRC-64 running value over the source. -/
  | nbuCheckCrc64 (e : Fin 12) (u : Fin 32) (r : Fin 4)
  /-- NBU_CHECK_HOST_TAG (R197): CHECK sub-operation 2 writes the host tag of each 512-byte block. -/
  | nbuCheckHostTag (e : Fin 12) (u : Fin 32) (r : Fin 4)
  /-- TAKE (R209): TABLE TAKE pops the head of a segment's free list as a new in-use swatch. -/
  | take (e : Fin 12) (u : Fin 32) (r : Fin 4)
  /-- TABLE_REF_INC (R148): TABLE REF_INC increments a swatch's REFS. -/
  | tableRefInc (e : Fin 12) (u : Fin 32) (r : Fin 4)
  /-- RELEASE (R148): TABLE RELEASE decrements REFS and frees the swatch at zero. -/
  | release (e : Fin 12) (u : Fin 32) (r : Fin 4)
  /-- PROBE (R151): HASH PROBE returns the valid node matching a key. -/
  | probe (e : Fin 12) (u : Fin 32) (r : Fin 4)
  /-- INSERT (R151): HASH INSERT returns a matching node or claims the lowest free slot as pending. -/
  | insert (e : Fin 12) (u : Fin 32) (r : Fin 4)
  /-- PUBLISH (R212): HASH PUBLISH moves a node from pending to valid. -/
  | publish (e : Fin 12) (u : Fin 32) (r : Fin 4)
  /-- HASH_REF_INC (R212): HASH REF_INC increments a valid node's REFS. -/
  | hashRefInc (e : Fin 12) (u : Fin 32) (r : Fin 4)
  /-- REF_DEC (R212): HASH REF_DEC decrements a valid node's REFS. -/
  | refDec (e : Fin 12) (u : Fin 32) (r : Fin 4)
  /-- EVICT (R212): HASH EVICT frees a valid node whose REFS is zero. -/
  | evict (e : Fin 12) (u : Fin 32) (r : Fin 4)
  /-- TABLE_MESSAGE (R210): Unit 0 of the table stack performs a table message from an APPEND as one indivisible step. -/
  | tableMessage (b : Fin 12) (m : TableMsg)
  /-- NBU_STEP (R195): At a step boundary the unit performs the next step of an operation, choosing by priority. -/
  | nbuStep (e : Fin 12) (u : Fin 32)
  /-- CLAIMED_LINE_READ (R201): A read that met a claimed line is served at the end of the current step. -/
  | claimedLineRead (e : Fin 12) (off : Nat)
  /-- CLAIMED_LINE_WRITE (R202): A write that met a claimed or read line is performed at the end of the step and sets CONFLICT. -/
  | claimedLineWrite (e : Fin 12) (off : Nat) (data : List Byte)
  /-- CTX_SAVE (R232): Applying CTX_CTRL.SAVE in every stack of a bolt requests pre-emption and sets PREEMPT_PENDING. -/
  | ctxSave (b : Fin 12)
  /-- PREEMPT_AT_TACK (R234): At the tack of pre-emption tiles stop shuttle work at boundaries, write their records and halt. -/
  | preemptAtTack (b : Fin 12)
  /-- CTX_SAVED (R235): When every stack has written its image part the pattern ends and CTX_STATUS becomes saved. -/
  | ctxSaved (b : Fin 12)
  /-- CTX_RESTORE (R238): Applying CTX_CTRL.RESTORE checks the image and starts rebuilding the bolt, or refuses. -/
  | ctxRestore (b : Fin 12)
  /-- CTX_RESTORE_DONE (R238): After reading every image part the bolt resumes at the saved tack. -/
  | ctxRestoreDone (b : Fin 12)
  /-- PAT_LOAD (R248): Stitching PAT_CTRL.LOAD starts reading and measuring the pattern image, or refuses a busy bolt. -/
  | patLoad (b : Fin 12)
  /-- PATTERN_ADMIT (R248): After the image is read the admission checks run and the pattern is admitted or refused. -/
  | patternAdmit (b : Fin 12)
  /-- PAT_START (R251): Stitching PAT_CTRL.START accepts a start tape T0 or refuses it. -/
  | patStart (b : Fin 12)
  /-- PATTERN_T0 (R251): At tape T0 the schedule count is 0 and the HKC sets RUN in every tile of the bolt. -/
  | patternT0 (b : Fin 12)
  /-- PAT_STOP (R252): PAT_CTRL.STOP ends an admitted pattern at once or stops a running one at its next tack release. -/
  | patStop (b : Fin 12)
  /-- PATTERN_END (R252): When every tile has executed HALT the pattern ends and its claims are released. -/
  | patternEnd (b : Fin 12)
  /-- TACK_DEADLINE (R257): At schedule count D_N the module sends its report for tack N. -/
  | tackDeadline (b : Fin 12)
  /-- TACK_REPORT (R257): A tack report arrives at a tree node or the root and is combined. -/
  | tackReport (b : Fin 12) (r : TackMsg)
  /-- TACK_DECISION (R257): The root's decision for a tack arrives at a module. -/
  | tackDecision (b : Fin 12) (d : TackMsg)
  /-- TACK_RELEASE (R258): At schedule count R_N tiles continue on an arrived decision, or the bolt holds on a late one. -/
  | tackRelease (b : Fin 12)
  /-- HOLD_RELEASE (R258): At release tape H every module resumes the schedule count at R_N. -/
  | holdRelease (b : Fin 12)
  /-- HOLD_LONG (R259): A hold reaching 10 ms sets HOLD_LONG and logs a record. -/
  | holdLong (b : Fin 12)
  /-- SLIP_REQUEST (R261): A slip request arrives at the root and is broadcast. -/
  | slipRequest (b : Fin 12) (s : Nat)
  /-- SLIP_BROADCAST (R261): A module receives a slip broadcast and schedules the slip. -/
  | slipBroadcast (b : Fin 12) (s : Nat)
  /-- SLIP_START (R261): At schedule count s plus TACK_LAT the count stops for SLIP_LEN tape cycles. -/
  | slipStart (b : Fin 12)
  /-- SLIP_END (R261): After SLIP_LEN tape cycles the schedule count advances again. -/
  | slipEnd (b : Fin 12)
  /-- PACE_START (R262): At R_(N+2) the schedule count stops for the longest pace request. -/
  | paceStart (b : Fin 12)
  /-- PACE_END (R262): The pace pause ends and the schedule count advances. -/
  | paceEnd (b : Fin 12)
  /-- TAPE_SYNC_IN_EDGE (R243): A rising edge on TAPE_SYNC_IN stamps the tape and, on the root, assigns TAPE_SYNC_VAL. -/
  | tapeSyncInEdge (elsewhere : Bool)
  /-- TAPE_SYNC_OUT_PULSE (R243): At each tape multiple of 2^OUT_SHIFT TAPE_SYNC_OUT is driven high for 100 tape cycles. -/
  | tapeSyncOutPulse
  /-- TIMING_EXCHANGE (R294): Every 100 us a module and its parent exchange timing flits and the offset is computed. -/
  | timingExchange (t1 t2 t3 t4 asym : Int)
  /-- TRAIN_STATE_COMPLETE (R271): A lane or port training state completes and training moves to the next state. -/
  | trainStateComplete (f : Fin 12) (info : TrainInfo)
  /-- TRAIN_LIMIT_EXPIRE (R272): A training state that exceeds its limit fails the attempt, repeated up to three times. -/
  | trainLimitExpire (f : Fin 12)
  /-- PORT_RETRAIN (R273): FAB_PORT_CTRL.RETRAIN retrains a port unless a bolt claims it. -/
  | portRetrain (q : Req) (f : Fin 12)
  /-- SLOT_START (R276): A scheduled slot starts and the transmitter sends its flit at the next flit boundary. -/
  | slotStart (f : Fin 12)
  /-- FLIT_RECEIVE (R274): A received flit is checked by CRC and sequence and delivered, forwarded or discarded. -/
  | flitReceive (f : Fin 12) (raw : List Byte) (due : Nat) (uncorr : List (Fin 4)) (corr : List (Fin 4 × Nat))
  /-- REPLAY_TIMEOUT (R283): A flit unacknowledged for 2 us makes the transmitter replay from the oldest. -/
  | replayTimeout (f : Fin 12)
  /-- DELIVERY_ACK (R281): A delivery acknowledgement completes the fabric SEND, or a negative one faults it. -/
  | deliveryAck (t : Site) (c : Fin 4) (negative : Bool)
  /-- LANE_STATUS (R286): A lane-status frame reports the far end's failing lanes. -/
  | laneStatus (f : Fin 12) (mask : BitVec 4)
  /-- LEAVING (R295): A LEAVING frame takes the receiving port down at once and sets LEFT. -/
  | leaving (f : Fin 12)
  /-- RESET_FRAME (R296): A RESET frame requests a reset when RESET_EN and its key word are right, or sets BAD_RESET. -/
  | resetFrame (dest : MgmtDest) (key : Word)
  /-- XTRIG_FRAME (R458): An XTRIG frame delivers a cross-trigger to the module when XTRIG_EN is set. -/
  | xtrigFrame (dest : MgmtDest) (tx : Nat) (id : Byte) (stop : Bool)
  /-- FW_SEGMENT (R297): A FW_SEGMENT frame stages one tile firmware segment when FW_EN is set. -/
  | fwSegment (dest : MgmtDest) (type seq : Nat) (crc : Word) (data : List Byte)
  /-- UNKNOWN_FRAME (R295): A management frame of an unknown type is discarded and counted. -/
  | unknownFrame (dest : MgmtDest) (type : Byte) (payload : List Byte)
  /-- SQ_TAIL_DOORBELL (R315): A write of HST_SQ_n_TAIL hands entries to the DMA engine, or sets ERR. -/
  | sqTailDoorbell (p : Port) (n : Fin 64) (val : Word)
  /-- CQ_HEAD_DOORBELL (R315): A write of HST_CQ_n_HEAD frees consumed completion records. -/
  | cqHeadDoorbell (p : Port) (n : Fin 64) (val : Word)
  /-- QUEUE_ENABLE (R316): Setting HST_Q_n_CTRL.EN resets the queue pair to its first-enabled state. -/
  | queueEnable (p : Port) (n : Fin 64)
  /-- QUEUE_DISABLE (R316): Clearing EN stops SQ fetching while commands in progress complete. -/
  | queueDisable (p : Port) (n : Fin 64)
  /-- HOST_TO_DEVICE (R319): Host queue OP 0x01 moves LEN bytes from host memory to edge memory. -/
  | hostToDevice (p : Port) (n : Fin 64) (entry : Desc) (data : List Byte) (hostOk : Bool)
  /-- DEVICE_TO_HOST (R319): Host queue OP 0x02 moves LEN bytes from edge memory to host memory. -/
  | deviceToHost (p : Port) (n : Fin 64) (entry : Desc) (len : Nat) (hostOk : Bool)
  /-- DEVICE_COPY (R216): Host queue OP 0x03 passes a copy descriptor to a base-die shuttle. -/
  | deviceCopy (p : Port) (n : Fin 64) (entry : Desc)
  /-- DEVICE_GATHER (R216): Host queue OP 0x04 passes a gather descriptor to a base-die shuttle. -/
  | deviceGather (p : Port) (n : Fin 64) (entry : Desc)
  /-- HQ_COMPLETION (R318): A completed host queue command writes its completion record. -/
  | hqCompletion (p : Port) (n : Fin 64)
  /-- CTRL_PORT_SET (R310): The control port names the control port by writing CTRL_PORT. -/
  | ctrlPortSet (p : Port) (dst : Port)
  /-- TAKE_CTRL (R310): The other port takes the control role when the control port is unavailable. -/
  | takeCtrl (p : Port)
  /-- CLAIM (R313): HST_BOLT CLAIM makes the writer owner of an unowned bolt. -/
  | claim (p : Port) (b : Fin 12)
  /-- BOLT_RELEASE (R313): HST_BOLT RELEASE sets the owner to none when the writer owns the bolt. -/
  | boltRelease (p : Port) (b : Fin 12)
  /-- BOLT_TAKE (R313): HST_BOLT TAKE makes the writer owner when the owning port is unavailable. -/
  | boltTake (p : Port) (b : Fin 12)
  /-- PORT_RESET (R322): PERST, hot reset or link loss resets one host port only. -/
  | portReset (p : Port) (c : PortResetCause)
  /-- FLR (R323): A Function Level Reset resets one port with the link kept up. -/
  | flr (p : Port)
  /-- MCTP_CONTROL (R325): The management endpoint answers an MCTP control message. -/
  | mctpControl (msg : List Byte)
  /-- PLDM_REQUEST (R326): A PLDM request is answered by the HKC or with ERROR_NOT_READY from the boot ROM. -/
  | pldmRequest (msg : List Byte)
  /-- BRINGUP_POWER (R331): Step 1: power good starts the boot ROM on B0. -/
  | bringupPower
  /-- BRINGUP_PCIE (R331): Step 2: the boot ROM trains the host ports and serves identity and the mailbox. -/
  | bringupPcie (up0 up1 : Option PcieLink)
  /-- SEGMENT_POST (R332): MBX_SEG_CTRL.POST checks a segment's CRC and stages it, or refuses it. -/
  | segmentPost (q : Req) (val : Word)
  /-- SEGMENT_STAGED (R332): Staging of a segment ends and SEG_BUSY clears. -/
  | segmentStaged
  /-- IMAGE_VERIFY (R336): Once manifest and body are staged the image is verified by the checks of R336. -/
  | imageVerify
  /-- BRINGUP_FUSES (R338): Step 5: the HKC reads the fuses and sets the fuse-derived fields. -/
  | bringupFuses
  /-- BRINGUP_CLOCKS (R339): Step 6: the HKC locks the PLLs and sets ACLK. -/
  | bringupClocks (fabref : Bool) (stackFail : List (Fin 12))
  /-- BRINGUP_TRAIN (R340): Step 7: slice channels, edge PHYs, seams and fabric lanes train. -/
  | bringupTrain (eyes : List PinEye) (fails : List ItemFail)
  /-- BRINGUP_MEMTEST (R341): Step 8: every line is tested, darned and written as zero. -/
  | bringupMemtest (rows banks : List (ChanRef × Nat)) (pins : List (ChanRef × Fin 72 × Fin 8)) (fails : List ItemFail)
  /-- BRINGUP_TILEFW (R342): Step 9: tile firmware is broadcast and each tile checks its digest. -/
  | bringupTilefw (short : List (Site × BitVec 32)) (differ : List Site)
  /-- TILEFW_UNICAST_ROUND (R343): A unicast round re-sends missing segments to tiles that have not matched. -/
  | tilefwUnicastRound (short : List (Site × BitVec 32)) (differ : List Site)
  /-- BRINGUP_FITTING (R344): Step 10: known-answer fitting runs test every engine. -/
  | bringupFitting (arrays : List (Site × Fin 17)) (fails : List ItemFail)
  /-- BRINGUP_READY (R331): Step 11: repair maps and capability list are written and READY set. -/
  | bringupReady
  /-- BOOT_CONTINUE (R331): Writing 0 to STOP_BEFORE lets a halted bring-up continue. -/
  | bootContinue (q : Req)
  /-- ATTEST (R351): ATTEST writes a signed quote over the nonce to the response window. -/
  | attest (q : Req)
  /-- READ_IDKEY (R352): READ_IDKEY returns the identity public key and endorsement. -/
  | readIdkey (q : Req)
  /-- CLEAR_ALT (R348): CLEAR_ALT sets ACTION 4 on one or all alteration entries. -/
  | clearAlt (q : Req)
  /-- MBX_RESERVED_CMD (R352): A reserved mailbox command completes with status 0x01. -/
  | mbxReservedCmd (q : Req) (cmd : Byte)
  /-- RST_CMD_POR (R355): A write of key 0x5EA3_0001 to RST_CMD requests a power-on reset. -/
  | rstCmdPor (q : Req)
  /-- RST_CMD_SYSTEM (R355): A write of key 0x5EA3_0002 to RST_CMD requests a system reset. -/
  | rstCmdSystem (q : Req)
  /-- RST_CMD_CORE (R355): A write of key 0x5EA3_0003 to RST_CMD requests a core reset. -/
  | rstCmdCore (q : Req)
  /-- POWER_ON_RESET (R357): A level-1 reset runs the reset sequence and clears all state. -/
  | powerOnReset
  /-- SYSTEM_RESET (R357): A level-2 reset sends LEAVING frames and runs the reset sequence. -/
  | systemReset
  /-- CORE_RESET (R357): A level-3 reset completes DRAM writes, enters self-refresh and runs the reset sequence. -/
  | coreReset
  /-- RESET_DEFERRED (R358): A reset that waited for a record-store pulse proceeds when the pulse ends. -/
  | resetDeferred
  /-- RESET_RELEASE (R357): After at least 10 us reset is released and the steps of Table 12.5 run. -/
  | resetRelease
  /-- POR_N_LOW (R360): A filtered low level on POR_N requests a power-on reset. -/
  | porNLow (ns : Nat) (taken : Bool)
  /-- SYSRST_N_LOW (R360): A filtered low level on SYSRST_N requests a system reset. -/
  | sysrstNLow (ns : Nat) (taken : Bool)
  /-- V48_LOSS (R354): V48 falling below 38 V is a power loss and a power-on reset. -/
  | v48Loss
  /-- V48_RETURN (R480): V48 returning to 40 V starts the module after at least 20 ms of reset. -/
  | v48Return
  /-- V48_OVERVOLTAGE (R477): V48 above 62 V for 10 us shuts the regulators down as a power loss. -/
  | v48Overvoltage
  /-- HKC_WATCHDOG (R354): The HKC watchdog expiring after 250 ms requests a system reset. -/
  | hkcWatchdog
  /-- BLOCK_RESET (R363): RST_BLK_CTRL.RESET resets a drained block, or is refused. -/
  | blockReset (q : Req)
  /-- BLOCK_RESET_FORCED (R364): RST_BLK_CTRL.FORCE converts outstanding requests to aborts and resets the block. -/
  | blockResetForced (q : Req)
  /-- STALE_REPLY (R366): A reply with an old reset epoch is discarded and counted. -/
  | staleReply (b : BlockRef) (epoch : Byte)
  /-- STACK_PLL_LOCK_LOSS (R367): A stack PLL losing lock gates its clocks and faults its tiles with 0x10. -/
  | stackPllLockLoss (s : Fin 12)
  /-- BASE_PLL_LOCK_LOSS (R367): A base-die PLL losing lock is fatal and the HKC requests a system reset. -/
  | basePllLockLoss (d : Fin 4)
  /-- FABREF_LOSS (R368): Loss of FABREF puts every PLL into holdover and logs a fatal error. -/
  | fabrefLoss
  /-- BASTE (R369): CFG_TXN_BEGIN.BASTE opens a configuration transaction. -/
  | baste (q : Req)
  /-- TXN_STAGE_WRITE (R370): A write to an RWT register inside an open transaction is staged. -/
  | txnStageWrite (q : Req) (off : Nat) (val : Word)
  /-- STITCH (R371): CFG_TXN_COMMIT.STITCH checks the transaction and schedules it or refuses it whole. -/
  | stitch (q : Req)
  /-- UNPICK (R369): CFG_TXN_ROLLBACK.UNPICK discards the open transaction. -/
  | unpick (q : Req)
  /-- RWT_LONE_WRITE (R373): A lone write to an unpaired RWT field is applied as a transaction of one write. -/
  | rwtLoneWrite (q : Req) (off : Nat) (val : Word)
  /-- TXN_APPLY (R372): An accepted transaction is applied whole at tape T. -/
  | txnApply
  /-- TXN_TIMEOUT (R374): A transaction open for 10 ms is unpicked by timeout. -/
  | txnTimeout (q : Req)
  /-- BOLT_RESET (R379): Bolt operation reset stops the pattern, force-resets the bolt's tiles and reloads firmware. -/
  | boltReset (b : Fin 12)
  /-- BOLT_REPAIR (R380): Bolt operation repair relocks, retrains, darns, reloads and fits the bolt's stacks. -/
  | boltRepair (b : Fin 12) (failed : List Site) (arrays : List (Site × Fin 17))
  /-- BOLT_REPLACE_FW (R381): Bolt operation replace firmware delivers the staged tile image to the bolt's tiles. -/
  | boltReplaceFw (b : Fin 12) (unmatched : List Site)
  /-- BOLT_OP_DONE (R378): A bolt operation completes and STK_BOLT_OP_STAT becomes done or failed. -/
  | boltOpDone (b : Fin 12)
  /-- HOUSEKEEPING_ROUND (R385): Every 1 ms the HKC reads every channel and makes thermal, coolant and power decisions. -/
  | housekeepingRound (readings : List (Nat × Int))
  /-- LIFE_COUNT_SAVE (R404): Every 10 minutes the HKC saves the life counts to the record store. -/
  | lifeCountSave
  /-- HW_TRIP_SAMPLE (R392): A trip comparator sample at or above trip twice gates ACLK and asserts THERMTRIP_N. -/
  | hwTripSample (ch : Nat) (reading : Int)
  /-- FLOW_IN_EDGE (R399): A rising FLOW_IN edge times the interval and updates the flow; the level
  then stays high for `high` ns (R473). -/
  | flowInEdge (high : Nat)
  /-- FLOW_TIMEOUT (R399): An interval exceeding the FLOW_MIN bound marks flow below FLOW_MIN. -/
  | flowTimeout
  /-- OVERCURRENT_TRIP (R409): Input current at or above 125 A for 50 us gates ACLK and starts a trip shutdown. -/
  | overcurrentTrip
  /-- SHUTDOWN_CLEAR (R403): THM_SHUTDOWN.CLEAR ends a shutdown and runs the core-reset steps, or is ignored. -/
  | shutdownClear (q : Req)
  /-- SIDEBAND_CONNECTION_FAIL (R414): A failed sideband connection switches its signal to the other connection. -/
  | sidebandConnectionFail (t : Site) (signal : Fin 8) (conn : Fin 2)
  /-- VC_GROUP_TEST (R415): A symbol group with repeated corrections is tested with walking patterns in a spare window. -/
  | vcGroupTest (t : Site) (ch : Fin 2) (pos : Fin 72) (dead : List (Fin 8))
  /-- MIGRATION_COPY_LINE (R419): The migration copies the next line in an idle slot or spare window. -/
  | migrationCopyLine (s : Fin 12)
  /-- MIGRATION_COMPLETE (R422): The copy completes and the site is retired now or at the next load. -/
  | migrationComplete (s : Fin 12)
  /-- SEAM_FLIT_RECEIVE (R423): A seam flit is CRC-checked and delivered or replayed. -/
  | seamFlitReceive (n : Fin 4) (dir : Fin 2) (flit : List Byte) (badLanes : List (Fin 128 × Fin 16))
  /-- SEAM_RETRAIN (R427): SEAM_n_CTRL.RETRAIN retrains a seam unless a pattern claims it. -/
  | seamRetrain (q : Req) (n : Fin 4) (halfA halfB : Bool)
  /-- BASE_DIE_RESET (R428): RST_BD_d_CTRL.RESET resets a base die unless refused. -/
  | baseDieReset (q : Req) (d : Fin 4)
  /-- BASE_DIE_RESET_FORCED (R429): RST_BD_d_CTRL.FORCE resets the base die despite touching bolts. -/
  | baseDieResetForced (q : Req) (d : Fin 4)
  /-- FATAL_CLEAR (R432): Writing 1 to ERR_STATUS.FATAL clears it and releases FAULT_N. -/
  | fatalClear (q : Req)
  /-- ERR_LOG_LATCH (R434): A write of ERR_LOG_SEL latches one whole record into ERR_LOG_DATA. -/
  | errLogLatch (p : Port) (val : Word)
  /-- CHK_SUB_GO (R439): CHK_SUB_CTRL.GO submits a host scan descriptor, or sets FULL or REFUSED. -/
  | chkSubGo (q : Req) (d : Fin 4) (val : Word)
  /-- CHK_SCAN_TURN (R439): The check unit scans up to 4 KiB for one busy context in turn. -/
  | chkScanTurn (d : Fin 4)
  /-- CHK_CTX_VAL_WRITE (R445): A write of CHK_CTX_n_VAL sets the running value, or is ignored with CTX_BUSY. -/
  | chkCtxValWrite (q : Req) (d : Fin 4) (n : Fin 16) (hi : Bool) (val : Word)
  /-- HEM_ENABLE (R452): Setting TRC_HEM_CFG.EN empties the hem and starts tracing with a SYNC record. -/
  | hemEnable (q : Req) (t : Site) (val : Word)
  /-- HEM_SPILL_LINE (R454): The hem drains a 64-byte line to its spill ring in an idle slot. -/
  | hemSpillLine (t : Site)
  /-- HEM_LATCH (R455): A write of TRC_HEM_SEL latches one whole hem record. -/
  | hemLatch (q : Req) (t : Site) (val : Word)
  /-- CROSS_TRIGGER_ARRIVE (R457): A cross-trigger arrives at a tile's kind-8 units. -/
  | crossTriggerArrive (t : Site) (tx : Nat) (id : Byte)
  /-- HEM_FREEZE_AT_TAPE (R457): At tape Tx plus TRC_XTRIG_POST the hem freezes. -/
  | hemFreezeAtTape (t : Site)
  /-- ATTR_LATCH (R460): A write of TRC_ATTR_SEL latches one whole attribution entry. -/
  | attrLatch (q : Req) (val : Word)
  /-- ATTR_CLEAR (R460): TRC_ATTR_CTRL.CLEAR empties the attribution table. -/
  | attrClear (q : Req)
  /-- GLOBAL_STOP_ARM (R461): Stitching TRC_STOP_CTRL.ARM with a tape arms a global stop, or cancels it. -/
  | globalStopArm
  /-- GLOBAL_STOP (R462): At tape T the scheduled domain stops and forms a consistent cut. -/
  | globalStop
  /-- DUMP (R464): TRC_STOP_CTRL.DUMP writes the stopped state to edge memory, or is refused. -/
  | dump
  /-- DUMP_DONE (R464): The dump completes and STATE becomes dumped. -/
  | dumpDone
  /-- TAP_RESET (R466): TRST_N low or five TMS-high cycles reset the test access port to IDCODE. -/
  | tapReset
  /-- EXTEST (R466): JTAG EXTEST drives the boundary-scan register when JTAG_EN is set. -/
  | extest (bits : List Bool)
  /-- IDCODE (R466): JTAG IDCODE returns the 32-bit identification code. -/
  | idcode
  /-- SAMPLE_PRELOAD (R466): JTAG SAMPLE/PRELOAD samples or preloads the boundary-scan register. -/
  | samplePreload (bits : List Bool)
  /-- DBG_REG (R467): JTAG DBG_REG performs a BAR0 access with control-port rights at Update-DR. -/
  | dbgReg (dr : DWord)
  /-- DBG_RESET (R467): JTAG DBG_RESET requests a reset level as the debug source. -/
  | dbgReset (dr : Byte)
  /-- BYPASS (R466): JTAG BYPASS selects the 1-bit bypass register. -/
  | bypass
  /-- GPIO_INPUT_CHANGE (R474): A change of a sampled GPIO level updates RST_GPIO_IN and sets its edge bit. -/
  | gpioInputChange (levels : Byte)
  /-- CABLE_REMOVED (R484): Removal of a selvage cable takes the port down. -/
  | cableRemoved (f : Fin 12)
  /-- LOSS_OF_LOCK (R286): A fabric lane that loses FEC lock for LOCK_LOSS_US microseconds is declared failing, and a port whose every lane is lost goes down. -/
  | lossOfLock (f : Fin 12) (lane : Fin 4) (us : Nat)
  /-- HOLD_RELEASE_MESSAGE (R258): A module receives the root's hold-release broadcast carrying release tape H for a held tack. -/
  | holdReleaseMessage (b : Fin 12) (h : Nat)
  /-- PORT_LINK_UP (R322): A host port whose PERSTn_N deasserts, or whose link returns, trains and becomes available again. -/
  | portLinkUp (p : Port) (link : PcieLink)
  /-- FLR_COMPLETE (R323): A Function Level Reset of a port completes within 100 ms and the port is available again. -/
  | flrComplete (p : Port)
  /-- RESET_PIN_HIGH (R360): A reset pin that was held low rises and releases the reset it held. -/
  | resetPinHigh (pin : ResetPin)
  /-- BLOCK_RESET_DONE (R363): A block reset of at least 1 us ends, BUSY clears, DONE sets and the block runs again. -/
  | blockResetDone
  /-- BASE_DIE_RESET_DONE (R428): A base-die reset ends with seams retrained, BUSY cleared and DONE set. -/
  | baseDieResetDone (d : Fin 4)
  /-- FABREF_RETURN (R368): FABREF becomes present again and RST_CLK_STATUS.FABREF is set. -/
  | fabrefReturn
  /-- DYNAMIC_ADDRESS_ASSIGN (R325): An I3C controller assigns a dynamic address by ENTDAA or SETDASA, and the endpoint switches to I3C mode until power-on reset. -/
  | dynamicAddressAssign (addr : BitVec 7)
  /-- ADDRESS_RESOLUTION (R325): An SMBus Address Resolution Protocol exchange assigns the endpoint's SMBus address. -/
  | addressResolution (addr : BitVec 7)
  /-- CONFIG_SPACE_WRITE (R313): A PCIe configuration write moves a port into D3hot or back, or changes its Bus Master Enable. -/
  | configSpaceWrite (p : Port) (d3hot busMaster : Bool) (c : PcieConfig)
  deriving DecidableEq, Repr

end Sys2Proof
end

