-- ==== Sys2Proof/Decode.lean ====
section
/-! DEFINITION. The instruction words of the tile control core (Tables 3.3 and 3.4), decoded and encoded; and the decoding of the table's
own rows, none of which gives bits (spec/opcode_table.json), so that no word spells a command. -/
namespace Sys2Proof

/-- A-format operations, by fn (Table 3.4). -/
inductive AluOp where | add | sub | and_ | or_ | xor | shl | shr | sar | slt | sltu | mul | mulhu
  deriving DecidableEq, Repr

/-- Immediate operations, op 0x01 to 0x04. -/
inductive ImmOp where | addi | andi | ori | xori
  deriving DecidableEq, Repr

/-- Branch conditions, op 0x10 to 0x15. -/
inductive Cond where | eq | ne | lt | ge | ltu | geu
  deriving DecidableEq, Repr

/-- Access widths: 64, 32 or 8 bits. -/
inductive AccW where | dword | word | byte
  deriving DecidableEq, Repr

/-- The instructions of the Filmal control ISA (Table 3.4). -/
inductive CoreInstr where
  | alu (op : AluOp) (rd rs1 rs2 : BitVec 5)
  | imm (op : ImmOp) (rd rs1 : BitVec 5) (i : BitVec 16)
  | shi (rd rs1 : BitVec 5) (i : BitVec 16)
  | lui (rd : BitVec 5) (i : BitVec 16)
  | load (w : AccW) (rd rs1 : BitVec 5) (i : BitVec 16)
  | store (w : AccW) (rd rs1 : BitVec 5) (i : BitVec 16)
  | branch (c : Cond) (rs1 rs2 : BitVec 5) (off : BitVec 16)
  | j (off : BitVec 26)
  | jal (off : BitVec 26)
  | jr (rd rs1 : BitVec 5) (i : BitVec 16)
  | cqpush (rs1 : BitVec 5) (i : BitVec 16)
  | cqwait (rs1 : BitVec 5)
  | csrr (rd : BitVec 5) (i : BitVec 16)
  | csrw (rs1 : BitVec 5) (i : BitVec 16)
  | taper (rd : BitVec 5)
  | halt
  deriving DecidableEq, Repr

/-- Bytes of an access. -/
def AccW.bytes : AccW → Nat
  | .dword => 8
  | .word => 4
  | .byte => 1

/-- The registers an instruction reads: it waits for a load to one of them (R66). -/
def CoreInstr.reads : CoreInstr → List (BitVec 5)
  | .alu _ _ a b => [a, b]
  | .imm _ _ a _ => [a]
  | .shi _ a _ => [a]
  | .load _ _ a _ => [a]
  | .store _ d a _ => [d, a]
  | .branch _ a b _ => [a, b]
  | .jr _ a _ => [a]
  | .cqpush a _ => [a]
  | .cqwait a => [a]
  | .csrw a _ => [a]
  | _ => []

def AluOp.fn : AluOp → Nat
  | .add => 0x000
  | .sub => 0x001
  | .and_ => 0x002
  | .or_ => 0x003
  | .xor => 0x004
  | .shl => 0x005
  | .shr => 0x006
  | .sar => 0x007
  | .slt => 0x008
  | .sltu => 0x009
  | .mul => 0x00A
  | .mulhu => 0x00B

def AluOp.ofFn : Nat → Option AluOp
  | 0x000 => some .add
  | 0x001 => some .sub
  | 0x002 => some .and_
  | 0x003 => some .or_
  | 0x004 => some .xor
  | 0x005 => some .shl
  | 0x006 => some .shr
  | 0x007 => some .sar
  | 0x008 => some .slt
  | 0x009 => some .sltu
  | 0x00A => some .mul
  | 0x00B => some .mulhu
  | _ => none

/-- Fields of an instruction word (Table 3.3). -/
def fOp (w : Nat) : Nat := w / 67108864
def fA (w : Nat) : Nat := w / 2097152 % 32
def fB (w : Nat) : Nat := w / 65536 % 32
def fC (w : Nat) : Nat := w / 2048 % 32
def fFn (w : Nat) : Nat := w % 2048
def fImm (w : Nat) : Nat := w % 65536
def fOff26 (w : Nat) : Nat := w % 67108864

/-- A word put together from the fields of formats I and B, and of formats A and J. -/
def packI (op a b i : Nat) : Nat := op * 67108864 + a * 2097152 + b * 65536 + i
def packA (a b c fn : Nat) : Nat := a * 2097152 + b * 65536 + c * 2048 + fn
def packJ (op off : Nat) : Nat := op * 67108864 + off

/-- The instruction a word spells (R65): none for a major opcode or fn that Table 3.4 does not list, or a nonzero unused field. -/
def decodeCore (w : BitVec 32) : Option CoreInstr :=
  let n := w.toNat
  let a : BitVec 5 := BitVec.ofNat 5 (fA n)
  let b : BitVec 5 := BitVec.ofNat 5 (fB n)
  let c : BitVec 5 := BitVec.ofNat 5 (fC n)
  let i : BitVec 16 := BitVec.ofNat 16 (fImm n)
  match fOp n with
  | 0x00 => (AluOp.ofFn (fFn n)).map fun op => .alu op a b c
  | 0x01 => some (.imm .addi a b i)
  | 0x02 => some (.imm .andi a b i)
  | 0x03 => some (.imm .ori a b i)
  | 0x04 => some (.imm .xori a b i)
  | 0x05 => if fImm n / 128 = 0 then some (.shi a b i) else none
  | 0x06 => if fB n = 0 then some (.lui a i) else none
  | 0x08 => some (.load .dword a b i)
  | 0x09 => some (.load .word a b i)
  | 0x0A => some (.load .byte a b i)
  | 0x0C => some (.store .dword a b i)
  | 0x0D => some (.store .word a b i)
  | 0x0E => some (.store .byte a b i)
  | 0x10 => some (.branch .eq a b i)
  | 0x11 => some (.branch .ne a b i)
  | 0x12 => some (.branch .lt a b i)
  | 0x13 => some (.branch .ge a b i)
  | 0x14 => some (.branch .ltu a b i)
  | 0x15 => some (.branch .geu a b i)
  | 0x18 => some (.j (BitVec.ofNat 26 (fOff26 n)))
  | 0x19 => some (.jal (BitVec.ofNat 26 (fOff26 n)))
  | 0x1A => some (.jr a b i)
  | 0x20 => if fA n = 0 then some (.cqpush b i) else none
  | 0x21 => if fA n = 0 ∧ fImm n = 0 then some (.cqwait b) else none
  | 0x22 => if fB n = 0 then some (.csrr a i) else none
  | 0x23 => if fA n = 0 then some (.csrw b i) else none
  | 0x24 => if fB n = 0 ∧ fImm n = 0 then some (.taper a) else none
  | 0x25 => if fOff26 n = 0 then some .halt else none
  | _ => none

/-- Every word that decodes to an instruction has the fields of Table 3.3 here; SHI's immediate has bits [15:7] zero. -/
def CoreInstr.wf : CoreInstr → Bool
  | .shi _ _ i => i.toNat / 128 == 0
  | _ => true

/-- The word of an instruction (Tables 3.3 and 3.4). -/
def encodeCore : CoreInstr → BitVec 32
  | .alu op rd rs1 rs2 => BitVec.ofNat 32 (packA rd.toNat rs1.toNat rs2.toNat op.fn)
  | .imm .addi rd rs1 i => BitVec.ofNat 32 (packI 0x01 rd.toNat rs1.toNat i.toNat)
  | .imm .andi rd rs1 i => BitVec.ofNat 32 (packI 0x02 rd.toNat rs1.toNat i.toNat)
  | .imm .ori rd rs1 i => BitVec.ofNat 32 (packI 0x03 rd.toNat rs1.toNat i.toNat)
  | .imm .xori rd rs1 i => BitVec.ofNat 32 (packI 0x04 rd.toNat rs1.toNat i.toNat)
  | .shi rd rs1 i => BitVec.ofNat 32 (packI 0x05 rd.toNat rs1.toNat i.toNat)
  | .lui rd i => BitVec.ofNat 32 (packI 0x06 rd.toNat 0 i.toNat)
  | .load .dword rd rs1 i => BitVec.ofNat 32 (packI 0x08 rd.toNat rs1.toNat i.toNat)
  | .load .word rd rs1 i => BitVec.ofNat 32 (packI 0x09 rd.toNat rs1.toNat i.toNat)
  | .load .byte rd rs1 i => BitVec.ofNat 32 (packI 0x0A rd.toNat rs1.toNat i.toNat)
  | .store .dword rd rs1 i => BitVec.ofNat 32 (packI 0x0C rd.toNat rs1.toNat i.toNat)
  | .store .word rd rs1 i => BitVec.ofNat 32 (packI 0x0D rd.toNat rs1.toNat i.toNat)
  | .store .byte rd rs1 i => BitVec.ofNat 32 (packI 0x0E rd.toNat rs1.toNat i.toNat)
  | .branch .eq rs1 rs2 o => BitVec.ofNat 32 (packI 0x10 rs1.toNat rs2.toNat o.toNat)
  | .branch .ne rs1 rs2 o => BitVec.ofNat 32 (packI 0x11 rs1.toNat rs2.toNat o.toNat)
  | .branch .lt rs1 rs2 o => BitVec.ofNat 32 (packI 0x12 rs1.toNat rs2.toNat o.toNat)
  | .branch .ge rs1 rs2 o => BitVec.ofNat 32 (packI 0x13 rs1.toNat rs2.toNat o.toNat)
  | .branch .ltu rs1 rs2 o => BitVec.ofNat 32 (packI 0x14 rs1.toNat rs2.toNat o.toNat)
  | .branch .geu rs1 rs2 o => BitVec.ofNat 32 (packI 0x15 rs1.toNat rs2.toNat o.toNat)
  | .j off => BitVec.ofNat 32 (packJ 0x18 off.toNat)
  | .jal off => BitVec.ofNat 32 (packJ 0x19 off.toNat)
  | .jr rd rs1 i => BitVec.ofNat 32 (packI 0x1A rd.toNat rs1.toNat i.toNat)
  | .cqpush rs1 i => BitVec.ofNat 32 (packI 0x20 0 rs1.toNat i.toNat)
  | .cqwait rs1 => BitVec.ofNat 32 (packI 0x21 0 rs1.toNat 0)
  | .csrr rd i => BitVec.ofNat 32 (packI 0x22 rd.toNat 0 i.toNat)
  | .csrw rs1 i => BitVec.ofNat 32 (packI 0x23 0 rs1.toNat i.toNat)
  | .taper rd => BitVec.ofNat 32 (packI 0x24 rd.toNat 0 0)
  | .halt => BitVec.ofNat 32 (packJ 0x25 0)

/-- The command that a word spells by the opcode table's bits: no row of the table gives bits, so no word spells one. -/
def decodeTableWord (_nbits _w : Nat) : Option Instr := none

end Sys2Proof
end

