-- ==== Sys2Proof/Machine/Crypto.lean ====
section
/-! DEFINITION. The generator's ChaCha8 block (R115, R116), the CRCs of the check unit and near-bank units (R438, Table 16.4), and the
SHAKE256 measurement (R248, R336; FIPS 202). -/
namespace Sys2Proof.Machine

/-! ### ChaCha with 8 rounds (R115) -/

/-- A block of sixteen words, read with 0 beyond its end. -/
def wd (l : List (BitVec 32)) (i : Nat) : BitVec 32 := l.getD i 0

/-- The quarter round on four word positions. -/
def quarter (x : List (BitVec 32)) (a b c d : Nat) : List (BitVec 32) :=
  let va := wd x a + wd x b
  let vd := (wd x d ^^^ va).rotateLeft 16
  let vc := wd x c + vd
  let vb := (wd x b ^^^ vc).rotateLeft 12
  let va := va + vb
  let vd := (vd ^^^ va).rotateLeft 8
  let vc := vc + vd
  let vb := (vb ^^^ vc).rotateLeft 7
  (((x.set a va).set b vb).set c vc).set d vd

/-- A column round followed by a diagonal round. -/
def doubleRound (x : List (BitVec 32)) : List (BitVec 32) :=
  let x := quarter (quarter (quarter (quarter x 0 4 8 12) 1 5 9 13) 2 6 10 14) 3 7 11 15
  quarter (quarter (quarter (quarter x 0 5 10 15) 1 6 11 12) 2 7 8 13) 3 4 9 14

/-- The input state of a draw (Table 4.8). -/
def chachaIn (seed : BitVec 256) (ctr purpose stream : Nat) : List (BitVec 32) :=
  [0x61707865, 0x3320646E, 0x79622D32, 0x6B206574] ++
  (List.range 8).map (fun w => seed.extractLsb' (32 * w) 32) ++
  [BitVec.ofNat 32 ctr, BitVec.ofNat 32 (ctr / 2 ^ 32), BitVec.ofNat 32 purpose, BitVec.ofNat 32 stream]

/-- The sixteen output words of a draw. -/
def chacha8 (seed : BitVec 256) (ctr purpose stream : Nat) : List (BitVec 32) :=
  let x := chachaIn seed ctr purpose stream
  List.zipWith (· + ·) x (doubleRound (doubleRound (doubleRound (doubleRound x))))

/-- The 16-bit share of an element of logical index `x` (R116). -/
def share16 (seed : BitVec 256) (purpose stream x : Nat) : Nat :=
  let o := chacha8 seed (x / 32) purpose stream
  let i := x % 32
  (wd o (i / 2)).toNat / 2 ^ (16 * (i % 2)) % 2 ^ 16

/-- The 8-bit share (R116). -/
def share8 (seed : BitVec 256) (purpose stream x : Nat) : Nat :=
  let o := chacha8 seed (x / 64) purpose stream
  let i := x % 64
  (wd o (i / 4)).toNat / 2 ^ (8 * (i % 4)) % 2 ^ 8

/-! ### CRCs (Table 16.4) -/

/-- One bit of a reflected CRC. -/
def crcBitR (poly : Nat) (r : Nat) (b : Nat) : Nat := let x := (r + b) % 2; if x = 1 then Nat.xor (r / 2) poly else r / 2
/-- One byte of a reflected CRC, lowest bit first. -/
def crcByteR (poly : Nat) (r : Nat) (v : BitVec 8) : Nat :=
  (List.range 8).foldl (fun r i => crcBitR poly r (v.toNat / 2 ^ i % 2)) r

/-- One byte of a 64-bit CRC that is not reflected, highest bit first. -/
def crcByteN (poly : Nat) (r : Nat) (v : BitVec 8) : Nat :=
  (List.range 8).foldl (fun r i =>
    let x := (r / 2 ^ 63 + v.toNat / 2 ^ (7 - i)) % 2
    let r2 := r * 2 % 2 ^ 64
    if x = 1 then Nat.xor r2 poly else r2) r

/-- CRC-32C continued from a running value (R438): finished values, so the register is the value with its final exclusive-OR undone. -/
def crc32c (v : Nat) (l : List (BitVec 8)) : Nat :=
  Nat.xor (l.foldl (crcByteR 0x82F63B78) (Nat.xor (v % 2 ^ 32) 0xFFFFFFFF)) 0xFFFFFFFF
/-- CRC-32 with the IEEE 802.3 polynomial (R274; the conventions of that standard, log entry 82). -/
def crc32 (l : List (BitVec 8)) : Nat := Nat.xor (l.foldl (crcByteR 0xEDB88320) 0xFFFFFFFF) 0xFFFFFFFF
/-- CRC-16 with polynomial 0x1021 and initial value 0xFFFF, highest bit first (R423). -/
def crc16 (l : List (BitVec 8)) : Nat :=
  l.foldl (fun r v => (List.range 8).foldl (fun r i =>
    let r2 := r * 2 % 2 ^ 16
    if (r / 2 ^ 15 + v.toNat / 2 ^ (7 - i)) % 2 = 1 then Nat.xor r2 0x1021 else r2) r) 0xFFFF
/-- CRC-64 (ECMA-182). -/
def crc64 (v : Nat) (l : List (BitVec 8)) : Nat := l.foldl (crcByteN 0x42F0E1EBA9EA3693) (v % 2 ^ 64)
/-- The host tag CRC: the same polynomial reflected, all ones before and after. -/
def crcTag (v : Nat) (l : List (BitVec 8)) : Nat :=
  Nat.xor (l.foldl (crcByteR 0xC96C5795D7870F42) (Nat.xor (v % 2 ^ 64) 0xFFFFFFFFFFFFFFFF)) 0xFFFFFFFFFFFFFFFF

/-- The algorithm of a code ALG 0 to 2. -/
def crcAlg (alg v : Nat) (l : List (BitVec 8)) : Nat :=
  match alg with
  | 0 => crc32c v l
  | 1 => crc64 v l
  | _ => crcTag v l

/-! ### SHAKE256 (FIPS 202) -/

/-- The 1,600 bits of a sponge, lane (x, y) at bit 64 (x + 5y). -/
abbrev Sponge := BitVec 1600

def Sponge.at (a : Sponge) (x y : Nat) : BitVec 64 := a.extractLsb' (64 * (x % 5 + 5 * (y % 5))) 64

/-- The sponge whose lanes a function of x and y gives. -/
def Sponge.of (f : Nat → Nat → BitVec 64) : Sponge :=
  (List.range 25).foldl (fun a i => a ||| (f (i % 5) (i / 5)).setWidth 1600 <<< (64 * i)) 0

/-- Step theta: each bit takes the parity of two columns. -/
def Sponge.theta (a : Sponge) : Sponge :=
  let par (x : Nat) : BitVec 64 := (List.range 5).foldl (fun v y => v ^^^ a.at x y) 0
  let eff : Sponge := .of fun x y => if y = 0 then par (x + 4) ^^^ (par (x + 1)).rotateLeft 1 else 0
  .of fun x y => a.at x y ^^^ eff.at x 0

/-- Steps rho and pi in one walk over the 24 lanes that move: from (x, y) to (y, 2x + 3y), turned by the triangular numbers. -/
def Sponge.walk (a : Sponge) : Nat → Nat → Nat → Sponge → Sponge
  | 0, _, _, b => b
  | n + 1, x, y, b =>
    let t := 24 - n
    let x' := y
    let y' := (2 * x + 3 * y) % 5
    a.walk n x' y' (b ||| ((a.at x y).rotateLeft (t * (t + 1) / 2 % 64)).setWidth 1600 <<< (64 * (x' + 5 * y')))

/-- Step chi: the rows, nonlinearly. -/
def Sponge.chi (a : Sponge) : Sponge := .of fun x y => a.at x y ^^^ (~~~a.at (x + 1) y &&& a.at (x + 2) y)

/-- The shift register of step iota, `t` steps on. -/
def roundBit : Nat → Nat
  | 0 => 1
  | t + 1 => let r := 2 * roundBit t; if r < 256 then r else Nat.xor r 0x171

/-- Step iota: the constant of round `i`, bits at 2^j - 1 of lane (0, 0). -/
def roundConst (i : Nat) : Nat := (List.range 7).foldl (fun v j => v + roundBit ((7 * i + j) % 255) % 2 * 2 ^ (2 ^ j - 1)) 0

/-- Keccak-f[1600]: 24 rounds. -/
def Sponge.permute (a : Sponge) : Sponge :=
  (List.range 24).foldl (fun a i =>
    let t := a.theta
    (t.walk 24 1 0 ((t.at 0 0).setWidth 1600)).chi ^^^ BitVec.ofNat 1600 (roundConst i)) a

def leWord : List (BitVec 8) → Nat
  | [] => 0
  | b :: bs => b.toNat + 256 * leWord bs

/-- A message in blocks of 136 bytes, the last with the suffix 1111 and the padding 10*1. -/
def shakeBlocks : Nat → List (BitVec 8) → List Nat
  | 0, _ => []
  | n + 1, m =>
    if m.length < 136 then [Nat.xor (leWord m + 0x1F * 256 ^ m.length) (0x80 * 256 ^ 135)]
    else leWord (m.take 136) :: shakeBlocks n (m.drop 136)

/-- The first 64 bytes of SHAKE256 of a message, as a number with byte 0 lowest. -/
def shake256 (m : List (BitVec 8)) : BitVec 512 :=
  ((shakeBlocks (m.length / 136 + 1) m).foldl (fun (a : Sponge) v => (a ^^^ BitVec.ofNat 1600 v).permute) 0).setWidth 512

end Sys2Proof.Machine
end

