-- ==== Sys2Proof/Config.lean ====
section
/-! DEFINITION. What an implementation fixes and the spec does not say: the free values (constants without a body, so that nothing can
be proved of their value) and the fixed numbers of the part. -/
namespace Sys2Proof.Config

/-- The result of a special function on an input (R107): function number, input bits. It is used where it lies within the bound of Table 4.6;
each function is a fixed map. Free value; DESIGN CHOICE, log entry 8. -/
opaque sfResult : Nat → BitVec 32 → BitVec 32

/-- What the decoder makes of a line with more than d(e) further errors (R170), or of a word with three or more flips (R174): whether it
reports the line uncorrectable. By draw number. Free value; DESIGN CHOICE, log entry 9. -/
opaque decoderReports : Nat → Bool

/-- The bytes of a miscorrected line or word (R170, R174): draw number, byte index. Free value; DESIGN CHOICE, log entry 9. -/
opaque miscorrected : Nat → Nat → BitVec 8

/-- Byte i of the XMSS signature made with a leaf of the identity key over a message (R350, R351). Uninterpreted; DESIGN CHOICE, log entry 10. -/
opaque xmssSign : Nat → List (BitVec 8) → Nat → BitVec 8

/-- Byte i of the identity public key and endorsement (READ_IDKEY, Table 12.10). Not given; DESIGN CHOICE, log entry 10. -/
opaque identityKey : Nat → BitVec 8

/-- Byte i of the answer to an MCTP or PLDM message (R325, R326), by the values of the sensors; the DMTF standards give its layout. Free value; DESIGN CHOICE, log entry 12. -/
opaque mgmtAnswer : List (BitVec 8) → List Nat → Nat → BitVec 8

/-- The length of that answer. Free value; DESIGN CHOICE, log entry 12. -/
opaque mgmtAnswerLen : List (BitVec 8) → List Nat → Nat

/-- The spare rows of an edge bank and the spare banks of an edge stack (R185), whose number the spec does not state (DESIGN CHOICE, log entry 117). -/
opaque edgeSpareRows : Nat
opaque edgeSpareBanks : Nat

/-- VERSION, the number of body words and the body of a capability entry whose body the spec does not lay out (R327, R328): id, the instances that
passed, word. Free values; DESIGN CHOICE, log entry 57. -/
opaque capVersion : Nat → BitVec 8
opaque capWords : Nat → BitVec 3
opaque capBody : Nat → Nat → Nat → BitVec 32

/-- A register or data value the spec leaves open, by draw number (the counter State.free). Free value; DESIGN CHOICE, log entry 7. -/
opaque freeValue : Nat → BitVec 64

/-- Bobbin requests refused in a tile from one settling of its counters to the next (R62, R459): site, tape. Free value; DESIGN CHOICE, log entry 100. -/
opaque bobbinRefused : Nat → Nat → Nat

/-- The variant's fused ACLK maximum in MHz and power limit in W (Table 0.1, R1). -/
def variantLimits (v : Nat) : Nat × Nat :=
  match v with
  | 0 => (3000, 4500)
  | 1 => (2600, 3800)
  | _ => (2100, 3000)

/-- Entries of the command queue (R69), commands in progress of a shuttle (R71), staged writes of a transaction (R370), log records (R434). -/
def queueDepth : Nat := 64
def shuttleDepth : Nat := 4
def stageDepth : Nat := 256
def logDepth : Nat := 4096

/-- The JEDEC manufacturer code assigned to Virzal (R466), which the spec does not give. -/
opaque jedecVirzal : BitVec 11

end Sys2Proof.Config
end

