-- ==== Sys2Proof/Machine/Float.lean ====
section
/-! DEFINITION. Floating-point numbers (R27 to R30, R39, R51 to R56, R98, R107): exact values, one rounding, the formats of Table 2.2 and
conversion between them, FP32 arithmetic, and the special functions within their bounds. -/
namespace Sys2Proof.Machine

/-! ### Exact values -/

/-- A value: NaN, an infinity, or (−1)^neg × m × 2^e; m = 0 is a signed zero. -/
inductive FV where
  | nan
  | inf (neg : Bool)
  | fin (neg : Bool) (m : Nat) (e : Int)
  deriving DecidableEq, Repr

def FV.neg : FV → FV
  | .nan => .nan
  | .inf n => .inf !n
  | .fin n m e => .fin (!n) m e

def FV.isZero : FV → Bool
  | .fin _ 0 _ => true
  | _ => false

/-- 2^e for a non-negative exponent, 1 below. -/
def p2 (e : Int) : Nat := 2 ^ e.toNat

/-- The signed significand of a finite value at exponent `e0` (not above its own). -/
def FV.at (v : FV) (e0 : Int) : Int :=
  match v with
  | .fin n m e => (if n then -1 else 1) * ((m * p2 (e - e0) : Nat) : Int)
  | _ => 0

def FV.exp : FV → Int
  | .fin _ _ e => e
  | _ => 0

/-- The finite value of a signed significand; `z` is the sign a zero takes. -/
def ofInt (z : Bool) (i : Int) (e : Int) : FV := .fin (if i = 0 then z else decide (i < 0)) i.natAbs e

/-- The exact product (R39). -/
def FV.mul (a b : FV) : FV :=
  match a, b with
  | .nan, _ => .nan
  | _, .nan => .nan
  | .inf n, .inf m => .inf (n != m)
  | .inf n, .fin m v _ => if v = 0 then .nan else .inf (n != m)
  | .fin m v _, .inf n => if v = 0 then .nan else .inf (n != m)
  | .fin n m e, .fin k v f => .fin (n != k) (m * v) (e + f)

/-- The exact sum; opposite equal values give +0, and −0 + −0 gives −0. -/
def FV.add (a b : FV) : FV :=
  match a, b with
  | .nan, _ => .nan
  | _, .nan => .nan
  | .inf n, .inf m => if n = m then .inf n else .nan
  | .inf n, _ => .inf n
  | _, .inf m => .inf m
  | .fin n m e, .fin k v f =>
    let e0 := min e f
    ofInt (n && k) ((FV.fin n m e).at e0 + (FV.fin k v f).at e0) e0

/-- A finite value times 2^k. -/
def FV.scale (v : FV) (k : Int) : FV :=
  match v with
  | .fin n m e => .fin n m (e + k)
  | v => v

/-- a < b for values that are numbers; −0 and +0 are equal. -/
def FV.lt (a b : FV) : Bool :=
  match a, b with
  | .nan, _ => false
  | _, .nan => false
  | .inf n, .inf m => n && !m
  | .inf n, _ => n
  | _, .inf m => !m
  | a, b => let e0 := min a.exp b.exp; decide (a.at e0 < b.at e0)

/-! ### Rounding -/

/-- Output rounding (R53): nearest even, toward zero, or stochastic with its 12-bit random value (R56). -/
inductive Rnd where
  | rne
  | rtz
  | sto (u : Nat)
  deriving DecidableEq, Repr

/-- Number of bits of a natural number. -/
def bitLen (n : Nat) : Nat := if n = 0 then 0 else Nat.log2 n + 1

/-- `m / 2^k` rounded to an integer. -/
def roundShift (r : Rnd) (m k : Nat) : Nat :=
  let q := m / 2 ^ k
  let d := m % 2 ^ k
  match r with
  | .rtz => q
  | .rne => if 2 ^ k < 2 * d ∨ (2 * d = 2 ^ k ∧ k ≠ 0 ∧ q % 2 = 1) then q + 1 else q
  | .sto u => if 4096 ≤ d * 4096 / 2 ^ k + u then q + 1 else q

/-- A format with a sign, an exponent field and a fraction: fraction bits, exponent of the smallest subnormal, encoding of the largest
finite value, encodings of infinity and NaN where it has them (Table 2.2). -/
structure Fmt where
  fb   : Nat
  qmin : Int
  maxB : Nat
  infB : Option Nat
  nanB : Option Nat
  bits : Nat
  deriving DecidableEq, Repr

def Fmt.fp32 : Fmt := ⟨23, -149, 0x7F7FFFFF, some 0x7F800000, some 0x7FC00000, 32⟩
def Fmt.bf16 : Fmt := ⟨7, -133, 0x7F7F, some 0x7F80, some 0x7FC0, 16⟩
def Fmt.fp16 : Fmt := ⟨10, -24, 0x7BFF, some 0x7C00, some 0x7E00, 16⟩
def Fmt.e4m3 : Fmt := ⟨3, -9, 0x7E, none, some 0x7F, 8⟩
def Fmt.e5m2 : Fmt := ⟨2, -16, 0x7B, some 0x7C, some 0x7F, 8⟩
def Fmt.e2m3 : Fmt := ⟨3, -3, 0x1F, none, none, 6⟩
def Fmt.e3m2 : Fmt := ⟨2, -4, 0x1F, none, none, 6⟩
def Fmt.e2m1 : Fmt := ⟨1, -1, 0x7, none, none, 4⟩

/-- The format of a code 0x0 to 0x7 (Table 2.2). -/
def fmtOf (code : Nat) : Fmt :=
  match code with
  | 0 => .fp32
  | 1 => .bf16
  | 2 => .fp16
  | 3 => .e4m3
  | 4 => .e5m2
  | 5 => .e2m3
  | 6 => .e3m2
  | _ => .e2m1

/-- The encoding, sign apart, of |v| = m × 2^e rounded with the exponent range unbounded above (R53). -/
def Fmt.roundMag (f : Fmt) (r : Rnd) (m : Nat) (e : Int) : Nat :=
  if m = 0 then 0
  else
    let q := max ((bitLen m : Int) + e - (f.fb + 1)) f.qmin
    let n := if q ≤ e then m * p2 (e - q) else roundShift r m (q - e).toNat
    (q - f.qmin).toNat * 2 ^ f.fb + n

/-- The value that an encoding without its sign stands for. -/
def Fmt.mag (f : Fmt) (b : Nat) : Nat × Int :=
  let x := b / 2 ^ f.fb
  if x = 0 then (b % 2 ^ f.fb, f.qmin) else (2 ^ f.fb + b % 2 ^ f.fb, f.qmin + x - 1)

/-- The value of an encoding (R27, R28). -/
def Fmt.dec (f : Fmt) (b : Nat) : FV :=
  let neg := b / 2 ^ (f.bits - 1) % 2 == 1
  let a := b % 2 ^ (f.bits - 1)
  if a ≤ f.maxB then let (m, e) := f.mag a; .fin neg m e
  else if f.infB = some a then .inf neg
  else .nan

def Fmt.signBit (f : Fmt) (neg : Bool) : Nat := if neg then 2 ^ (f.bits - 1) else 0

def dec32 (w : BitVec 32) : FV := Fmt.fp32.dec w.toNat
def nan32 : BitVec 32 := 0x7FC00000

/-- One rounding to FP32, nearest even, with subnormals and infinities (R39, R98). -/
def enc32 (v : FV) : BitVec 32 :=
  match v with
  | .nan => nan32
  | .inf n => BitVec.ofNat 32 (0x7F800000 + Fmt.fp32.signBit n)
  | .fin n m e =>
    let b := Fmt.fp32.roundMag .rne m e
    BitVec.ofNat 32 ((if b ≤ Fmt.fp32.maxB then b else 0x7F800000) + Fmt.fp32.signBit n)

/-! ### FP32 arithmetic (R41, R51, R98) -/

def fadd (a b : BitVec 32) : BitVec 32 := enc32 ((dec32 a).add (dec32 b))
def fmul (a b : BitVec 32) : BitVec 32 := enc32 ((dec32 a).mul (dec32 b))
/-- a × b + c with one rounding. -/
def ffma (a b c : BitVec 32) : BitVec 32 := enc32 (((dec32 a).mul (dec32 b)).add (dec32 c))
def isNan32 (a : BitVec 32) : Bool := dec32 a == .nan
def isInf32 (a : BitVec 32) : Bool := dec32 a == .inf true || dec32 a == .inf false
/-- NaN results take the canonical encoding (R29). -/
def fabs (a : BitVec 32) : BitVec 32 := if isNan32 a then nan32 else a &&& 0x7FFFFFFF
def fneg (a : BitVec 32) : BitVec 32 := if isNan32 a then nan32 else a ^^^ 0x80000000
def flt (a b : BitVec 32) : Bool := (dec32 a).lt (dec32 b)
/-- The order of R110: +0 is greater than −0. -/
def fltZ (a b : BitVec 32) : Bool := flt a b || (a == 0x80000000 && b == 0)
def fmax (a b : BitVec 32) : BitVec 32 := if isNan32 a || isNan32 b then nan32 else if fltZ a b then b else a
def fmin (a b : BitVec 32) : BitVec 32 := if isNan32 a || isNan32 b then nan32 else if fltZ b a then b else a
def ofInt32 (i : Int) : BitVec 32 := enc32 (ofInt false i 0)
def one32 : BitVec 32 := 0x3F800000

/-- The largest power of two below n (R42). -/
def splitP (n : Nat) : Nat := 2 ^ Nat.log2 (n - 1)

/-- The partial-stack evaluation of the canonical tree (R42), which returns T(0, n). -/
def treePush : List (BitVec 32 × Nat) → BitVec 32 → Nat → List (BitVec 32 × Nat)
  | [], v, h => [(v, h)]
  | (x, l) :: st, v, h => if l = h then treePush st (fadd x v) (h + 1) else (v, h) :: (x, l) :: st

def treeFold : List (BitVec 32 × Nat) → BitVec 32
  | [] => 0
  | (v, _) :: st => st.foldl (fun acc x => fadd x.1 acc) v

/-- T(0, n) over leaf values in order; +0 for none. -/
def canonSum (l : List (BitVec 32)) : BitVec 32 := treeFold (l.foldl (fun st v => treePush st v 0) [])

/-- The sequential sum (R41). -/
def seqSum : List (BitVec 32) → BitVec 32
  | [] => 0
  | v :: vs => vs.foldl fadd v

/-! ### Conversion (R53 to R55, R108, Tables 2.6 and 4.7) -/

/-- A converted element and what flags it raises. -/
structure Conv where
  bits    : Nat
  nan     : Bool := false
  inf     : Bool := false
  sat     : Bool := false
  flushed : Bool := false
  deriving DecidableEq, Repr

/-- Conversion of a value to a floating-point format of Table 2.2 with infinity or NaN (codes 0 to 4). -/
def convFloat (code : Nat) (r : Rnd) (satFlag flush : Bool) (v : FV) : Conv :=
  let f := fmtOf code
  let fp8 := code == 3 || code == 4
  let nanB := f.nanB.getD 0
  match v with
  | .nan => { bits := nanB, nan := true }
  | .inf n =>
    if fp8 && satFlag then { bits := f.maxB + f.signBit n, sat := true }
    else match f.infB with
      | some b => { bits := b + f.signBit n, inf := true }
      | none => { bits := nanB, nan := true }
  | .fin n m e =>
    let b := f.roundMag (if code == 0 then .rne else r) m e
    if b ≤ f.maxB then
      if code == 0 && flush && decide (0 < b) && decide (b < 2 ^ 23) then { bits := f.signBit n, flushed := true }
      else { bits := b + f.signBit n }
    else if r = .rtz && code != 0 then { bits := f.maxB + f.signBit n, sat := true }
    else if fp8 && satFlag then { bits := f.maxB + f.signBit n, sat := true }
    else match f.infB with
      | some b => { bits := b + f.signBit n, inf := true }
      | none => { bits := nanB, nan := true }

/-- Conversion to FP6 or FP4, which have neither infinity nor NaN (Table 4.7). -/
def convNarrow (code : Nat) (r : Rnd) (v : FV) : Conv :=
  let f := fmtOf code
  match v with
  | .nan => { bits := 0, nan := true }
  | .inf n => { bits := f.maxB + f.signBit n, sat := true }
  | .fin n m e =>
    let b := f.roundMag r m e
    if b ≤ f.maxB then { bits := b + f.signBit n } else { bits := f.maxB + f.signBit n, sat := true }

/-- A magnitude rounded to an integer. -/
def roundInt (r : Rnd) (m : Nat) (e : Int) : Nat := if 0 ≤ e then m * p2 e else roundShift r m (-e).toNat

/-- Conversion to a two's-complement integer of `w` bits, saturating at `lo` and `hi` (Table 4.7, R109). -/
def convInt (w : Nat) (lo hi : Int) (r : Rnd) (v : FV) : Conv :=
  let wrap (i : Int) : Nat := (i % (2 ^ w : Nat)).toNat
  match v with
  | .nan => { bits := 0, nan := true }
  | .inf n => { bits := wrap (if n then lo else hi), sat := true }
  | .fin n m e =>
    let i : Int := if n then -(roundInt r m e : Int) else roundInt r m e
    if i < lo then { bits := wrap lo, sat := true } else if hi < i then { bits := wrap hi, sat := true } else { bits := wrap i }

/-- Conversion to any format code without block scales (R108). -/
def convAny (code : Nat) (r : Rnd) (satFlag flush : Bool) (v : FV) : Conv :=
  if code ≤ 4 then convFloat code r satFlag flush v
  else if code ≤ 7 then convNarrow code r v
  else if code = 8 then convInt 8 (-128) 127 r v
  else convInt 4 (-8) 7 r v

/-- Bits of an element of a format code (Table 2.2). -/
def elemBits (code : Nat) : Nat :=
  match code with
  | 8 => 8
  | 9 => 4
  | c => (fmtOf c).bits

def isIntFmt (code : Nat) : Bool := code == 8 || code == 9

/-- Bytes of `n` packed elements, rounded up (R63, R77). -/
def rowBytes (code n : Nat) : Nat := (n * elemBits code + 7) / 8

/-- Element `i` of a packed row (R63): FP4 and INT4 two a byte, FP6 four in a 24-bit group, others whole bytes. All are one little-endian
bit string. -/
def elemAt (code : Nat) (row : Nat) (i : Nat) : Nat := row / 2 ^ (i * elemBits code) % 2 ^ elemBits code

/-- The value of an element (R27, R31): INT8 under a block scale counts in units of 2^−6; an integer zero counts as +0 (DESIGN CHOICE, log
entry 95). -/
def elemVal (code : Nat) (bs : Bool) (b : Nat) : FV :=
  if code = 8 then ofInt false (BitVec.ofNat 8 b).toInt (if bs then -6 else 0)
  else if code = 9 then ofInt false (BitVec.ofNat 4 b).toInt 0
  else (fmtOf code).dec b

/-- An element's integer on the integer path (R48). -/
def elemInt (code : Nat) (b : Nat) : Int := if code = 8 then (BitVec.ofNat 8 b).toInt else (BitVec.ofNat 4 b).toInt

/-- The exponent of an E8M0 scale, none for NaN (R30). -/
def scaleExp (x : Nat) : Option Int := if x = 0xFF then none else some ((x : Int) - 127)

/-- The block value (R39, R40) of elements with their scale fields. -/
def blockValue (sa sb : Nat) (xs ys : List FV) : BitVec 32 :=
  let ps := List.zipWith FV.mul xs ys
  match scaleExp sa, scaleExp sb with
  | some ea, some eb =>
    if xs.contains .nan || ys.contains .nan || ps.contains .nan then nan32
    else if ps.contains (.inf true) && ps.contains (.inf false) then nan32
    else if ps.contains (.inf true) then enc32 (.inf true)
    else if ps.contains (.inf false) then enc32 (.inf false)
    else
      let e0 := ps.foldl (fun e p => min e p.exp) 0
      let sum := ps.foldl (fun a p => a + p.at e0) 0
      let allNeg := ps.all fun p => match p with
        | .fin n 0 _ => n
        | _ => false
      enc32 (ofInt allNeg sum (e0 + ea + eb))
  | _, _ => nan32

/-! ### Special functions (R107, Table 4.6) -/

/-- Fixed-point unit of the reference computation. -/
def unitF : Nat := 2 ^ 160

/-- exp(x / unit) for 0 ≤ x < unit, by its series. -/
def expF (x : Nat) : Nat := (List.range 60).foldl (fun (a : Nat × Nat) k => (a.1 + a.2, a.2 * x / unitF / (k + 1))) (0, unitF) |>.1

/-- 2 atanh(z / unit) = ln((1 + z)/(1 − z)) for z up to a third. -/
def atanh2F (z : Nat) : Nat :=
  2 * ((List.range 60).foldl (fun (a : Nat × Nat) k => (a.1 + a.2 / (2 * k + 1), a.2 * z / unitF * z / unitF)) (0, z) |>.1)

def ln2F : Nat := atanh2F (unitF / 3)

/-- 2^(x / unit) as a significand and exponent. -/
def exp2F (x : Int) : Nat × Int :=
  let n := x / (unitF : Int)
  let r := (x % (unitF : Int)).toNat
  (expF (r * ln2F / unitF), n - 160)

/-- log2 of m × 2^e in units of 2^−160, for m ≠ 0. -/
def log2F (m : Nat) (e : Int) : Int :=
  let l := Nat.log2 m
  let f := m * unitF / 2 ^ l
  let z := (f - unitF) * unitF / (f + unitF)
  ((l : Int) + e) * (unitF : Int) + (atanh2F z * unitF / ln2F : Nat)

/-- A value in units of 2^−160, cut to ±300 (beyond it every result here is the same). -/
def toF (neg : Bool) (m : Nat) (e : Int) : Int :=
  let a := if 0 ≤ e + 160 then m * p2 (e + 160) else m / p2 (-(e + 160))
  let a := min a (300 * unitF)
  if neg then -(a : Int) else a

/-- e^(x / unit). -/
def expnF (x : Int) : Nat × Int := exp2F (x * (unitF : Int) / (ln2F : Int))

/-- 1/(1 + e^−x) to 160 bits, as a significand and exponent. -/
def sigmF (x : Int) : Nat × Int :=
  let (m, e) := expnF (-x)
  if e < -1000 then (1, 0)
  else
    let one := if 0 ≤ e then 1 else p2 (-e)
    let den := one + (if 0 ≤ e then m * p2 e else m)
    (one * 2 ^ 600 / den, -600)

/-- tanh x = 1 − 2/(e^(2x) + 1) for x ≥ 0. -/
def tanhF (x : Int) : Nat × Int :=
  let (m, e) := sigmF (2 * x)
  (2 * m - p2 (-e), e)

/-- |a − b| ≤ bound, for exact values. -/
def near (a b : FV) (bound : FV) : Bool :=
  match (a.add b.neg) with
  | .fin _ m e => !(bound.lt (.fin false m e))
  | _ => false

/-- The unit in the last place of an FP32 encoding (subnormal spacing below). -/
def ulp32 (b : BitVec 32) : FV := .fin false 1 (Fmt.fp32.mag (min (b.toNat % 2 ^ 31) Fmt.fp32.maxB)).2

/-- A result within `k` ulp of the reference: the device's own (free) where it keeps the bound, else the correctly rounded one. -/
def sfPick (fn : Nat) (x : BitVec 32) (k : Nat) (v : FV) : BitVec 32 :=
  let c := enc32 v
  let d := Config.sfResult fn x
  match ulp32 c with
  | .fin _ _ q => if near (dec32 d) v (.fin false k q) then d else c
  | _ => c

def sfExp2 (x : BitVec 32) : BitVec 32 :=
  match dec32 x with
  | .nan => nan32
  | .inf n => if n then 0 else 0x7F800000
  | .fin n m e =>
    if !FV.lt (.fin n m e) (.fin false 128 0) then 0x7F800000
    else if FV.lt (.fin n m e) (.fin true 150 0) then 0
    else let (a, b) := exp2F (toF n m e); sfPick 0 x 1 (.fin false a b)

def sfLog2 (x : BitVec 32) : BitVec 32 :=
  match dec32 x with
  | .nan => nan32
  | .inf n => if n then nan32 else 0x7F800000
  | .fin n m e =>
    if m = 0 then 0xFF800000
    else if n then nan32
    else if x = one32 then 0
    else
      let v := ofInt false (log2F m e) (-160)
      if FV.lt (.fin n m e) (.fin false 1 (-1)) || FV.lt (.fin false 2 0) (.fin n m e) then sfPick 1 x 1 v
      else
        let d := Config.sfResult 1 x
        if near (dec32 d) v (.fin false 1 (-23)) then d else enc32 v

def sfRcp (x : BitVec 32) : BitVec 32 :=
  match dec32 x with
  | .nan => nan32
  | .inf n => BitVec.ofNat 32 (Fmt.fp32.signBit n)
  | .fin n m e =>
    if m = 0 then BitVec.ofNat 32 (0x7F800000 + Fmt.fp32.signBit n)
    else sfPick 2 x 1 (.fin n (2 ^ 400 / m) (-400 - e))

def sfRsqrt (x : BitVec 32) : BitVec 32 :=
  match dec32 x with
  | .nan => nan32
  | .inf n => if n then nan32 else 0
  | .fin n m e =>
    if m = 0 then BitVec.ofNat 32 (0x7F800000 + Fmt.fp32.signBit n)
    else if n then nan32
    else
      let (m, e) := if e % 2 = 0 then (m, e) else (2 * m, e - 1)
      sfPick 3 x 1 (.fin false (Nat.sqrt' (2 ^ 600 / m)) (-300 - e / 2))
where
  /-- Integer square root by bits, from the top. -/
  Nat.sqrt' (n : Nat) : Nat :=
    (List.range 320).foldl (fun r i => let t := r + 2 ^ (319 - i); if t * t ≤ n then t else r) 0

def sfTanh (x : BitVec 32) : BitVec 32 :=
  match dec32 x with
  | .nan => nan32
  | .inf n => BitVec.ofNat 32 (0x3F800000 + Fmt.fp32.signBit n)
  | .fin n m e =>
    if FV.lt (.fin false m e) (.fin false 1 (-12)) then x
    else let (a, b) := tanhF (toF false m e); sfPick 4 x 2 (.fin n a b)

def sfSigm (x : BitVec 32) : BitVec 32 :=
  match dec32 x with
  | .nan => nan32
  | .inf n => if n then 0 else one32
  | .fin n m e => let (a, b) := sigmF (toF n m e); sfPick 5 x 2 (.fin false a b)

def sfSilu (x : BitVec 32) : BitVec 32 := fmul x (sfSigm x)

/-- The constants are the FP32 values nearest to 1.5957691 and 0.044715. -/
def sfGelu (x : BitVec 32) : BitVec 32 :=
  let c1 := enc32 (.fin false (15957691 * 2 ^ 200 / 10 ^ 7) (-200))
  let c2 := enc32 (.fin false (44715 * 2 ^ 200 / 10 ^ 6) (-200))
  fmul x (sfSigm (fmul c1 (fmul x (fadd one32 (fmul c2 (fmul x x))))))

/-- The special function of a micro-op code 0x20 + n. -/
def sfApply (n : Nat) (x : BitVec 32) : BitVec 32 :=
  match n with
  | 0 => sfExp2 x
  | 1 => sfLog2 x
  | 2 => sfRcp x
  | 3 => sfRsqrt x
  | 4 => sfTanh x
  | 5 => sfSigm x
  | 6 => sfSilu x
  | _ => sfGelu x

end Sys2Proof.Machine
end

