-- ==== Sys2Proof/Machine/Layout.lean ====
section
/-! DEFINITION. Where the memories of the module stand in the model's one address space. Edge memory stands at its DPA (Table 1.8); the
others by physical site (stack * 160 + site), since spare and darned sites have memories and no DPA (R21, R437). -/
namespace Sys2Proof

/-- A site's number: stack * 160 + site. -/
def Site.g (t : Site) : Nat := t.stack.val * 160 + t.site.val
def Port.n : Port → Nat
  | .p0 => 0
  | .p1 => 1
def Port.other : Port → Port
  | .p0 => .p1
  | .p1 => .p0
def Req.n : Req → Nat
  | .p0 => 0
  | .p1 => 1
  | .hkc => 2

end Sys2Proof

namespace Sys2Proof.Machine

/-- Bytes of an edge stack (Table 1.8). -/
abbrev edgeBytes : Nat := 0x1800000000
/-- First DPA beyond edge memory (Table 1.8). -/
abbrev edgeEnd : Nat := 12 * edgeBytes
/-- Exposed bytes of a slice (Table 1.8). -/
abbrev sliceBytes : Nat := 0x18000000
/-- Data bytes of a slice with the held-back capacity (Table 6.2). -/
abbrev sliceAll : Nat := 0x1999999A
/-- Bytes of a bobbin (R61). -/
abbrev bobbinBytes : Nat := 0x180000

def sliceAt (g off : Nat) : Nat := 0x100000000000 + g * 0x100000000 + off
def bobbinAt (g off : Nat) : Nat := 0x200000000000 + g * 0x200000 + off
def iramAt (g off : Nat) : Nat := 0x300000000000 + g * 0x10000 + off
def dsramAt (g off : Nat) : Nat := 0x400000000000 + g * 0x10000 + off
/-- Staged segment `seq` of an image type (R332): 4 KiB each, up to 512. -/
def stageAt (type seq : Nat) : Nat := 0x500000000000 + type * 0x100000000 + seq * 0x1000
/-- The mailbox's segment window and response window (Table 12.10). -/
def segWinAt (off : Nat) : Nat := 0x500300000000 + off
def respAt (off : Nat) : Nat := 0x500400000000 + off
/-- The tile firmware image kept in a slice (Table 6.2). -/
def fwCopyAt (g : Nat) : Nat := sliceAt g sliceBytes
/-- The command queue's 64 entries of 64 bytes: the words whose stored copies a flip mask can corrupt (R177, class 4). -/
def cqAt (g slot : Nat) : Nat := 0x600000000000 + g * 0x1000 + slot * 64
/-- The shuttle queue's words: the descriptor that stands in a channel (R214, R437). -/
def shqAt (g chan : Nat) : Nat := 0x700000000000 + g * 0x1000 + chan * 64
/-- The hem's words: 16 bytes in each of 1,024 slots (R448, R437). -/
def hemAt (g slot : Nat) : Nat := 0x800000000000 + g * 0x10000 + slot * 16

/-- What stands at an address. -/
inductive Place where
  | edge (e off : Nat)
  | slice (g off : Nat)
  | bobbin (g off : Nat)
  | iram (g off : Nat)
  | dsram (g off : Nat)
  | cq (g off : Nat)
  | shq (g off : Nat)
  | hem (g off : Nat)
  | hkc
  deriving DecidableEq, Repr

/-- The memory an address lies in. -/
def placeOf (a : Nat) : Place :=
  if a < 0x100000000000 then .edge (a / edgeBytes) (a % edgeBytes)
  else if a < 0x200000000000 then .slice ((a - 0x100000000000) / 0x100000000) ((a - 0x100000000000) % 0x100000000)
  else if a < 0x300000000000 then .bobbin ((a - 0x200000000000) / 0x200000) ((a - 0x200000000000) % 0x200000)
  else if a < 0x400000000000 then .iram ((a - 0x300000000000) / 0x10000) ((a - 0x300000000000) % 0x10000)
  else if a < 0x500000000000 then .dsram ((a - 0x400000000000) / 0x10000) ((a - 0x400000000000) % 0x10000)
  else if a < 0x600000000000 then .hkc
  else if a < 0x700000000000 then .cq ((a - 0x600000000000) / 0x1000) ((a - 0x600000000000) % 0x1000)
  else if a < 0x800000000000 then .shq ((a - 0x700000000000) / 0x1000) ((a - 0x700000000000) % 0x1000)
  else .hem ((a - 0x800000000000) / 0x10000) ((a - 0x800000000000) % 0x10000)

/-- Whether the memory is DRAM, whose codeword is a 64-byte line (Symbol code), or SRAM, whose codeword is an 8-byte word (R174). -/
def Place.isDram : Place → Bool
  | .edge _ _ => true
  | .slice _ _ => true
  | _ => false

/-- The site whose memory it is. -/
def Place.site : Place → Option Nat
  | .edge _ _ => none
  | .slice g _ => some g
  | .bobbin g _ => some g
  | .iram g _ => some g
  | .dsram g _ => some g
  | .cq g _ => some g
  | .shq g _ => some g
  | .hem g _ => some g
  | .hkc => none

/-- Bytes of a codeword at an address. -/
def cwBytes (a : Nat) : Nat := if (placeOf a).isDram then 64 else 8

/-- The codeword that holds an address. -/
def cwAt (a : Nat) : Nat := a / cwBytes a * cwBytes a

end Sys2Proof.Machine
end

