-- ==== Sys2Proof/Machine/Fields.lean ====
section
/-! DEFINITION. The register fields of the spec's register tables, each as the offset of its register within its block, its lowest bit and
its width. Written from the tables; the offset of a numbered register takes its number. -/
namespace Sys2Proof

/-- A register field: offset within its block, lowest bit, width (Register tables, chapter 0). -/
structure Fld where
  off : Nat
  lo  : Nat
  w   : Nat
  deriving DecidableEq, Repr

namespace F

/-! Table 1.10 (01_organisation.md) -/
abbrev STK_INFO_STACK : Fld := ⟨0x0, 0, 4⟩
abbrev STK_INFO_BASE_DIE : Fld := ⟨0x0, 4, 2⟩
abbrev STK_INFO_SLOT : Fld := ⟨0x0, 6, 2⟩
abbrev STK_INFO_SITES : Fld := ⟨0x0, 8, 8⟩
abbrev STK_INFO_ACTIVE : Fld := ⟨0x0, 16, 8⟩
abbrev STK_INFO_DEGRADED : Fld := ⟨0x0, 24, 1⟩
abbrev STK_SPARES_FREE : Fld := ⟨0x4, 0, 8⟩
abbrev STK_SPARES_DARNED : Fld := ⟨0x4, 8, 8⟩
abbrev STK_SPARES_MAP_EPOCH : Fld := ⟨0x4, 16, 8⟩
abbrev STK_LMAP_SITE (i : Nat) : Fld := ⟨0x400 + 4 * i, 0, 8⟩
abbrev STK_LMAP_VALID (i : Nat) : Fld := ⟨0x400 + 4 * i, 31, 1⟩
abbrev STK_SMAP_LTILE (i : Nat) : Fld := ⟨0x800 + 4 * i, 0, 8⟩
/-! Table 2.8 (02_arrays_and_numerics.md) -/
abbrev ARR_SUBST_SPARE_FOR : Fld := ⟨0xc00, 0, 5⟩
abbrev ARR_SUBST_FAILED : Fld := ⟨0xc00, 5, 5⟩
abbrev ARR_SUBST_MULTI_FAIL : Fld := ⟨0xc00, 10, 1⟩
abbrev ARR_FLAGS_NAN_OUT : Fld := ⟨0xc04, 0, 1⟩
abbrev ARR_FLAGS_INF_OUT : Fld := ⟨0xc04, 1, 1⟩
abbrev ARR_FLAGS_SAT_OUT : Fld := ⟨0xc04, 2, 1⟩
abbrev ARR_FLAGS_FLUSHED : Fld := ⟨0xc04, 3, 1⟩
abbrev ARR_FLAGS_ALIGN_REFUSED : Fld := ⟨0xc04, 4, 1⟩
abbrev ARR_FLAGS_DEPTH_REFUSED : Fld := ⟨0xc04, 5, 1⟩
abbrev ARR_SAT_COUNT_COUNT : Fld := ⟨0xc08, 0, 32⟩
abbrev ARR_NAN_COUNT_COUNT : Fld := ⟨0xc0c, 0, 32⟩
/-! Table 3.14 (03_tile_commands.md) -/
abbrev TILE_ID_SITE : Fld := ⟨0x0, 0, 8⟩
abbrev TILE_ID_LTILE : Fld := ⟨0x0, 8, 8⟩
abbrev TILE_ID_MTILE : Fld := ⟨0x0, 16, 11⟩
abbrev TILE_STATUS_STATE : Fld := ⟨0x4, 0, 2⟩
abbrev TILE_STATUS_DRAINED : Fld := ⟨0x4, 2, 1⟩
abbrev TILE_STATUS_CQ_FULL : Fld := ⟨0x4, 3, 1⟩
abbrev TILE_STATUS_CQ_EMPTY : Fld := ⟨0x4, 4, 1⟩
abbrev TILE_STATUS_PREEMPT_PENDING : Fld := ⟨0x4, 5, 1⟩
abbrev CC_CTRL_RUN : Fld := ⟨0x8, 0, 1⟩
abbrev CC_CTRL_STEP : Fld := ⟨0x8, 1, 1⟩
abbrev CC_PC_PC : Fld := ⟨0xc, 2, 14⟩
abbrev CC_MEM_ADDR_ADDR : Fld := ⟨0x10, 2, 15⟩
abbrev CC_MEM_ADDR_AUTOINC : Fld := ⟨0x10, 31, 1⟩
abbrev CC_MEM_DATA_DATA : Fld := ⟨0x14, 0, 32⟩
abbrev CC_FAULT_CAUSE : Fld := ⟨0x18, 0, 4⟩
abbrev CC_FAULT_VALID : Fld := ⟨0x18, 4, 1⟩
abbrev CC_FAULT_PC : Fld := ⟨0x18, 16, 16⟩
abbrev CQ_COUNT_COUNT : Fld := ⟨0x20, 0, 7⟩
abbrev CQ_DONE_SEQ : Fld := ⟨0x24, 0, 16⟩
abbrev CQ_DONE_ANY : Fld := ⟨0x24, 16, 1⟩
abbrev CQ_ISSUED_SEQ : Fld := ⟨0x28, 0, 16⟩
abbrev CQ_DONE_WAIT_SEQ : Fld := ⟨0x2c, 0, 16⟩
abbrev CMD_FAULT_CODE_CODE : Fld := ⟨0x40, 0, 8⟩
abbrev CMD_FAULT_CODE_OPCODE : Fld := ⟨0x40, 8, 8⟩
abbrev CMD_FAULT_CODE_SEQ : Fld := ⟨0x40, 16, 16⟩
abbrev CMD_FAULT_IDS_LAYER : Fld := ⟨0x44, 0, 16⟩
abbrev CMD_FAULT_IDS_OPERATOR : Fld := ⟨0x44, 16, 16⟩
abbrev CMD_FAULT_PROG_LO_PROG : Fld := ⟨0x48, 0, 32⟩
abbrev CMD_FAULT_PROG_HI_PROG : Fld := ⟨0x4c, 0, 32⟩
abbrev CMD_FAULT_ADDR_LO_ADDR : Fld := ⟨0x50, 0, 32⟩
abbrev CMD_FAULT_ADDR_HI_ADDR : Fld := ⟨0x54, 0, 16⟩
abbrev CMD_FAULT_STAT_VALID : Fld := ⟨0x58, 0, 1⟩
abbrev CMD_FAULT_STAT_OVERFLOW : Fld := ⟨0x58, 1, 1⟩
abbrev CMD_FAULT_STAT_REFUSAL : Fld := ⟨0x58, 2, 1⟩
/-! Table 4.10 (04_vector_and_random.md) -/
abbrev VEC_STATUS_BUSY : Fld := ⟨0x100, 0, 1⟩
abbrev VEC_STATUS_PENDING : Fld := ⟨0x100, 1, 1⟩
abbrev VEC_FLAGS_NAN_OUT : Fld := ⟨0x104, 0, 1⟩
abbrev VEC_FLAGS_INF_OUT : Fld := ⟨0x104, 1, 1⟩
abbrev VEC_FLAGS_SAT_OUT : Fld := ⟨0x104, 2, 1⟩
abbrev VEC_FLAGS_NAN_IN : Fld := ⟨0x104, 3, 1⟩
abbrev VEC_FLAGS_FLUSHED : Fld := ⟨0x104, 4, 1⟩
abbrev VEC_BODY_FAULT_DETAIL : Fld := ⟨0x108, 0, 8⟩
abbrev VEC_BODY_FAULT_OP_INDEX : Fld := ⟨0x108, 8, 6⟩
abbrev VEC_PROGRESS_GROUPS : Fld := ⟨0x10c, 0, 32⟩
abbrev RNG_DRAWS_LO_COUNT : Fld := ⟨0x110, 0, 32⟩
abbrev RNG_DRAWS_HI_COUNT : Fld := ⟨0x114, 0, 32⟩
abbrev RNG_SEED_SEED (i : Nat) : Fld := ⟨0x120 + 4 * i, 0, 32⟩
/-! Table 5.5 (05_attention_and_kv.md) -/
abbrev ATT_STATUS_BUSY : Fld := ⟨0x600, 0, 1⟩
abbrev ATT_STATUS_WAIT_RING : Fld := ⟨0x600, 1, 1⟩
abbrev ATT_STATUS_STOPPED : Fld := ⟨0x600, 2, 1⟩
abbrev ATT_PROGRESS_BLOCKS : Fld := ⟨0x604, 0, 32⟩
abbrev ATT_FLAGS_NAN_OUT : Fld := ⟨0x608, 0, 1⟩
abbrev ATT_FLAGS_MASKED_ROW : Fld := ⟨0x608, 1, 1⟩
abbrev ATT_FLAGS_SAT_OUT : Fld := ⟨0x608, 2, 1⟩
abbrev ATT_FLAGS_FLUSHED : Fld := ⟨0x608, 3, 1⟩
abbrev ATT_FLAGS_V_RANGE : Fld := ⟨0x608, 4, 1⟩
abbrev ATT_BODY_FAULT_DETAIL : Fld := ⟨0x60c, 0, 8⟩
abbrev ATT_RING_CFG_OFF : Fld := ⟨0x610, 0, 24⟩
abbrev ATT_RING_CFG_SLOTS_M1 : Fld := ⟨0x610, 24, 4⟩
abbrev ATT_RING_CFG_HDIM : Fld := ⟨0x610, 28, 2⟩
abbrev ATT_RING_CFG_VALID : Fld := ⟨0x610, 30, 1⟩
abbrev ATT_RING_FMT_KV_FMT : Fld := ⟨0x614, 0, 4⟩
abbrev ATT_RING_FMT_STOPPED : Fld := ⟨0x614, 4, 1⟩
abbrev ATT_RING_PROD_COUNT : Fld := ⟨0x618, 0, 32⟩
abbrev ATT_RING_CONS_COUNT : Fld := ⟨0x61c, 0, 32⟩
abbrev ATT_WALK_STOP_REASON : Fld := ⟨0x620, 0, 3⟩
abbrev ATT_WALK_STOP_VALID : Fld := ⟨0x620, 3, 1⟩
abbrev ATT_WALK_INDEX_INDEX : Fld := ⟨0x624, 0, 32⟩
abbrev ATT_WALK_ENTRY_ENTRY : Fld := ⟨0x628, 0, 32⟩
abbrev ATT_WALK_LIST_LO_DPA : Fld := ⟨0x62c, 0, 32⟩
abbrev ATT_WALK_LIST_HI_DPA : Fld := ⟨0x630, 0, 16⟩
/-! Table 5.6 (05_attention_and_kv.md) -/
abbrev SWT_CFG_SIZE : Fld := ⟨0x1000, 0, 2⟩
abbrev SWT_CFG_MODE : Fld := ⟨0x1000, 2, 1⟩
abbrev SWT_CFG_EN : Fld := ⟨0x1000, 3, 1⟩
abbrev SWT_CFG_BOLT : Fld := ⟨0x1000, 4, 4⟩
abbrev SWT_CHUNK_CHUNK : Fld := ⟨0x1004, 0, 14⟩
abbrev SWT_SEG_BASE_BASE (i : Nat) : Fld := ⟨0x1010 + 16 * i, 0, 21⟩
abbrev SWT_SEG_FIRST_FIRST (i : Nat) : Fld := ⟨0x1014 + 16 * i, 0, 23⟩
abbrev SWT_SEG_COUNT_COUNT (i : Nat) : Fld := ⟨0x1018 + 16 * i, 0, 23⟩
abbrev SWT_SEG_FREE_HEAD (i : Nat) : Fld := ⟨0x101c + 16 * i, 0, 23⟩
abbrev SWT_SEG_FREE_EMPTY (i : Nat) : Fld := ⟨0x101c + 16 * i, 31, 1⟩
abbrev SWT_PTREE_BASE_LO_ADDR : Fld := ⟨0x10d0, 25, 7⟩
abbrev SWT_PTREE_BASE_HI_ADDR : Fld := ⟨0x10d4, 0, 16⟩
abbrev SWT_ROW_BASE_LO_ADDR : Fld := ⟨0x10d8, 6, 26⟩
abbrev SWT_ROW_BASE_HI_ADDR : Fld := ⟨0x10dc, 0, 16⟩
abbrev SWT_ROWLEN_LEN : Fld := ⟨0x10e0, 0, 16⟩
abbrev SWT_SALT_LO_SALT : Fld := ⟨0x10e8, 0, 32⟩
abbrev SWT_SALT_HI_SALT : Fld := ⟨0x10ec, 0, 32⟩
abbrev SWT_TABLE_BASE_LO_ADDR : Fld := ⟨0x1100, 26, 6⟩
abbrev SWT_TABLE_BASE_HI_ADDR : Fld := ⟨0x1104, 0, 16⟩
/-! Table 6.7 (06_memory.md) -/
abbrev PMEM_CFG_REFRESH_MODE : Fld := ⟨0x2000, 0, 1⟩
abbrev PMEM_CFG_SCRUB_EN : Fld := ⟨0x2000, 1, 1⟩
abbrev PMEM_CFG_SCRUB_PERIOD : Fld := ⟨0x2000, 8, 8⟩
abbrev PMEM_STATUS_BAND : Fld := ⟨0x2004, 0, 2⟩
abbrev PMEM_STATUS_RESERVE : Fld := ⟨0x2004, 2, 2⟩
abbrev PMEM_STATUS_OVERRUN : Fld := ⟨0x2004, 4, 1⟩
abbrev PMEM_STATUS_SCRUB_LATE : Fld := ⟨0x2004, 5, 1⟩
abbrev PMEM_CE_COUNT_COUNT : Fld := ⟨0x2008, 0, 32⟩
abbrev PMEM_UE_COUNT_COUNT : Fld := ⟨0x200c, 0, 32⟩
abbrev PMEM_UE_ADDR_LO_DPA : Fld := ⟨0x2010, 0, 32⟩
abbrev PMEM_UE_ADDR_HI_DPA : Fld := ⟨0x2014, 0, 16⟩
abbrev PMEM_UE_ADDR_HI_VALID : Fld := ⟨0x2014, 31, 1⟩
abbrev PMEM_SCRUB_PASSES_COUNT : Fld := ⟨0x2018, 0, 32⟩
abbrev PMEM_OVERRUN_COUNT_COUNT : Fld := ⟨0x201c, 0, 32⟩
abbrev PMEM_FLIP_CTRL_ARM : Fld := ⟨0x2020, 0, 1⟩
abbrev PMEM_FLIP_CTRL_CLASS : Fld := ⟨0x2020, 1, 3⟩
abbrev PMEM_FLIP_CTRL_ADDR_EN : Fld := ⟨0x2020, 4, 1⟩
abbrev PMEM_FLIP_CTRL_SITE : Fld := ⟨0x2020, 8, 8⟩
abbrev PMEM_FLIP_POS_POS0 : Fld := ⟨0x2024, 0, 7⟩
abbrev PMEM_FLIP_POS_POS1 : Fld := ⟨0x2024, 8, 7⟩
abbrev PMEM_FLIP_POS_POS2 : Fld := ⟨0x2024, 16, 7⟩
abbrev PMEM_FLIP_POS_POS3 : Fld := ⟨0x2024, 24, 7⟩
abbrev PMEM_FLIP_PAT_PAT : Fld := ⟨0x2028, 0, 32⟩
abbrev PMEM_FLIP_ADDR_LO_ADDR : Fld := ⟨0x202c, 0, 32⟩
abbrev PMEM_FLIP_ADDR_HI_ADDR : Fld := ⟨0x2030, 0, 16⟩
abbrev PMEM_DARN_ROWS : Fld := ⟨0x2040, 0, 16⟩
abbrev PMEM_DARN_BANKS : Fld := ⟨0x2040, 16, 8⟩
abbrev PMEM_DARN_POOL : Fld := ⟨0x2040, 24, 8⟩
abbrev PMEM_CH_CE (i : Nat) : Fld := ⟨0x3000 + 4 * i, 0, 16⟩
abbrev PMEM_CH_SPARES (i : Nat) : Fld := ⟨0x3000 + 4 * i, 16, 5⟩
abbrev PMEM_CH_ERASURES (i : Nat) : Fld := ⟨0x3000 + 4 * i, 21, 4⟩
/-! Table 6.8 (06_memory.md) -/
abbrev EDGE_CFG_REFRESH_MODE : Fld := ⟨0x0, 0, 1⟩
abbrev EDGE_CFG_SCRUB_EN : Fld := ⟨0x0, 1, 1⟩
abbrev EDGE_CFG_SCRUB_PERIOD : Fld := ⟨0x0, 8, 8⟩
abbrev EDGE_STATUS_BAND : Fld := ⟨0x4, 0, 2⟩
abbrev EDGE_STATUS_RESERVE : Fld := ⟨0x4, 2, 2⟩
abbrev EDGE_STATUS_OVERRUN : Fld := ⟨0x4, 4, 1⟩
abbrev EDGE_STATUS_SCRUB_LATE : Fld := ⟨0x4, 5, 1⟩
abbrev EDGE_STATUS_TRAINED : Fld := ⟨0x4, 6, 1⟩
abbrev EDGE_CE_COUNT_COUNT : Fld := ⟨0x8, 0, 32⟩
abbrev EDGE_UE_COUNT_COUNT : Fld := ⟨0xc, 0, 32⟩
abbrev EDGE_UE_ADDR_LO_DPA : Fld := ⟨0x10, 0, 32⟩
abbrev EDGE_UE_ADDR_HI_DPA : Fld := ⟨0x14, 0, 16⟩
abbrev EDGE_UE_ADDR_HI_VALID : Fld := ⟨0x14, 31, 1⟩
abbrev EDGE_SCRUB_PASSES_COUNT : Fld := ⟨0x18, 0, 32⟩
abbrev EDGE_LATE_COUNT_COUNT : Fld := ⟨0x1c, 0, 32⟩
abbrev EDGE_FLIP_CTRL_ARM : Fld := ⟨0x20, 0, 1⟩
abbrev EDGE_FLIP_CTRL_ADDR_EN : Fld := ⟨0x20, 4, 1⟩
abbrev EDGE_FLIP_POS_POS0 : Fld := ⟨0x24, 0, 7⟩
abbrev EDGE_FLIP_POS_POS1 : Fld := ⟨0x24, 8, 7⟩
abbrev EDGE_FLIP_POS_POS2 : Fld := ⟨0x24, 16, 7⟩
abbrev EDGE_FLIP_POS_POS3 : Fld := ⟨0x24, 24, 7⟩
abbrev EDGE_FLIP_PAT_PAT : Fld := ⟨0x28, 0, 32⟩
abbrev EDGE_FLIP_ADDR_LO_DPA : Fld := ⟨0x2c, 0, 32⟩
abbrev EDGE_FLIP_ADDR_HI_DPA : Fld := ⟨0x30, 0, 16⟩
abbrev EDGE_PC_ERASURES (i : Nat) : Fld := ⟨0x40 + 4 * i, 0, 4⟩
abbrev EDGE_PC_CE (i : Nat) : Fld := ⟨0x40 + 4 * i, 4, 16⟩
abbrev EDGE_MARGIN_CTRL_START : Fld := ⟨0x100, 0, 1⟩
abbrev EDGE_MARGIN_CTRL_PC : Fld := ⟨0x100, 1, 5⟩
abbrev EDGE_MARGIN_CTRL_PIN : Fld := ⟨0x100, 6, 7⟩
abbrev EDGE_MARGIN_RESULT_LEFT : Fld := ⟨0x104, 0, 8⟩
abbrev EDGE_MARGIN_RESULT_RIGHT : Fld := ⟨0x104, 8, 8⟩
abbrev EDGE_MARGIN_RESULT_LOW : Fld := ⟨0x104, 16, 8⟩
abbrev EDGE_MARGIN_RESULT_HIGH : Fld := ⟨0x104, 24, 8⟩
abbrev EDGE_MARGIN_STAT_DONE : Fld := ⟨0x108, 0, 1⟩
abbrev EDGE_MARGIN_STAT_REFUSED : Fld := ⟨0x108, 1, 1⟩
abbrev EDGE_MARGIN_STAT_BUSY : Fld := ⟨0x108, 2, 1⟩
abbrev EDGE_MARGIN_STAT_DEAD : Fld := ⟨0x108, 3, 1⟩
abbrev EDGE_BAR2_WIN_LO_MODE (i : Nat) : Fld := ⟨0x200 + 8 * i, 0, 1⟩
abbrev EDGE_BAR2_WIN_LO_BASE (i : Nat) : Fld := ⟨0x200 + 8 * i, 12, 20⟩
abbrev EDGE_BAR2_WIN_HI_BASE (i : Nat) : Fld := ⟨0x204 + 8 * i, 0, 16⟩
/-! Table 7.5 (07_near_bank.md) -/
abbrev NBU_BUSY_MAP_BUSY : Fld := ⟨0x300, 0, 32⟩
abbrev NBU_CLAIM_MAP_CLAIM : Fld := ⟨0x304, 0, 32⟩
abbrev NBU_TAG_STAT_REFUSED : Fld := ⟨0x308, 0, 1⟩
abbrev EDGE_TAG_BASE_BASE (i : Nat) : Fld := ⟨0x400 + 16 * i, 0, 28⟩
abbrev EDGE_TAG_LEN_LEN (i : Nat) : Fld := ⟨0x404 + 16 * i, 0, 28⟩
abbrev EDGE_TAG_LEN_EN (i : Nat) : Fld := ⟨0x404 + 16 * i, 31, 1⟩
abbrev EDGE_TAG_TAGS_TAGS (i : Nat) : Fld := ⟨0x408 + 16 * i, 0, 31⟩
abbrev NBU_STATUS_BUSY : Fld := ⟨0x0, 0, 1⟩
abbrev NBU_STATUS_CLAIM : Fld := ⟨0x0, 1, 1⟩
abbrev NBU_STATUS_RING : Fld := ⟨0x0, 2, 2⟩
abbrev NBU_STATUS_CONFLICT : Fld := ⟨0x0, 4, 1⟩
abbrev NBU_STATUS_RING_ERR : Fld := ⟨0x0, 5, 1⟩
abbrev NBU_STATUS_ABORTED : Fld := ⟨0x0, 6, 1⟩
abbrev NBU_CLAIM_START_LINE : Fld := ⟨0x4, 0, 31⟩
abbrev NBU_CLAIM_END_LINE : Fld := ⟨0x8, 0, 31⟩
abbrev NBU_OPS_DONE_COUNT : Fld := ⟨0xc, 0, 32⟩
abbrev NBU_RING_BASE_BASE (i : Nat) : Fld := ⟨0x10 + 16 * i, 0, 31⟩
abbrev NBU_RING_CFG_SLOTS_M1 (i : Nat) : Fld := ⟨0x14 + 16 * i, 0, 8⟩
abbrev NBU_RING_CFG_OWNER (i : Nat) : Fld := ⟨0x14 + 16 * i, 8, 2⟩
abbrev NBU_RING_CFG_BOLT (i : Nat) : Fld := ⟨0x14 + 16 * i, 10, 4⟩
abbrev NBU_RING_CFG_EN (i : Nat) : Fld := ⟨0x14 + 16 * i, 14, 1⟩
abbrev NBU_RING_PTR_PROD (i : Nat) : Fld := ⟨0x18 + 16 * i, 0, 16⟩
abbrev NBU_RING_PTR_CONS (i : Nat) : Fld := ⟨0x18 + 16 * i, 16, 16⟩
/-! Table 8.10 (08_shuttle.md) -/
abbrev SHT_STATUS_CH_BUSY : Fld := ⟨0x200, 0, 4⟩
abbrev SHT_STATUS_WALK : Fld := ⟨0x200, 4, 1⟩
abbrev SHT_STATUS_ORPHAN : Fld := ⟨0x200, 5, 1⟩
abbrev SHT_BODY_FAULT_DETAIL : Fld := ⟨0x204, 0, 8⟩
abbrev SHT_FAULT_DETAIL_DETAIL : Fld := ⟨0x208, 0, 4⟩
abbrev SHT_FAULT_DETAIL_CHANNEL : Fld := ⟨0x208, 4, 2⟩
abbrev SHT_FAULT_DETAIL_WRITE : Fld := ⟨0x208, 6, 1⟩
abbrev SHT_FAULT_ADDR_LO_ADDR : Fld := ⟨0x20c, 0, 32⟩
abbrev SHT_FAULT_ADDR_HI_ADDR : Fld := ⟨0x210, 0, 16⟩
abbrev SHT_CH_SEQ_SEQ (i : Nat) : Fld := ⟨0x220 + 16 * i, 0, 16⟩
abbrev SHT_CH_SEQ_OPCODE (i : Nat) : Fld := ⟨0x220 + 16 * i, 16, 4⟩
abbrev SHT_CH_SEQ_ACTIVE (i : Nat) : Fld := ⟨0x220 + 16 * i, 20, 1⟩
abbrev SHT_CH_BYTES_LO_BYTES (i : Nat) : Fld := ⟨0x224 + 16 * i, 0, 32⟩
abbrev SHT_CH_BYTES_HI_BYTES (i : Nat) : Fld := ⟨0x228 + 16 * i, 0, 32⟩
abbrev SHT_RECV_POSTED_CHAN : Fld := ⟨0x260, 0, 16⟩
/-! Table 8.11 (08_shuttle.md) -/
abbrev TRN_WIN_BASE_LO_BASE (i : Nat) : Fld := ⟨0x4000 + 16 * i, 6, 26⟩
abbrev TRN_WIN_BASE_HI_BASE (i : Nat) : Fld := ⟨0x4004 + 16 * i, 0, 16⟩
abbrev TRN_WIN_LEN_LO_LEN (i : Nat) : Fld := ⟨0x4008 + 16 * i, 6, 26⟩
abbrev TRN_WIN_LEN_HI_LEN (i : Nat) : Fld := ⟨0x400c + 16 * i, 0, 9⟩
abbrev TRN_WIN_LEN_HI_KIND (i : Nat) : Fld := ⟨0x400c + 16 * i, 16, 2⟩
abbrev TRN_WIN_LEN_HI_RD (i : Nat) : Fld := ⟨0x400c + 16 * i, 18, 1⟩
abbrev TRN_WIN_LEN_HI_WR (i : Nat) : Fld := ⟨0x400c + 16 * i, 19, 1⟩
abbrev TRN_WIN_LEN_HI_EN (i : Nat) : Fld := ⟨0x400c + 16 * i, 20, 1⟩
abbrev CTX_CTRL_SAVE : Fld := ⟨0x5000, 0, 1⟩
abbrev CTX_CTRL_AT_TACK : Fld := ⟨0x5000, 1, 1⟩
abbrev CTX_CTRL_RESTORE : Fld := ⟨0x5000, 2, 1⟩
abbrev CTX_TACK_TACK_NO : Fld := ⟨0x5004, 0, 24⟩
abbrev CTX_BASE_LO_ADDR : Fld := ⟨0x5008, 16, 16⟩
abbrev CTX_BASE_HI_ADDR : Fld := ⟨0x500c, 0, 16⟩
abbrev CTX_STATUS_STATE : Fld := ⟨0x5010, 0, 3⟩
abbrev CTX_STATUS_CODE : Fld := ⟨0x5010, 8, 8⟩
abbrev CTX_SAVED_TACK_TACK : Fld := ⟨0x5014, 0, 24⟩
/-! Table 9.8 (09_patterns_and_tape.md) -/
abbrev TAPE_COUNT_LO_COUNT : Fld := ⟨0x0, 0, 32⟩
abbrev TAPE_COUNT_HI_COUNT : Fld := ⟨0x4, 0, 32⟩
abbrev TAPE_STATUS_LOCKED : Fld := ⟨0x8, 0, 1⟩
abbrev TAPE_STATUS_ALIGNED : Fld := ⟨0x8, 1, 1⟩
abbrev TAPE_STATUS_ROOT : Fld := ⟨0x8, 2, 1⟩
abbrev TAPE_STATUS_SLEWING : Fld := ⟨0x8, 3, 1⟩
abbrev TAPE_STATUS_OFFSET : Fld := ⟨0x8, 8, 8⟩
abbrev TAPE_SYNC_CFG_IN_EN : Fld := ⟨0xc, 0, 1⟩
abbrev TAPE_SYNC_CFG_OUT_EN : Fld := ⟨0xc, 1, 1⟩
abbrev TAPE_SYNC_CFG_OUT_SHIFT : Fld := ⟨0xc, 2, 6⟩
abbrev TAPE_SYNC_VAL_LO_VALUE : Fld := ⟨0x10, 0, 32⟩
abbrev TAPE_SYNC_VAL_HI_VALUE : Fld := ⟨0x14, 0, 32⟩
abbrev TAPE_SYNC_STAMP_LO_TAPE : Fld := ⟨0x18, 0, 32⟩
abbrev TAPE_SYNC_STAMP_HI_TAPE : Fld := ⟨0x1c, 0, 32⟩
abbrev BOLT_STACKS_STACKS : Fld := ⟨0x0, 0, 12⟩
abbrev PAT_IMAGE_LO_ADDR : Fld := ⟨0x4, 6, 26⟩
abbrev PAT_IMAGE_HI_ADDR : Fld := ⟨0x8, 0, 16⟩
abbrev PAT_CTRL_LOAD : Fld := ⟨0xc, 0, 1⟩
abbrev PAT_CTRL_START : Fld := ⟨0xc, 1, 1⟩
abbrev PAT_CTRL_STOP : Fld := ⟨0xc, 2, 1⟩
abbrev PAT_START_LO_T0 : Fld := ⟨0x10, 0, 32⟩
abbrev PAT_START_HI_T0 : Fld := ⟨0x14, 0, 32⟩
abbrev PAT_STATUS_STATE : Fld := ⟨0x18, 0, 3⟩
abbrev PAT_STATUS_CODE : Fld := ⟨0x18, 8, 8⟩
abbrev PAT_STATUS_SCHED : Fld := ⟨0x18, 16, 3⟩
abbrev PAT_STATUS_HOLD_LONG : Fld := ⟨0x18, 24, 1⟩
abbrev PAT_DETAIL_INDEX : Fld := ⟨0x1c, 0, 32⟩
abbrev PAT_SCHED_LO_COUNT : Fld := ⟨0x20, 0, 32⟩
abbrev PAT_SCHED_HI_COUNT : Fld := ⟨0x24, 0, 32⟩
abbrev PAT_TACK_TACK : Fld := ⟨0x28, 0, 24⟩
abbrev PAT_TACK_ANY : Fld := ⟨0x28, 31, 1⟩
abbrev PAT_SLIPS_COUNT : Fld := ⟨0x2c, 0, 32⟩
abbrev PAT_HOLDS_COUNT : Fld := ⟨0x30, 0, 32⟩
abbrev PAT_PACES_COUNT : Fld := ⟨0x34, 0, 32⟩
abbrev PAT_PAUSED_LO_CYCLES : Fld := ⟨0x38, 0, 32⟩
abbrev PAT_PAUSED_HI_CYCLES : Fld := ⟨0x3c, 0, 32⟩
abbrev PAT_LAST_SLIP_LO_TAPE : Fld := ⟨0x40, 0, 32⟩
abbrev PAT_LAST_SLIP_HI_TAPE : Fld := ⟨0x44, 0, 32⟩
abbrev PAT_LAST_HOLD_LO_TAPE : Fld := ⟨0x48, 0, 32⟩
abbrev PAT_LAST_HOLD_HI_TAPE : Fld := ⟨0x4c, 0, 32⟩
abbrev PAT_HOLD_INFO_TACK : Fld := ⟨0x50, 0, 24⟩
abbrev PAT_HOLD_LEN_CYCLES : Fld := ⟨0x54, 0, 32⟩
abbrev PAT_EASE_USED_CYCLES : Fld := ⟨0x58, 0, 32⟩
abbrev PAT_MEAS_DIGEST (i : Nat) : Fld := ⟨0x80 + 4 * i, 0, 32⟩
abbrev PAT_RMEAS_DIGEST (i : Nat) : Fld := ⟨0xc0 + 4 * i, 0, 32⟩
/-! Table 10.9 (10_fabric.md) -/
abbrev FAB_PORT_CTRL_EN : Fld := ⟨0x0, 0, 1⟩
abbrev FAB_PORT_CTRL_RETRAIN : Fld := ⟨0x0, 1, 1⟩
abbrev FAB_PORT_STATUS_WIDTH : Fld := ⟨0x4, 0, 3⟩
abbrev FAB_PORT_STATUS_STATE : Fld := ⟨0x4, 3, 3⟩
abbrev FAB_PORT_STATUS_LANES : Fld := ⟨0x4, 6, 4⟩
abbrev FAB_PORT_STATUS_FAILING : Fld := ⟨0x4, 10, 1⟩
abbrev FAB_PORT_STATUS_REFUSED : Fld := ⟨0x4, 11, 1⟩
abbrev FAB_PORT_STATUS_CABLING : Fld := ⟨0x4, 12, 1⟩
abbrev FAB_PORT_STATUS_LEFT : Fld := ⟨0x4, 13, 1⟩
abbrev FAB_PORT_STATUS_ATTEMPTS : Fld := ⟨0x4, 14, 2⟩
abbrev FAB_PORT_NBR_COORD : Fld := ⟨0x8, 0, 12⟩
abbrev FAB_PORT_NBR_NPORT : Fld := ⟨0x8, 12, 4⟩
abbrev FAB_PORT_NBR_VALID : Fld := ⟨0x8, 16, 1⟩
abbrev FAB_RETRY_COUNT_COUNT : Fld := ⟨0xc, 0, 32⟩
abbrev FAB_CRC_ERR_COUNT_COUNT : Fld := ⟨0x10, 0, 32⟩
abbrev FAB_LATE_COUNT_COUNT : Fld := ⟨0x14, 0, 32⟩
abbrev FAB_SLIP_REQ_COUNT_COUNT : Fld := ⟨0x18, 0, 32⟩
abbrev FAB_COLLIDE_COUNT_COUNT : Fld := ⟨0x1c, 0, 32⟩
abbrev FAB_LAT_NOM_CYCLES : Fld := ⟨0x20, 0, 16⟩
abbrev FAB_LANE_FAIL_CFG_UNCORR_THR : Fld := ⟨0x24, 0, 8⟩
abbrev FAB_LANE_FAIL_CFG_LOCK_LOSS_US : Fld := ⟨0x24, 8, 8⟩
abbrev FAB_LANE_CORR (i : Nat) : Fld := ⟨0x40 + 4 * i, 0, 16⟩
abbrev FAB_LANE_UNCORR (i : Nat) : Fld := ⟨0x40 + 4 * i, 16, 8⟩
abbrev FAB_LANE_PASSED (i : Nat) : Fld := ⟨0x40 + 4 * i, 24, 1⟩
abbrev FAB_LANE_FAILING (i : Nat) : Fld := ⟨0x40 + 4 * i, 25, 1⟩
abbrev FAB_LANE_PRECODE (i : Nat) : Fld := ⟨0x40 + 4 * i, 26, 1⟩
/-! Table 10.10 (10_fabric.md) -/
abbrev FAB_COORD_X : Fld := ⟨0x8000, 0, 4⟩
abbrev FAB_COORD_Y : Fld := ⟨0x8000, 4, 4⟩
abbrev FAB_COORD_Z : Fld := ⟨0x8000, 8, 4⟩
abbrev FAB_COORD_DX_M1 : Fld := ⟨0x8000, 16, 4⟩
abbrev FAB_COORD_DY_M1 : Fld := ⟨0x8000, 20, 4⟩
abbrev FAB_COORD_DZ_M1 : Fld := ⟨0x8000, 24, 4⟩
abbrev FAB_TOPO_VERIFIED : Fld := ⟨0x8004, 0, 1⟩
abbrev FAB_TOPO_PORTS_UP : Fld := ⟨0x8004, 16, 12⟩
abbrev FAB_TIME_PARENT_PORT : Fld := ⟨0x8008, 0, 4⟩
abbrev FAB_TIME_PARENT_ROOT : Fld := ⟨0x8008, 4, 1⟩
abbrev FAB_MGMT_CFG_RESET_EN : Fld := ⟨0x800c, 0, 1⟩
abbrev FAB_MGMT_CFG_FW_EN : Fld := ⟨0x800c, 1, 1⟩
abbrev FAB_MGMT_CFG_XTRIG_EN : Fld := ⟨0x800c, 2, 1⟩
abbrev FAB_MGMT_STAT_RESET_RCVD : Fld := ⟨0x8010, 0, 1⟩
abbrev FAB_MGMT_STAT_BAD_RESET : Fld := ⟨0x8010, 1, 1⟩
abbrev FAB_MINW_LO_WIDTH : Fld := ⟨0x8014, 0, 32⟩
abbrev FAB_MINW_HI_WIDTH : Fld := ⟨0x8018, 0, 16⟩
abbrev FAB_RESCHED_COUNT_COUNT : Fld := ⟨0x801c, 0, 32⟩
/-! Table 11.7 (11_host_interface.md) -/
abbrev ID_DEVICE_VENDOR : Fld := ⟨0x0, 0, 16⟩
abbrev ID_DEVICE_DEVICE : Fld := ⟨0x0, 16, 16⟩
abbrev ID_PART_VARIANT : Fld := ⟨0x4, 0, 4⟩
abbrev ID_PART_STEP : Fld := ⟨0x4, 4, 8⟩
abbrev ID_SERIAL_LO_SERIAL : Fld := ⟨0x8, 0, 32⟩
abbrev ID_SERIAL_HI_SERIAL : Fld := ⟨0xc, 0, 32⟩
abbrev ID_STATUS_READY : Fld := ⟨0x10, 0, 1⟩
abbrev ID_STATUS_FUSES : Fld := ⟨0x10, 1, 1⟩
abbrev ID_STATUS_GEN : Fld := ⟨0x10, 8, 8⟩
abbrev ID_CAP_HEAD_OFFSET : Fld := ⟨0x14, 0, 16⟩
abbrev ID_PORT_PORT : Fld := ⟨0x18, 0, 1⟩
abbrev ID_W0_HEADER : Fld := ⟨0x100, 0, 32⟩
abbrev ID_W1_NEXT : Fld := ⟨0x104, 0, 16⟩
abbrev ID_W2_ACLK_MAX : Fld := ⟨0x108, 0, 16⟩
abbrev ID_W2_ACLK_SET : Fld := ⟨0x108, 16, 16⟩
abbrev ID_W3_PWR_FUSED : Fld := ⟨0x10c, 0, 16⟩
abbrev ID_W3_PWR_LIMIT : Fld := ⟨0x10c, 16, 16⟩
abbrev ID_W4_6_TILES (i : Nat) : Fld := ⟨0x110 + 4 * i, 0, 32⟩
abbrev ID_W7_STACKS : Fld := ⟨0x11c, 0, 12⟩
abbrev ID_W7_EDGES : Fld := ⟨0x11c, 12, 12⟩
abbrev ID_W7_PORTS : Fld := ⟨0x11c, 24, 2⟩
abbrev ID_W8_SITES : Fld := ⟨0x120, 0, 8⟩
abbrev ID_W8_NOMINAL : Fld := ⟨0x120, 8, 8⟩
/-! Table 11.8 (11_host_interface.md) -/
abbrev HST_SQ_BASE_LO_ADDR (i : Nat) : Fld := ⟨0x0 + 64 * i, 6, 26⟩
abbrev HST_SQ_BASE_HI_ADDR (i : Nat) : Fld := ⟨0x4 + 64 * i, 0, 32⟩
abbrev HST_CQ_BASE_LO_ADDR (i : Nat) : Fld := ⟨0x8 + 64 * i, 6, 26⟩
abbrev HST_CQ_BASE_HI_ADDR (i : Nat) : Fld := ⟨0xc + 64 * i, 0, 32⟩
abbrev HST_Q_CFG_SQ_SIZE_M1 (i : Nat) : Fld := ⟨0x10 + 64 * i, 0, 16⟩
abbrev HST_Q_CFG_CQ_SIZE_M1 (i : Nat) : Fld := ⟨0x10 + 64 * i, 16, 16⟩
abbrev HST_Q_CTRL_VECTOR (i : Nat) : Fld := ⟨0x14 + 64 * i, 0, 8⟩
abbrev HST_Q_CTRL_EN (i : Nat) : Fld := ⟨0x14 + 64 * i, 8, 1⟩
abbrev HST_Q_CTRL_IEN (i : Nat) : Fld := ⟨0x14 + 64 * i, 9, 1⟩
abbrev HST_Q_STAT_SQ_HEAD (i : Nat) : Fld := ⟨0x18 + 64 * i, 0, 16⟩
abbrev HST_Q_STAT_CQ_FULL (i : Nat) : Fld := ⟨0x18 + 64 * i, 16, 1⟩
abbrev HST_Q_STAT_ERR (i : Nat) : Fld := ⟨0x18 + 64 * i, 17, 1⟩
abbrev HST_Q_STAT_ACTIVE (i : Nat) : Fld := ⟨0x18 + 64 * i, 18, 1⟩
abbrev HST_Q_DROP_COUNT (i : Nat) : Fld := ⟨0x1c + 64 * i, 0, 32⟩
abbrev HST_CTRL_CTRL_PORT : Fld := ⟨0x10000, 0, 1⟩
abbrev HST_CTRL_TAKE_CTRL : Fld := ⟨0x10000, 1, 1⟩
abbrev HST_CTRL_TAKE_REFUSED : Fld := ⟨0x10000, 2, 1⟩
abbrev HST_BOLT_OWNER (i : Nat) : Fld := ⟨0x10010 + 4 * i, 0, 2⟩
abbrev HST_BOLT_CQ (i : Nat) : Fld := ⟨0x10010 + 4 * i, 2, 6⟩
abbrev HST_BOLT_IEN (i : Nat) : Fld := ⟨0x10010 + 4 * i, 8, 1⟩
abbrev HST_BOLT_CMD (i : Nat) : Fld := ⟨0x10010 + 4 * i, 9, 2⟩
abbrev HST_BOLT_LAST (i : Nat) : Fld := ⟨0x10010 + 4 * i, 11, 2⟩
abbrev HST_BOLT_DROPPED (i : Nat) : Fld := ⟨0x10010 + 4 * i, 16, 16⟩
abbrev HST_INTR_ERR_VEC : Fld := ⟨0x10100, 0, 8⟩
abbrev HST_INTR_NBU_VEC : Fld := ⟨0x10100, 8, 8⟩
abbrev HST_INTR_BOLT_VEC : Fld := ⟨0x10100, 16, 8⟩
abbrev HST_INTR_EN : Fld := ⟨0x10100, 24, 1⟩
abbrev HST_SQ_TAIL_TAIL (i : Nat) : Fld := ⟨0x100000 + 4096 * i, 0, 16⟩
abbrev HST_CQ_HEAD_HEAD (i : Nat) : Fld := ⟨0x100004 + 4096 * i, 0, 16⟩
/-! Table 12.11 (12_bringup_and_firmware.md) -/
abbrev MBX_STATUS_STEP : Fld := ⟨0x0, 0, 4⟩
abbrev MBX_STATUS_STATE : Fld := ⟨0x0, 4, 3⟩
abbrev MBX_STATUS_ROM : Fld := ⟨0x0, 7, 1⟩
abbrev MBX_STATUS_CODE : Fld := ⟨0x0, 8, 8⟩
abbrev MBX_STATUS_SEG_BUSY : Fld := ⟨0x0, 16, 1⟩
abbrev MBX_STATUS_CMD_BUSY : Fld := ⟨0x0, 17, 1⟩
abbrev MBX_STATUS_ALT_FULL : Fld := ⟨0x0, 18, 1⟩
abbrev MBX_BOOT_CFG_ACLK_REQ : Fld := ⟨0x4, 0, 16⟩
abbrev MBX_BOOT_CFG_STOP_BEFORE : Fld := ⟨0x4, 16, 4⟩
abbrev MBX_BOOT_CFG_ALT_IGNORE : Fld := ⟨0x4, 20, 1⟩
abbrev MBX_SEG_CTRL_SEQ : Fld := ⟨0x8, 0, 9⟩
abbrev MBX_SEG_CTRL_TYPE : Fld := ⟨0x8, 9, 2⟩
abbrev MBX_SEG_CTRL_POST : Fld := ⟨0x8, 31, 1⟩
abbrev MBX_SEG_CRC_CRC : Fld := ⟨0xc, 0, 32⟩
abbrev MBX_SEG_STAT_COUNT : Fld := ⟨0x10, 0, 9⟩
abbrev MBX_SEG_STAT_MISSING : Fld := ⟨0x10, 9, 9⟩
abbrev MBX_SEG_STAT_BAD_CRC : Fld := ⟨0x10, 18, 1⟩
abbrev MBX_SEG_STAT_REFUSED : Fld := ⟨0x10, 19, 1⟩
abbrev MBX_SEG_STAT_RANGE : Fld := ⟨0x10, 20, 1⟩
abbrev MBX_SEG_STAT_OVERRUN : Fld := ⟨0x10, 21, 1⟩
abbrev MBX_VERIFY_HKC_RESULT : Fld := ⟨0x14, 0, 4⟩
abbrev MBX_VERIFY_TILE_RESULT : Fld := ⟨0x14, 4, 4⟩
abbrev MBX_VERIFY_FAILS : Fld := ⟨0x14, 8, 8⟩
abbrev MBX_CMD_CMD : Fld := ⟨0x1c, 0, 8⟩
abbrev MBX_CMD_STAT_STATUS : Fld := ⟨0x20, 0, 8⟩
abbrev MBX_CMD_STAT_DONE : Fld := ⟨0x20, 8, 1⟩
abbrev MBX_CMD_STAT_OVERRUN : Fld := ⟨0x20, 9, 1⟩
abbrev MBX_ARG_ARG (i : Nat) : Fld := ⟨0x40 + 4 * i, 0, 32⟩
abbrev MBX_STEP_RESULT (i : Nat) : Fld := ⟨0x80 + 4 * i, 0, 2⟩
abbrev MBX_STEP_CODE (i : Nat) : Fld := ⟨0x80 + 4 * i, 8, 8⟩
abbrev MBX_STEP_TIME_MS (i : Nat) : Fld := ⟨0x80 + 4 * i, 16, 16⟩
abbrev MBX_RESP_DATA (i : Nat) : Fld := ⟨0x1000 + 4 * i, 0, 32⟩
abbrev MBX_ALT_DATA (i : Nat) : Fld := ⟨0x3000 + 4 * i, 0, 32⟩
abbrev MBX_SEG_DATA_DATA (i : Nat) : Fld := ⟨0x7000 + 4 * i, 0, 32⟩
/-! Table 13.5 (13_reset_clocks_config.md) -/
abbrev RST_CMD_KEY : Fld := ⟨0x0, 0, 32⟩
abbrev RST_CAUSE_POWER : Fld := ⟨0x4, 0, 1⟩
abbrev RST_CAUSE_SYSRST : Fld := ⟨0x4, 1, 1⟩
abbrev RST_CAUSE_PERST0 : Fld := ⟨0x4, 2, 1⟩
abbrev RST_CAUSE_PERST1 : Fld := ⟨0x4, 3, 1⟩
abbrev RST_CAUSE_CMD : Fld := ⟨0x4, 4, 1⟩
abbrev RST_CAUSE_WATCHDOG : Fld := ⟨0x4, 5, 1⟩
abbrev RST_CAUSE_THERMAL : Fld := ⟨0x4, 6, 1⟩
abbrev RST_CAUSE_FABRIC : Fld := ⟨0x4, 7, 1⟩
abbrev RST_CAUSE_DEBUG : Fld := ⟨0x4, 8, 1⟩
abbrev RST_CAUSE_ESCALATED : Fld := ⟨0x4, 9, 1⟩
abbrev RST_CAUSE_DEFERRED : Fld := ⟨0x4, 10, 1⟩
abbrev RST_CAUSE_LEVEL : Fld := ⟨0x4, 11, 2⟩
abbrev RST_LAST_TAPE_LO_TAPE : Fld := ⟨0x8, 0, 32⟩
abbrev RST_LAST_TAPE_HI_TAPE : Fld := ⟨0xc, 0, 32⟩
abbrev RST_GLITCH_POR : Fld := ⟨0x10, 0, 8⟩
abbrev RST_GLITCH_SYS : Fld := ⟨0x10, 8, 8⟩
abbrev RST_GLITCH_PERST0 : Fld := ⟨0x10, 16, 8⟩
abbrev RST_GLITCH_PERST1 : Fld := ⟨0x10, 24, 8⟩
abbrev RST_BLK_SEL_TYPE : Fld := ⟨0x20, 0, 4⟩
abbrev RST_BLK_SEL_INDEX : Fld := ⟨0x20, 4, 4⟩
abbrev RST_BLK_SEL_UNIT : Fld := ⟨0x20, 8, 8⟩
abbrev RST_BLK_CTRL_RESET : Fld := ⟨0x24, 0, 1⟩
abbrev RST_BLK_CTRL_FORCE : Fld := ⟨0x24, 1, 1⟩
abbrev RST_BLK_STAT_BUSY : Fld := ⟨0x28, 0, 1⟩
abbrev RST_BLK_STAT_DONE : Fld := ⟨0x28, 1, 1⟩
abbrev RST_BLK_STAT_REFUSED : Fld := ⟨0x28, 2, 1⟩
abbrev RST_BLK_STAT_REASON : Fld := ⟨0x28, 3, 3⟩
abbrev RST_BLK_STAT_FORCED : Fld := ⟨0x28, 6, 1⟩
abbrev RST_BLK_STAT_EPOCH : Fld := ⟨0x28, 8, 8⟩
abbrev RST_BLK_STAT_ABORTS : Fld := ⟨0x28, 16, 16⟩
abbrev RST_STALE_COUNT_COUNT : Fld := ⟨0x30, 0, 32⟩
abbrev RST_CLK_STATUS_STACK_LOCK : Fld := ⟨0x34, 0, 12⟩
abbrev RST_CLK_STATUS_DIE_LOCK : Fld := ⟨0x34, 12, 4⟩
abbrev RST_CLK_STATUS_FABREF : Fld := ⟨0x34, 16, 1⟩
abbrev RST_CLK_STATUS_HOLDOVER : Fld := ⟨0x34, 17, 1⟩
abbrev RST_CLK_STATUS_LOCK_LOST : Fld := ⟨0x34, 18, 1⟩
/-! Table 13.6 (13_reset_clocks_config.md) -/
abbrev CFG_TXN_BEGIN_BASTE : Fld := ⟨0x0, 0, 1⟩
abbrev CFG_TXN_COMMIT_STITCH : Fld := ⟨0x4, 0, 1⟩
abbrev CFG_TXN_ROLLBACK_UNPICK : Fld := ⟨0x8, 0, 1⟩
abbrev CFG_TXN_STATUS_STATE : Fld := ⟨0xc, 0, 2⟩
abbrev CFG_TXN_STATUS_STAGED : Fld := ⟨0xc, 2, 9⟩
abbrev CFG_TXN_STATUS_FULL : Fld := ⟨0xc, 11, 1⟩
abbrev CFG_TXN_STATUS_RESULT : Fld := ⟨0xc, 12, 4⟩
abbrev CFG_TXN_STATUS_CODE : Fld := ⟨0xc, 16, 8⟩
abbrev CFG_TXN_REFUSE_ADDR_OFFSET : Fld := ⟨0x10, 0, 26⟩
abbrev CFG_TXN_APPLY_LO_TAPE : Fld := ⟨0x14, 0, 32⟩
abbrev CFG_TXN_APPLY_HI_TAPE : Fld := ⟨0x18, 0, 32⟩
abbrev CFG_ERR_NESTED : Fld := ⟨0x1c, 0, 1⟩
abbrev CFG_ERR_NO_TXN : Fld := ⟨0x1c, 1, 1⟩
abbrev CFG_ERR_LONE_PAIRED : Fld := ⟨0x1c, 2, 1⟩
abbrev CFG_TXN_VIEW_STATE (i : Nat) : Fld := ⟨0x20 + 4 * i, 0, 2⟩
abbrev CFG_TXN_VIEW_STAGED (i : Nat) : Fld := ⟨0x20 + 4 * i, 2, 9⟩
abbrev CFG_TXN_VIEW_AGE (i : Nat) : Fld := ⟨0x20 + 4 * i, 16, 16⟩
/-! Table 13.7 (13_reset_clocks_config.md) -/
abbrev STK_BOLT_OP_OP : Fld := ⟨0x6000, 0, 2⟩
abbrev STK_BOLT_OP_STAT_STATE : Fld := ⟨0x6004, 0, 3⟩
abbrev STK_BOLT_OP_STAT_CODE : Fld := ⟨0x6004, 8, 8⟩
abbrev STK_BOLT_OP_STAT_FAILED : Fld := ⟨0x6004, 16, 8⟩
/-! Table 14.7 (14_thermal_power_cooling.md) -/
abbrev THM_STATUS_STATE : Fld := ⟨0x0, 0, 2⟩
abbrev THM_STATUS_COOL_WARN : Fld := ⟨0x0, 2, 1⟩
abbrev THM_STATUS_DERATE : Fld := ⟨0x0, 3, 1⟩
abbrev THM_STATUS_PAIR_WARN : Fld := ⟨0x0, 4, 1⟩
abbrev THM_STATUS_DOMAIN_LOST : Fld := ⟨0x0, 5, 1⟩
abbrev THM_MAX_ARRAY : Fld := ⟨0x4, 0, 16⟩
abbrev THM_MAX_DRAM : Fld := ⟨0x4, 16, 16⟩
abbrev THM_MAX_EDGE_EDGE : Fld := ⟨0x8, 0, 16⟩
abbrev THM_COOLANT_INLET : Fld := ⟨0xc, 0, 16⟩
abbrev THM_COOLANT_OUTLET : Fld := ⟨0xc, 16, 16⟩
abbrev THM_FLOW_FLOW : Fld := ⟨0x10, 0, 16⟩
abbrev THM_FLOW_VALID : Fld := ⟨0x10, 16, 1⟩
abbrev THM_SENSOR_BAD_COUNT : Fld := ⟨0x14, 0, 13⟩
abbrev THM_SENSOR_BAD_NEW : Fld := ⟨0x14, 13, 1⟩
abbrev THM_PAIR_DIS_COUNT : Fld := ⟨0x18, 0, 13⟩
abbrev THM_SENSOR_SEL_INDEX : Fld := ⟨0x20, 0, 13⟩
abbrev THM_SENSOR_DATA_VALUE : Fld := ⟨0x24, 0, 16⟩
abbrev THM_SENSOR_DATA_BAD : Fld := ⟨0x24, 16, 1⟩
abbrev THM_SENSOR_DATA_DISAGREE : Fld := ⟨0x24, 17, 1⟩
abbrev THM_CFG_L1_MS : Fld := ⟨0x30, 0, 8⟩
abbrev THM_CFG_L2_MS : Fld := ⟨0x30, 8, 8⟩
abbrev THM_CFG_PACE_US : Fld := ⟨0x30, 16, 10⟩
abbrev THM_KEEPWARM_EN : Fld := ⟨0x34, 0, 1⟩
abbrev THM_KEEPWARM_FLOOR : Fld := ⟨0x34, 8, 8⟩
abbrev THM_KEEPWARM_MAX_W : Fld := ⟨0x34, 16, 8⟩
abbrev THM_FLOW_CFG_K : Fld := ⟨0x38, 0, 16⟩
abbrev THM_FLOW_CFG_FLOW_MIN : Fld := ⟨0x38, 16, 8⟩
abbrev THM_FLOW_CFG_FLOW_WARN : Fld := ⟨0x38, 24, 8⟩
abbrev THM_SHUTDOWN_CAUSE : Fld := ⟨0x40, 0, 4⟩
abbrev THM_SHUTDOWN_ACTIVE : Fld := ⟨0x40, 4, 1⟩
abbrev THM_SHUTDOWN_LEFT : Fld := ⟨0x40, 5, 1⟩
abbrev THM_SHUTDOWN_SEQ : Fld := ⟨0x40, 16, 8⟩
abbrev THM_SHUTDOWN_CLEAR : Fld := ⟨0x40, 31, 1⟩
abbrev THM_SHUT_TAPE_LO_TAPE : Fld := ⟨0x44, 0, 32⟩
abbrev THM_SHUT_TAPE_HI_TAPE : Fld := ⟨0x48, 0, 32⟩
abbrev THM_EASE_COUNT_COUNT : Fld := ⟨0x50, 0, 32⟩
abbrev THM_PACE_COUNT_COUNT : Fld := ⟨0x54, 0, 32⟩
abbrev THM_DERATE_COUNT_COUNT : Fld := ⟨0x58, 0, 32⟩
abbrev THM_STK_ARRAY (i : Nat) : Fld := ⟨0x100 + 8 * i, 0, 16⟩
abbrev THM_STK_DRAM (i : Nat) : Fld := ⟨0x100 + 8 * i, 16, 16⟩
abbrev THM_STK_LEVEL_LEVEL (i : Nat) : Fld := ⟨0x104 + 8 * i, 0, 2⟩
abbrev THM_STK_LEVEL_HOT_TILE (i : Nat) : Fld := ⟨0x104 + 8 * i, 8, 8⟩
abbrev THM_STK_LEVEL_BAND_EDGE (i : Nat) : Fld := ⟨0x104 + 8 * i, 16, 8⟩
abbrev THM_EDGE_MAX (i : Nat) : Fld := ⟨0x200 + 4 * i, 0, 16⟩
abbrev THM_EDGE_THROTTLE (i : Nat) : Fld := ⟨0x200 + 4 * i, 16, 1⟩
abbrev THM_CYC_0_COUNT (i : Nat) : Fld := ⟨0x400 + 16 * i, 0, 32⟩
abbrev THM_CYC_1_COUNT (i : Nat) : Fld := ⟨0x404 + 16 * i, 0, 32⟩
abbrev THM_CYC_2_COUNT (i : Nat) : Fld := ⟨0x408 + 16 * i, 0, 32⟩
abbrev THM_CYC_HOT_MINUTES (i : Nat) : Fld := ⟨0x40c + 16 * i, 0, 32⟩
abbrev PWR_LIMIT_SET_LIMIT : Fld := ⟨0x8000, 0, 16⟩
abbrev PWR_STATUS_IN_FORCE : Fld := ⟨0x8004, 0, 16⟩
abbrev PWR_STATUS_CAPPING : Fld := ⟨0x8004, 16, 1⟩
abbrev PWR_STATUS_DERATE : Fld := ⟨0x8004, 17, 1⟩
abbrev PWR_STATUS_CURRENT_CAP : Fld := ⟨0x8004, 18, 1⟩
abbrev PWR_STATUS_KEEPWARM : Fld := ⟨0x8004, 19, 1⟩
abbrev PWR_INPUT_POWER : Fld := ⟨0x8008, 0, 16⟩
abbrev PWR_V48_VOLT : Fld := ⟨0x800c, 0, 16⟩
abbrev PWR_V48_CURR : Fld := ⟨0x800c, 16, 16⟩
abbrev PWR_ENERGY_LO_MJ : Fld := ⟨0x8010, 0, 32⟩
abbrev PWR_ENERGY_HI_MJ : Fld := ⟨0x8014, 0, 32⟩
abbrev PWR_CAP_COUNT_COUNT : Fld := ⟨0x8018, 0, 32⟩
abbrev PWR_STK_POWER (i : Nat) : Fld := ⟨0x8020 + 4 * i, 0, 16⟩
abbrev PWR_EDGE_POWER (i : Nat) : Fld := ⟨0x8060 + 4 * i, 0, 16⟩
/-! Table 15.2 (15_vertical_and_seams.md) -/
abbrev VC_STATUS_SIDEBAND_SINGLE : Fld := ⟨0x7000, 0, 1⟩
abbrev VC_STATUS_TEST_PENDING : Fld := ⟨0x7000, 1, 1⟩
abbrev VC_MIG_STATUS_STATE : Fld := ⟨0x7004, 0, 3⟩
abbrev VC_MIG_STATUS_SRC_SITE : Fld := ⟨0x7004, 8, 8⟩
abbrev VC_MIG_STATUS_DST_SITE : Fld := ⟨0x7004, 16, 8⟩
abbrev VC_MIG_DONE_LINES : Fld := ⟨0x7008, 0, 29⟩
abbrev VC_MIG_LOST_LINES : Fld := ⟨0x700c, 0, 32⟩
/-! Table 15.3 (15_vertical_and_seams.md) -/
abbrev RST_BD_CTRL_RESET (i : Nat) : Fld := ⟨0x100 + 16 * i, 0, 1⟩
abbrev RST_BD_CTRL_FORCE (i : Nat) : Fld := ⟨0x100 + 16 * i, 1, 1⟩
abbrev RST_BD_STAT_BUSY (i : Nat) : Fld := ⟨0x104 + 16 * i, 0, 1⟩
abbrev RST_BD_STAT_DONE (i : Nat) : Fld := ⟨0x104 + 16 * i, 1, 1⟩
abbrev RST_BD_STAT_REFUSED (i : Nat) : Fld := ⟨0x104 + 16 * i, 2, 1⟩
abbrev RST_BD_STAT_REASON (i : Nat) : Fld := ⟨0x104 + 16 * i, 3, 2⟩
abbrev RST_BD_STAT_ABORTS (i : Nat) : Fld := ⟨0x104 + 16 * i, 16, 16⟩
abbrev SEAM_CTRL_RETRAIN (i : Nat) : Fld := ⟨0x200 + 16 * i, 0, 1⟩
abbrev SEAM_CTRL_REFUSED (i : Nat) : Fld := ⟨0x200 + 16 * i, 1, 1⟩
abbrev SEAM_STATUS_WIDTH (i : Nat) : Fld := ⟨0x204 + 16 * i, 0, 2⟩
abbrev SEAM_STATUS_HALF_A (i : Nat) : Fld := ⟨0x204 + 16 * i, 2, 1⟩
abbrev SEAM_STATUS_HALF_B (i : Nat) : Fld := ⟨0x204 + 16 * i, 3, 1⟩
abbrev SEAM_STATUS_SPARES (i : Nat) : Fld := ⟨0x204 + 16 * i, 16, 8⟩
abbrev SEAM_CRC_COUNT_COUNT (i : Nat) : Fld := ⟨0x208 + 16 * i, 0, 32⟩
abbrev SEAM_LATE_COUNT_COUNT (i : Nat) : Fld := ⟨0x20c + 16 * i, 0, 32⟩
/-! Table 16.6 (16_errors_and_check.md) -/
abbrev ERR_STATUS_FATAL : Fld := ⟨0x0, 0, 1⟩
abbrev ERR_STATUS_UE : Fld := ⟨0x0, 1, 1⟩
abbrev ERR_STATUS_LINK : Fld := ⟨0x0, 2, 1⟩
abbrev ERR_STATUS_PROTOCOL : Fld := ⟨0x0, 3, 1⟩
abbrev ERR_STATUS_THERMAL : Fld := ⟨0x0, 4, 1⟩
abbrev ERR_STATUS_CORRECTED : Fld := ⟨0x0, 5, 1⟩
abbrev ERR_LOG_SEQ_SEQ : Fld := ⟨0x4, 0, 32⟩
abbrev ERR_LOG_SEL_SLOT : Fld := ⟨0x8, 0, 12⟩
abbrev ERR_LOG_SEL_STORE : Fld := ⟨0x8, 12, 1⟩
abbrev ERR_FSEQ_FSEQ : Fld := ⟨0xc, 0, 32⟩
abbrev ERR_IRQ_MASK_MASK : Fld := ⟨0x10, 0, 5⟩
abbrev ERR_LOG_DATA_DATA (i : Nat) : Fld := ⟨0x20 + 4 * i, 0, 32⟩
abbrev ERR_CLASS_COUNT_COUNT (i : Nat) : Fld := ⟨0x80 + 4 * i, 0, 32⟩
/-! Table 16.7 (16_errors_and_check.md) -/
abbrev CHK_STATUS_BUSY : Fld := ⟨0x0, 0, 1⟩
abbrev CHK_STATUS_AVAILABLE : Fld := ⟨0x0, 1, 1⟩
abbrev CHK_STATUS_QUEUED : Fld := ⟨0x0, 2, 5⟩
abbrev CHK_BODY_FAULT_DETAIL : Fld := ⟨0x4, 0, 8⟩
abbrev CHK_BODY_FAULT_SITE : Fld := ⟨0x4, 8, 8⟩
abbrev CHK_BODY_FAULT_STACK : Fld := ⟨0x4, 16, 4⟩
abbrev CHK_SUB_ADDR_LO_DPA : Fld := ⟨0x10, 0, 32⟩
abbrev CHK_SUB_ADDR_HI_DPA : Fld := ⟨0x14, 0, 16⟩
abbrev CHK_SUB_LEN_LO_LEN : Fld := ⟨0x18, 0, 32⟩
abbrev CHK_SUB_LEN_HI_LEN : Fld := ⟨0x1c, 0, 8⟩
abbrev CHK_SUB_CTRL_ALG : Fld := ⟨0x20, 0, 2⟩
abbrev CHK_SUB_CTRL_CTX : Fld := ⟨0x20, 4, 4⟩
abbrev CHK_SUB_CTRL_ALIVE : Fld := ⟨0x20, 8, 8⟩
abbrev CHK_SUB_CTRL_GO : Fld := ⟨0x20, 31, 1⟩
abbrev CHK_SUB_STAT_FULL : Fld := ⟨0x24, 0, 1⟩
abbrev CHK_SUB_STAT_REFUSED : Fld := ⟨0x24, 1, 1⟩
abbrev CHK_CTX_VAL_LO_VALUE (i : Nat) : Fld := ⟨0x100 + 32 * i, 0, 32⟩
abbrev CHK_CTX_VAL_HI_VALUE (i : Nat) : Fld := ⟨0x104 + 32 * i, 0, 32⟩
abbrev CHK_CTX_BYTES_LO_BYTES (i : Nat) : Fld := ⟨0x108 + 32 * i, 0, 32⟩
abbrev CHK_CTX_BYTES_HI_BYTES (i : Nat) : Fld := ⟨0x10c + 32 * i, 0, 8⟩
abbrev CHK_CTX_STAT_ALG (i : Nat) : Fld := ⟨0x110 + 32 * i, 0, 2⟩
abbrev CHK_CTX_STAT_BUSY (i : Nat) : Fld := ⟨0x110 + 32 * i, 2, 1⟩
abbrev CHK_CTX_STAT_DONE (i : Nat) : Fld := ⟨0x110 + 32 * i, 3, 1⟩
abbrev CHK_CTX_STAT_REPEAT (i : Nat) : Fld := ⟨0x110 + 32 * i, 4, 1⟩
abbrev CHK_CTX_STAT_SKIP (i : Nat) : Fld := ⟨0x110 + 32 * i, 5, 1⟩
abbrev CHK_CTX_STAT_UE (i : Nat) : Fld := ⟨0x110 + 32 * i, 6, 1⟩
abbrev CHK_CTX_STAT_FAULT (i : Nat) : Fld := ⟨0x110 + 32 * i, 7, 1⟩
abbrev CHK_CTX_STAT_CTX_BUSY (i : Nat) : Fld := ⟨0x110 + 32 * i, 8, 1⟩
abbrev CHK_CTX_STAT_LAST_ALIVE (i : Nat) : Fld := ⟨0x110 + 32 * i, 16, 8⟩
/-! Table 17.7 (17_debug_and_trace.md) -/
abbrev TRC_HEM_CFG_EN : Fld := ⟨0x400, 0, 1⟩
abbrev TRC_HEM_CFG_MODE : Fld := ⟨0x400, 1, 2⟩
abbrev TRC_HEM_CFG_PRE : Fld := ⟨0x400, 3, 7⟩
abbrev TRC_HEM_CFG_SPILL_WRAP : Fld := ⟨0x400, 10, 1⟩
abbrev TRC_HEM_CFG_SRC : Fld := ⟨0x400, 11, 5⟩
abbrev TRC_HEM_STAT_STATE : Fld := ⟨0x404, 0, 2⟩
abbrev TRC_HEM_STAT_OVERFLOW : Fld := ⟨0x404, 2, 1⟩
abbrev TRC_HEM_STAT_SPILL_REFUSED : Fld := ⟨0x404, 3, 1⟩
abbrev TRC_HEM_STAT_XLATE : Fld := ⟨0x404, 4, 1⟩
abbrev TRC_HEM_WPTR_NEXT : Fld := ⟨0x408, 0, 10⟩
abbrev TRC_HEM_WPTR_WRAPPED : Fld := ⟨0x408, 10, 1⟩
abbrev TRC_HEM_LOST_COUNT : Fld := ⟨0x40c, 0, 32⟩
abbrev TRC_SPILL_BASE_BASE : Fld := ⟨0x410, 0, 13⟩
abbrev TRC_SPILL_LEN_LEN : Fld := ⟨0x414, 0, 13⟩
abbrev TRC_SPILL_PTR_NEXT : Fld := ⟨0x418, 0, 25⟩
abbrev TRC_SPILL_PTR_WRAPPED : Fld := ⟨0x418, 31, 1⟩
abbrev TRC_LATE_WAIT_COUNT : Fld := ⟨0x41c, 0, 32⟩
abbrev TRC_HEM_SEL_SLOT : Fld := ⟨0x420, 0, 10⟩
abbrev TRC_HEM_DATA_DATA (i : Nat) : Fld := ⟨0x424 + 4 * i, 0, 32⟩
abbrev TRC_IDS_LAYER : Fld := ⟨0x434, 0, 16⟩
abbrev TRC_IDS_OPERATOR : Fld := ⟨0x434, 16, 16⟩
abbrev TRC_TRIG_CFG_KIND (i : Nat) : Fld := ⟨0x440 + 8 * i, 0, 4⟩
abbrev TRC_TRIG_CFG_FREEZE (i : Nat) : Fld := ⟨0x440 + 8 * i, 4, 1⟩
abbrev TRC_TRIG_CFG_XMOD (i : Nat) : Fld := ⟨0x440 + 8 * i, 5, 1⟩
abbrev TRC_TRIG_CFG_XFAB (i : Nat) : Fld := ⟨0x440 + 8 * i, 6, 1⟩
abbrev TRC_TRIG_CFG_STOP (i : Nat) : Fld := ⟨0x440 + 8 * i, 7, 1⟩
abbrev TRC_TRIG_CFG_CNT (i : Nat) : Fld := ⟨0x440 + 8 * i, 8, 4⟩
abbrev TRC_TRIG_CFG_FIRED (i : Nat) : Fld := ⟨0x440 + 8 * i, 12, 1⟩
abbrev TRC_TRIG_VAL_VALUE (i : Nat) : Fld := ⟨0x444 + 8 * i, 0, 32⟩
abbrev TRC_GATE_LAYER : Fld := ⟨0x460, 0, 16⟩
abbrev TRC_GATE_OPERATOR : Fld := ⟨0x460, 16, 16⟩
abbrev TRC_GATE_MASK_LAYER_MASK : Fld := ⟨0x464, 0, 16⟩
abbrev TRC_GATE_MASK_OP_MASK : Fld := ⟨0x464, 16, 16⟩
abbrev TRC_CNT_SEL_EVENT (i : Nat) : Fld := ⟨0x480 + 4 * i, 0, 8⟩
abbrev TRC_CNT_SEL_GATE (i : Nat) : Fld := ⟨0x480 + 4 * i, 8, 1⟩
abbrev TRC_CNT_LO_COUNT (i : Nat) : Fld := ⟨0x500 + 8 * i, 0, 32⟩
abbrev TRC_CNT_HI_COUNT (i : Nat) : Fld := ⟨0x504 + 8 * i, 0, 32⟩
/-! Table 17.8 (17_debug_and_trace.md) -/
abbrev TRC_XTRIG_CFG_ID : Fld := ⟨0x0, 0, 8⟩
abbrev TRC_XTRIG_CFG_XSTOP_EN : Fld := ⟨0x0, 8, 1⟩
abbrev TRC_XTRIG_POST_CYCLES : Fld := ⟨0x4, 0, 20⟩
abbrev TRC_XTRIG_STAT_LAST_ID : Fld := ⟨0x8, 0, 8⟩
abbrev TRC_XTRIG_STAT_RCVD : Fld := ⟨0x8, 8, 1⟩
abbrev TRC_XTRIG_STAT_STOP : Fld := ⟨0x8, 9, 1⟩
abbrev TRC_XTRIG_TAPE_LO_TAPE : Fld := ⟨0xc, 0, 32⟩
abbrev TRC_XTRIG_TAPE_HI_TAPE : Fld := ⟨0x10, 0, 32⟩
abbrev TRC_STOP_CTRL_ARM : Fld := ⟨0x20, 0, 1⟩
abbrev TRC_STOP_CTRL_DUMP : Fld := ⟨0x20, 1, 1⟩
abbrev TRC_STOP_TAPE_LO_TAPE : Fld := ⟨0x24, 0, 32⟩
abbrev TRC_STOP_TAPE_HI_TAPE : Fld := ⟨0x28, 0, 32⟩
abbrev TRC_STOP_STATUS_STATE : Fld := ⟨0x2c, 0, 3⟩
abbrev TRC_STOP_STATUS_LATE : Fld := ⟨0x2c, 3, 1⟩
abbrev TRC_STOP_STATUS_TRIGGERED : Fld := ⟨0x2c, 4, 1⟩
abbrev TRC_STOP_SMEAR_P0 : Fld := ⟨0x30, 0, 10⟩
abbrev TRC_STOP_SMEAR_P1 : Fld := ⟨0x30, 10, 10⟩
abbrev TRC_STOP_SMEAR_HKC : Fld := ⟨0x30, 20, 10⟩
abbrev TRC_STOP_AT_LO_TAPE : Fld := ⟨0x34, 0, 32⟩
abbrev TRC_STOP_AT_HI_TAPE : Fld := ⟨0x38, 0, 32⟩
abbrev TRC_DUMP_BASE_LO_ADDR : Fld := ⟨0x3c, 16, 16⟩
abbrev TRC_DUMP_BASE_HI_ADDR : Fld := ⟨0x40, 0, 16⟩
abbrev TRC_DBG_CFG_JTAG_EN : Fld := ⟨0x50, 0, 1⟩
abbrev TRC_DBG_STAT_JTAG_REFUSED : Fld := ⟨0x54, 0, 1⟩
abbrev TRC_DBG_STAT_JTAG_WRITE : Fld := ⟨0x54, 1, 1⟩
abbrev TRC_ATTR_CTRL_EN : Fld := ⟨0x100, 0, 1⟩
abbrev TRC_ATTR_CTRL_CLEAR : Fld := ⟨0x100, 1, 1⟩
abbrev TRC_ATTR_CTRL_BOLTS : Fld := ⟨0x100, 4, 12⟩
abbrev TRC_ATTR_SEL_ENTRY : Fld := ⟨0x104, 0, 12⟩
abbrev TRC_ATTR_USED_COUNT : Fld := ⟨0x108, 0, 13⟩
abbrev TRC_ATTR_DATA_DATA (i : Nat) : Fld := ⟨0x120 + 4 * i, 0, 32⟩
/-! Table 18.3 (18_pins_and_module.md) -/
abbrev RST_GPIO_DIR_DIR : Fld := ⟨0x300, 0, 8⟩
abbrev RST_GPIO_OUT_LEVEL : Fld := ⟨0x304, 0, 8⟩
abbrev RST_GPIO_IN_LEVEL : Fld := ⟨0x308, 0, 8⟩
abbrev RST_GPIO_EDGE_RISE : Fld := ⟨0x30c, 0, 8⟩
abbrev RST_GPIO_EDGE_FALL : Fld := ⟨0x30c, 8, 8⟩

end F

end Sys2Proof
end

