-- ==== Sys2Proof/Machine/RegTable.lean ====
section
/-! DEFINITION. The register tables of the spec as data: every register of BAR0 (Table 1.9) and BAR4 (Table 11.6) with its fields, access
codes, reset values (R9, R10) and the reserved encodings of its fields (R12), and the address map between BAR0 offsets and registers (R23). -/
namespace Sys2Proof.Machine

/-- Access codes (Table 0.3, R10). -/
inductive Acc where | ro | rw | rw1c | rwt | wo
  deriving DecidableEq, Repr

/-- Which values of a field are not reserved encodings (R12); flipPos is the rule of R178. -/
inductive Valid where
  | any
  | range (lo hi : Nat)
  | flipPos
  deriving DecidableEq, Repr

/-- One field of a register table. -/
structure FieldSpec where
  name  : String
  lo    : Nat
  w     : Nat
  acc   : Acc
  reset : Nat
  valid : Valid
  deriving DecidableEq, Repr

/-- One row of a register table; a numbered register has `cnt` instances from number `first`, `stride` bytes apart. -/
structure RegSpec where
  name   : String
  off    : Nat
  stride : Nat
  first  : Nat
  cnt    : Nat
  only0  : Bool
  paired : Bool
  fields : List FieldSpec
  deriving DecidableEq, Repr

/-- Registers of the id block. -/
def idRegs : List RegSpec := [
  ⟨"ID_DEVICE", 0x0, 4, 0, 1, false, false, [⟨"VENDOR", 0, 16, .ro, 0x0, .any⟩, ⟨"DEVICE", 16, 16, .ro, 0xc12, .any⟩]⟩,
  ⟨"ID_PART", 0x4, 4, 0, 1, false, false, [⟨"VARIANT", 0, 4, .ro, 0x0, .any⟩, ⟨"STEP", 4, 8, .ro, 0x0, .any⟩]⟩,
  ⟨"ID_SERIAL_LO", 0x8, 4, 0, 1, false, false, [⟨"SERIAL", 0, 32, .ro, 0x0, .any⟩]⟩,
  ⟨"ID_SERIAL_HI", 0xc, 4, 0, 1, false, false, [⟨"SERIAL", 0, 32, .ro, 0x0, .any⟩]⟩,
  ⟨"ID_STATUS", 0x10, 4, 0, 1, false, false, [⟨"READY", 0, 1, .ro, 0x0, .any⟩, ⟨"FUSES", 1, 1, .ro, 0x0, .any⟩, ⟨"GEN", 8, 8, .ro, 0x0, .any⟩]⟩,
  ⟨"ID_CAP_HEAD", 0x14, 4, 0, 1, false, false, [⟨"OFFSET", 0, 16, .ro, 0x100, .any⟩]⟩,
  ⟨"ID_PORT", 0x18, 4, 0, 1, false, false, [⟨"PORT", 0, 1, .ro, 0x0, .any⟩]⟩,
  ⟨"ID_W0", 0x100, 4, 0, 1, false, false, [⟨"HEADER", 0, 32, .ro, 0xc010001, .any⟩]⟩,
  ⟨"ID_W1", 0x104, 4, 0, 1, false, false, [⟨"NEXT", 0, 16, .ro, 0x0, .any⟩]⟩,
  ⟨"ID_W2", 0x108, 4, 0, 1, false, false, [⟨"ACLK_MAX", 0, 16, .ro, 0x0, .any⟩, ⟨"ACLK_SET", 16, 16, .ro, 0x0, .any⟩]⟩,
  ⟨"ID_W3", 0x10c, 4, 0, 1, false, false, [⟨"PWR_FUSED", 0, 16, .ro, 0x0, .any⟩, ⟨"PWR_LIMIT", 16, 16, .ro, 0x0, .any⟩]⟩,
  ⟨"ID_W4_6", 0x110, 4, 0, 3, false, false, [⟨"TILES_s", 0, 32, .ro, 0x0, .any⟩]⟩,
  ⟨"ID_W7", 0x11c, 4, 0, 1, false, false, [⟨"STACKS", 0, 12, .ro, 0x0, .any⟩, ⟨"EDGES", 12, 12, .ro, 0x0, .any⟩, ⟨"PORTS", 24, 2, .ro, 0x0, .any⟩]⟩,
  ⟨"ID_W8", 0x120, 4, 0, 1, false, false, [⟨"SITES", 0, 8, .ro, 0xa0, .any⟩, ⟨"NOMINAL", 8, 8, .ro, 0x90, .any⟩]⟩,
  ⟨"ID_W9_11", 0x124, 4, 0, 3, false, false, []⟩,
  ⟨"ID_CAP", 0x130, 4, 0, 948, false, false, [⟨"DATA", 0, 32, .ro, 0x0, .any⟩]⟩]

/-- Registers of the mbx block. -/
def mbxRegs : List RegSpec := [
  ⟨"MBX_STATUS", 0x0, 4, 0, 1, false, false, [⟨"STEP", 0, 4, .ro, 0x0, .any⟩, ⟨"STATE", 4, 3, .ro, 0x0, .any⟩, ⟨"ROM", 7, 1, .ro, 0x1, .any⟩, ⟨"CODE", 8, 8, .ro, 0x0, .any⟩, ⟨"SEG_BUSY", 16, 1, .ro, 0x0, .any⟩, ⟨"CMD_BUSY", 17, 1, .ro, 0x0, .any⟩, ⟨"ALT_FULL", 18, 1, .rw1c, 0x0, .any⟩]⟩,
  ⟨"MBX_BOOT_CFG", 0x4, 4, 0, 1, false, false, [⟨"ACLK_REQ", 0, 16, .rw, 0x0, .any⟩, ⟨"STOP_BEFORE", 16, 4, .rw, 0x0, .any⟩, ⟨"ALT_IGNORE", 20, 1, .rw, 0x0, .any⟩]⟩,
  ⟨"MBX_SEG_CTRL", 0x8, 4, 0, 1, false, false, [⟨"SEQ", 0, 9, .rw, 0x0, .any⟩, ⟨"TYPE", 9, 2, .rw, 0x0, .range 1 2⟩, ⟨"POST", 31, 1, .wo, 0x0, .any⟩]⟩,
  ⟨"MBX_SEG_CRC", 0xc, 4, 0, 1, false, false, [⟨"CRC", 0, 32, .rw, 0x0, .any⟩]⟩,
  ⟨"MBX_SEG_STAT", 0x10, 4, 0, 1, false, false, [⟨"COUNT", 0, 9, .ro, 0x0, .any⟩, ⟨"MISSING", 9, 9, .ro, 0x0, .any⟩, ⟨"BAD_CRC", 18, 1, .rw1c, 0x0, .any⟩, ⟨"REFUSED", 19, 1, .rw1c, 0x0, .any⟩, ⟨"RANGE", 20, 1, .rw1c, 0x0, .any⟩, ⟨"OVERRUN", 21, 1, .rw1c, 0x0, .any⟩]⟩,
  ⟨"MBX_VERIFY", 0x14, 4, 0, 1, false, false, [⟨"HKC_RESULT", 0, 4, .ro, 0x0, .any⟩, ⟨"TILE_RESULT", 4, 4, .ro, 0x0, .any⟩, ⟨"FAILS", 8, 8, .ro, 0x0, .any⟩]⟩,
  ⟨"MBX_CMD", 0x1c, 4, 0, 1, false, false, [⟨"CMD", 0, 8, .wo, 0x0, .any⟩]⟩,
  ⟨"MBX_CMD_STAT", 0x20, 4, 0, 1, false, false, [⟨"STATUS", 0, 8, .ro, 0x0, .any⟩, ⟨"DONE", 8, 1, .rw1c, 0x0, .any⟩, ⟨"OVERRUN", 9, 1, .rw1c, 0x0, .any⟩]⟩,
  ⟨"MBX_ARG", 0x40, 4, 0, 16, false, false, [⟨"ARG", 0, 32, .rw, 0x0, .any⟩]⟩,
  ⟨"MBX_STEP", 0x80, 4, 1, 12, false, false, [⟨"RESULT", 0, 2, .ro, 0x0, .any⟩, ⟨"CODE", 8, 8, .ro, 0x0, .any⟩, ⟨"TIME_MS", 16, 16, .ro, 0x0, .any⟩]⟩,
  ⟨"MBX_RESP", 0x1000, 4, 0, 2048, false, false, [⟨"DATA", 0, 32, .ro, 0x0, .any⟩]⟩,
  ⟨"MBX_ALT", 0x3000, 4, 0, 4096, false, false, [⟨"DATA", 0, 32, .ro, 0x0, .any⟩]⟩,
  ⟨"MBX_SEG_DATA", 0x7000, 4, 0, 1024, false, false, [⟨"DATA", 0, 32, .wo, 0x0, .any⟩]⟩]

/-- Registers of the rst block. -/
def rstRegs : List RegSpec := [
  ⟨"RST_CMD", 0x0, 4, 0, 1, false, false, [⟨"KEY", 0, 32, .wo, 0x0, .any⟩]⟩,
  ⟨"RST_CAUSE", 0x4, 4, 0, 1, false, false, [⟨"POWER", 0, 1, .rw1c, 0x1, .any⟩, ⟨"SYSRST", 1, 1, .rw1c, 0x0, .any⟩, ⟨"PERST0", 2, 1, .rw1c, 0x0, .any⟩, ⟨"PERST1", 3, 1, .rw1c, 0x0, .any⟩, ⟨"CMD", 4, 1, .rw1c, 0x0, .any⟩, ⟨"WATCHDOG", 5, 1, .rw1c, 0x0, .any⟩, ⟨"THERMAL", 6, 1, .rw1c, 0x0, .any⟩, ⟨"FABRIC", 7, 1, .rw1c, 0x0, .any⟩, ⟨"DEBUG", 8, 1, .rw1c, 0x0, .any⟩, ⟨"ESCALATED", 9, 1, .rw1c, 0x0, .any⟩, ⟨"DEFERRED", 10, 1, .rw1c, 0x0, .any⟩, ⟨"LEVEL", 11, 2, .ro, 0x1, .any⟩]⟩,
  ⟨"RST_LAST_TAPE_LO", 0x8, 4, 0, 1, false, false, [⟨"TAPE", 0, 32, .ro, 0x0, .any⟩]⟩,
  ⟨"RST_LAST_TAPE_HI", 0xc, 4, 0, 1, false, false, [⟨"TAPE", 0, 32, .ro, 0x0, .any⟩]⟩,
  ⟨"RST_GLITCH", 0x10, 4, 0, 1, false, false, [⟨"POR", 0, 8, .ro, 0x0, .any⟩, ⟨"SYS", 8, 8, .ro, 0x0, .any⟩, ⟨"PERST0", 16, 8, .ro, 0x0, .any⟩, ⟨"PERST1", 24, 8, .ro, 0x0, .any⟩]⟩,
  ⟨"RST_BLK_SEL", 0x20, 4, 0, 1, false, false, [⟨"TYPE", 0, 4, .rw, 0x0, .range 1 4⟩, ⟨"INDEX", 4, 4, .rw, 0x0, .any⟩, ⟨"UNIT", 8, 8, .rw, 0x0, .any⟩]⟩,
  ⟨"RST_BLK_CTRL", 0x24, 4, 0, 1, false, false, [⟨"RESET", 0, 1, .wo, 0x0, .any⟩, ⟨"FORCE", 1, 1, .wo, 0x0, .any⟩]⟩,
  ⟨"RST_BLK_STAT", 0x28, 4, 0, 1, false, false, [⟨"BUSY", 0, 1, .ro, 0x0, .any⟩, ⟨"DONE", 1, 1, .rw1c, 0x0, .any⟩, ⟨"REFUSED", 2, 1, .rw1c, 0x0, .any⟩, ⟨"REASON", 3, 3, .ro, 0x0, .any⟩, ⟨"FORCED", 6, 1, .ro, 0x0, .any⟩, ⟨"EPOCH", 8, 8, .ro, 0x0, .any⟩, ⟨"ABORTS", 16, 16, .ro, 0x0, .any⟩]⟩,
  ⟨"RST_STALE_COUNT", 0x30, 4, 0, 1, false, false, [⟨"COUNT", 0, 32, .ro, 0x0, .any⟩]⟩,
  ⟨"RST_CLK_STATUS", 0x34, 4, 0, 1, false, false, [⟨"STACK_LOCK", 0, 12, .ro, 0x0, .any⟩, ⟨"DIE_LOCK", 12, 4, .ro, 0x0, .any⟩, ⟨"FABREF", 16, 1, .ro, 0x0, .any⟩, ⟨"HOLDOVER", 17, 1, .ro, 0x0, .any⟩, ⟨"LOCK_LOST", 18, 1, .rw1c, 0x0, .any⟩]⟩,
  ⟨"RST_BD_CTRL", 0x100, 16, 0, 4, false, false, [⟨"RESET", 0, 1, .wo, 0x0, .any⟩, ⟨"FORCE", 1, 1, .wo, 0x0, .any⟩]⟩,
  ⟨"RST_BD_STAT", 0x104, 16, 0, 4, false, false, [⟨"BUSY", 0, 1, .ro, 0x0, .any⟩, ⟨"DONE", 1, 1, .rw1c, 0x0, .any⟩, ⟨"REFUSED", 2, 1, .rw1c, 0x0, .any⟩, ⟨"REASON", 3, 2, .ro, 0x0, .any⟩, ⟨"ABORTS", 16, 16, .ro, 0x0, .any⟩]⟩,
  ⟨"SEAM_CTRL", 0x200, 16, 0, 4, false, false, [⟨"RETRAIN", 0, 1, .wo, 0x0, .any⟩, ⟨"REFUSED", 1, 1, .rw1c, 0x0, .any⟩]⟩,
  ⟨"SEAM_STATUS", 0x204, 16, 0, 4, false, false, [⟨"WIDTH", 0, 2, .ro, 0x0, .any⟩, ⟨"HALF_A", 2, 1, .ro, 0x0, .any⟩, ⟨"HALF_B", 3, 1, .ro, 0x0, .any⟩, ⟨"SPARES", 16, 8, .ro, 0x0, .any⟩]⟩,
  ⟨"SEAM_CRC_COUNT", 0x208, 16, 0, 4, false, false, [⟨"COUNT", 0, 32, .ro, 0x0, .any⟩]⟩,
  ⟨"SEAM_LATE_COUNT", 0x20c, 16, 0, 4, false, false, [⟨"COUNT", 0, 32, .ro, 0x0, .any⟩]⟩,
  ⟨"RST_GPIO_DIR", 0x300, 4, 0, 1, false, false, [⟨"DIR", 0, 8, .rw, 0x0, .any⟩]⟩,
  ⟨"RST_GPIO_OUT", 0x304, 4, 0, 1, false, false, [⟨"LEVEL", 0, 8, .rw, 0x0, .any⟩]⟩,
  ⟨"RST_GPIO_IN", 0x308, 4, 0, 1, false, false, [⟨"LEVEL", 0, 8, .ro, 0x0, .any⟩]⟩,
  ⟨"RST_GPIO_EDGE", 0x30c, 4, 0, 1, false, false, [⟨"RISE", 0, 8, .rw1c, 0x0, .any⟩, ⟨"FALL", 8, 8, .rw1c, 0x0, .any⟩]⟩]

/-- Registers of the cfg block. -/
def cfgRegs : List RegSpec := [
  ⟨"CFG_TXN_BEGIN", 0x0, 4, 0, 1, false, false, [⟨"BASTE", 0, 1, .wo, 0x0, .any⟩]⟩,
  ⟨"CFG_TXN_COMMIT", 0x4, 4, 0, 1, false, false, [⟨"STITCH", 0, 1, .wo, 0x0, .any⟩]⟩,
  ⟨"CFG_TXN_ROLLBACK", 0x8, 4, 0, 1, false, false, [⟨"UNPICK", 0, 1, .wo, 0x0, .any⟩]⟩,
  ⟨"CFG_TXN_STATUS", 0xc, 4, 0, 1, false, false, [⟨"STATE", 0, 2, .ro, 0x0, .any⟩, ⟨"STAGED", 2, 9, .ro, 0x0, .any⟩, ⟨"FULL", 11, 1, .ro, 0x0, .any⟩, ⟨"RESULT", 12, 4, .ro, 0x0, .any⟩, ⟨"CODE", 16, 8, .ro, 0x0, .any⟩]⟩,
  ⟨"CFG_TXN_REFUSE_ADDR", 0x10, 4, 0, 1, false, false, [⟨"OFFSET", 0, 26, .ro, 0x0, .any⟩]⟩,
  ⟨"CFG_TXN_APPLY_LO", 0x14, 4, 0, 1, false, false, [⟨"TAPE", 0, 32, .ro, 0x0, .any⟩]⟩,
  ⟨"CFG_TXN_APPLY_HI", 0x18, 4, 0, 1, false, false, [⟨"TAPE", 0, 32, .ro, 0x0, .any⟩]⟩,
  ⟨"CFG_ERR", 0x1c, 4, 0, 1, false, false, [⟨"NESTED", 0, 1, .rw1c, 0x0, .any⟩, ⟨"NO_TXN", 1, 1, .rw1c, 0x0, .any⟩, ⟨"LONE_PAIRED", 2, 1, .rw1c, 0x0, .any⟩]⟩,
  ⟨"CFG_TXN_VIEW", 0x20, 4, 0, 3, false, false, [⟨"STATE", 0, 2, .ro, 0x0, .any⟩, ⟨"STAGED", 2, 9, .ro, 0x0, .any⟩, ⟨"AGE", 16, 16, .ro, 0x0, .any⟩]⟩]

/-- Registers of the thm block, part 0. -/
def thmRegs0 : List RegSpec := [
  ⟨"THM_STATUS", 0x0, 4, 0, 1, false, false, [⟨"STATE", 0, 2, .ro, 0x0, .any⟩, ⟨"COOL_WARN", 2, 1, .ro, 0x0, .any⟩, ⟨"DERATE", 3, 1, .ro, 0x0, .any⟩, ⟨"PAIR_WARN", 4, 1, .rw1c, 0x0, .any⟩, ⟨"DOMAIN_LOST", 5, 1, .rw1c, 0x0, .any⟩]⟩,
  ⟨"THM_MAX", 0x4, 4, 0, 1, false, false, [⟨"ARRAY", 0, 16, .ro, 0x0, .any⟩, ⟨"DRAM", 16, 16, .ro, 0x0, .any⟩]⟩,
  ⟨"THM_MAX_EDGE", 0x8, 4, 0, 1, false, false, [⟨"EDGE", 0, 16, .ro, 0x0, .any⟩]⟩,
  ⟨"THM_COOLANT", 0xc, 4, 0, 1, false, false, [⟨"INLET", 0, 16, .ro, 0x0, .any⟩, ⟨"OUTLET", 16, 16, .ro, 0x0, .any⟩]⟩,
  ⟨"THM_FLOW", 0x10, 4, 0, 1, false, false, [⟨"FLOW", 0, 16, .ro, 0x0, .any⟩, ⟨"VALID", 16, 1, .ro, 0x0, .any⟩]⟩,
  ⟨"THM_SENSOR_BAD", 0x14, 4, 0, 1, false, false, [⟨"COUNT", 0, 13, .ro, 0x0, .any⟩, ⟨"NEW", 13, 1, .rw1c, 0x0, .any⟩]⟩,
  ⟨"THM_PAIR_DIS", 0x18, 4, 0, 1, false, false, [⟨"COUNT", 0, 13, .ro, 0x0, .any⟩]⟩,
  ⟨"THM_SENSOR_SEL", 0x20, 4, 0, 1, false, false, [⟨"INDEX", 0, 13, .rw, 0x0, .any⟩]⟩,
  ⟨"THM_SENSOR_DATA", 0x24, 4, 0, 1, false, false, [⟨"VALUE", 0, 16, .ro, 0x0, .any⟩, ⟨"BAD", 16, 1, .ro, 0x0, .any⟩, ⟨"DISAGREE", 17, 1, .ro, 0x0, .any⟩]⟩,
  ⟨"THM_CFG", 0x30, 4, 0, 1, false, false, [⟨"L1_MS", 0, 8, .rwt, 0xa, .range 1 255⟩, ⟨"L2_MS", 8, 8, .rwt, 0x14, .range 1 255⟩, ⟨"PACE_US", 16, 10, .rwt, 0xfa, .range 1 1023⟩]⟩,
  ⟨"THM_KEEPWARM", 0x34, 4, 0, 1, false, false, [⟨"EN", 0, 1, .rwt, 0x0, .any⟩, ⟨"FLOOR", 8, 8, .rwt, 0x32, .range 40 70⟩, ⟨"MAX_W", 16, 8, .rwt, 0x3c, .any⟩]⟩,
  ⟨"THM_FLOW_CFG", 0x38, 4, 0, 1, false, false, [⟨"K", 0, 16, .rwt, 0x0, .any⟩, ⟨"FLOW_MIN", 16, 8, .rwt, 0x14, .any⟩, ⟨"FLOW_WARN", 24, 8, .rwt, 0x23, .any⟩]⟩,
  ⟨"THM_SHUTDOWN", 0x40, 4, 0, 1, false, false, [⟨"CAUSE", 0, 4, .ro, 0x0, .any⟩, ⟨"ACTIVE", 4, 1, .ro, 0x0, .any⟩, ⟨"LEFT", 5, 1, .ro, 0x0, .any⟩, ⟨"SEQ", 16, 8, .ro, 0x0, .any⟩, ⟨"CLEAR", 31, 1, .wo, 0x0, .any⟩]⟩,
  ⟨"THM_SHUT_TAPE_LO", 0x44, 4, 0, 1, false, false, [⟨"TAPE", 0, 32, .ro, 0x0, .any⟩]⟩,
  ⟨"THM_SHUT_TAPE_HI", 0x48, 4, 0, 1, false, false, [⟨"TAPE", 0, 32, .ro, 0x0, .any⟩]⟩,
  ⟨"THM_EASE_COUNT", 0x50, 4, 0, 1, false, false, [⟨"COUNT", 0, 32, .ro, 0x0, .any⟩]⟩,
  ⟨"THM_PACE_COUNT", 0x54, 4, 0, 1, false, false, [⟨"COUNT", 0, 32, .ro, 0x0, .any⟩]⟩,
  ⟨"THM_DERATE_COUNT", 0x58, 4, 0, 1, false, false, [⟨"COUNT", 0, 32, .ro, 0x0, .any⟩]⟩,
  ⟨"THM_STK", 0x100, 8, 0, 12, false, false, [⟨"ARRAY", 0, 16, .ro, 0x0, .any⟩, ⟨"DRAM", 16, 16, .ro, 0x0, .any⟩]⟩,
  ⟨"THM_STK_LEVEL", 0x104, 8, 0, 12, false, false, [⟨"LEVEL", 0, 2, .ro, 0x0, .any⟩, ⟨"HOT_TILE", 8, 8, .ro, 0xff, .any⟩, ⟨"BAND_EDGE", 16, 8, .ro, 0x64, .any⟩]⟩]

/-- Registers of the thm block, part 1. -/
def thmRegs1 : List RegSpec := [
  ⟨"THM_EDGE", 0x200, 4, 0, 12, false, false, [⟨"MAX", 0, 16, .ro, 0x0, .any⟩, ⟨"THROTTLE", 16, 1, .ro, 0x0, .any⟩]⟩,
  ⟨"THM_CYC_0", 0x400, 16, 0, 12, false, false, [⟨"COUNT", 0, 32, .ro, 0x0, .any⟩]⟩,
  ⟨"THM_CYC_1", 0x404, 16, 0, 12, false, false, [⟨"COUNT", 0, 32, .ro, 0x0, .any⟩]⟩,
  ⟨"THM_CYC_2", 0x408, 16, 0, 12, false, false, [⟨"COUNT", 0, 32, .ro, 0x0, .any⟩]⟩,
  ⟨"THM_CYC_HOT", 0x40c, 16, 0, 12, false, false, [⟨"MINUTES", 0, 32, .ro, 0x0, .any⟩]⟩,
  ⟨"PWR_LIMIT_SET", 0x8000, 4, 0, 1, false, false, [⟨"LIMIT", 0, 16, .rwt, 0x0, .any⟩]⟩,
  ⟨"PWR_STATUS", 0x8004, 4, 0, 1, false, false, [⟨"IN_FORCE", 0, 16, .ro, 0x0, .any⟩, ⟨"CAPPING", 16, 1, .ro, 0x0, .any⟩, ⟨"DERATE", 17, 1, .ro, 0x0, .any⟩, ⟨"CURRENT_CAP", 18, 1, .ro, 0x0, .any⟩, ⟨"KEEPWARM", 19, 1, .ro, 0x0, .any⟩]⟩,
  ⟨"PWR_INPUT", 0x8008, 4, 0, 1, false, false, [⟨"POWER", 0, 16, .ro, 0x0, .any⟩]⟩,
  ⟨"PWR_V48", 0x800c, 4, 0, 1, false, false, [⟨"VOLT", 0, 16, .ro, 0x0, .any⟩, ⟨"CURR", 16, 16, .ro, 0x0, .any⟩]⟩,
  ⟨"PWR_ENERGY_LO", 0x8010, 4, 0, 1, false, false, [⟨"MJ", 0, 32, .ro, 0x0, .any⟩]⟩,
  ⟨"PWR_ENERGY_HI", 0x8014, 4, 0, 1, false, false, [⟨"MJ", 0, 32, .ro, 0x0, .any⟩]⟩,
  ⟨"PWR_CAP_COUNT", 0x8018, 4, 0, 1, false, false, [⟨"COUNT", 0, 32, .ro, 0x0, .any⟩]⟩,
  ⟨"PWR_STK", 0x8020, 4, 0, 12, false, false, [⟨"POWER", 0, 16, .ro, 0x0, .any⟩]⟩,
  ⟨"PWR_EDGE", 0x8060, 4, 0, 12, false, false, [⟨"POWER", 0, 16, .ro, 0x0, .any⟩]⟩]

/-- Registers of the thm block. -/
def thmRegs : List RegSpec := thmRegs0 ++ thmRegs1

/-- Registers of the tape block. -/
def tapeRegs : List RegSpec := [
  ⟨"TAPE_COUNT_LO", 0x0, 4, 0, 1, false, false, [⟨"COUNT", 0, 32, .ro, 0x0, .any⟩]⟩,
  ⟨"TAPE_COUNT_HI", 0x4, 4, 0, 1, false, false, [⟨"COUNT", 0, 32, .ro, 0x0, .any⟩]⟩,
  ⟨"TAPE_STATUS", 0x8, 4, 0, 1, false, false, [⟨"LOCKED", 0, 1, .ro, 0x0, .any⟩, ⟨"ALIGNED", 1, 1, .ro, 0x0, .any⟩, ⟨"ROOT", 2, 1, .ro, 0x0, .any⟩, ⟨"SLEWING", 3, 1, .ro, 0x0, .any⟩, ⟨"OFFSET", 8, 8, .ro, 0x0, .any⟩]⟩,
  ⟨"TAPE_SYNC_CFG", 0xc, 4, 0, 1, false, false, [⟨"IN_EN", 0, 1, .rwt, 0x0, .any⟩, ⟨"OUT_EN", 1, 1, .rwt, 0x0, .any⟩, ⟨"OUT_SHIFT", 2, 6, .rwt, 0x14, .range 10 40⟩]⟩,
  ⟨"TAPE_SYNC_VAL_LO", 0x10, 4, 0, 1, false, true, [⟨"VALUE", 0, 32, .rwt, 0x0, .any⟩]⟩,
  ⟨"TAPE_SYNC_VAL_HI", 0x14, 4, 0, 1, false, true, [⟨"VALUE", 0, 32, .rwt, 0x0, .any⟩]⟩,
  ⟨"TAPE_SYNC_STAMP_LO", 0x18, 4, 0, 1, false, false, [⟨"TAPE", 0, 32, .ro, 0x0, .any⟩]⟩,
  ⟨"TAPE_SYNC_STAMP_HI", 0x1c, 4, 0, 1, false, false, [⟨"TAPE", 0, 32, .ro, 0x0, .any⟩]⟩]

/-- Registers of the bolt block, part 0. -/
def boltRegs0 : List RegSpec := [
  ⟨"BOLT_STACKS", 0x0, 4, 0, 1, false, true, [⟨"STACKS", 0, 12, .rwt, 0x0, .any⟩]⟩,
  ⟨"PAT_IMAGE_LO", 0x4, 4, 0, 1, false, true, [⟨"ADDR", 6, 26, .rwt, 0x0, .any⟩]⟩,
  ⟨"PAT_IMAGE_HI", 0x8, 4, 0, 1, false, true, [⟨"ADDR", 0, 16, .rwt, 0x0, .any⟩]⟩,
  ⟨"PAT_CTRL", 0xc, 4, 0, 1, false, true, [⟨"LOAD", 0, 1, .rwt, 0x0, .any⟩, ⟨"START", 1, 1, .rwt, 0x0, .any⟩, ⟨"STOP", 2, 1, .rwt, 0x0, .any⟩]⟩,
  ⟨"PAT_START_LO", 0x10, 4, 0, 1, false, true, [⟨"T0", 0, 32, .rwt, 0x0, .any⟩]⟩,
  ⟨"PAT_START_HI", 0x14, 4, 0, 1, false, true, [⟨"T0", 0, 32, .rwt, 0x0, .any⟩]⟩,
  ⟨"PAT_STATUS", 0x18, 4, 0, 1, false, false, [⟨"STATE", 0, 3, .ro, 0x0, .any⟩, ⟨"CODE", 8, 8, .ro, 0x0, .any⟩, ⟨"SCHED", 16, 3, .ro, 0x0, .any⟩, ⟨"HOLD_LONG", 24, 1, .rw1c, 0x0, .any⟩]⟩,
  ⟨"PAT_DETAIL", 0x1c, 4, 0, 1, false, false, [⟨"INDEX", 0, 32, .ro, 0x0, .any⟩]⟩,
  ⟨"PAT_SCHED_LO", 0x20, 4, 0, 1, false, false, [⟨"COUNT", 0, 32, .ro, 0x0, .any⟩]⟩,
  ⟨"PAT_SCHED_HI", 0x24, 4, 0, 1, false, false, [⟨"COUNT", 0, 32, .ro, 0x0, .any⟩]⟩,
  ⟨"PAT_TACK", 0x28, 4, 0, 1, false, false, [⟨"TACK", 0, 24, .ro, 0x0, .any⟩, ⟨"ANY", 31, 1, .ro, 0x0, .any⟩]⟩,
  ⟨"PAT_SLIPS", 0x2c, 4, 0, 1, false, false, [⟨"COUNT", 0, 32, .ro, 0x0, .any⟩]⟩,
  ⟨"PAT_HOLDS", 0x30, 4, 0, 1, false, false, [⟨"COUNT", 0, 32, .ro, 0x0, .any⟩]⟩,
  ⟨"PAT_PACES", 0x34, 4, 0, 1, false, false, [⟨"COUNT", 0, 32, .ro, 0x0, .any⟩]⟩,
  ⟨"PAT_PAUSED_LO", 0x38, 4, 0, 1, false, false, [⟨"CYCLES", 0, 32, .ro, 0x0, .any⟩]⟩,
  ⟨"PAT_PAUSED_HI", 0x3c, 4, 0, 1, false, false, [⟨"CYCLES", 0, 32, .ro, 0x0, .any⟩]⟩,
  ⟨"PAT_LAST_SLIP_LO", 0x40, 4, 0, 1, false, false, [⟨"TAPE", 0, 32, .ro, 0x0, .any⟩]⟩,
  ⟨"PAT_LAST_SLIP_HI", 0x44, 4, 0, 1, false, false, [⟨"TAPE", 0, 32, .ro, 0x0, .any⟩]⟩,
  ⟨"PAT_LAST_HOLD_LO", 0x48, 4, 0, 1, false, false, [⟨"TAPE", 0, 32, .ro, 0x0, .any⟩]⟩,
  ⟨"PAT_LAST_HOLD_HI", 0x4c, 4, 0, 1, false, false, [⟨"TAPE", 0, 32, .ro, 0x0, .any⟩]⟩]

/-- Registers of the bolt block, part 1. -/
def boltRegs1 : List RegSpec := [
  ⟨"PAT_HOLD_INFO", 0x50, 4, 0, 1, false, false, [⟨"TACK", 0, 24, .ro, 0x0, .any⟩]⟩,
  ⟨"PAT_HOLD_LEN", 0x54, 4, 0, 1, false, false, [⟨"CYCLES", 0, 32, .ro, 0x0, .any⟩]⟩,
  ⟨"PAT_EASE_USED", 0x58, 4, 0, 1, false, false, [⟨"CYCLES", 0, 32, .ro, 0x0, .any⟩]⟩,
  ⟨"PAT_MEAS", 0x80, 4, 0, 16, false, false, [⟨"DIGEST", 0, 32, .ro, 0x0, .any⟩]⟩,
  ⟨"PAT_RMEAS", 0xc0, 4, 0, 16, false, false, [⟨"DIGEST", 0, 32, .ro, 0x0, .any⟩]⟩]

/-- Registers of the bolt block. -/
def boltRegs : List RegSpec := boltRegs0 ++ boltRegs1

/-- Registers of the err block. -/
def errRegs : List RegSpec := [
  ⟨"ERR_STATUS", 0x0, 4, 0, 1, false, false, [⟨"FATAL", 0, 1, .rw1c, 0x0, .any⟩, ⟨"UE", 1, 1, .rw1c, 0x0, .any⟩, ⟨"LINK", 2, 1, .rw1c, 0x0, .any⟩, ⟨"PROTOCOL", 3, 1, .rw1c, 0x0, .any⟩, ⟨"THERMAL", 4, 1, .rw1c, 0x0, .any⟩, ⟨"CORRECTED", 5, 1, .rw1c, 0x0, .any⟩]⟩,
  ⟨"ERR_LOG_SEQ", 0x4, 4, 0, 1, false, false, [⟨"SEQ", 0, 32, .ro, 0x0, .any⟩]⟩,
  ⟨"ERR_LOG_SEL", 0x8, 4, 0, 1, false, false, [⟨"SLOT", 0, 12, .rw, 0x0, .any⟩, ⟨"STORE", 12, 1, .rw, 0x0, .any⟩]⟩,
  ⟨"ERR_FSEQ", 0xc, 4, 0, 1, false, false, [⟨"FSEQ", 0, 32, .ro, 0x0, .any⟩]⟩,
  ⟨"ERR_IRQ_MASK", 0x10, 4, 0, 1, false, false, [⟨"MASK", 0, 5, .rw, 0x1, .any⟩]⟩,
  ⟨"ERR_LOG_DATA", 0x20, 4, 0, 8, false, false, [⟨"DATA", 0, 32, .ro, 0x0, .any⟩]⟩,
  ⟨"ERR_CLASS_COUNT", 0x80, 4, 0, 6, false, false, [⟨"COUNT", 0, 32, .ro, 0x0, .any⟩]⟩]

/-- Registers of the trc block. -/
def trcRegs : List RegSpec := [
  ⟨"TRC_XTRIG_CFG", 0x0, 4, 0, 1, false, false, [⟨"ID", 0, 8, .rw, 0x0, .any⟩, ⟨"XSTOP_EN", 8, 1, .rw, 0x0, .any⟩]⟩,
  ⟨"TRC_XTRIG_POST", 0x4, 4, 0, 1, false, false, [⟨"CYCLES", 0, 20, .rw, 0x186a0, .range 10000 1000000⟩]⟩,
  ⟨"TRC_XTRIG_STAT", 0x8, 4, 0, 1, false, false, [⟨"LAST_ID", 0, 8, .ro, 0x0, .any⟩, ⟨"RCVD", 8, 1, .rw1c, 0x0, .any⟩, ⟨"STOP", 9, 1, .ro, 0x0, .any⟩]⟩,
  ⟨"TRC_XTRIG_TAPE_LO", 0xc, 4, 0, 1, false, false, [⟨"TAPE", 0, 32, .ro, 0x0, .any⟩]⟩,
  ⟨"TRC_XTRIG_TAPE_HI", 0x10, 4, 0, 1, false, false, [⟨"TAPE", 0, 32, .ro, 0x0, .any⟩]⟩,
  ⟨"TRC_STOP_CTRL", 0x20, 4, 0, 1, false, true, [⟨"ARM", 0, 1, .rwt, 0x0, .any⟩, ⟨"DUMP", 1, 1, .rwt, 0x0, .any⟩]⟩,
  ⟨"TRC_STOP_TAPE_LO", 0x24, 4, 0, 1, false, true, [⟨"TAPE", 0, 32, .rwt, 0x0, .any⟩]⟩,
  ⟨"TRC_STOP_TAPE_HI", 0x28, 4, 0, 1, false, true, [⟨"TAPE", 0, 32, .rwt, 0x0, .any⟩]⟩,
  ⟨"TRC_STOP_STATUS", 0x2c, 4, 0, 1, false, false, [⟨"STATE", 0, 3, .ro, 0x0, .any⟩, ⟨"LATE", 3, 1, .rw1c, 0x0, .any⟩, ⟨"TRIGGERED", 4, 1, .ro, 0x0, .any⟩]⟩,
  ⟨"TRC_STOP_SMEAR", 0x30, 4, 0, 1, false, false, [⟨"P0", 0, 10, .ro, 0x0, .any⟩, ⟨"P1", 10, 10, .ro, 0x0, .any⟩, ⟨"HKC", 20, 10, .ro, 0x0, .any⟩]⟩,
  ⟨"TRC_STOP_AT_LO", 0x34, 4, 0, 1, false, false, [⟨"TAPE", 0, 32, .ro, 0x0, .any⟩]⟩,
  ⟨"TRC_STOP_AT_HI", 0x38, 4, 0, 1, false, false, [⟨"TAPE", 0, 32, .ro, 0x0, .any⟩]⟩,
  ⟨"TRC_DUMP_BASE_LO", 0x3c, 4, 0, 1, false, true, [⟨"ADDR", 16, 16, .rwt, 0x0, .any⟩]⟩,
  ⟨"TRC_DUMP_BASE_HI", 0x40, 4, 0, 1, false, true, [⟨"ADDR", 0, 16, .rwt, 0x0, .any⟩]⟩,
  ⟨"TRC_DBG_CFG", 0x50, 4, 0, 1, false, false, [⟨"JTAG_EN", 0, 1, .rw, 0x0, .any⟩]⟩,
  ⟨"TRC_DBG_STAT", 0x54, 4, 0, 1, false, false, [⟨"JTAG_REFUSED", 0, 1, .rw1c, 0x0, .any⟩, ⟨"JTAG_WRITE", 1, 1, .rw1c, 0x0, .any⟩]⟩,
  ⟨"TRC_ATTR_CTRL", 0x100, 4, 0, 1, false, false, [⟨"EN", 0, 1, .rw, 0x0, .any⟩, ⟨"CLEAR", 1, 1, .wo, 0x0, .any⟩, ⟨"BOLTS", 4, 12, .rw, 0x0, .any⟩]⟩,
  ⟨"TRC_ATTR_SEL", 0x104, 4, 0, 1, false, false, [⟨"ENTRY", 0, 12, .rw, 0x0, .any⟩]⟩,
  ⟨"TRC_ATTR_USED", 0x108, 4, 0, 1, false, false, [⟨"COUNT", 0, 13, .ro, 0x0, .any⟩]⟩,
  ⟨"TRC_ATTR_DATA", 0x120, 4, 0, 8, false, false, [⟨"DATA", 0, 32, .ro, 0x0, .any⟩]⟩]

/-- Registers of the chk block. -/
def chkRegs : List RegSpec := [
  ⟨"CHK_STATUS", 0x0, 4, 0, 1, false, false, [⟨"BUSY", 0, 1, .ro, 0x0, .any⟩, ⟨"AVAILABLE", 1, 1, .ro, 0x0, .any⟩, ⟨"QUEUED", 2, 5, .ro, 0x0, .any⟩]⟩,
  ⟨"CHK_BODY_FAULT", 0x4, 4, 0, 1, false, false, [⟨"DETAIL", 0, 8, .ro, 0x0, .any⟩, ⟨"SITE", 8, 8, .ro, 0x0, .any⟩, ⟨"STACK", 16, 4, .ro, 0x0, .any⟩]⟩,
  ⟨"CHK_SUB_ADDR_LO", 0x10, 4, 0, 1, false, false, [⟨"DPA", 0, 32, .rw, 0x0, .any⟩]⟩,
  ⟨"CHK_SUB_ADDR_HI", 0x14, 4, 0, 1, false, false, [⟨"DPA", 0, 16, .rw, 0x0, .any⟩]⟩,
  ⟨"CHK_SUB_LEN_LO", 0x18, 4, 0, 1, false, false, [⟨"LEN", 0, 32, .rw, 0x0, .any⟩]⟩,
  ⟨"CHK_SUB_LEN_HI", 0x1c, 4, 0, 1, false, false, [⟨"LEN", 0, 8, .rw, 0x0, .any⟩]⟩,
  ⟨"CHK_SUB_CTRL", 0x20, 4, 0, 1, false, false, [⟨"ALG", 0, 2, .rw, 0x0, .range 0 2⟩, ⟨"CTX", 4, 4, .rw, 0x0, .any⟩, ⟨"ALIVE", 8, 8, .rw, 0x0, .any⟩, ⟨"GO", 31, 1, .wo, 0x0, .any⟩]⟩,
  ⟨"CHK_SUB_STAT", 0x24, 4, 0, 1, false, false, [⟨"FULL", 0, 1, .rw1c, 0x0, .any⟩, ⟨"REFUSED", 1, 1, .rw1c, 0x0, .any⟩]⟩,
  ⟨"CHK_CTX_VAL_LO", 0x100, 32, 0, 16, false, false, [⟨"VALUE", 0, 32, .rw, 0x0, .any⟩]⟩,
  ⟨"CHK_CTX_VAL_HI", 0x104, 32, 0, 16, false, false, [⟨"VALUE", 0, 32, .rw, 0x0, .any⟩]⟩,
  ⟨"CHK_CTX_BYTES_LO", 0x108, 32, 0, 16, false, false, [⟨"BYTES", 0, 32, .ro, 0x0, .any⟩]⟩,
  ⟨"CHK_CTX_BYTES_HI", 0x10c, 32, 0, 16, false, false, [⟨"BYTES", 0, 8, .ro, 0x0, .any⟩]⟩,
  ⟨"CHK_CTX_STAT", 0x110, 32, 0, 16, false, false, [⟨"ALG", 0, 2, .ro, 0x0, .any⟩, ⟨"BUSY", 2, 1, .ro, 0x0, .any⟩, ⟨"DONE", 3, 1, .rw1c, 0x0, .any⟩, ⟨"REPEAT", 4, 1, .rw1c, 0x0, .any⟩, ⟨"SKIP", 5, 1, .rw1c, 0x0, .any⟩, ⟨"UE", 6, 1, .rw1c, 0x0, .any⟩, ⟨"FAULT", 7, 1, .rw1c, 0x0, .any⟩, ⟨"CTX_BUSY", 8, 1, .rw1c, 0x0, .any⟩, ⟨"LAST_ALIVE", 16, 8, .ro, 0x0, .any⟩]⟩]

/-- Registers of the fab block. -/
def fabRegs : List RegSpec := [
  ⟨"FAB_PORT_CTRL", 0x0, 4, 0, 1, false, false, [⟨"EN", 0, 1, .rw, 0x1, .any⟩, ⟨"RETRAIN", 1, 1, .wo, 0x0, .any⟩]⟩,
  ⟨"FAB_PORT_STATUS", 0x4, 4, 0, 1, false, false, [⟨"WIDTH", 0, 3, .ro, 0x0, .any⟩, ⟨"STATE", 3, 3, .ro, 0x0, .any⟩, ⟨"LANES", 6, 4, .ro, 0x0, .any⟩, ⟨"FAILING", 10, 1, .ro, 0x0, .any⟩, ⟨"REFUSED", 11, 1, .rw1c, 0x0, .any⟩, ⟨"CABLING", 12, 1, .rw1c, 0x0, .any⟩, ⟨"LEFT", 13, 1, .rw1c, 0x0, .any⟩, ⟨"ATTEMPTS", 14, 2, .ro, 0x0, .any⟩]⟩,
  ⟨"FAB_PORT_NBR", 0x8, 4, 0, 1, false, false, [⟨"COORD", 0, 12, .ro, 0x0, .any⟩, ⟨"NPORT", 12, 4, .ro, 0x0, .any⟩, ⟨"VALID", 16, 1, .ro, 0x0, .any⟩]⟩,
  ⟨"FAB_RETRY_COUNT", 0xc, 4, 0, 1, false, false, [⟨"COUNT", 0, 32, .ro, 0x0, .any⟩]⟩,
  ⟨"FAB_CRC_ERR_COUNT", 0x10, 4, 0, 1, false, false, [⟨"COUNT", 0, 32, .ro, 0x0, .any⟩]⟩,
  ⟨"FAB_LATE_COUNT", 0x14, 4, 0, 1, false, false, [⟨"COUNT", 0, 32, .ro, 0x0, .any⟩]⟩,
  ⟨"FAB_SLIP_REQ_COUNT", 0x18, 4, 0, 1, false, false, [⟨"COUNT", 0, 32, .ro, 0x0, .any⟩]⟩,
  ⟨"FAB_COLLIDE_COUNT", 0x1c, 4, 0, 1, false, false, [⟨"COUNT", 0, 32, .ro, 0x0, .any⟩]⟩,
  ⟨"FAB_LAT_NOM", 0x20, 4, 0, 1, false, false, [⟨"CYCLES", 0, 16, .ro, 0x0, .any⟩]⟩,
  ⟨"FAB_LANE_FAIL_CFG", 0x24, 4, 0, 1, false, false, [⟨"UNCORR_THR", 0, 8, .rw, 0x10, .range 1 255⟩, ⟨"LOCK_LOSS_US", 8, 8, .rw, 0x1, .range 1 255⟩]⟩,
  ⟨"FAB_LANE", 0x40, 4, 0, 4, false, false, [⟨"CORR", 0, 16, .ro, 0x0, .any⟩, ⟨"UNCORR", 16, 8, .ro, 0x0, .any⟩, ⟨"PASSED", 24, 1, .ro, 0x0, .any⟩, ⟨"FAILING", 25, 1, .ro, 0x0, .any⟩, ⟨"PRECODE", 26, 1, .ro, 0x0, .any⟩]⟩,
  ⟨"FAB_COORD", 0x8000, 4, 0, 1, true, false, [⟨"X", 0, 4, .rwt, 0x0, .any⟩, ⟨"Y", 4, 4, .rwt, 0x0, .any⟩, ⟨"Z", 8, 4, .rwt, 0x0, .any⟩, ⟨"DX_M1", 16, 4, .rwt, 0x0, .any⟩, ⟨"DY_M1", 20, 4, .rwt, 0x0, .any⟩, ⟨"DZ_M1", 24, 4, .rwt, 0x0, .any⟩]⟩,
  ⟨"FAB_TOPO", 0x8004, 4, 0, 1, true, false, [⟨"VERIFIED", 0, 1, .ro, 0x0, .any⟩, ⟨"PORTS_UP", 16, 12, .ro, 0x0, .any⟩]⟩,
  ⟨"FAB_TIME_PARENT", 0x8008, 4, 0, 1, true, false, [⟨"PORT", 0, 4, .ro, 0x0, .any⟩, ⟨"ROOT", 4, 1, .ro, 0x0, .any⟩]⟩,
  ⟨"FAB_MGMT_CFG", 0x800c, 4, 0, 1, true, false, [⟨"RESET_EN", 0, 1, .rw, 0x0, .any⟩, ⟨"FW_EN", 1, 1, .rw, 0x0, .any⟩, ⟨"XTRIG_EN", 2, 1, .rw, 0x1, .any⟩]⟩,
  ⟨"FAB_MGMT_STAT", 0x8010, 4, 0, 1, true, false, [⟨"RESET_RCVD", 0, 1, .rw1c, 0x0, .any⟩, ⟨"BAD_RESET", 1, 1, .rw1c, 0x0, .any⟩]⟩,
  ⟨"FAB_MINW_LO", 0x8014, 4, 0, 1, true, false, [⟨"WIDTH", 0, 32, .ro, 0x0, .any⟩]⟩,
  ⟨"FAB_MINW_HI", 0x8018, 4, 0, 1, true, false, [⟨"WIDTH", 0, 16, .ro, 0x0, .any⟩]⟩,
  ⟨"FAB_RESCHED_COUNT", 0x801c, 4, 0, 1, true, false, [⟨"COUNT", 0, 32, .ro, 0x0, .any⟩]⟩]

/-- Registers of the stk block, part 0. -/
def stkRegs0 : List RegSpec := [
  ⟨"STK_INFO", 0x0, 4, 0, 1, false, false, [⟨"STACK", 0, 4, .ro, 0x0, .any⟩, ⟨"BASE_DIE", 4, 2, .ro, 0x0, .any⟩, ⟨"SLOT", 6, 2, .ro, 0x0, .any⟩, ⟨"SITES", 8, 8, .ro, 0xa0, .any⟩, ⟨"ACTIVE", 16, 8, .ro, 0x0, .any⟩, ⟨"DEGRADED", 24, 1, .ro, 0x0, .any⟩]⟩,
  ⟨"STK_SPARES", 0x4, 4, 0, 1, false, false, [⟨"FREE", 0, 8, .ro, 0x0, .any⟩, ⟨"DARNED", 8, 8, .ro, 0x0, .any⟩, ⟨"MAP_EPOCH", 16, 8, .ro, 0x0, .any⟩]⟩,
  ⟨"STK_LMAP", 0x400, 4, 0, 144, false, false, [⟨"SITE", 0, 8, .ro, 0x0, .any⟩, ⟨"VALID", 31, 1, .ro, 0x0, .any⟩]⟩,
  ⟨"STK_SMAP", 0x800, 4, 0, 160, false, false, [⟨"LTILE", 0, 8, .ro, 0xff, .any⟩]⟩,
  ⟨"SWT_CFG", 0x1000, 4, 0, 1, false, false, [⟨"SIZE", 0, 2, .ro, 0x0, .any⟩, ⟨"MODE", 2, 1, .ro, 0x0, .any⟩, ⟨"EN", 3, 1, .ro, 0x0, .any⟩, ⟨"BOLT", 4, 4, .ro, 0x0, .any⟩]⟩,
  ⟨"SWT_CHUNK", 0x1004, 4, 0, 1, false, false, [⟨"CHUNK", 0, 14, .ro, 0x0, .any⟩]⟩,
  ⟨"SWT_SEG_BASE", 0x1010, 16, 0, 12, false, false, [⟨"BASE", 0, 21, .ro, 0x0, .any⟩]⟩,
  ⟨"SWT_SEG_FIRST", 0x1014, 16, 0, 12, false, false, [⟨"FIRST", 0, 23, .ro, 0x0, .any⟩]⟩,
  ⟨"SWT_SEG_COUNT", 0x1018, 16, 0, 12, false, false, [⟨"COUNT", 0, 23, .ro, 0x0, .any⟩]⟩,
  ⟨"SWT_SEG_FREE", 0x101c, 16, 0, 12, false, false, [⟨"HEAD", 0, 23, .ro, 0x0, .any⟩, ⟨"EMPTY", 31, 1, .ro, 0x1, .any⟩]⟩,
  ⟨"SWT_PTREE_BASE_LO", 0x10d0, 4, 0, 1, false, false, [⟨"ADDR", 25, 7, .ro, 0x0, .any⟩]⟩,
  ⟨"SWT_PTREE_BASE_HI", 0x10d4, 4, 0, 1, false, false, [⟨"ADDR", 0, 16, .ro, 0x0, .any⟩]⟩,
  ⟨"SWT_ROW_BASE_LO", 0x10d8, 4, 0, 1, false, false, [⟨"ADDR", 6, 26, .ro, 0x0, .any⟩]⟩,
  ⟨"SWT_ROW_BASE_HI", 0x10dc, 4, 0, 1, false, false, [⟨"ADDR", 0, 16, .ro, 0x0, .any⟩]⟩,
  ⟨"SWT_ROWLEN", 0x10e0, 4, 0, 1, false, false, [⟨"LEN", 0, 16, .ro, 0x0, .any⟩]⟩,
  ⟨"SWT_SALT_LO", 0x10e8, 4, 0, 1, false, false, [⟨"SALT", 0, 32, .ro, 0x0, .any⟩]⟩,
  ⟨"SWT_SALT_HI", 0x10ec, 4, 0, 1, false, false, [⟨"SALT", 0, 32, .ro, 0x0, .any⟩]⟩,
  ⟨"SWT_TABLE_BASE_LO", 0x1100, 4, 0, 1, true, true, [⟨"ADDR", 26, 6, .rwt, 0x3f, .any⟩]⟩,
  ⟨"SWT_TABLE_BASE_HI", 0x1104, 4, 0, 1, true, true, [⟨"ADDR", 0, 16, .rwt, 0x17, .any⟩]⟩,
  ⟨"PMEM_CFG", 0x2000, 4, 0, 1, false, false, [⟨"REFRESH_MODE", 0, 1, .rwt, 0x0, .any⟩, ⟨"SCRUB_EN", 1, 1, .rwt, 0x1, .any⟩, ⟨"SCRUB_PERIOD", 8, 8, .rwt, 0x18, .range 1 255⟩]⟩]

/-- Registers of the stk block, part 1. -/
def stkRegs1 : List RegSpec := [
  ⟨"PMEM_STATUS", 0x2004, 4, 0, 1, false, false, [⟨"BAND", 0, 2, .ro, 0x0, .any⟩, ⟨"RESERVE", 2, 2, .ro, 0x2, .any⟩, ⟨"OVERRUN", 4, 1, .rw1c, 0x0, .any⟩, ⟨"SCRUB_LATE", 5, 1, .rw1c, 0x0, .any⟩]⟩,
  ⟨"PMEM_CE_COUNT", 0x2008, 4, 0, 1, false, false, [⟨"COUNT", 0, 32, .rw, 0x0, .any⟩]⟩,
  ⟨"PMEM_UE_COUNT", 0x200c, 4, 0, 1, false, false, [⟨"COUNT", 0, 32, .rw, 0x0, .any⟩]⟩,
  ⟨"PMEM_UE_ADDR_LO", 0x2010, 4, 0, 1, false, false, [⟨"DPA", 0, 32, .ro, 0x0, .any⟩]⟩,
  ⟨"PMEM_UE_ADDR_HI", 0x2014, 4, 0, 1, false, false, [⟨"DPA", 0, 16, .ro, 0x0, .any⟩, ⟨"VALID", 31, 1, .rw1c, 0x0, .any⟩]⟩,
  ⟨"PMEM_SCRUB_PASSES", 0x2018, 4, 0, 1, false, false, [⟨"COUNT", 0, 32, .ro, 0x0, .any⟩]⟩,
  ⟨"PMEM_OVERRUN_COUNT", 0x201c, 4, 0, 1, false, false, [⟨"COUNT", 0, 32, .ro, 0x0, .any⟩]⟩,
  ⟨"PMEM_FLIP_CTRL", 0x2020, 4, 0, 1, false, false, [⟨"ARM", 0, 1, .rw, 0x0, .any⟩, ⟨"CLASS", 1, 3, .rw, 0x0, .range 0 4⟩, ⟨"ADDR_EN", 4, 1, .rw, 0x0, .any⟩, ⟨"SITE", 8, 8, .rw, 0x0, .any⟩]⟩,
  ⟨"PMEM_FLIP_POS", 0x2024, 4, 0, 1, false, false, [⟨"POS0", 0, 7, .rw, 0x7f, .flipPos⟩, ⟨"POS1", 8, 7, .rw, 0x7f, .flipPos⟩, ⟨"POS2", 16, 7, .rw, 0x7f, .flipPos⟩, ⟨"POS3", 24, 7, .rw, 0x7f, .flipPos⟩]⟩,
  ⟨"PMEM_FLIP_PAT", 0x2028, 4, 0, 1, false, false, [⟨"PAT", 0, 32, .rw, 0x0, .any⟩]⟩,
  ⟨"PMEM_FLIP_ADDR_LO", 0x202c, 4, 0, 1, false, false, [⟨"ADDR", 0, 32, .rw, 0x0, .any⟩]⟩,
  ⟨"PMEM_FLIP_ADDR_HI", 0x2030, 4, 0, 1, false, false, [⟨"ADDR", 0, 16, .rw, 0x0, .any⟩]⟩,
  ⟨"PMEM_DARN", 0x2040, 4, 0, 1, false, false, [⟨"ROWS", 0, 16, .ro, 0x0, .any⟩, ⟨"BANKS", 16, 8, .ro, 0x0, .any⟩, ⟨"POOL", 24, 8, .ro, 0x0, .any⟩]⟩,
  ⟨"PMEM_CH", 0x3000, 4, 0, 320, false, false, [⟨"CE", 0, 16, .ro, 0x0, .any⟩, ⟨"SPARES", 16, 5, .ro, 0x0, .any⟩, ⟨"ERASURES", 21, 4, .ro, 0x0, .any⟩]⟩,
  ⟨"TRN_WIN_BASE_LO", 0x4000, 16, 0, 64, false, false, [⟨"BASE", 6, 26, .ro, 0x0, .any⟩]⟩,
  ⟨"TRN_WIN_BASE_HI", 0x4004, 16, 0, 64, false, false, [⟨"BASE", 0, 16, .ro, 0x0, .any⟩]⟩,
  ⟨"TRN_WIN_LEN_LO", 0x4008, 16, 0, 64, false, false, [⟨"LEN", 6, 26, .ro, 0x0, .any⟩]⟩,
  ⟨"TRN_WIN_LEN_HI", 0x400c, 16, 0, 64, false, false, [⟨"LEN", 0, 9, .ro, 0x0, .any⟩, ⟨"KIND", 16, 2, .ro, 0x0, .any⟩, ⟨"RD", 18, 1, .ro, 0x0, .any⟩, ⟨"WR", 19, 1, .ro, 0x0, .any⟩, ⟨"EN", 20, 1, .ro, 0x0, .any⟩]⟩,
  ⟨"CTX_CTRL", 0x5000, 4, 0, 1, false, true, [⟨"SAVE", 0, 1, .rwt, 0x0, .any⟩, ⟨"AT_TACK", 1, 1, .rwt, 0x0, .any⟩, ⟨"RESTORE", 2, 1, .rwt, 0x0, .any⟩]⟩,
  ⟨"CTX_TACK", 0x5004, 4, 0, 1, false, true, [⟨"TACK_NO", 0, 24, .rwt, 0x0, .any⟩]⟩]

/-- Registers of the stk block, part 2. -/
def stkRegs2 : List RegSpec := [
  ⟨"CTX_BASE_LO", 0x5008, 4, 0, 1, false, true, [⟨"ADDR", 16, 16, .rwt, 0x0, .any⟩]⟩,
  ⟨"CTX_BASE_HI", 0x500c, 4, 0, 1, false, true, [⟨"ADDR", 0, 16, .rwt, 0x0, .any⟩]⟩,
  ⟨"CTX_STATUS", 0x5010, 4, 0, 1, false, false, [⟨"STATE", 0, 3, .ro, 0x0, .any⟩, ⟨"CODE", 8, 8, .ro, 0x0, .any⟩]⟩,
  ⟨"CTX_SAVED_TACK", 0x5014, 4, 0, 1, false, false, [⟨"TACK", 0, 24, .ro, 0x0, .any⟩]⟩,
  ⟨"STK_BOLT_OP", 0x6000, 4, 0, 1, false, true, [⟨"OP", 0, 2, .rwt, 0x0, .any⟩]⟩,
  ⟨"STK_BOLT_OP_STAT", 0x6004, 4, 0, 1, false, false, [⟨"STATE", 0, 3, .ro, 0x0, .any⟩, ⟨"CODE", 8, 8, .ro, 0x0, .any⟩, ⟨"FAILED", 16, 8, .ro, 0x0, .any⟩]⟩,
  ⟨"VC_STATUS", 0x7000, 4, 0, 1, false, false, [⟨"SIDEBAND_SINGLE", 0, 1, .rw1c, 0x0, .any⟩, ⟨"TEST_PENDING", 1, 1, .ro, 0x0, .any⟩]⟩,
  ⟨"VC_MIG_STATUS", 0x7004, 4, 0, 1, false, false, [⟨"STATE", 0, 3, .ro, 0x0, .any⟩, ⟨"SRC_SITE", 8, 8, .ro, 0x0, .any⟩, ⟨"DST_SITE", 16, 8, .ro, 0x0, .any⟩]⟩,
  ⟨"VC_MIG_DONE", 0x7008, 4, 0, 1, false, false, [⟨"LINES", 0, 29, .ro, 0x0, .any⟩]⟩,
  ⟨"VC_MIG_LOST", 0x700c, 4, 0, 1, false, false, [⟨"LINES", 0, 32, .ro, 0x0, .any⟩]⟩]

/-- Registers of the stk block. -/
def stkRegs : List RegSpec := stkRegs0 ++ stkRegs1 ++ stkRegs2

/-- Registers of the tile block, part 0. -/
def tileRegs0 : List RegSpec := [
  ⟨"ARR_SUBST", 0xc00, 4, 0, 1, false, false, [⟨"SPARE_FOR", 0, 5, .ro, 0x1f, .any⟩, ⟨"FAILED", 5, 5, .ro, 0x1f, .any⟩, ⟨"MULTI_FAIL", 10, 1, .ro, 0x0, .any⟩]⟩,
  ⟨"ARR_FLAGS", 0xc04, 4, 0, 1, false, false, [⟨"NAN_OUT", 0, 1, .rw1c, 0x0, .any⟩, ⟨"INF_OUT", 1, 1, .rw1c, 0x0, .any⟩, ⟨"SAT_OUT", 2, 1, .rw1c, 0x0, .any⟩, ⟨"FLUSHED", 3, 1, .rw1c, 0x0, .any⟩, ⟨"ALIGN_REFUSED", 4, 1, .rw1c, 0x0, .any⟩, ⟨"DEPTH_REFUSED", 5, 1, .rw1c, 0x0, .any⟩]⟩,
  ⟨"ARR_SAT_COUNT", 0xc08, 4, 0, 1, false, false, [⟨"COUNT", 0, 32, .rw, 0x0, .any⟩]⟩,
  ⟨"ARR_NAN_COUNT", 0xc0c, 4, 0, 1, false, false, [⟨"COUNT", 0, 32, .rw, 0x0, .any⟩]⟩,
  ⟨"TILE_ID", 0x0, 4, 0, 1, false, false, [⟨"SITE", 0, 8, .ro, 0x0, .any⟩, ⟨"LTILE", 8, 8, .ro, 0xff, .any⟩, ⟨"MTILE", 16, 11, .ro, 0x7ff, .any⟩]⟩,
  ⟨"TILE_STATUS", 0x4, 4, 0, 1, false, false, [⟨"STATE", 0, 2, .ro, 0x2, .any⟩, ⟨"DRAINED", 2, 1, .ro, 0x1, .any⟩, ⟨"CQ_FULL", 3, 1, .ro, 0x0, .any⟩, ⟨"CQ_EMPTY", 4, 1, .ro, 0x1, .any⟩, ⟨"PREEMPT_PENDING", 5, 1, .ro, 0x0, .any⟩]⟩,
  ⟨"CC_CTRL", 0x8, 4, 0, 1, false, false, [⟨"RUN", 0, 1, .rw, 0x0, .any⟩, ⟨"STEP", 1, 1, .wo, 0x0, .any⟩]⟩,
  ⟨"CC_PC", 0xc, 4, 0, 1, false, false, [⟨"PC", 2, 14, .rw, 0x0, .any⟩]⟩,
  ⟨"CC_MEM_ADDR", 0x10, 4, 0, 1, false, false, [⟨"ADDR", 2, 15, .rw, 0x0, .any⟩, ⟨"AUTOINC", 31, 1, .rw, 0x0, .any⟩]⟩,
  ⟨"CC_MEM_DATA", 0x14, 4, 0, 1, false, false, [⟨"DATA", 0, 32, .rw, 0x0, .any⟩]⟩,
  ⟨"CC_FAULT", 0x18, 4, 0, 1, false, false, [⟨"CAUSE", 0, 4, .ro, 0x0, .any⟩, ⟨"VALID", 4, 1, .rw1c, 0x0, .any⟩, ⟨"PC", 16, 16, .ro, 0x0, .any⟩]⟩,
  ⟨"CQ_COUNT", 0x20, 4, 0, 1, false, false, [⟨"COUNT", 0, 7, .ro, 0x0, .any⟩]⟩,
  ⟨"CQ_DONE", 0x24, 4, 0, 1, false, false, [⟨"SEQ", 0, 16, .ro, 0x0, .any⟩, ⟨"ANY", 16, 1, .ro, 0x0, .any⟩]⟩,
  ⟨"CQ_ISSUED", 0x28, 4, 0, 1, false, false, [⟨"SEQ", 0, 16, .ro, 0x0, .any⟩]⟩,
  ⟨"CQ_DONE_WAIT", 0x2c, 4, 0, 1, false, false, [⟨"SEQ", 0, 16, .rw, 0x0, .any⟩]⟩,
  ⟨"CMD_FAULT_CODE", 0x40, 4, 0, 1, false, false, [⟨"CODE", 0, 8, .ro, 0x0, .any⟩, ⟨"OPCODE", 8, 8, .ro, 0x0, .any⟩, ⟨"SEQ", 16, 16, .ro, 0x0, .any⟩]⟩,
  ⟨"CMD_FAULT_IDS", 0x44, 4, 0, 1, false, false, [⟨"LAYER", 0, 16, .ro, 0x0, .any⟩, ⟨"OPERATOR", 16, 16, .ro, 0x0, .any⟩]⟩,
  ⟨"CMD_FAULT_PROG_LO", 0x48, 4, 0, 1, false, false, [⟨"PROG", 0, 32, .ro, 0x0, .any⟩]⟩,
  ⟨"CMD_FAULT_PROG_HI", 0x4c, 4, 0, 1, false, false, [⟨"PROG", 0, 32, .ro, 0x0, .any⟩]⟩,
  ⟨"CMD_FAULT_ADDR_LO", 0x50, 4, 0, 1, false, false, [⟨"ADDR", 0, 32, .ro, 0x0, .any⟩]⟩]

/-- Registers of the tile block, part 1. -/
def tileRegs1 : List RegSpec := [
  ⟨"CMD_FAULT_ADDR_HI", 0x54, 4, 0, 1, false, false, [⟨"ADDR", 0, 16, .ro, 0x0, .any⟩]⟩,
  ⟨"CMD_FAULT_STAT", 0x58, 4, 0, 1, false, false, [⟨"VALID", 0, 1, .rw1c, 0x0, .any⟩, ⟨"OVERFLOW", 1, 1, .rw1c, 0x0, .any⟩, ⟨"REFUSAL", 2, 1, .ro, 0x0, .any⟩]⟩,
  ⟨"VEC_STATUS", 0x100, 4, 0, 1, false, false, [⟨"BUSY", 0, 1, .ro, 0x0, .any⟩, ⟨"PENDING", 1, 1, .ro, 0x0, .any⟩]⟩,
  ⟨"VEC_FLAGS", 0x104, 4, 0, 1, false, false, [⟨"NAN_OUT", 0, 1, .rw1c, 0x0, .any⟩, ⟨"INF_OUT", 1, 1, .rw1c, 0x0, .any⟩, ⟨"SAT_OUT", 2, 1, .rw1c, 0x0, .any⟩, ⟨"NAN_IN", 3, 1, .rw1c, 0x0, .any⟩, ⟨"FLUSHED", 4, 1, .rw1c, 0x0, .any⟩]⟩,
  ⟨"VEC_BODY_FAULT", 0x108, 4, 0, 1, false, false, [⟨"DETAIL", 0, 8, .ro, 0x0, .any⟩, ⟨"OP_INDEX", 8, 6, .ro, 0x0, .any⟩]⟩,
  ⟨"VEC_PROGRESS", 0x10c, 4, 0, 1, false, false, [⟨"GROUPS", 0, 32, .ro, 0x0, .any⟩]⟩,
  ⟨"RNG_DRAWS_LO", 0x110, 4, 0, 1, false, false, [⟨"COUNT", 0, 32, .ro, 0x0, .any⟩]⟩,
  ⟨"RNG_DRAWS_HI", 0x114, 4, 0, 1, false, false, [⟨"COUNT", 0, 32, .ro, 0x0, .any⟩]⟩,
  ⟨"RNG_SEED", 0x120, 4, 0, 8, false, false, [⟨"SEED", 0, 32, .ro, 0x0, .any⟩]⟩,
  ⟨"ATT_STATUS", 0x600, 4, 0, 1, false, false, [⟨"BUSY", 0, 1, .ro, 0x0, .any⟩, ⟨"WAIT_RING", 1, 1, .ro, 0x0, .any⟩, ⟨"STOPPED", 2, 1, .ro, 0x0, .any⟩]⟩,
  ⟨"ATT_PROGRESS", 0x604, 4, 0, 1, false, false, [⟨"BLOCKS", 0, 32, .ro, 0x0, .any⟩]⟩,
  ⟨"ATT_FLAGS", 0x608, 4, 0, 1, false, false, [⟨"NAN_OUT", 0, 1, .rw1c, 0x0, .any⟩, ⟨"MASKED_ROW", 1, 1, .rw1c, 0x0, .any⟩, ⟨"SAT_OUT", 2, 1, .rw1c, 0x0, .any⟩, ⟨"FLUSHED", 3, 1, .rw1c, 0x0, .any⟩, ⟨"V_RANGE", 4, 1, .rw1c, 0x0, .any⟩]⟩,
  ⟨"ATT_BODY_FAULT", 0x60c, 4, 0, 1, false, false, [⟨"DETAIL", 0, 8, .ro, 0x0, .any⟩]⟩,
  ⟨"ATT_RING_CFG", 0x610, 4, 0, 1, false, false, [⟨"OFF", 0, 24, .ro, 0x0, .any⟩, ⟨"SLOTS_M1", 24, 4, .ro, 0x0, .any⟩, ⟨"HDIM", 28, 2, .ro, 0x0, .any⟩, ⟨"VALID", 30, 1, .ro, 0x0, .any⟩]⟩,
  ⟨"ATT_RING_FMT", 0x614, 4, 0, 1, false, false, [⟨"KV_FMT", 0, 4, .ro, 0x0, .any⟩, ⟨"STOPPED", 4, 1, .ro, 0x0, .any⟩]⟩,
  ⟨"ATT_RING_PROD", 0x618, 4, 0, 1, false, false, [⟨"COUNT", 0, 32, .ro, 0x0, .any⟩]⟩,
  ⟨"ATT_RING_CONS", 0x61c, 4, 0, 1, false, false, [⟨"COUNT", 0, 32, .ro, 0x0, .any⟩]⟩,
  ⟨"ATT_WALK_STOP", 0x620, 4, 0, 1, false, false, [⟨"REASON", 0, 3, .ro, 0x0, .any⟩, ⟨"VALID", 3, 1, .rw1c, 0x0, .any⟩]⟩,
  ⟨"ATT_WALK_INDEX", 0x624, 4, 0, 1, false, false, [⟨"INDEX", 0, 32, .ro, 0x0, .any⟩]⟩,
  ⟨"ATT_WALK_ENTRY", 0x628, 4, 0, 1, false, false, [⟨"ENTRY", 0, 32, .ro, 0x0, .any⟩]⟩]

/-- Registers of the tile block, part 2. -/
def tileRegs2 : List RegSpec := [
  ⟨"ATT_WALK_LIST_LO", 0x62c, 4, 0, 1, false, false, [⟨"DPA", 0, 32, .ro, 0x0, .any⟩]⟩,
  ⟨"ATT_WALK_LIST_HI", 0x630, 4, 0, 1, false, false, [⟨"DPA", 0, 16, .ro, 0x0, .any⟩]⟩,
  ⟨"SHT_STATUS", 0x200, 4, 0, 1, false, false, [⟨"CH_BUSY", 0, 4, .ro, 0x0, .any⟩, ⟨"WALK", 4, 1, .ro, 0x0, .any⟩, ⟨"ORPHAN", 5, 1, .rw1c, 0x0, .any⟩]⟩,
  ⟨"SHT_BODY_FAULT", 0x204, 4, 0, 1, false, false, [⟨"DETAIL", 0, 8, .ro, 0x0, .any⟩]⟩,
  ⟨"SHT_FAULT_DETAIL", 0x208, 4, 0, 1, false, false, [⟨"DETAIL", 0, 4, .ro, 0x0, .any⟩, ⟨"CHANNEL", 4, 2, .ro, 0x0, .any⟩, ⟨"WRITE", 6, 1, .ro, 0x0, .any⟩]⟩,
  ⟨"SHT_FAULT_ADDR_LO", 0x20c, 4, 0, 1, false, false, [⟨"ADDR", 0, 32, .ro, 0x0, .any⟩]⟩,
  ⟨"SHT_FAULT_ADDR_HI", 0x210, 4, 0, 1, false, false, [⟨"ADDR", 0, 16, .ro, 0x0, .any⟩]⟩,
  ⟨"SHT_CH_SEQ", 0x220, 16, 0, 4, false, false, [⟨"SEQ", 0, 16, .ro, 0x0, .any⟩, ⟨"OPCODE", 16, 4, .ro, 0x0, .any⟩, ⟨"ACTIVE", 20, 1, .ro, 0x0, .any⟩]⟩,
  ⟨"SHT_CH_BYTES_LO", 0x224, 16, 0, 4, false, false, [⟨"BYTES", 0, 32, .ro, 0x0, .any⟩]⟩,
  ⟨"SHT_CH_BYTES_HI", 0x228, 16, 0, 4, false, false, [⟨"BYTES", 0, 32, .ro, 0x0, .any⟩]⟩,
  ⟨"SHT_RECV_POSTED", 0x260, 4, 0, 1, false, false, [⟨"CHAN", 0, 16, .ro, 0x0, .any⟩]⟩,
  ⟨"TRC_HEM_CFG", 0x400, 4, 0, 1, false, false, [⟨"EN", 0, 1, .rw, 0x0, .any⟩, ⟨"MODE", 1, 2, .rw, 0x0, .any⟩, ⟨"PRE", 3, 7, .rw, 0x32, .range 0 100⟩, ⟨"SPILL_WRAP", 10, 1, .rw, 0x0, .any⟩, ⟨"SRC", 11, 5, .rw, 0x1f, .any⟩]⟩,
  ⟨"TRC_HEM_STAT", 0x404, 4, 0, 1, false, false, [⟨"STATE", 0, 2, .ro, 0x0, .any⟩, ⟨"OVERFLOW", 2, 1, .rw1c, 0x0, .any⟩, ⟨"SPILL_REFUSED", 3, 1, .rw1c, 0x0, .any⟩, ⟨"XLATE", 4, 1, .rw1c, 0x0, .any⟩]⟩,
  ⟨"TRC_HEM_WPTR", 0x408, 4, 0, 1, false, false, [⟨"NEXT", 0, 10, .ro, 0x0, .any⟩, ⟨"WRAPPED", 10, 1, .ro, 0x0, .any⟩]⟩,
  ⟨"TRC_HEM_LOST", 0x40c, 4, 0, 1, false, false, [⟨"COUNT", 0, 32, .ro, 0x0, .any⟩]⟩,
  ⟨"TRC_SPILL_BASE", 0x410, 4, 0, 1, false, false, [⟨"BASE", 0, 13, .rw, 0x0, .any⟩]⟩,
  ⟨"TRC_SPILL_LEN", 0x414, 4, 0, 1, false, false, [⟨"LEN", 0, 13, .rw, 0x0, .any⟩]⟩,
  ⟨"TRC_SPILL_PTR", 0x418, 4, 0, 1, false, false, [⟨"NEXT", 0, 25, .ro, 0x0, .any⟩, ⟨"WRAPPED", 31, 1, .ro, 0x0, .any⟩]⟩,
  ⟨"TRC_LATE_WAIT", 0x41c, 4, 0, 1, false, false, [⟨"COUNT", 0, 32, .ro, 0x0, .any⟩]⟩,
  ⟨"TRC_HEM_SEL", 0x420, 4, 0, 1, false, false, [⟨"SLOT", 0, 10, .rw, 0x0, .any⟩]⟩]

/-- Registers of the tile block, part 3. -/
def tileRegs3 : List RegSpec := [
  ⟨"TRC_HEM_DATA", 0x424, 4, 0, 4, false, false, [⟨"DATA", 0, 32, .ro, 0x0, .any⟩]⟩,
  ⟨"TRC_IDS", 0x434, 4, 0, 1, false, false, [⟨"LAYER", 0, 16, .ro, 0x0, .any⟩, ⟨"OPERATOR", 16, 16, .ro, 0x0, .any⟩]⟩,
  ⟨"TRC_TRIG_CFG", 0x440, 8, 0, 4, false, false, [⟨"KIND", 0, 4, .rw, 0x0, .range 0 8⟩, ⟨"FREEZE", 4, 1, .rw, 0x0, .any⟩, ⟨"XMOD", 5, 1, .rw, 0x0, .any⟩, ⟨"XFAB", 6, 1, .rw, 0x0, .any⟩, ⟨"STOP", 7, 1, .rw, 0x0, .any⟩, ⟨"CNT", 8, 4, .rw, 0x0, .any⟩, ⟨"FIRED", 12, 1, .rw1c, 0x0, .any⟩]⟩,
  ⟨"TRC_TRIG_VAL", 0x444, 8, 0, 4, false, false, [⟨"VALUE", 0, 32, .rw, 0x0, .any⟩]⟩,
  ⟨"TRC_GATE", 0x460, 4, 0, 1, false, false, [⟨"LAYER", 0, 16, .rw, 0x0, .any⟩, ⟨"OPERATOR", 16, 16, .rw, 0x0, .any⟩]⟩,
  ⟨"TRC_GATE_MASK", 0x464, 4, 0, 1, false, false, [⟨"LAYER_MASK", 0, 16, .rw, 0xffff, .any⟩, ⟨"OP_MASK", 16, 16, .rw, 0xffff, .any⟩]⟩,
  ⟨"TRC_CNT_SEL", 0x480, 4, 0, 16, false, false, [⟨"EVENT", 0, 8, .rw, 0x0, .range 0 21⟩, ⟨"GATE", 8, 1, .rw, 0x0, .any⟩]⟩,
  ⟨"TRC_CNT_LO", 0x500, 8, 0, 16, false, false, [⟨"COUNT", 0, 32, .rw, 0x0, .any⟩]⟩,
  ⟨"TRC_CNT_HI", 0x504, 8, 0, 16, false, false, [⟨"COUNT", 0, 32, .rw, 0x0, .any⟩]⟩]

/-- Registers of the tile block. -/
def tileRegs : List RegSpec := tileRegs0 ++ tileRegs1 ++ tileRegs2 ++ tileRegs3

/-- Registers of the edge block, part 0. -/
def edgeRegs0 : List RegSpec := [
  ⟨"EDGE_CFG", 0x0, 4, 0, 1, false, false, [⟨"REFRESH_MODE", 0, 1, .rwt, 0x0, .any⟩, ⟨"SCRUB_EN", 1, 1, .rwt, 0x1, .any⟩, ⟨"SCRUB_PERIOD", 8, 8, .rwt, 0x18, .range 1 255⟩]⟩,
  ⟨"EDGE_STATUS", 0x4, 4, 0, 1, false, false, [⟨"BAND", 0, 2, .ro, 0x0, .any⟩, ⟨"RESERVE", 2, 2, .ro, 0x2, .any⟩, ⟨"OVERRUN", 4, 1, .rw1c, 0x0, .any⟩, ⟨"SCRUB_LATE", 5, 1, .rw1c, 0x0, .any⟩, ⟨"TRAINED", 6, 1, .ro, 0x0, .any⟩]⟩,
  ⟨"EDGE_CE_COUNT", 0x8, 4, 0, 1, false, false, [⟨"COUNT", 0, 32, .rw, 0x0, .any⟩]⟩,
  ⟨"EDGE_UE_COUNT", 0xc, 4, 0, 1, false, false, [⟨"COUNT", 0, 32, .rw, 0x0, .any⟩]⟩,
  ⟨"EDGE_UE_ADDR_LO", 0x10, 4, 0, 1, false, false, [⟨"DPA", 0, 32, .ro, 0x0, .any⟩]⟩,
  ⟨"EDGE_UE_ADDR_HI", 0x14, 4, 0, 1, false, false, [⟨"DPA", 0, 16, .ro, 0x0, .any⟩, ⟨"VALID", 31, 1, .rw1c, 0x0, .any⟩]⟩,
  ⟨"EDGE_SCRUB_PASSES", 0x18, 4, 0, 1, false, false, [⟨"COUNT", 0, 32, .ro, 0x0, .any⟩]⟩,
  ⟨"EDGE_LATE_COUNT", 0x1c, 4, 0, 1, false, false, [⟨"COUNT", 0, 32, .ro, 0x0, .any⟩]⟩,
  ⟨"EDGE_FLIP_CTRL", 0x20, 4, 0, 1, false, false, [⟨"ARM", 0, 1, .rw, 0x0, .any⟩, ⟨"ADDR_EN", 4, 1, .rw, 0x0, .any⟩]⟩,
  ⟨"EDGE_FLIP_POS", 0x24, 4, 0, 1, false, false, [⟨"POS0", 0, 7, .rw, 0x7f, .flipPos⟩, ⟨"POS1", 8, 7, .rw, 0x7f, .flipPos⟩, ⟨"POS2", 16, 7, .rw, 0x7f, .flipPos⟩, ⟨"POS3", 24, 7, .rw, 0x7f, .flipPos⟩]⟩,
  ⟨"EDGE_FLIP_PAT", 0x28, 4, 0, 1, false, false, [⟨"PAT", 0, 32, .rw, 0x0, .any⟩]⟩,
  ⟨"EDGE_FLIP_ADDR_LO", 0x2c, 4, 0, 1, false, false, [⟨"DPA", 0, 32, .rw, 0x0, .any⟩]⟩,
  ⟨"EDGE_FLIP_ADDR_HI", 0x30, 4, 0, 1, false, false, [⟨"DPA", 0, 16, .rw, 0x0, .any⟩]⟩,
  ⟨"EDGE_PC", 0x40, 4, 0, 32, false, false, [⟨"ERASURES", 0, 4, .ro, 0x0, .any⟩, ⟨"CE", 4, 16, .ro, 0x0, .any⟩]⟩,
  ⟨"EDGE_MARGIN_CTRL", 0x100, 4, 0, 1, false, false, [⟨"START", 0, 1, .wo, 0x0, .any⟩, ⟨"PC", 1, 5, .rw, 0x0, .any⟩, ⟨"PIN", 6, 7, .rw, 0x0, .range 0 71⟩]⟩,
  ⟨"EDGE_MARGIN_RESULT", 0x104, 4, 0, 1, false, false, [⟨"LEFT", 0, 8, .ro, 0x0, .any⟩, ⟨"RIGHT", 8, 8, .ro, 0x0, .any⟩, ⟨"LOW", 16, 8, .ro, 0x0, .any⟩, ⟨"HIGH", 24, 8, .ro, 0x0, .any⟩]⟩,
  ⟨"EDGE_MARGIN_STAT", 0x108, 4, 0, 1, false, false, [⟨"DONE", 0, 1, .rw1c, 0x0, .any⟩, ⟨"REFUSED", 1, 1, .rw1c, 0x0, .any⟩, ⟨"BUSY", 2, 1, .ro, 0x0, .any⟩, ⟨"DEAD", 3, 1, .ro, 0x0, .any⟩]⟩,
  ⟨"EDGE_BAR2_WIN_LO", 0x200, 8, 0, 16, true, true, [⟨"MODE", 0, 1, .rwt, 0x0, .any⟩, ⟨"BASE", 12, 20, .rwt, 0x0, .any⟩]⟩,
  ⟨"EDGE_BAR2_WIN_HI", 0x204, 8, 0, 16, true, true, [⟨"BASE", 0, 16, .rwt, 0x0, .any⟩]⟩,
  ⟨"NBU_BUSY_MAP", 0x300, 4, 0, 1, false, false, [⟨"BUSY", 0, 32, .ro, 0x0, .any⟩]⟩]

/-- Registers of the edge block, part 1. -/
def edgeRegs1 : List RegSpec := [
  ⟨"NBU_CLAIM_MAP", 0x304, 4, 0, 1, false, false, [⟨"CLAIM", 0, 32, .ro, 0x0, .any⟩]⟩,
  ⟨"NBU_TAG_STAT", 0x308, 4, 0, 1, false, false, [⟨"REFUSED", 0, 1, .rw1c, 0x0, .any⟩]⟩,
  ⟨"EDGE_TAG_BASE", 0x400, 16, 0, 8, false, true, [⟨"BASE", 0, 28, .rwt, 0x0, .any⟩]⟩,
  ⟨"EDGE_TAG_LEN", 0x404, 16, 0, 8, false, true, [⟨"LEN", 0, 28, .rwt, 0x0, .any⟩, ⟨"EN", 31, 1, .rwt, 0x0, .any⟩]⟩,
  ⟨"EDGE_TAG_TAGS", 0x408, 16, 0, 8, false, true, [⟨"TAGS", 0, 31, .rwt, 0x0, .any⟩]⟩]

/-- Registers of the edge block. -/
def edgeRegs : List RegSpec := edgeRegs0 ++ edgeRegs1

/-- Registers of the nbu block. -/
def nbuRegs : List RegSpec := [
  ⟨"NBU_STATUS", 0x0, 4, 0, 1, false, false, [⟨"BUSY", 0, 1, .ro, 0x0, .any⟩, ⟨"CLAIM", 1, 1, .ro, 0x0, .any⟩, ⟨"RING", 2, 2, .ro, 0x0, .any⟩, ⟨"CONFLICT", 4, 1, .rw1c, 0x0, .any⟩, ⟨"RING_ERR", 5, 1, .rw1c, 0x0, .any⟩, ⟨"ABORTED", 6, 1, .rw1c, 0x0, .any⟩]⟩,
  ⟨"NBU_CLAIM_START", 0x4, 4, 0, 1, false, false, [⟨"LINE", 0, 31, .ro, 0x0, .any⟩]⟩,
  ⟨"NBU_CLAIM_END", 0x8, 4, 0, 1, false, false, [⟨"LINE", 0, 31, .ro, 0x0, .any⟩]⟩,
  ⟨"NBU_OPS_DONE", 0xc, 4, 0, 1, false, false, [⟨"COUNT", 0, 32, .ro, 0x0, .any⟩]⟩,
  ⟨"NBU_RING_BASE", 0x10, 16, 0, 4, false, true, [⟨"BASE", 0, 31, .rwt, 0x0, .any⟩]⟩,
  ⟨"NBU_RING_CFG", 0x14, 16, 0, 4, false, true, [⟨"SLOTS_M1", 0, 8, .rwt, 0x1, .range 1 255⟩, ⟨"OWNER", 8, 2, .rwt, 0x1, .range 0 2⟩, ⟨"BOLT", 10, 4, .rwt, 0x0, .any⟩, ⟨"EN", 14, 1, .rwt, 0x0, .any⟩]⟩,
  ⟨"NBU_RING_PTR", 0x18, 16, 0, 4, false, false, [⟨"PROD", 0, 16, .ro, 0x0, .any⟩, ⟨"CONS", 16, 16, .ro, 0x0, .any⟩]⟩]

/-- Registers of the bar4 block. -/
def bar4Regs : List RegSpec := [
  ⟨"HST_SQ_BASE_LO", 0x0, 64, 0, 64, false, false, [⟨"ADDR", 6, 26, .rw, 0x0, .any⟩]⟩,
  ⟨"HST_SQ_BASE_HI", 0x4, 64, 0, 64, false, false, [⟨"ADDR", 0, 32, .rw, 0x0, .any⟩]⟩,
  ⟨"HST_CQ_BASE_LO", 0x8, 64, 0, 64, false, false, [⟨"ADDR", 6, 26, .rw, 0x0, .any⟩]⟩,
  ⟨"HST_CQ_BASE_HI", 0xc, 64, 0, 64, false, false, [⟨"ADDR", 0, 32, .rw, 0x0, .any⟩]⟩,
  ⟨"HST_Q_CFG", 0x10, 64, 0, 64, false, false, [⟨"SQ_SIZE_M1", 0, 16, .rw, 0x1, .range 1 65535⟩, ⟨"CQ_SIZE_M1", 16, 16, .rw, 0x1, .range 1 65535⟩]⟩,
  ⟨"HST_Q_CTRL", 0x14, 64, 0, 64, false, false, [⟨"VECTOR", 0, 8, .rw, 0x0, .any⟩, ⟨"EN", 8, 1, .rw, 0x0, .any⟩, ⟨"IEN", 9, 1, .rw, 0x0, .any⟩]⟩,
  ⟨"HST_Q_STAT", 0x18, 64, 0, 64, false, false, [⟨"SQ_HEAD", 0, 16, .ro, 0x0, .any⟩, ⟨"CQ_FULL", 16, 1, .ro, 0x0, .any⟩, ⟨"ERR", 17, 1, .rw1c, 0x0, .any⟩, ⟨"ACTIVE", 18, 1, .ro, 0x0, .any⟩]⟩,
  ⟨"HST_Q_DROP", 0x1c, 64, 0, 64, false, false, [⟨"COUNT", 0, 32, .ro, 0x0, .any⟩]⟩,
  ⟨"HST_CTRL", 0x10000, 4, 0, 1, false, false, [⟨"CTRL_PORT", 0, 1, .rw, 0x0, .any⟩, ⟨"TAKE_CTRL", 1, 1, .wo, 0x0, .any⟩, ⟨"TAKE_REFUSED", 2, 1, .rw1c, 0x0, .any⟩]⟩,
  ⟨"HST_BOLT", 0x10010, 4, 0, 12, false, false, [⟨"OWNER", 0, 2, .ro, 0x0, .any⟩, ⟨"CQ", 2, 6, .rw, 0x0, .any⟩, ⟨"IEN", 8, 1, .rw, 0x0, .any⟩, ⟨"CMD", 9, 2, .wo, 0x0, .any⟩, ⟨"LAST", 11, 2, .ro, 0x0, .any⟩, ⟨"DROPPED", 16, 16, .ro, 0x0, .any⟩]⟩,
  ⟨"HST_INTR", 0x10100, 4, 0, 1, false, false, [⟨"ERR_VEC", 0, 8, .rw, 0x0, .any⟩, ⟨"NBU_VEC", 8, 8, .rw, 0x0, .any⟩, ⟨"BOLT_VEC", 16, 8, .rw, 0x0, .any⟩, ⟨"EN", 24, 1, .rw, 0x0, .any⟩]⟩,
  ⟨"MSIX_ADDR_LO", 0x800000, 16, 0, 256, false, false, [⟨"ADDR", 0, 32, .rw, 0x0, .any⟩]⟩,
  ⟨"MSIX_ADDR_HI", 0x800004, 16, 0, 256, false, false, [⟨"ADDR", 0, 32, .rw, 0x0, .any⟩]⟩,
  ⟨"MSIX_DATA", 0x800008, 16, 0, 256, false, false, [⟨"DATA", 0, 32, .rw, 0x0, .any⟩]⟩,
  ⟨"MSIX_CTRL", 0x80000c, 16, 0, 256, false, false, [⟨"MASK", 0, 1, .rw, 0x1, .any⟩]⟩,
  ⟨"MSIX_PBA", 0x801000, 4, 0, 8, false, false, [⟨"PENDING", 0, 32, .ro, 0x0, .any⟩]⟩,
  ⟨"HST_SQ_TAIL", 0x100000, 4096, 0, 64, false, false, [⟨"TAIL", 0, 16, .wo, 0x0, .any⟩]⟩,
  ⟨"HST_CQ_HEAD", 0x100004, 4096, 0, 64, false, false, [⟨"HEAD", 0, 16, .wo, 0x0, .any⟩]⟩]

/-! ### The address map of BAR0 (R23, Table 1.9) -/

/-- The blocks of BAR0 with the instance they are read in: bolt, check unit, fabric port, compute stack, tile site (stack * 160 + site),
edge stack, near-bank unit (edge stack * 32 + unit). -/
inductive Blk where
  | id | mbx | rst | cfg | thm | tape | err | trc
  | bolt (b : Nat)
  | chk (d : Nat)
  | fab (f : Nat)
  | stk (s : Nat)
  | tile (g : Nat)
  | edge (e : Nat)
  | nbu (k : Nat)
  deriving DecidableEq, Repr

/-- The register table of a block. -/
def Blk.table : Blk → List RegSpec
  | .id => idRegs
  | .mbx => mbxRegs
  | .rst => rstRegs
  | .cfg => cfgRegs
  | .thm => thmRegs
  | .tape => tapeRegs
  | .err => errRegs
  | .trc => trcRegs
  | .bolt _ => boltRegs
  | .chk _ => chkRegs
  | .fab _ => fabRegs
  | .stk _ => stkRegs
  | .tile _ => tileRegs
  | .edge _ => edgeRegs
  | .nbu _ => nbuRegs

/-- The block's base offset in BAR0 (Table 1.9). -/
def Blk.base : Blk → Nat
  | .id => 0x0
  | .mbx => 0x1000
  | .rst => 0x10000
  | .cfg => 0x20000
  | .thm => 0x30000
  | .tape => 0x40000
  | .err => 0x50000
  | .trc => 0x60000
  | .bolt b => 0x41000 + b * 0x100
  | .chk d => 0x80000 + d * 0x4000
  | .fab f => 0x1000000 + f * 0x10000
  | .stk s => 0x2000000 + s * 0x100000
  | .tile g => 0x2000000 + g / 160 * 0x100000 + 0x10000 + g % 160 * 0x1000
  | .edge e => 0x3800000 + e * 0x40000
  | .nbu k => 0x3800000 + k / 32 * 0x40000 + 0x10000 + k % 32 * 0x100

/-- Whether the block is instance 0, the only one with the registers marked "instance 0 only". -/
def Blk.isZero : Blk → Bool
  | .fab f => f == 0
  | .stk s => s == 0
  | .edge e => e == 0
  | _ => true

/-- The block that holds a BAR0 offset (Table 1.9; the bolt windows of the TAPE block, the tile windows of an STK instance and the unit
windows of an EDGE instance are blocks of their own here). -/
def locate (off : Nat) : Option Blk :=
  if off < 0x1000 then some .id
  else if off < 0x10000 then some .mbx
  else if off < 0x20000 then some .rst
  else if off < 0x30000 then some .cfg
  else if off < 0x40000 then some .thm
  else if off < 0x41000 then some .tape
  else if off < 0x50000 then
    if (off - 0x41000) / 0x100 < 12 then some (.bolt ((off - 0x41000) / 0x100)) else none
  else if off < 0x60000 then some .err
  else if off < 0x80000 then some .trc
  else if off < 0x90000 then some (.chk ((off - 0x80000) / 0x4000))
  else if 0x1000000 ≤ off ∧ off < 0x10C0000 then some (.fab ((off - 0x1000000) / 0x10000))
  else if 0x2000000 ≤ off ∧ off < 0x2C00000 then
    let s := (off - 0x2000000) / 0x100000
    let r := (off - 0x2000000) % 0x100000
    if r < 0x10000 then some (.stk s)
    else if r < 0xB0000 then some (.tile (s * 160 + (r - 0x10000) / 0x1000))
    else none
  else if 0x3800000 ≤ off ∧ off < 0x3B00000 then
    let e := (off - 0x3800000) / 0x40000
    let r := (off - 0x3800000) % 0x40000
    if r < 0x10000 then some (.edge e)
    else if r < 0x12000 then some (.nbu (e * 32 + (r - 0x10000) / 0x100))
    else none
  else none

/-- The number of a row at an offset within its block, if the row covers the offset. -/
def RegSpec.index (r : RegSpec) (rel : Nat) : Option Nat :=
  if r.off ≤ rel ∧ (rel - r.off) % r.stride = 0 ∧ r.first ≤ (rel - r.off) / r.stride ∧ (rel - r.off) / r.stride < r.cnt then
    some ((rel - r.off) / r.stride)
  else none

/-- The first row of a table that covers an offset, with the number. -/
def findReg : List RegSpec → Nat → Option (RegSpec × Nat)
  | [], _ => none
  | r :: rs, rel =>
    match r.index rel with
    | some i => some (r, i)
    | none => findReg rs rel

/-- The register at a BAR0 offset: block, row and number; none where no block defines the offset (R23). -/
def regAt (off : Nat) : Option (Blk × RegSpec × Nat) :=
  match locate off with
  | none => none
  | some k =>
    match findReg k.table (off - k.base) with
    | none => none
    | some (r, i) => if r.only0 && !k.isZero then none else some (k, r, i)

/-- The register at an offset of BAR4 (Table 11.6). -/
def bar4At (off : Nat) : Option (RegSpec × Nat) := findReg bar4Regs off

/-- The word whose fields have their Reset values (R9). -/
def RegSpec.resetWord (r : RegSpec) : Nat := (r.fields.map fun f => f.reset * 2 ^ f.lo).sum

/-- The Reset word of a BAR0 register (R9); 0 where no register is. -/
def regReset (off : Nat) : BitVec 32 :=
  match regAt off with
  | none => 0
  | some (_, r, _) => BitVec.ofNat 32 r.resetWord

/-- The Reset word of a BAR4 register (R9). -/
def bar4Reset (off : Nat) : BitVec 32 :=
  match bar4At off with
  | none => 0
  | some (r, _) => BitVec.ofNat 32 r.resetWord

/-- Whether a field takes a value: not a reserved encoding (R12). The four positions of a flip register are checked together (R178) in
Machine/RegOps.lean. -/
def Valid.ok : Valid → Nat → Bool
  | .any, _ => true
  | .range lo hi, v => lo ≤ v && v ≤ hi
  | .flipPos, _ => true

end Sys2Proof.Machine
end

