-- ==== Sys2Proof/Machine/SMap.lean ====
section
/-! DEFINITION. Sparse maps: association lists over a default, the form of every indexed piece of state; and memory, the same with one
canonical form (addresses strictly rising, no entry equal to what an unlisted address reads as). -/
namespace Sys2Proof.Machine

/-- A map from numbers to values that differs from its default at finitely many keys. -/
abbrev SMap (α : Type) := List (Nat × α)

/-- The value at key `k`, `d` where the map lists none. -/
def SMap.get {α : Type} (d : α) : SMap α → Nat → α
  | [], _ => d
  | (k', v) :: m, k => if k' = k then v else SMap.get d m k

/-- The value at key `k`, if the map lists one. -/
def SMap.find {α : Type} : SMap α → Nat → Option α
  | [], _ => none
  | (k', v) :: m, k => if k' = k then some v else SMap.find m k

/-- The map with `v` at key `k`. -/
def SMap.set {α : Type} : SMap α → Nat → α → SMap α
  | [], k, v => [(k, v)]
  | (k', v') :: m, k, v =>
    if k' = k then (k, v) :: m
    else if k < k' then (k, v) :: (k', v') :: m
    else (k', v') :: SMap.set m k v

/-- The map without an entry at key `k`. -/
def SMap.erase {α : Type} (m : SMap α) (k : Nat) : SMap α := m.filter (fun e => e.1 != k)

/-- Memory: bytes by address in the model's one address space (Memory map, Machine/Layout.lean). -/
abbrev Mem := List Host.Cell

/-- What a byte that nothing has written reads as: zero (R341 for every exposed line; log entry 3 before it). -/
def Mem.unlisted : BitVec 8 := 0

/-- One byte of memory. -/
def Mem.read (m : Mem) (a : Nat) : BitVec 8 := SMap.get Mem.unlisted m a

/-- One byte written; writing what an unlisted address reads as removes the entry. -/
def Mem.write (m : Mem) (a : Nat) (v : BitVec 8) : Mem :=
  if v = Mem.unlisted then SMap.erase m a else SMap.set m a v

/-- `n` bytes from address `a`, the lowest first. -/
def Mem.readN (m : Mem) (a : Nat) : Nat → List (BitVec 8)
  | 0 => []
  | n + 1 => m.read a :: Mem.readN m (a + 1) n

/-- The bytes written from address `a`, the first at the lowest address. -/
def Mem.writeN (m : Mem) (a : Nat) : List (BitVec 8) → Mem
  | [] => m
  | v :: vs => Mem.writeN (m.write a v) (a + 1) vs

/-- Little-endian value of bytes (R7). -/
def leNat : List (BitVec 8) → Nat
  | [] => 0
  | b :: bs => b.toNat + 256 * leNat bs

/-- The `n` little-endian bytes of a number (R7). -/
def leBytes : Nat → Nat → List (BitVec 8)
  | 0, _ => []
  | n + 1, v => BitVec.ofNat 8 v :: leBytes n (v / 256)

/-- Little-endian number of `n` bytes at `a` (R7). -/
def Mem.readLE (m : Mem) (a n : Nat) : Nat := leNat (m.readN a n)

/-- `n` little-endian bytes of `v` written at `a` (R7). -/
def Mem.writeLE (m : Mem) (a n v : Nat) : Mem := m.writeN a (leBytes n v)

/-- Every byte of [a, a+n) back to what an unlisted address reads as. -/
def Mem.clear (m : Mem) (a n : Nat) : Mem := m.filter (fun c => !(a ≤ c.1 && c.1 < a + n))

/-- The `n` bytes at `src` copied to `dst`, all read before any is written. -/
def Mem.copy (m : Mem) (src dst n : Nat) : Mem :=
  (m.filter (fun c => src ≤ c.1 && c.1 < src + n)).foldl
    (fun acc c => acc.write (dst + (c.1 - src)) c.2) (m.clear dst n)

/-- The canonical form: addresses strictly rising, no entry at its unlisted value. -/
abbrev Mem.wf (m : Mem) : Prop :=
  m.Pairwise (fun x y => x.1 < y.1) ∧ ∀ c ∈ m, c.2 ≠ Mem.unlisted

/-- A run [a, b) joined to ascending runs. -/
def runsAdd : List (Nat × Nat) → Nat → Nat → List (Nat × Nat)
  | [], a, b => [(a, b)]
  | r :: l, a, b => if b < r.1 then (a, b) :: r :: l else if r.2 < a then r :: runsAdd l a b else runsAdd l (min r.1 a) (max r.2 b)

/-- A run [a, b) taken out of runs. -/
def runsSub (l : List (Nat × Nat)) (a b : Nat) : List (Nat × Nat) :=
  l.flatMap fun r => [(r.1, min r.2 a), (max r.1 b, r.2)].filter fun x => decide (x.1 < x.2)

end Sys2Proof.Machine
end

