-- ==== Sys2Proof/Machine/State.lean ====
section
/-! DEFINITION. The state of the module as plain data, with everything the spec gives it, and the state right after reset. Register words
stand in `regs` (BAR0 by offset) and `bar4` (by port and offset), where a word that is not listed has its Reset column's value
(Machine/RegTable.lean); registers that only show another piece of state are computed from it when read (Machine/RegView.lean). -/
namespace Sys2Proof.Machine

/-! ### Tiles (chapters 3 to 5, 8, 17) -/

/-- TILE_STATUS.STATE (Table 3.14). -/
inductive Mode where | idle | running | halted | faulted
  deriving DecidableEq, Repr

/-- Where an issued command stands: handed on and waiting behind another (R71), executing, completed but not retired (R73), or
stopped at its restart point (R94, R96). -/
inductive Phase where | waiting | running | done | stopped
  deriving DecidableEq, Repr

/-- A command that has left the queue and has not retired (R71, R73, R94). `uid` counts issues; `due` is the tape at which its fixed
duration ends; `prog` is its progress (Table 3.12; for MM and MMA the output beats done); `seed` is the seed captured at issue (R119);
`chan` the shuttle channel (R214); `aux` a number of the command's own; `cap` the bytes it read at issue (position descriptor, program; R70, R78). -/
structure Flight where
  uid   : Nat
  desc  : BitVec 512
  phase : Phase
  start : Nat
  due   : Nat
  prog  : Nat
  seed  : BitVec 256
  chan  : Nat
  aux   : Nat
  cap   : List (BitVec 8)
  deriving DecidableEq, Repr

/-- A posted RECV (R227): its flight, buffer bobbin offset, LEN and bytes written. -/
structure RecvPost where
  uid : Nat
  off : Nat
  len : Nat
  got : Nat
  deriving DecidableEq, Repr

/-- What is wrong with a stored codeword (R170, R174, R178, R419): the symbols (or bits) that differ with the difference, or the marker
codeword, which always decodes as uncorrectable. -/
structure CodeErr where
  flips  : List (Nat × BitVec 8)
  marker : Bool
  deriving DecidableEq, Repr

/-- The hem (R448 to R457): 1,024 slots, write position, the run of lost records, post-trigger count, freeze tape, the TCLK count at which the
entry queue is empty (R450), the tape of a halt with EN set (R451), the records of the spill queue not yet drained, the settings
taken with EN and what is wrong with its stored words (R174). -/
structure Hem where
  slots   : SMap (BitVec 128)
  next    : Nat
  wrapped : Bool
  hstate  : Nat
  lost    : Nat
  runLost : Nat
  firstLost : Nat
  lastLost  : Nat
  post    : Nat
  sinceSync : Nat
  freezeAt : Option Nat
  queueAt  : Nat
  gapFrom  : Option Nat
  queued   : Nat
  cfg      : BitVec 32
  words    : SMap CodeErr
  deriving DecidableEq, Repr

/-- The fault that a set VALID kept out of CMD_FAULT, the earliest in queue order of its TCLK cycle (R92): its tape, place in queue order, words,
the OVERFLOW before it, and whether the cycle had two. -/
structure LateFault where
  tape  : Nat
  order : Nat
  words : List (BitVec 32)
  ovf   : Bool
  two   : Bool
  deriving DecidableEq, Repr

/-- The TCLK cycle in which a tile's trigger units fired last (R456): a tape of it, whether the hem froze in it, and whether a cross-trigger and a
frame have gone out. -/
structure Fired where
  tape   : Nat
  frozen : Bool
  xmod   : Bool
  xfab   : Bool
  deriving DecidableEq, Repr

/-- A tile's attribution accumulator (R460, Table 17.5). -/
structure AttrAcc where
  layer    : Nat
  operator : Nat
  retired  : Nat
  array    : Nat
  vector   : Nat
  moved    : Nat
  updated  : Nat
  deriving DecidableEq, Repr

/-- A request of a tile that waits for an operation of its bolt (R203): the uid of the shuttle command that makes it, or none with the offset
and the kind (0 line read, 1 line write, 2 needle read) of a request by itself; the edge stack; and, of each ring there that its bolt owns, unit,
ring and PROD as the request arrived. -/
structure Wait where
  uid   : Option Nat
  off   : Nat
  kind  : Nat
  e     : Nat
  bells : List (Nat × Nat × Nat)
  deriving DecidableEq, Repr

/-- A tile site (chapter 3): control core, queue, engines' commands in flight, fault slot, RECV postings, vector registers, hem; then the
tapes since which the present head waits, the clock counters are settled, a shuttle channel executes and ATTN waits on its ring (R459);
`drainSet` is TILE_STATUS.DRAINED of a faulted tile (R90); `waited` the requests that wait on a claim (R203); `faultAt` the
tape and place in queue order of the fault that CMD_FAULT records, `faultLate` the fault of its TCLK cycle that it did not record (R92); `fired` the trigger units that fired last (R456);
`atTack` is a tack arrived at and not released with its STACK_EASE and EASE_NEXT, `reported` an arrival whose TACK waits for the end of a
pause (R263), `lastEase` the EASE_NEXT and STACK_EASE declared last (R395); `code` holds the runs of instruction SRAM whose words came from one of the sources of R330, ascending. -/
structure Tile where
  g        : SMap (BitVec 64)
  pc       : BitVec 64
  run      : Bool
  faulted  : Bool
  haltExec : Bool
  readyAt  : Nat
  loadReg  : Nat
  loadAt   : Nat
  waitSeq  : Option Nat
  pushing  : Option (BitVec 512 × Nat)
  queue    : List (BitVec 512)
  fault    : Option (BitVec 512)
  flight   : List Flight
  nextUid  : Nat
  recvs    : SMap (Option RecvPost)
  vregs    : SMap (BitVec 32)
  hem      : Hem
  attr     : List AttrAcc
  nextTack : Nat
  altTack  : Option Nat
  atTack   : Option (Nat × Nat × Nat)
  reported : Bool
  lastEase : Nat × Nat
  easeUntil : Nat
  saved    : Bool
  fwBitmap : BitVec 32
  fwMatch  : Bool
  iramHost : Bool
  code     : List (Nat × Nat)
  epoch    : Nat
  headAt   : Nat
  clkFrom  : Nat
  shutFrom : Nat
  ringFrom : Nat
  drainSet : Bool
  waited   : List Wait
  faultAt  : Option (Nat × Nat)
  faultLate : Option LateFault
  fired    : Option Fired
  deriving DecidableEq, Repr

/-- The whole of an instruction SRAM. -/
def wholeCode : List (Nat × Nat) := [(0, 65536)]
/-- The word of instruction SRAM at an offset came from one of the sources of R330. -/
def Tile.codeAt (t : Tile) (a : Nat) : Bool := t.code.any fun r => decide (r.1 ≤ a ∧ a + 4 ≤ r.2)
/-- The core may execute what stands at its program counter; a program counter that is no word of instruction SRAM faults instead (R68, R330). -/
def Tile.codeOk (t : Tile) : Bool := t.pc.toNat % 4 != 0 || decide (0x10000 ≤ t.pc.toNat) || t.codeAt t.pc.toNat

/-- Data of a SEND on its way over the mesh (R226, R227), with the tape at which it left. -/
structure MeshMsg where
  id    : Nat
  at_   : Nat
  src   : Nat
  uid   : Nat
  dst   : Nat
  chan  : Nat
  data  : List (BitVec 8)
  last  : Bool
  deriving DecidableEq, Repr

/-! ### Bolts and patterns (chapter 9) -/

/-- One schedule of a pattern (section 0x0006): minimum widths, start entry point, deadline and entry point of each tack. -/
structure Sched where
  minw  : List Nat
  start : Nat
  tacks : List (Nat × Nat)
  deriving DecidableEq, Repr

/-- An edge range claimed (Table 9.9): stack, in-stack offset and length in bytes. -/
structure ERange where
  stack : Nat
  off   : Nat
  len   : Nat
  deriving DecidableEq, Repr

/-- A pattern as admission reads it from its image (Tables 9.1 to 9.3, 9.9). -/
structure Pattern where
  stkMask  : Nat
  fabric   : Bool
  thermal  : Nat
  reserve  : Nat
  tacks    : Nat
  maxInt   : Nat
  tackLat  : Nat
  slipLen  : Nat
  coord    : Nat
  dims     : Nat
  aclk     : Nat
  tiles    : List (Nat × Nat × Nat)
  ranges   : List ERange
  ports    : Nat
  edgeBw   : List Nat
  needle   : List Nat
  seamBw   : List Nat
  rings    : List (Nat × Nat × Nat × Nat × Nat)
  scheds   : List Sched
  parent   : Nat
  children : Nat
  retag    : List ERange
  deriving DecidableEq, Repr

/-- Why the schedule count stands still (Table 9.5), or that it advances. -/
inductive Pause where
  | none
  | hold
  | slip (until_ : Nat)
  | pace (until_ : Nat)
  deriving DecidableEq, Repr

/-- A bolt (R245, R251 to R263): its pattern, start tape, tape cycles paused before, start of the present pause (the schedule count is
computed from these three, Bolt.countAt), requester and tape of the last load and start, pauses to come (slips by schedule count, pace pauses by tack and
length), tack aggregation (`sent2`: the second report), pending pre-emption and bolt operation; `base` is the count at T0 (0, or R_N of a restored bolt); `relAt` is the count of the last
release, `endAt` the tape of its end; `absent` names the logical tiles (stack * 144 + n) that a restored image does not hold (R238); `silent` after a missing decision, when no further
reports go out (R292). -/
structure Bolt where
  pat      : Option Pattern
  loadBy   : Nat
  stitchAt : Nat
  t0       : Option Nat
  base     : Nat
  endAt    : Option Nat
  pausedAcc : Nat
  pauseFrom : Nat
  pause    : Pause
  slips    : List Nat
  paces    : List (Nat × Nat)
  tack     : Nat
  relAt    : Nat
  arrived  : List Nat
  sent     : Bool
  sent2    : Bool
  reports  : List TackMsg
  decision : Option TackMsg
  holdFrom : Nat
  holdFlag : Bool
  release  : Option Nat
  lateMod  : Option (Nat × Nat × Nat)
  stopPend : Bool
  preempt  : Option (Option Nat)
  saving   : Bool
  restoreTack : Option Nat
  absent   : List Nat
  op       : Nat
  opBad    : Bool
  retire   : List Nat
  silent   : Bool
  deriving DecidableEq, Repr

/-! ### Transactions (R369 to R377) -/

/-- A requester's transaction (R369, R370): open, baste tape, staged writes in order, and the fields of its status registers. -/
structure Txn where
  isOpen  : Bool
  baste   : Nat
  staged  : List (Nat × BitVec 32)
  full    : Bool
  waiting : Bool
  result  : Nat
  code    : Nat
  refuse  : Nat
  apply   : Nat
  err     : BitVec 3
  deriving DecidableEq, Repr

/-- An accepted transaction, stitched at `tape`, waiting for its tape T, or for the tack release of a bolt (R372, R184). -/
structure Stitched where
  req    : Req
  writes : List (Nat × BitVec 32)
  at_    : Nat
  bolt   : Option Nat
  lone   : Bool
  tape   : Nat
  deriving DecidableEq, Repr

/-! ### Errors (chapter 16) -/

/-- An error record (Table 16.2). -/
structure ErrRec where
  seq      : Nat
  cls      : Nat
  source   : Nat
  index    : Nat
  tape     : Nat
  code     : Nat
  layer    : Nat
  operator : Nat
  bolt     : Option Nat
  count    : Nat
  detail   : Nat
  deriving DecidableEq, Repr

/-- A descriptor waiting at or running on a check unit (R439): its number, from tile site `tile` (flight uid) or CHK_SUB; `resume` of a CHK that
continues its own descriptor is the saved running value and byte count (R441, R444). -/
structure ChkJob where
  id    : Nat
  tile  : Option (Nat × Nat)
  addr  : Nat
  len   : Nat
  alg   : Nat
  ctx   : Nat
  alive : Nat
  load  : Bool
  init  : BitVec 64
  res   : Nat
  begun : Bool
  resume : Option (Nat × Nat)
  deriving DecidableEq, Repr

/-- A check unit (R438 to R445): descriptors waiting in arrival order, the number of the next one, the context served last, and its reset epoch. -/
structure ChkUnit where
  jobs    : List ChkJob
  nextId  : Nat
  lastCtx : Nat
  epoch   : Nat
  deriving DecidableEq, Repr

/-! ### Host ports (chapter 11) -/

/-- A queue pair (R315 to R318): its pointers, records the head has not passed, phase of the next record, the completion records not yet
written, and the data moves in progress: entry, bytes done, head after it. -/
structure QPair where
  sqHead : Nat
  sqTail : Nat
  cqPos  : Nat
  cqHead : Nat
  used   : Nat
  phase  : Bool
  doneQ  : List (Nat × Nat × Nat × Nat × Nat)
  moving : List (BitVec 512 × Nat × Nat)
  deriving DecidableEq, Repr

/-- A host port's link and power state (R313, R322, R323) and its PCIe options (Table 11.1): lanes and rate (0 for 2.5 GT/s to 5 for 64 GT/s) of the
link, negotiated Max Payload and Max Read Request sizes in bytes, ECRC generation and checking, MSI-X Enable and Function Mask, AER Uncorrectable
Error Status, Severity and Mask, and what the header log names. -/
structure HostPort where
  linkUp    : Bool
  perst     : Bool
  flr       : Bool
  d3hot     : Bool
  busMaster : Bool
  rr        : Nat
  width     : Nat
  rate      : Nat
  payload   : Nat
  readSize  : Nat
  ecrcGen   : Bool
  ecrcCheck : Bool
  msixOn    : Bool
  msixMask  : Bool
  aer       : BitVec 32
  severity  : BitVec 32
  aerMask   : BitVec 32
  header    : Nat
  deriving DecidableEq, Repr

/-! ### Memory channels and near-bank units (chapters 6, 7, 15) -/

/-- A vertical channel or pseudo-channel (R159, R170, R415 to R417): erasure list, spares used in order (symbol, connection), tapes of the latest
corrections per symbol position (R415), lines corrected per row in this scrub pass (R186), the tape at which a bank is free, sideband
connections failed (signal, connection; R414), the tape from which the next refresh window is looked for, and the end of the window that
refresh uses (R181, R182). -/
structure Chan where
  erasures : List Nat
  spares   : List (Nat × Nat)
  posHits  : SMap (List Nat)
  rowHits  : SMap (List Nat)
  bankFree : SMap Nat
  sideband : List (Nat × Nat)
  winNext  : Nat
  winBusy  : Nat
  deriving DecidableEq, Repr

/-- The patrol scrub pass of a stack (R175): the tape at which it began, and the runs of lines read in it, ascending. -/
structure Scrub where
  start : Option Nat
  seen  : List (Nat × Nat)
  deriving DecidableEq, Repr

/-- Bytes within one line that an append has still to write: at in-stack offset `dst`, `copy` bytes from in-stack offset `src`, then `data`. -/
structure Piece where
  dst  : Nat
  src  : Nat
  copy : Nat
  data : List (BitVec 8)
  deriving DecidableEq, Repr

/-- The part of an append under way (R211): per swatch its list entry, number, first position and positions; whether the first is a copy (R147);
the list entries it names when it is written; the bytes still to write; and the status and failing line it then ends with. -/
structure ApPart where
  swts   : List (Nat × Nat × Nat × Nat)
  cow    : Bool
  names  : List (Nat × Nat)
  pieces : List Piece
  stop   : Option (Nat × Nat)
  deriving DecidableEq, Repr

/-- An operation running on a near-bank unit (R194, R195): ring, descriptor, destination bytes completed (DONE), source bytes, elements or
positions taken, RESULT, the open subtrees of a REDUCE (R42), conflict seen, tags written, the in-stack runs it claims and those it reads
(R200, R202), the DPAs of the table entries it reads, the host-tagged regions of its stack and where their tags lie as it was fetched (R206),
the indices of a GATHER or SCATTER as it was fetched, the order of a SCATTER's lines, and the part of an append under way. -/
structure NbuOp where
  ring     : Nat
  desc     : BitVec 512
  prog     : Nat
  taken    : Nat
  result   : Nat
  stk      : List (BitVec 32 × Nat)
  conflict : Bool
  retagged : Bool
  claims   : List (Nat × Nat)
  reads    : List (Nat × Nat)
  tbl      : List Nat
  tags     : List (ERange × Nat)
  idx      : List Nat
  order    : List Nat
  part     : Option ApPart
  deriving DecidableEq, Repr

/-- A near-bank unit (chapter 7): the operation running on each ring, availability, reset epoch. -/
structure Nbu where
  ops     : SMap (Option NbuOp)
  failed  : Bool
  epoch   : Nat
  deriving DecidableEq, Repr

/-! ### Fabric (chapter 10) -/

/-- A flit in a scheduled slot (R277, R279): whether it originates here, its first choice, the tape at which it is at the port, the port it came in
by, and whether it has been counted as moved. -/
structure Placed where
  flit   : Flit
  own    : Bool
  first  : Nat
  at_    : Nat
  inPort : Nat
  moved  : Bool
  deriving DecidableEq, Repr

/-- Reserved traffic that waits at a port (R290): precedence, the tape and the schedule count from which it waits, and the flit. -/
structure Waiting where
  prec  : Nat
  since : Nat
  count : Nat
  flit  : Flit
  deriving DecidableEq, Repr

/-- A fabric port (R270 to R289): training attempts, sequence numbers, the acknowledgement sent last, a missing sequence awaited and its NAK still
to go out; the replay buffer and the unsent backlog with the tape at which each flit's slot started and that of its last sending or of its
coming to the port; reserved traffic and the count of the next reserved slot free; the scheduled slots taken; the slips asked for, by the newest
flit then unacknowledged; failing lanes, those that the next report told (R287), the lanes that pass at both ends, whether it trained or failed
other than by CABLING, when the link is free (in hundredths of a tape cycle), and the coordinate and dimensions with which it trains (R340). -/
structure FabPort where
  attempts : Nat
  txSeq    : Nat
  rxSeq    : Nat
  ackSent  : Nat
  nakOut   : Bool
  nakDue   : Bool
  replay   : List (Flit × Nat × Nat)
  backlog  : List (Flit × Nat × Nat)
  resv     : List Waiting
  resvNext : Nat
  slots    : SMap Placed
  nextSlot : Nat
  slipAsked : Bool
  slipMarks : List Nat
  failing  : BitVec 4
  told     : BitVec 4
  both     : BitVec 4
  busyUntil : Nat
  laneUnc  : SMap (List Nat)
  settled  : Bool
  geo      : (Nat × Nat × Nat) × (Nat × Nat × Nat)
  deriving DecidableEq, Repr

/-! ### HKC, record store, fuses, thermal, pins, debug -/

/-- A fuse word (R338): two copies, each with its value and whether its parity is valid. -/
structure FuseWord where
  a   : Nat
  aOk : Bool
  b   : Nat
  bOk : Bool
  deriving DecidableEq, Repr

/-- The value of a fuse word: the copy with valid parity, the first when both are; none when neither is. -/
def FuseWord.value (w : FuseWord) : Option Nat := if w.aOk then some w.a else if w.bOk then some w.b else none

/-- Fuses (R338), each word in two copies: variant with its limits, serial number, KEY_HASH, identity key seeds; for each die its identity and position
(base dies, then the dies of the compute stacks and of the edge stacks); the repair maps found at die and module test, each word with the number of its
die in that order: DRAM rows and banks replaced, vertical-connection spares assigned, seam lane groups spared. -/
structure Fuses where
  variantW : FuseWord
  serialW  : FuseWord
  keyHashW : FuseWord
  seedsW   : FuseWord
  dies     : SMap FuseWord
  rowsW    : List (Nat × FuseWord)
  banksW   : List (Nat × FuseWord)
  connsW   : List (Nat × FuseWord)
  lanesW   : List (Nat × FuseWord)
  deriving DecidableEq, Repr

def Fuses.variant (f : Fuses) : Nat := f.variantW.value.getD 0
def Fuses.serial (f : Fuses) : Nat := f.serialW.value.getD 0
def Fuses.keyHash (f : Fuses) : BitVec 256 := BitVec.ofNat 256 (f.keyHashW.value.getD 0)
/-- The values of a repair map's valid words. -/
def fuseVals (l : List (Nat × FuseWord)) : List Nat := l.filterMap fun x => x.2.value
/-- A map entry in a fuse word: a channel or seam in the low 16 bits, a row, bank or lane group above (the packing is the model's own). -/
def fusePair (v : Nat) : Nat × Nat := (v % 2 ^ 16, v / 2 ^ 16)
def Fuses.rows (f : Fuses) : List (Nat × Nat) := (fuseVals f.rowsW).map fusePair
def Fuses.banks (f : Fuses) : List (Nat × Nat) := (fuseVals f.banksW).map fusePair
/-- Spares assigned: channel, symbol, connection. -/
def Fuses.conns (f : Fuses) : List (Nat × Nat × Nat) := (fuseVals f.connsW).map fun v => (v % 2 ^ 16, v / 2 ^ 16 % 2 ^ 8, v / 2 ^ 24)
def Fuses.lanes (f : Fuses) : List (Nat × Nat) := (fuseVals f.lanesW).map fusePair
/-- The word of a die's identity and position; one that stands nowhere else names the die itself. -/
def Fuses.die (f : Fuses) (d : Nat) : FuseWord := (f.dies.find d).getD ⟨d, true, d, true⟩
/-- A fuse word of die `d` is invalid: base dies 0 to 3, compute stacks from 4, edge stacks from 16; the words of the whole module stand on B0
(DEDUCED, log entry 86). -/
def Fuses.bad (f : Fuses) (d : Nat) : Bool :=
  (f.die d).value.isNone || (f.rowsW ++ f.banksW ++ f.connsW ++ f.lanesW).any (fun x => x.1 == d && x.2.value.isNone)
    || (d == 0 && [f.variantW, f.serialW, f.keyHashW, f.seedsW].any fun w => w.value.isNone)
def Fuses.badDie (f : Fuses) : List Nat := (List.range 28).filter f.bad

/-- An entry of the alteration record (Table 12.6). -/
structure AltEntry where
  step   : Nat
  kind   : Nat
  item   : Nat
  code   : Nat
  action : Nat
  fails  : Nat
  first  : Nat
  last   : Nat
  detail : Nat
  deriving DecidableEq, Repr

/-- A shutdown record (Table 14.4). -/
structure ShutRec where
  causes : Nat
  unit   : Nat
  domain : Nat
  seq    : Nat
  starts : Nat
  tape   : Nat
  hottest : List Nat
  inlet  : Int
  outlet : Int
  flow   : Nat
  power  : Nat
  bolts  : Nat
  deriving DecidableEq, Repr

/-- The record store (R349, Table 12.8), which every reset keeps: start count, alteration record, leaf-index slots, rows marked for
darning, the rows held in spare rows, the banks held in spare banks and the rows held in the darning pool (R185; channel, row or bank), fatal
records, shutdown records, life counts, spares used and erasures of channels; `pulse` is the tape at which the last write pulse ends (R358). -/
structure Store where
  starts : Nat
  alts   : List AltEntry
  leafA  : Option (Nat × Nat)
  leafB  : Option (Nat × Nat)
  rows   : List (Nat × Nat)
  spareRows  : List (Nat × Nat)
  spareBanks : List (Nat × Nat)
  poolRows   : List (Nat × Nat)
  fseq   : Nat
  fatals : SMap ErrRec
  shutSeq : Nat
  shuts  : SMap ShutRec
  cycles : SMap Nat
  chans  : SMap (List (Nat × Nat) × List Nat)
  pulse  : Nat
  deriving DecidableEq, Repr

/-- The HKC and boot ROM (chapter 12): whether the rails are good and the HKC image runs, the staged segment numbers of each image type, the
segment being staged, the measurements of the images last verified, BODY_DIGEST of the tile image last verified and of the body that each site's slice
keeps (R343, R345), the image each stack's tiles run, unicast rounds run,
sites that failed an earlier step of this start (`shortFw`: that have not matched the digest yet), stacks unavailable, the
items of ACTION 2 that the record named at this start (R347), whether the record is ignored, whether step 8 has ended, the tape at which the
step began, the codes of the fabric lanes that have failed in step 7, and the mailbox command that runs (R352). -/
structure Hkc where
  powered   : Bool
  imageRuns : Bool
  staged1   : List Nat
  staged2   : List Nat
  staging   : Option (Nat × Nat)
  hkcMeas   : BitVec 512
  fwMeas    : BitVec 512
  fwDigest  : BitVec 512
  copies    : SMap (BitVec 512)
  verified2 : Bool
  stackMeas : SMap (BitVec 512)
  rounds    : Nat
  siteFail  : List Nat
  shortFw   : List (Nat × BitVec 32)
  stackFail : List Nat
  skip      : List (Nat × Nat)
  altIgnore : Bool
  memtested : Bool
  stepAt    : Nat
  laneCodes : List Nat
  cmd       : Option Nat
  deriving DecidableEq, Repr

/-- One temperature channel (R384 to R387, R392): value of the last round in 1/16 °C, broken, rounds at the same code with the partner's
value when they began, rounds for which the pair (kept at its even channel) disagrees, successive comparator samples at trip. -/
structure Sensor where
  value : Int
  bad   : Bool
  same  : Nat
  partnerAt : Int
  dis   : Nat
  hits  : Nat
  deriving DecidableEq, Repr

/-- A throttle level and the round in which it began (R393, R408). -/
structure Throttle where
  level  : Nat
  since  : Nat
  deriving DecidableEq, Repr

/-- The reversal detector of a stack (R404): whether the reading rises, its extreme since the last reversal, the last valley. -/
structure Life where
  rising  : Bool
  extreme : Int
  valley  : Int
  deriving DecidableEq, Repr

/-- Thermal and power management (chapter 14): the tape at which the next round starts and the rounds run; temperature sensors; the values of
the other channels; domains at warn, at throttle and without a valid sensor (0-11 array, 12-23 DRAM, 24-35 edge stack, 36-39 base die); levels of
the domains 0-23 and of power (24); life counting; the hottest cap-die and DRAM reading of each stack in the last round and the rounds of
sudden rise; ΔT per kW of the last 70 s, rounds of slow coolant loss and without it, derate limit in percent, inlet below 15 °C; capping and
the rounds below 98 % of the limit; the last FLOW_IN edge, flow and whether an interval was measured; ACLK gated, DRAM in self-refresh,
stacks kept warm. -/
structure Thermal where
  nextRound : Nat
  round    : Nat
  sensors  : SMap Sensor
  chan     : SMap Int
  warn     : List Nat
  hot      : List Nat
  lost     : List Nat
  thr      : SMap Throttle
  life     : SMap Life
  hotMs    : SMap Nat
  cyc      : SMap Nat
  capMax   : List Int
  rise     : Nat
  dtHist   : List (Option Int)
  coolBad  : Nat
  coolOk   : Nat
  derate   : Nat
  cold     : Bool
  capping  : Bool
  capOk    : Nat
  flowAt   : Option Nat
  flow     : Nat
  flowOk   : Bool
  aclkGated : Bool
  selfRefresh : Bool
  keepWarm : List Nat
  deriving DecidableEq, Repr

/-- Signals (Table 18.2): the status outputs (true when asserted, that is low), the tape at which
TAPE_SYNC_OUT falls, reset pins held low, GPIO levels, supply. -/
structure Pins where
  thermtrip  : Bool
  thermalert : Bool
  fault      : Bool
  syncPulse  : Nat
  low        : List ResetPin
  gpio       : BitVec 8
  v48        : Bool
  fabref     : Bool
  deriving DecidableEq, Repr

/-- Resets (R353 to R368, R428): the level in progress (0 none) and the tape of its assertion; a level asked for and not yet performed,
whether it waits for a record-store pulse, and whether LEAVING has gone out for it; source bits of the requests, as RST_CAUSE [10:0] has them; held by a shutdown; READY has been set since
the last level-1 or level-2 reset; the steps after a core reset up to step 7 are under way (R362); block reset in progress with its start; base-die
resets in progress with their start; reset epochs of the base-die shuttles; stacks whose
clocks a lost PLL lock gates (R367); the tack trees (parent, children) of the fabric patterns that a held reset ended, which its ports go on serving
(R398). -/
structure ResetSt where
  level    : Nat
  since    : Nat
  want     : Nat
  waits    : Bool
  left     : Bool
  causes   : Nat
  heldShut : Bool
  wasReady : Bool
  steps    : Bool
  blk      : Option (BlockRef × Nat)
  bd       : SMap Nat
  shutEpoch : SMap Nat
  gated    : Nat
  trees    : SMap (Nat × Nat)
  deriving DecidableEq, Repr

/-- One direction of a seam (R423 to R426): tapes of the errors attributed to each lane (group * 16 + lane), groups whose spare is in use,
the failed copy of the flit that is to come again and how often it has failed, the last 32 flits sent, and the tape, in thirtieths of a cycle, at which
the direction is free. -/
structure Seam where
  hits   : SMap (List Nat)
  spared : List Nat
  failed : Option (List (BitVec 8))
  tries  : Nat
  sent   : List (List (BitVec 8))
  free   : Nat
  deriving DecidableEq, Repr

/-- The test access port (R466, R467): instruction register, boundary-scan register, captured DBG_REG data. -/
structure Jtag where
  ir       : Nat
  boundary : List Bool
  capture  : BitVec 64
  deriving DecidableEq, Repr

/-- An entry held by a global stop (R462, R464): KIND, index, tape at which it was written, data. -/
structure HeldEntry where
  kind  : Nat
  index : Nat
  tape  : Nat
  data  : List (BitVec 8)
  deriving DecidableEq, Repr

/-- Trace and global stop of the module (R457 to R464): attribution table in order, accumulators sent to the HKC for the next round, tape of
an armed stop, stop taken with the tape at which the scheduled domain stopped and its held entries, the cross-triggers sent or received
(tape, ID). -/
structure Trace where
  attr    : List AttrAcc
  sent    : List AttrAcc
  armed   : Option Nat
  stopped : Bool
  stopTape : Nat
  held    : List HeldEntry
  xtrigs  : List (Nat × BitVec 8)
  deriving DecidableEq, Repr

/-- The management endpoint (R325): SMBus address, I3C dynamic address once assigned. -/
structure MgmtEp where
  smbus : BitVec 7
  i3c   : Option (BitVec 7)
  deriving DecidableEq, Repr

/-- What the module sends out, in order: read data, completions, MSI-X messages, writes to host memory, pin levels, frames. -/
inductive Output where
  | regData (q : Req) (bar : Bar) (off : Nat) (val : BitVec 64)
  | bar2Data (p : Port) (h : Nat) (data : List (BitVec 8))
  | unsupported (p : Port)
  | completerAbort (p : Port)
  | msix (p : Port) (vec : Nat)
  | hostWrite (p : Port) (addr : Nat) (data : List (BitVec 8))
  | line (l : LineRef) (at_ : Nat) (data : List (BitVec 8))
  | lineDone (l : LineRef) (at_ : Nat)
  | lineUe (l : LineRef)
  | needle (e : Fin 12) (off at_ : Nat) (data : List (BitVec 8))
  | tableReply (status result : Nat)
  | flit (f at_ : Nat) (parts : List (Nat × List (BitVec 8)))
  | mgmtAnswer (data : List (BitVec 8))
  | tdo (bits : List Bool)
  | pin (name : String) (level : Bool)
  deriving DecidableEq, Repr

/-- The module. -/
structure State where
  /-- the commands waiting, first in, first out -/
  pending  : List Instr
  /-- the tape count (R241) -/
  tape     : Nat
  /-- BAR0 register words by BAR0 offset (R8, R9, R23) -/
  regs     : SMap (BitVec 32)
  /-- BAR4 register words by port * 2^24 + offset; the shared range stands under port 0 (R305, Table 11.6) -/
  bar4     : SMap (BitVec 32)
  /-- _HI values latched by reads of _LO registers, by requester and register (R8) -/
  latch    : SMap (BitVec 32)
  /-- all memories, at the addresses of Machine/Layout.lean -/
  mem      : Mem
  /-- codewords whose stored symbols differ from their data (R170, R174) -/
  errs     : SMap CodeErr
  /-- vertical channels and pseudo-channels -/
  chans    : SMap Chan
  /-- the scrub pass of compute stacks 0 to 11 and edge stacks 12 to 23 (R175) -/
  scrubs   : SMap Scrub
  /-- sites that are to move and wait for their stack's migration, in order, each with whether it moves with a copy (R414, R418) -/
  migs     : List (Nat × Bool)
  /-- the needle path of each edge stack: the tape, in twelfths of a cycle, at which it is free (R163) -/
  needle   : SMap Nat
  /-- tile sites, by stack * 160 + site -/
  tiles    : SMap Tile
  /-- SEND data on the mesh (R227) -/
  mesh     : List MeshMsg
  meshId   : Nat
  /-- bolts 0 to 11 -/
  bolts    : SMap Bolt
  /-- the requesters' transactions: 0 P0, 1 P1, 2 HKC -/
  txns     : SMap Txn
  /-- transactions accepted and not yet applied, in the order of their stitches (R375) -/
  stitched : List Stitched
  /-- the error log by slot (R434) -/
  log      : SMap ErrRec
  /-- per port: ERR_LOG_SEL and the latched record's words (R446) -/
  logSel   : SMap (BitVec 32)
  /-- queue pairs, by port * 64 + n -/
  qps      : SMap QPair
  /-- host ports -/
  hports   : SMap HostPort
  /-- near-bank units, by stack * 32 + unit -/
  nbus     : SMap Nbu
  /-- check units 0 to 3 -/
  chks     : SMap ChkUnit
  /-- seams, by seam * 2 + direction -/
  seams    : SMap Seam
  /-- fabric ports 0 to 11 -/
  fab      : SMap FabPort
  hkc      : Hkc
  store    : Store
  fuses    : Fuses
  therm    : Thermal
  pins     : Pins
  rst      : ResetSt
  jtag     : Jtag
  trace    : Trace
  mgmt     : MgmtEp
  /-- the tape at which the slew in progress ends (R242) -/
  slewTo   : Nat
  /-- the tape from which the next timing exchange is due (R294) -/
  timingAt : Nat
  /-- what has been sent out, oldest first -/
  out      : List Output
  /-- the model's own draw counter: how many free values have been taken (log entry 7) -/
  free     : Nat
  deriving DecidableEq, Repr

/-- Why the machine stops. -/
inductive Fault where
  /-- Raised by no meaning: a command whose operands break WellFormed runs as well, with free values where the spec states none (log entry 6).
  Safe. -/
  | illFormed
  deriving DecidableEq, Repr

/-- Why a command has no meaning. -/
inductive Refusal where
  /-- Raised by an arm of exec whose command is not modelled. Safe. -/
  | notModelled (mnemonic : String)
  deriving DecidableEq, Repr

/-! ### Reset -/

def Hem.reset : Hem := ⟨[], 0, false, 0, 0, 0, 0, 0, 0, 0, none, 0, none, 0, 0, []⟩

/-- A tile after power-on reset: halted, with an empty queue (Table 3.14); registers at 0 (log entry 4). -/
def Tile.reset : Tile :=
  { g := [], pc := 0, run := false, faulted := false, haltExec := false, readyAt := 0, loadReg := 0, loadAt := 0, waitSeq := none,
    pushing := none, queue := [], fault := none, flight := [], nextUid := 0, recvs := [], vregs := [], hem := .reset,
    attr := [], nextTack := 0, altTack := none, atTack := none, reported := false, lastEase := (0, 0), easeUntil := 0, saved := false, fwBitmap := 0,
    fwMatch := false, iramHost := false, code := [], epoch := 0, headAt := 0, clkFrom := 0, shutFrom := 0, ringFrom := 0, drainSet := false, waited := [],
    faultAt := none, faultLate := none, fired := none }

def Bolt.reset : Bolt :=
  { pat := none, loadBy := 0, stitchAt := 0, t0 := none, base := 0, endAt := none, pausedAcc := 0, pauseFrom := 0, pause := .none, slips := [], paces := [], tack := 0, relAt := 0, arrived := [],
    sent := false, sent2 := false, reports := [], decision := none, holdFrom := 0, holdFlag := false, release := none, lateMod := none,
    stopPend := false, preempt := none, saving := false, restoreTack := none, absent := [], op := 0, opBad := false, retire := [],
    silent := false }

def Txn.reset : Txn :=
  { isOpen := false, baste := 0, staged := [], full := false, waiting := false, result := 0, code := 0, refuse := 0, apply := 0, err := 0 }

def ChkUnit.reset : ChkUnit := ⟨[], 0, 0, 0⟩
def QPair.reset : QPair := ⟨0, 0, 0, 0, 0, true, [], []⟩
/-- A port with no link yet (step 2 of Table 12.1 trains it); its options at the PCIe specification's reset values (PRESUMED, log entry 13). -/
def HostPort.reset : HostPort :=
  { linkUp := false, perst := false, flr := false, d3hot := false, busMaster := false, rr := 0, width := 0, rate := 0, payload := 128,
    readSize := 512, ecrcGen := false, ecrcCheck := false, msixOn := false, msixMask := false, aer := 0, severity := 0x00462030, aerMask := 0x00400000, header := 0 }
def Chan.reset : Chan := ⟨[], [], [], [], [], [], 0, 0⟩
def Scrub.reset : Scrub := ⟨none, []⟩
def Nbu.reset : Nbu := ⟨[], false, 0⟩
def FabPort.reset : FabPort := ⟨0, 0, 0, 0, false, false, [], [], [], 0, [], 0, false, [], 0, 0, 0, 0, [], false, ((0, 0, 0), (1, 1, 1))⟩
def Sensor.reset : Sensor := ⟨0, false, 0, 0, 0, 0⟩
def Throttle.reset : Throttle := ⟨0, 0⟩
def Seam.reset : Seam := ⟨[], [], none, 0, [], 0⟩
def Hkc.reset : Hkc :=
  { powered := false, imageRuns := false, staged1 := [], staged2 := [], staging := none, hkcMeas := 0, fwMeas := 0, fwDigest := 0, copies := [],
    verified2 := false, stackMeas := [], rounds := 0, siteFail := [], shortFw := [], stackFail := [], skip := [], altIgnore := false,
    memtested := false, stepAt := 0, laneCodes := [], cmd := none }
def Thermal.reset : Thermal :=
  { nextRound := 1000000, round := 0, sensors := [], chan := [], warn := [], hot := [], lost := [], thr := [], life := [], hotMs := [],
    cyc := [], capMax := [], rise := 0, dtHist := [], coolBad := 0, coolOk := 0, derate := 100, cold := false, capping := false,
    capOk := 0, flowAt := none, flow := 0, flowOk := false, aclkGated := false, selfRefresh := false, keepWarm := [] }
/-- The record store of a module that has never started, with leaf slot A valid at index 0 (DESIGN CHOICE, log entry 5). -/
def Store.reset : Store :=
  { starts := 0, alts := [], leafA := some (0, 0), leafB := none, rows := [], spareRows := [], spareBanks := [], poolRows := [], fseq := 0, fatals := [], shutSeq := 0, shuts := [],
    cycles := [], chans := [], pulse := 0 }
/-- The fuses of a VZF-Q12-A with serial number 0 (DESIGN CHOICE, log entry 5). -/
def Fuses.reset : Fuses :=
  let word (v : Nat) : FuseWord := ⟨v, true, v, true⟩
  { variantW := word 0, serialW := word 0, keyHashW := word 0, seedsW := word 0, dies := [], rowsW := [], banksW := [], connsW := [],
    lanesW := [] }
def Pins.reset : Pins := ⟨false, false, false, 0, [], 0, true, true⟩
def ResetSt.reset : ResetSt := ⟨0, 0, 0, false, false, 0, false, false, false, none, [], [], 0, []⟩
/-- The test access port selects IDCODE (R466). -/
def Jtag.reset : Jtag := ⟨1, [], 0⟩
def Trace.reset : Trace := ⟨[], [], none, false, 0, [], []⟩
/-- SMBus mode at address 0x4A (R325). -/
def MgmtEp.reset : MgmtEp := ⟨0x4A, none⟩

/-- The module right after power-on reset is released, before step 1 of bring-up (R353, Table 13.1, R9): no command waiting, tape 0,
every register at its Reset column, every tile halted with an empty queue, memory with nothing listed. -/
def State.reset : State :=
  { pending := [], tape := 0, regs := [], bar4 := [], latch := [], mem := [], errs := [], chans := [], scrubs := [], migs := [], needle := [], tiles := [], mesh := [],
    meshId := 0, bolts := [], txns := [], stitched := [], log := [], logSel := [], qps := [], hports := [], nbus := [], chks := [], seams := [],
    fab := [], hkc := .reset, store := .reset, fuses := .reset, therm := .reset, pins := .reset, rst := .reset, jtag := .reset,
    trace := .reset, mgmt := .reset, slewTo := 0, timingAt := 0, out := [], free := 0 }

end Sys2Proof.Machine
end

