-- ==== Sys2Proof/Machine/Ops.lean ====
section
/-! DEFINITION. The operations every meaning is written with: register fields, parts of the state by index, time, who owns what, what goes
out, interrupts and the error log. -/
namespace Sys2Proof.Machine

/-- What a meaning answers. -/
abbrev Result := Host.Outcome State Fault Refusal

/-! ### Words and fields (R7) -/

/-- The bits of a field in a word. -/
def fget (f : Fld) (w : BitVec 32) : Nat := w.toNat / 2 ^ f.lo % 2 ^ f.w

/-- The word with a field at a value, the other bits unchanged. -/
def fput (f : Fld) (w : BitVec 32) (v : Nat) : BitVec 32 :=
  BitVec.ofNat 32 (w.toNat / 2 ^ (f.lo + f.w) * 2 ^ (f.lo + f.w) + v % 2 ^ f.w * 2 ^ f.lo + w.toNat % 2 ^ f.lo)

/-- `w` bits of a number from bit `lo` on. -/
def bits (n lo w : Nat) : Nat := n / 2 ^ lo % 2 ^ w
def bit (n i : Nat) : Bool := n.testBit i
def b2n (b : Bool) : Nat := if b then 1 else 0

/-- The signed value of the low `w` bits of `n`. -/
def sext (w n : Nat) : Int := (BitVec.ofNat w n).toInt

/-- A counter that stops at the all-ones value of its width (R189, R446, R468). -/
def satAdd (w a n : Nat) : Nat := min (a + n) (2 ^ w - 1)

def ceilDiv (a b : Nat) : Nat := (a + b - 1) / b
def anyB {α : Type} (p : α → Bool) (l : List α) : Bool := l.any p

/-! ### Registers -/

/-- The word of a BAR0 register: what is stored, or its Reset word (R9). -/
def State.word (s : State) (off : Nat) : BitVec 32 := SMap.get (regReset off) s.regs off
def State.setWord (s : State) (off : Nat) (v : BitVec 32) : State := { s with regs := s.regs.set off v }

/-- A field of a register of a block. -/
def State.r (s : State) (k : Blk) (f : Fld) : Nat := fget f (s.word (k.base + f.off))
def State.w (s : State) (k : Blk) (f : Fld) (v : Nat) : State :=
  s.setWord (k.base + f.off) (fput f (s.word (k.base + f.off)) v)
/-- One-bit fields. -/
def State.b (s : State) (k : Blk) (f : Fld) : Bool := s.r k f == 1
def State.wb (s : State) (k : Blk) (f : Fld) (v : Bool) : State := s.w k f (b2n v)
/-- A counter field that stops at its all-ones value. -/
def State.inc (s : State) (k : Blk) (f : Fld) (n : Nat := 1) : State := s.w k f (satAdd f.w (s.r k f) n)
/-- A counter field that wraps (MAP_EPOCH, GEN). -/
def State.wrapInc (s : State) (k : Blk) (f : Fld) : State := s.w k f (s.r k f + 1)
/-- A quantity in a _LO and _HI pair (R8). -/
def State.r2 (s : State) (k : Blk) (lo hi : Fld) : Nat := s.r k lo + 2 ^ 32 * s.r k hi
def State.w2 (s : State) (k : Blk) (lo hi : Fld) (v : Nat) : State := (s.w k lo v).w k hi (v / 2 ^ 32)

/-- The key of a BAR4 register: the shared range is one for both ports (R305). -/
def bar4Key (p : Nat) (off : Nat) : Nat := if 0x10000 ≤ off ∧ off < 0x10100 then off else p * 0x1000000 + off
def State.word4 (s : State) (p off : Nat) : BitVec 32 := SMap.get (bar4Reset off) s.bar4 (bar4Key p off)
def State.setWord4 (s : State) (p off : Nat) (v : BitVec 32) : State := { s with bar4 := s.bar4.set (bar4Key p off) v }
def State.r4 (s : State) (p : Nat) (f : Fld) : Nat := fget f (s.word4 p f.off)
def State.w4 (s : State) (p : Nat) (f : Fld) (v : Nat) : State := s.setWord4 p f.off (fput f (s.word4 p f.off) v)
def State.inc4 (s : State) (p : Nat) (f : Fld) : State := s.w4 p f (satAdd f.w (s.r4 p f) 1)

/-! ### Parts by index -/

def State.tile (s : State) (g : Nat) : Tile := s.tiles.get Tile.reset g
def State.setTile (s : State) (g : Nat) (t : Tile) : State := { s with tiles := s.tiles.set g t }
def State.modTile (s : State) (g : Nat) (f : Tile → Tile) : State := s.setTile g (f (s.tile g))
def State.bolt (s : State) (b : Nat) : Bolt := s.bolts.get Bolt.reset b
def State.setBolt (s : State) (b : Nat) (v : Bolt) : State := { s with bolts := s.bolts.set b v }
def State.modBolt (s : State) (b : Nat) (f : Bolt → Bolt) : State := s.setBolt b (f (s.bolt b))
def State.txn (s : State) (q : Nat) : Txn := s.txns.get Txn.reset q
def State.setTxn (s : State) (q : Nat) (v : Txn) : State := { s with txns := s.txns.set q v }
def State.qp (s : State) (p n : Nat) : QPair := s.qps.get QPair.reset (p * 64 + n)
def State.setQp (s : State) (p n : Nat) (v : QPair) : State := { s with qps := s.qps.set (p * 64 + n) v }
def State.hport (s : State) (p : Nat) : HostPort := s.hports.get HostPort.reset p
def State.setHport (s : State) (p : Nat) (v : HostPort) : State := { s with hports := s.hports.set p v }
def State.nbu (s : State) (k : Nat) : Nbu := s.nbus.get Nbu.reset k
def State.setNbu (s : State) (k : Nat) (v : Nbu) : State := { s with nbus := s.nbus.set k v }
def State.chkU (s : State) (d : Nat) : ChkUnit := s.chks.get ChkUnit.reset d
def State.setChkU (s : State) (d : Nat) (v : ChkUnit) : State := { s with chks := s.chks.set d v }
def State.chan (s : State) (c : Nat) : Chan := s.chans.get Chan.reset c
def State.setChan (s : State) (c : Nat) (v : Chan) : State := { s with chans := s.chans.set c v }
def State.fport (s : State) (f : Nat) : FabPort := s.fab.get FabPort.reset f
def State.setFport (s : State) (f : Nat) (v : FabPort) : State := { s with fab := s.fab.set f v }
def State.sensor (s : State) (c : Nat) : Sensor := s.therm.sensors.get Sensor.reset c
def State.thr (s : State) (k : Nat) : Throttle := s.therm.thr.get Throttle.reset k
def State.setThr (s : State) (k : Nat) (v : Throttle) : State := { s with therm := { s.therm with thr := s.therm.thr.set k v } }

/-- The vertical channels and pseudo-channels by one number: channel c of site g, pseudo-channel p of edge stack e. -/
def sliceChan (g c : Nat) : Nat := g * 2 + c
def edgeChan (e p : Nat) : Nat := 10000 + e * 32 + p

def State.seam (s : State) (k : Nat) : Seam := s.seams.get Seam.reset k
def State.setSeam (s : State) (k : Nat) (v : Seam) : State := { s with seams := s.seams.set k v }

/-- The next free value, and the state that has taken it (log entry 7). -/
def State.draw (s : State) : BitVec 64 × State := (Config.freeValue s.free, { s with free := s.free + 1 })

/-- `n` bytes of data: those given, and free values where there are fewer (DESIGN CHOICE, log entry 6). -/
def State.fill (s : State) (n : Nat) (l : List (BitVec 8)) : List (BitVec 8) × State :=
  if n ≤ l.length then (l.take n, s)
  else
    (l ++ (List.range (n - l.length)).map fun i => (Config.freeValue (s.free + i)).truncate 8, { s with free := s.free + (n - l.length) })

/-- A write pulse of the record store begins; it lasts at most 20 µs (R358), the length being free. -/
def State.pulse (s : State) : State :=
  let (v, s) := s.draw
  { s with store := { s.store with pulse := s.tape + v.toNat % 20001 } }

/-! ### Blocks held in reset (R363, R428) -/

/-- The stack's clocks run: its PLL has not lost lock (R367). -/
def State.clocked (s : State) (g : Nat) : Bool := !bit s.rst.gated (g / 160)

/-- The boot ROM or the HKC image runs: the rails are good, and neither power-on nor system reset is asserted (Table 18.2). -/
def State.romRuns (s : State) : Bool := s.hkc.powered && s.rst.level != 1 && s.rst.level != 2

def State.dieHeld (s : State) (d : Nat) : Bool := (s.rst.bd.find d).isSome
def State.tileHeld (s : State) (g : Nat) : Bool :=
  s.dieHeld (g / 160 / 3) || (match s.rst.blk with
    | some (.tile t, _) => t.g == g
    | _ => false)
def State.nbuHeld (s : State) (k : Nat) : Bool :=
  s.dieHeld (k / 32 / 3) || (match s.rst.blk with
    | some (.nbu e u, _) => e.val * 32 + u.val == k
    | _ => false)
def State.shutHeld (s : State) (d : Nat) : Bool :=
  s.dieHeld d || (match s.rst.blk with
    | some (.shuttle x, _) => x.val == d
    | _ => false)
def State.chkHeld (s : State) (d : Nat) : Bool :=
  s.dieHeld d || (match s.rst.blk with
    | some (.check x, _) => x.val == d
    | _ => false)

/-! ### Paths between base dies (R426, R428) -/

/-- The seam between two adjacent base dies: 0 (B0–B1), 1 (B2–B3), 2 (B0–B2), 3 (B1–B3). -/
def seamOf (a b : Nat) : Option Nat :=
  if a / 2 = b / 2 ∧ a ≠ b then some (a / 2) else if a % 2 = b % 2 ∧ a ≠ b then some (2 + a % 2) else none

/-- A seam carries traffic. -/
def State.seamUp (s : State) (n : Nat) : Bool := s.r .rst (F.SEAM_STATUS_WIDTH n) != 0

/-- The routes between two base dies, each as the dies it visits (R426): one between adjacent dies, two of two seams between diagonal ones. -/
def routesOf (a b : Nat) : List (List Nat) :=
  if a = b then [[a]] else if (seamOf a b).isSome then [[a, b]] else [[a, Nat.xor a 1, b], [a, Nat.xor a 2, b]]

/-- The steps of a route, and the seam and direction of a step: direction 0 runs from the lower-numbered die. -/
def hopsOf (r : List Nat) : List (Nat × Nat) := r.zip r.tail
def hopKey (h : Nat × Nat) : Option Nat := (seamOf h.1 h.2).map fun n => 2 * n + b2n (decide (h.2 < h.1))

/-- A route can be taken: its seams are up and no die on it is in reset. -/
def State.routeUp (s : State) (r : List Nat) : Bool :=
  (hopsOf r).all (fun h => (seamOf h.1 h.2).any s.seamUp) && r.all fun d => !s.dieHeld d

/-- The base die of the memory at an address. -/
def dieAt (a : Nat) : Option Nat :=
  match placeOf a with
  | .edge e _ => some (e / 3)
  | .slice g _ => some (g / 480)
  | .bobbin g _ => some (g / 480)
  | _ => none

/-! ### Time (R19, R241, R489; log entry 2) -/

/-- ACLK in MHz as bring-up set it (R339). -/
def State.aclk (s : State) : Nat := s.r .id F.ID_W2_ACLK_SET
/-- `n` ACLK cycles in tape cycles, rounded up. -/
def State.aclkCycles (s : State) (n : Nat) : Nat := ceilDiv (n * 1000) s.aclk
/-- `n` TCLK cycles in tape cycles, rounded up (TCLK is ACLK/2). -/
def State.tclkCycles (s : State) (n : Nat) : Nat := ceilDiv (n * 2000) s.aclk
/-- The TCLK cycles that have ended by a tape count. -/
def State.tclkAt (s : State) (tape : Nat) : Nat := tape * s.aclk / 2000
/-- The TCLK cycles between two tape counts. -/
def State.tclkSpan (s : State) (t0 t1 : Nat) : Nat := s.tclkAt t1 - s.tclkAt t0
/-- `n` SCLK cycles (2.0 GHz) in tape cycles, rounded up. -/
def sclkCycles (n : Nat) : Nat := (n + 1) / 2

/-- The tape advanced to `n`, if it is not there yet. -/
def State.advanceTo (s : State) (n : Nat) : State := { s with tape := max s.tape n }

/-- One tape cycle with no command waiting (R241; log entry 2); the tape stands at 0 in a power-on reset (log entry 60). -/
def State.tick (s : State) : State := if s.rst.level = 1 then s else s.advanceTo (s.tape + 1)

/-- The schedule count of a bolt at a tape (R251, R263): tape = T0 + (count - base) + paused while it advances; it stands while a pause lasts. -/
def Bolt.countAt (b : Bolt) (tape : Nat) : Nat :=
  match b.t0 with
  | none => 0
  | some t => b.base + ((if b.pause = .none then min tape (b.endAt.getD tape) else b.pauseFrom) - t - b.pausedAcc)

/-- The pause cycles accumulated by a tape (PAT_PAUSED). -/
def Bolt.pausedAt (b : Bolt) (tape : Nat) : Nat :=
  b.pausedAcc + (if b.pause = .none then 0 else min tape (b.endAt.getD tape) - b.pauseFrom)

/-- The tape at which the count of an unpaused bolt reaches `c`. -/
def Bolt.tapeOf (b : Bolt) (c : Nat) : Nat := b.t0.getD 0 + (c - b.base) + b.pausedAcc


/-! ### Numbering (R14 to R17) -/

def dieOf (stack : Nat) : Nat := stack / 3

/-- The site of a module logical tile, if it is assigned. -/
def State.siteOf (s : State) (m : Nat) : Option Nat :=
  if m < 1728 ∧ s.b (.stk (m / 144)) (F.STK_LMAP_VALID (m % 144)) then
    some (m / 144 * 160 + s.r (.stk (m / 144)) (F.STK_LMAP_SITE (m % 144)))
  else none

/-- The local logical number at a site: 0xFE darned, 0xFF none (Table 1.10). -/
def State.ltile (s : State) (g : Nat) : Nat := s.r (.stk (g / 160)) (F.STK_SMAP_LTILE (g % 160))

/-- The module logical tile at a site, if it has one. -/
def State.mtile (s : State) (g : Nat) : Option Nat :=
  if s.ltile g < 144 then some (g / 160 * 144 + s.ltile g) else none

/-- The bolt a compute stack belongs to (R245). -/
def State.boltOf (s : State) (stack : Nat) : Option Nat :=
  (List.range 12).find? fun b => bit (s.r (.bolt b) F.BOLT_STACKS_STACKS) stack

/-- The pattern state of a bolt: 0 empty, 1 loading, 2 admitted, 3 refused, 4 running, 5 holding, 6 paused, 7 ended (Table 9.8). -/
def State.patState (s : State) (b : Nat) : Nat := s.r (.bolt b) F.PAT_STATUS_STATE

/-- Whether a bolt's pattern has started and not ended. -/
def State.patRuns (s : State) (b : Nat) : Bool := let v := s.patState b; 4 ≤ v && v ≤ 6

/-- Whether a pattern holds, loads or runs on a bolt (states loading to paused). -/
def State.patBusy (s : State) (b : Nat) : Bool := let v := s.patState b; v == 1 || v == 2 || s.patRuns b

/-- The selected schedule of a bolt's pattern (PAT_STATUS.SCHED). -/
def State.schedOf (s : State) (b : Nat) : Option Sched :=
  (s.bolt b).pat.bind fun p => p.scheds[s.r (.bolt b) F.PAT_STATUS_SCHED]?

/-- D_N and R_N (Tacks, chapter 9). -/
def State.deadlineOf (s : State) (b n : Nat) : Option Nat := (s.schedOf b).bind fun x => x.tacks[n]?.map (·.1)
def State.releaseOf (s : State) (b n : Nat) : Option Nat :=
  (s.bolt b).pat.bind fun p => (s.deadlineOf b n).map (· + p.tackLat)

/-- The schedule counts at which the count stops until a pause or a release has been taken: slips, pace pauses, the next R_N (R263). -/
def State.stopsOf (s : State) (b : Nat) : List Nat :=
  let x := s.bolt b
  x.slips ++ (x.paces.filterMap fun p => if p.1 < x.tack then some x.relAt else s.releaseOf b p.1) ++ (s.releaseOf b x.tack).toList

/-- The tape of the scheduled domain: it stands at the tape of a global stop (R462, R463). -/
def State.schedTape (s : State) : Nat := if s.trace.stopped then min s.tape s.trace.stopTape else s.tape

/-- The schedule count of a bolt now (PAT_SCHED): it does not pass a pause or a release that is still to be taken. -/
def State.countOf (s : State) (b : Nat) : Nat := (s.stopsOf b).foldl min ((s.bolt b).countAt s.schedTape)

/-- The count reaches `c` with no pause before it or at it (R263). -/
def State.canReach (s : State) (b c : Nat) : Bool :=
  !s.trace.stopped && s.patRuns b && (s.bolt b).pause == .none && (s.stopsOf b).all fun v => decide (c < v)

/-- The pattern of a bolt has started and not ended, and no global stop holds it (R463). -/
def State.patLive (s : State) (b : Nat) : Bool := s.patRuns b && !s.trace.stopped

/-- Whether a compute stack belongs to a bolt whose pattern is running. -/
def State.stackRuns (s : State) (stack : Nat) : Bool :=
  match s.boltOf stack with
  | some b => s.patRuns b
  | none => false

/-- The reserve class in use in an edge stack and in a compute stack (R250). -/
def State.edgeReserve (s : State) (e : Nat) : Nat :=
  let l := (List.range 12).filterMap fun o => if s.patRuns o then (s.bolt o).pat.bind fun q => if q.ranges.any (fun r => r.stack == e) then some q.reserve else none else none
  if l = [] then 2 else l.foldl max 0
def State.stackReserve (s : State) (k : Nat) : Nat :=
  match s.boltOf k with
  | some b => if s.patRuns b then ((s.bolt b).pat.map (·.reserve)).getD 2 else 2
  | none => 2

/-- The sites of a bolt's stacks. -/
def State.boltSites (s : State) (b : Nat) : List Nat :=
  (List.range 1920).filter fun g => bit (s.r (.bolt b) F.BOLT_STACKS_STACKS) (g / 160)

/-- The sites of the tiles of a bolt: the logical tiles of its stacks (R15, R245), but for those that a restored image does not hold, which take no part
in the pattern (R238). -/
def State.boltTiles (s : State) (b : Nat) : List Nat :=
  (List.range 12).flatMap fun k =>
    if bit (s.r (.bolt b) F.BOLT_STACKS_STACKS) k then
      (List.range 144).filterMap fun n => if (s.bolt b).absent.contains (k * 144 + n) then none else s.siteOf (k * 144 + n)
    else []

/-- The sites of the tiles that a bolt's pattern programs. -/
def State.patSites (s : State) (b : Nat) : List Nat :=
  match (s.bolt b).pat with
  | none => []
  | some p => p.tiles.filterMap fun t => s.siteOf t.1

/-! ### Requests across base dies (R426) -/

/-- The claim of a pattern on a seam, the larger of its directions. -/
def Pattern.seamClaim (p : Pattern) (n : Nat) : Nat := max (p.seamBw.getD (2 * n) 0) (p.seamBw.getD (2 * n + 1) 0)

/-- The route of a request of a bolt's tile: a scheduled one goes the way whose seams the bolt's pattern claims, the first where it claims neither, or not
at all; an unscheduled one goes the other way round where its own is down (R426; log entry 63). -/
def State.routeOf (s : State) (sched : Bool) (bolt : Option Nat) (a b : Nat) : Option (List Nat) :=
  let l := routesOf a b
  if sched then
    let claims (p : Pattern) (r : List Nat) : Bool := (hopsOf r).all fun h => (seamOf h.1 h.2).any fun n => p.seamClaim n != 0
    ((l.find? fun r => (bolt.bind fun i => (s.bolt i).pat).any fun p => claims p r).or l.head?).filter s.routeUp
  else l.find? s.routeUp

/-- A request from one base die to another finds no path. -/
def State.noPath (s : State) (sched : Bool) (bolt : Option Nat) (a b : Nat) : Bool := (s.routeOf sched bolt a b).isNone

/-- An unscheduled request from base die `d`, or a request of a site's shuttle, to an address finds no path: it completes as an abort (R365). -/
def State.cutOff (s : State) (d a : Nat) : Bool := (dieAt a).any fun x => s.noPath false none d x
def State.cutOffBy (s : State) (g : Nat) (sched : Bool) (a : Nat) : Bool := (dieAt a).any fun x => s.noPath sched (s.boltOf (g / 160)) (g / 480) x

/-! ### Ports and owners (R310 to R314) -/

/-- The control port (R310). -/
def State.ctrlPort (s : State) : Nat := s.r4 0 F.HST_CTRL_CTRL_PORT

/-- A port is unavailable: link not up, PERST asserted, an FLR in progress, D3hot, or Bus Master Enable clear (R313). -/
def State.portAvail (s : State) (p : Nat) : Bool :=
  let h := s.hport p
  h.linkUp && !h.perst && !h.flr && !h.d3hot && h.busMaster

/-- A port whose requests reach the module: its link is up and it is not being reset. -/
def State.portOn (s : State) (p : Nat) : Bool := let h := s.hport p; h.linkUp && !h.perst && !h.flr

/-- The port that owns a bolt, if any (R313). -/
def State.owner (s : State) (b : Nat) : Option Nat :=
  match s.r4 0 (F.HST_BOLT_OWNER b) with
  | 1 => some 0
  | 2 => some 1
  | _ => none

/-! ### What goes out, and interrupts (R321, R433) -/

def State.send (s : State) (o : Output) : State := { s with out := s.out ++ [o] }

/-- An error in a port's AER status, with what the header log names where it is the first that no mask bit hides (R302, R437; bits as the PCIe specification numbers
them, PRESUMED, log entry 13). -/
def State.aerSet (s : State) (p i header : Nat) : State :=
  let h := s.hport p
  s.setHport p { h with aer := h.aer ||| BitVec.ofNat 32 (2 ^ i), header := if h.aer &&& ~~~h.aerMask = 0 ∧ !h.aerMask.getLsbD i then header else h.header }

/-- A request answered with Unsupported Request (R306), or with Completer Abort (R437). -/
def State.sendUr (s : State) (p : Port) (header : Nat) : State := (s.aerSet p.n 20 header).send (.unsupported p)
def State.sendCa (s : State) (p : Port) (header : Nat) : State := (s.aerSet p.n 15 header).send (.completerAbort p)

/-- The port can send MSI-X messages: it is available, MSI-X is enabled and the function not masked (R321; PRESUMED, log entry 13). -/
def State.msixReady (s : State) (p : Nat) : Bool := s.portAvail p && (s.hport p).msixOn && !(s.hport p).msixMask

/-- One MSI-X message on a vector of a port, or its pending bit while the entry is masked or the port cannot send (R321; PRESUMED from the
PCIe specification, log entry 13). -/
def State.msix (s : State) (p v : Nat) : State :=
  if bit (s.word4 p (0x80000C + 16 * v)).toNat 0 || !s.msixReady p then
    let off := 0x801000 + v / 32 * 4
    s.setWord4 p off (s.word4 p off ||| BitVec.ofNat 32 (2 ^ (v % 32)))
  else s.send (.msix (if p = 0 then .p0 else .p1) v)

/-- A bolt event's interrupt to the owning port, only while its HST_INTR.EN is set (R321) and the owner accepts it (R314). -/
def State.boltIrq (s : State) (b : Nat) : State :=
  match s.owner b with
  | none => s
  | some p =>
    if s.r4 p F.HST_INTR_EN = 1 ∧ s.r4 0 (F.HST_BOLT_IEN b) = 1 ∧ s.portAvail p then s.msix p (s.r4 p F.HST_INTR_BOLT_VEC) else s

/-! ### The error log (R431 to R436) -/

/-- Error classes (Table 16.1). -/
inductive ErrClass where | corrected | ue | link | protocol | thermal | fatal
  deriving DecidableEq, Repr

def ErrClass.n : ErrClass → Nat
  | .corrected => 0
  | .ue => 1
  | .link => 2
  | .protocol => 3
  | .thermal => 4
  | .fatal => 5

def ErrClass.bitOf : ErrClass → Fld
  | .corrected => F.ERR_STATUS_CORRECTED
  | .ue => F.ERR_STATUS_UE
  | .link => F.ERR_STATUS_LINK
  | .protocol => F.ERR_STATUS_PROTOCOL
  | .thermal => F.ERR_STATUS_THERMAL
  | .fatal => F.ERR_STATUS_FATAL

/-- SOURCE codes of Table 16.2. -/
def Src.tile : Nat := 0
def Src.pmem : Nat := 1
def Src.edge : Nat := 2
def Src.nbu : Nat := 3
def Src.shuttle : Nat := 4
def Src.fabric : Nat := 5
def Src.seam : Nat := 6
def Src.port : Nat := 7
def Src.regs : Nat := 8
def Src.bolt : Nat := 9
def Src.thermal : Nat := 10
def Src.clocks : Nat := 11
def Src.check : Nat := 12
def Src.hkc : Nat := 13

/-- An event to be logged. -/
structure Ev where
  cls      : ErrClass
  source   : Nat
  index    : Nat := 0
  code     : Nat := 0
  layer    : Nat := 0
  operator : Nat := 0
  bolt     : Option Nat := none
  detail   : Nat := 0
  deriving DecidableEq, Repr

/-- INDEX of Table 16.2: stack, die, port or seam in [15:12], site, unit, lane or channel in [11:0]. -/
def ixOf (hi lo : Nat) : Nat := hi * 4096 + lo
def ixTile (g : Nat) : Nat := ixOf (g / 160) (g % 160)

/-- The span within which an event of a class merges into a record (R435). -/
def ErrClass.mergeSpan : ErrClass → Option Nat
  | .corrected => some 1000000000
  | .protocol => some 1000000
  | _ => none

/-- The newest log slot that an event merges into (R435). -/
def State.mergeSlot (s : State) (e : Ev) : Option Nat :=
  match e.cls.mergeSpan with
  | none => none
  | some span =>
    (s.log.filter fun p => p.2.cls == e.cls.n && p.2.source == e.source && p.2.index == e.index && p.2.code == e.code
      && decide (s.tape < p.2.tape + span)).foldl
      (fun best p => match best with
        | none => some p.1
        | some k => if (s.log.find k).any (fun r => r.seq < p.2.seq) then some p.1 else some k) none

/-- The ports an error record of a class interrupts (Table 16.1). -/
def State.errPorts (s : State) (e : Ev) : List Nat :=
  match e.cls with
  | .fatal => [0, 1]
  | .corrected => [s.ctrlPort]
  | .thermal => [s.ctrlPort]
  | _ => [((e.bolt.bind s.owner).getD s.ctrlPort)]

/-- The interrupt of a new error record (R433): EN of the port, and the class's mask bit clear; fatal records ignore the mask. -/
def State.errIrq (s : State) (e : Ev) : State :=
  if e.cls != .fatal && bit (s.r .err F.ERR_IRQ_MASK_MASK) e.cls.n then s
  else (s.errPorts e).foldl (fun s p => if s.r4 p F.HST_INTR_EN = 1 then s.msix p (s.r4 p F.HST_INTR_ERR_VEC) else s) s

/-- The record of an event (Table 16.2). -/
def State.recOf (s : State) (e : Ev) (seq : Nat) : ErrRec :=
  { seq := seq, cls := e.cls.n, source := e.source, index := e.index, tape := s.tape, code := e.code, layer := e.layer,
    operator := e.operator, bolt := e.bolt, count := 1, detail := e.detail }

/-- A new record in the log, and for the fatal class in the record store, with FATAL and FAULT_N (R432, R434, R436). -/
def State.newRecord (s : State) (e : Ev) : State :=
  let seq := s.r .err F.ERR_LOG_SEQ_SEQ
  let s := { s with log := s.log.set (seq % Config.logDepth) (s.recOf e seq) }
  let s := s.w .err F.ERR_LOG_SEQ_SEQ (seq + 1)
  let s :=
    if e.cls = .fatal then
      { s with
        pins := { s.pins with fault := true },
        store := { s.store with
          fatals := s.store.fatals.set (s.store.fseq % 4096) (s.recOf e s.store.fseq),
          fseq := (s.store.fseq + 1) % 2 ^ 32 } }.pulse
    else s
  s.errIrq e

/-- An event of any class: merged under R435, else a new record; the class count and the status bit either way. -/
def State.logEv (s : State) (e : Ev) : State :=
  let s := (s.inc .err (F.ERR_CLASS_COUNT_COUNT e.cls.n)).wb .err e.cls.bitOf true
  match s.mergeSlot e with
  | some k => { s with log := match s.log.find k with
      | some r => s.log.set k { r with count := satAdd 8 r.count 1 }
      | none => s.log }
  | none => s.newRecord e

/-- A received write whose TLP is bad performs nothing: poisoned, it is uncorrectable data (R304); with a false ECRC, AER records it where the
port checks ECRC. Whether the write goes on. -/
def State.tlpCheck (s : State) (p : Port) (t : Tlp) (header detail : Nat) : Bool × State :=
  match t with
  | .good => (true, s)
  | .poisoned => (false, (s.logEv { cls := .ue, source := Src.port, index := ixOf p.n 0, detail := detail }).aerSet p.n 12 header)
  | .badEcrc => if (s.hport p.n).ecrcCheck then (false, s.aerSet p.n 19 header) else (true, s)

/-- The bolt that a BAR0 register belongs to, if any (R311). -/
def State.regBolt (s : State) (off : Nat) : Option Nat :=
  match locate off with
  | some (.bolt b) => some b
  | some (.stk k) => s.boltOf k
  | some (.tile g) => s.boltOf (g / 160)
  | some (.nbu u) =>
    let rel := off - (Blk.nbu u).base
    if 0x10 ≤ rel ∧ s.r (.nbu u) (F.NBU_RING_CFG_OWNER ((rel - 0x10) / 16)) = 0 then some (s.r (.nbu u) (F.NBU_RING_CFG_BOLT ((rel - 0x10) / 16))) else none
  | _ => none

/-- A protocol-class event of the register path (R12, R13, R23, R97, R311): the bolt concerned, BAR0 offset in DETAIL [25:0], port in [32]. -/
def State.logReg (s : State) (q : Nat) (off : Nat) : State :=
  s.logEv { cls := .protocol, source := Src.regs, bolt := s.regBolt off, detail := off % 2 ^ 26 + (if q = 1 then 2 ^ 32 else 0) }

/-- The same for an offset of BAR4 (R305, R315). -/
def State.logBar4 (s : State) (p : Nat) (off : Nat) : State :=
  s.logEv { cls := .protocol, source := Src.port, index := ixOf p 0, detail := off % 2 ^ 26 + (if p = 1 then 2 ^ 32 else 0) }

/-- The bytes of an error record (Table 16.2) as one number. -/
def ErrRec.toNat (r : ErrRec) : Nat :=
  r.seq + r.cls * 2 ^ 32 + r.source * 2 ^ 40 + r.index * 2 ^ 48 + r.tape * 2 ^ 64 + r.code * 2 ^ 128 + r.layer * 2 ^ 144
    + r.operator * 2 ^ 160 + (match r.bolt with | some b => b + 16 | none => 0) * 2 ^ 176 + r.count * 2 ^ 184 + r.detail * 2 ^ 192

end Sys2Proof.Machine
end

