-- ==== Sys2Proof/Machine/Links.lean ====
section
/-! DEFINITION. Fabric ports as the whole module sees them (chapter 10): claims, directions, the timing tree, and the reserved traffic that
waits at a port. -/
namespace Sys2Proof.Machine

/-! ### Claims -/

/-- The pattern holds its claims: admitted, running, holding or paused (R249, R252). -/
def State.patHolds (s : State) (b : Nat) : Bool := let v := s.patState b; v == 2 || s.patRuns b

/-- The bolt that claims a fabric port, if any (Table 9.9). -/
def State.portBolt (s : State) (f : Nat) : Option Nat :=
  (List.range 12).find? fun b => s.patHolds b && ((s.bolt b).pat.any fun p => bit p.ports f)

def State.portUp (s : State) (f : Nat) : Bool := s.r (.fab f) F.FAB_PORT_STATUS_STATE == 7

/-! ### Directions and the timing tree (R267, R268, R293) -/

/-- The partner port on the neighbour (Table 10.1). -/
def partnerPort (f : Nat) : Nat := [3, 7, 5, 0, 10, 2, 9, 1, 11, 6, 4, 8].getD f 0
/-- The axis of a port. -/
def portAxis (f : Nat) : Nat := [0, 1, 2, 0, 1, 2, 0, 1, 2, 0, 1, 2].getD f 0
/-- The port leads in the + direction. -/
def portPlus (f : Nat) : Bool := [1, 2, 3, 4, 9, 11].contains f
/-- The other plane's port of the same direction (R267). -/
def twinPort (f : Nat) : Nat := [6, 4, 11, 9, 1, 8, 0, 10, 5, 3, 7, 2].getD f 0

/-- The port of a direction and plane: axis 0 X, 1 Y, 2 Z. -/
def dirPort (axis : Nat) (plus plane : Bool) : Nat :=
  match axis, plus, plane with
  | 0, false, false => 0
  | 0, false, true => 6
  | 0, true, false => 3
  | 0, true, true => 9
  | 1, true, false => 1
  | 1, true, true => 4
  | 1, false, false => 7
  | 1, false, true => 10
  | _, true, false => 2
  | _, true, true => 11
  | _, false, false => 5
  | _, false, true => 8

/-- The coordinate of this module (FAB_COORD). -/
def State.coord (s : State) : Nat × Nat × Nat := (s.r (.fab 0) F.FAB_COORD_X, s.r (.fab 0) F.FAB_COORD_Y, s.r (.fab 0) F.FAB_COORD_Z)
/-- The fabric's dimensions. -/
def State.dims (s : State) : Nat × Nat × Nat :=
  (s.r (.fab 0) F.FAB_COORD_DX_M1 + 1, s.r (.fab 0) F.FAB_COORD_DY_M1 + 1, s.r (.fab 0) F.FAB_COORD_DZ_M1 + 1)

/-- The direction (axis, +) toward 0 of a coordinate on a ring of `d`: the one with fewer hops, − where both have the same number. -/
def towardRoot (c d : Nat) : Bool := decide (d - c < c)

/-- The step toward the root from a coordinate: the first axis that is not 0; none at the root. -/
def rootStep (c d : Nat × Nat × Nat) : Option (Nat × Bool) :=
  if c.1 ≠ 0 then some (0, towardRoot c.1 d.1)
  else if c.2.1 ≠ 0 then some (1, towardRoot c.2.1 d.2.1)
  else if c.2.2 ≠ 0 then some (2, towardRoot c.2.2 d.2.2)
  else none

/-- The port of a direction: plane a, or plane b when a is down; none when both are. -/
def State.upPort (s : State) (axis : Nat) (plus : Bool) : Option Nat :=
  if s.portUp (dirPort axis plus false) then some (dirPort axis plus false)
  else if s.portUp (dirPort axis plus true) then some (dirPort axis plus true)
  else none

/-- What the coordinate of port `f`'s neighbour is to be, from a coordinate and dimensions (R268). -/
def neighbourOf (coord dims : Nat × Nat × Nat) (f : Nat) : Nat × Nat × Nat :=
  let (x, y, z) := coord
  let (dx, dy, dz) := dims
  let go (c d : Nat) : Nat := if portPlus f then (c + 1) % d else (c + d - 1) % d
  match portAxis f with
  | 0 => (go x dx, y, z)
  | 1 => (x, go y dy, z)
  | _ => (x, y, go z dz)
def State.neighbour (s : State) (f : Nat) : Nat × Nat × Nat := neighbourOf s.coord s.dims f

/-- The port toward the timing parent (R293), where one is up. -/
def State.parentPort (s : State) : Option Nat := (rootStep s.coord s.dims).bind fun d => s.upPort d.1 d.2

/-- The ports to the timing-tree children: those whose neighbour's step toward the root comes here, on plane a or, where a is down, b. -/
def State.treePorts (s : State) : List Nat :=
  (List.range 12).filter fun f =>
    match rootStep (s.neighbour f) s.dims with
    | none => false
    | some (axis, plus) => s.portUp f && axis == portAxis f && plus != portPlus f && s.upPort axis (portPlus f) == some f

/-- The ports of the timing tree: to the children and to the parent. -/
def State.treeLinks (s : State) : List Nat := s.treePorts ++ s.parentPort.toList

/-! ### Reserved traffic (R290, R295; what carries it on the link is in Machine/FabricOps.lean) -/

/-- A flit of reserved traffic. -/
def plainFlit (type : Nat) (payload : List (BitVec 8)) : Flit :=
  { type := type, seq := 0, ack := 0, nak := false, hx := 0, hy := 0, hz := 0, plane := false, ftile := 0, chan := 0, last := false,
    srcX := 0, srcY := 0, srcZ := 0, stile := 0, payload := payload ++ List.replicate (240 - payload.length) 0 }

/-- Orders of precedence within reserved slots (R290). -/
def Prec.tack : Nat := 0
def Prec.timing : Nat := 1
def Prec.ack : Nat := 2
def Prec.frame : Nat := 3

/-- A flit of reserved traffic waits at a port that is up. -/
def State.enqueue (s : State) (f prec : Nat) (fl : Flit) : State :=
  if !s.portUp f then s
  else
    let c := (s.portBolt f).elim 0 s.countOf
    let p := s.fport f
    s.setFport f { p with resv := p.resv ++ [⟨prec, s.tape, c, fl⟩] }

/-- The flits of a management frame (R295): its 8 header bytes and its payload, in as many flits as they take. -/
def frameFlits (type dest src hops : Nat) (payload : List (BitVec 8)) : List Flit :=
  let l := leBytes 8 (type + dest * 2 ^ 8 + src * 2 ^ 20 + hops * 2 ^ 32 + payload.length * 2 ^ 40) ++ payload
  (List.range (ceilDiv l.length 240)).map fun i => plainFlit 3 ((l.drop (240 * i)).take 240)

/-- A coordinate in 12 bits (R295): x lowest. -/
def xyz12 (c : Nat × Nat × Nat) : Nat := c.1 + 16 * c.2.1 + 256 * c.2.2

/-- The flits of a frame that this module sends (its own coordinate is the source, the hop limit is 255; log entry 80). -/
def State.ownFrame (s : State) (type dest : Nat) (payload : List (BitVec 8)) : List Flit :=
  frameFlits type dest (xyz12 s.coord) 255 payload

/-- A frame waits at a port. -/
def State.frameTo (s : State) (f : Nat) (l : List Flit) : State := l.foldl (fun s fl => s.enqueue f Prec.frame fl) s

/-- A management frame for every module, sent from this one on every link of the timing tree (R295, R458; log entry 35). -/
def State.broadcast (s : State) (type : Nat) (payload : List (BitVec 8)) : State :=
  s.treeLinks.foldl (fun s f => s.frameTo f (s.ownFrame type 0xFFF payload)) s

/-! ### Slots (R275, Table 10.6) -/

/-- Slots and reserved slots per frame at a width. -/
def slotsOf (w : Nat) : Nat × Nat :=
  match w with
  | 4 => (100, 6)
  | 2 => (50, 3)
  | _ => (25, 2)

/-- Slot j of a frame is reserved. -/
def slotReserved (n r j : Nat) : Bool := decide (r * j / n < r * (j + 1) / n)
/-- The scheduled slots of a frame, by their place in it. -/
def schedSlots (w : Nat) : List Nat := (List.range (slotsOf w).1).filter fun j => !slotReserved (slotsOf w).1 (slotsOf w).2 j
/-- The schedule count at which scheduled slot q starts. -/
def slotCount (w q : Nat) : Nat :=
  let l := schedSlots w
  256 * (q / l.length) + 256 * l.getD (q % l.length) 0 / (slotsOf w).1
/-- The first scheduled slot that starts at or after count c. -/
def slotFrom (w c : Nat) : Nat :=
  let n := (schedSlots w).length
  let q0 := c / 256 * n
  q0 + (((List.range (n + 1)).find? fun i => decide (c ≤ slotCount w (q0 + i))).getD n)

/-- The schedule counts at which a frame's reserved slots start. -/
def reservedCounts (w : Nat) : List Nat :=
  ((List.range (slotsOf w).1).filter fun j => slotReserved (slotsOf w).1 (slotsOf w).2 j).map fun j => 256 * j / (slotsOf w).1
/-- The first schedule count at or after `c` at which a reserved slot starts. -/
def reservedFrom (w c : Nat) : Nat :=
  match (reservedCounts w).find? fun v => decide (c ≤ c / 256 * 256 + v) with
  | some v => c / 256 * 256 + v
  | none => (c / 256 + 1) * 256 + (reservedCounts w).headD 0

/-- A flit's time on the link, in hundredths of a tape cycle (Table 10.6). -/
def flitTime (w : Nat) : Nat :=
  match w with
  | 4 => 256
  | 2 => 512
  | _ => 1024

def State.fabWidth (s : State) (f : Nat) : Nat := s.r (.fab f) F.FAB_PORT_STATUS_WIDTH

def State.modFport (s : State) (f : Nat) (g : FabPort → FabPort) : State := s.setFport f (g (s.fport f))

/-- The first slot from q on that no flit holds. -/
def freeSlot (slots : SMap Placed) (q : Nat) : Nat :=
  q + (((List.range (slots.length + 1)).find? fun i => (slots.find (q + i)).isNone).getD 0)

/-- A port's scheduled slots at another width: each flit takes the first slot free from its slot's count on (R275, R287). -/
def FabPort.rescale (p : FabPort) (w w' : Nat) : FabPort :=
  { p with nextSlot := slotFrom w' (slotCount w p.nextSlot),
           slots := p.slots.foldl (fun m e => m.set (freeSlot m (slotFrom w' (slotCount w e.1))) e.2) [] }

end Sys2Proof.Machine
end

