-- ==== Sys2Proof/Machine/MemOps.lean ====
section
/-! DEFINITION. Reading and writing memory: the symbol code of DRAM lines (R170 to R173), SECDED of SRAM words (R174), partial writes,
flip masks (R177, R178), and writes that a migration performs at both sites (R419). -/
namespace Sys2Proof.Machine

/-! ### Addresses -/

/-- The DPA of a byte of DRAM or bobbin (Table 1.8), where it has one. -/
def State.dpaOf (s : State) (a : Nat) : Option Nat :=
  match placeOf a with
  | .edge e o => some (e * edgeBytes + o)
  | .slice g o => if o < sliceBytes then (s.mtile g).map fun m => 0x100000000000 + m * 0x100000000 + o else none
  | .bobbin g o => (s.mtile g).map fun m => 0x200000000000 + m * 0x200000 + o
  | _ => none

/-- The codewords that [a, a + n) touches, ascending. -/
def cwsOf (a n : Nat) : List Nat :=
  if n = 0 then []
  else (List.range ((cwAt (a + n - 1) - cwAt a) / cwBytes a + 1)).map fun i => cwAt a + cwBytes a * i

/-- The vertical channel or pseudo-channel of a DRAM line (Table 6.1, R160). -/
def chanOf (a : Nat) : Nat :=
  match placeOf a with
  | .slice g o => sliceChan g (bits o 6 1)
  | .edge e o => edgeChan e (bits o 8 5)
  | _ => 0

/-- The bank and row of a DRAM line within its channel (Table 6.1, R160). -/
def rowOf (a : Nat) : Nat :=
  match placeOf a with
  | .slice _ o => bits o 7 6 + 64 * (o / 0x40000)
  | .edge _ o => Nat.xor (bits o 13 5) (bits o 18 5) + 32 * (o / 0x200000)
  | _ => 0

/-- The bank of a DRAM line within its channel. -/
def bankOf (a : Nat) : Nat :=
  match placeOf a with
  | .slice _ o => bits o 7 6
  | .edge _ o => Nat.xor (bits o 13 5) (bits o 18 5)
  | _ => 0

/-- INDEX of a record about an address (Table 16.2). -/
def ixAddr (a : Nat) : Nat :=
  match placeOf a with
  | .edge e o => ixOf e (bits o 8 5)
  | p => p.site.elim 0 ixTile

def srcAddr (a : Nat) : Nat :=
  match placeOf a with
  | .edge _ _ => Src.edge
  | .slice _ _ => Src.pmem
  | .hkc => Src.hkc
  | _ => Src.tile

/-- DETAIL of a record about an address (R437). -/
def State.detailAddr (s : State) (a : Nat) : Nat :=
  match placeOf a with
  | .edge _ _ => a
  | .slice _ _ => (s.dpaOf a).getD 0
  | .bobbin _ o => 2 ^ 63 + 1 * 2 ^ 28 + o
  | .iram _ o => 2 ^ 63 + 2 * 2 ^ 28 + o
  | .dsram _ o => 2 ^ 63 + 3 * 2 ^ 28 + o
  | .cq _ o => 2 ^ 63 + 4 * 2 ^ 28 + o
  | .shq _ o => 2 ^ 63 + 5 * 2 ^ 28 + o
  | .hem _ o => 2 ^ 63 + 6 * 2 ^ 28 + o
  | .hkc => 0

/-- The bolt concerned: that of the stack, for a tile's own memories. -/
def State.boltAddr (s : State) (a : Nat) : Option Nat := (placeOf a).site.bind fun g => s.boltOf (g / 160)

/-! ### Counters of a tile (R459); the full rule with gates is in Machine/TraceOps.lean, which this operation is the core of -/

/-- Adds `n` to every counter of a site that counts an event whose ids are (layer, operator). -/
def State.cntAdd (s : State) (g ev n layer op : Nat) : State :=
  (List.range 16).foldl (fun s i =>
    let k := Blk.tile g
    let gate := s.r k (F.TRC_CNT_SEL_GATE i) == 1
    let lm := s.r k F.TRC_GATE_MASK_LAYER_MASK
    let om := s.r k F.TRC_GATE_MASK_OP_MASK
    let ok := Nat.land layer lm == Nat.land (s.r k F.TRC_GATE_LAYER) lm && Nat.land op om == Nat.land (s.r k F.TRC_GATE_OPERATOR) om
    if s.r k (F.TRC_CNT_SEL_EVENT i) == ev && (!gate || ok) && !s.trace.stopped then
      s.w2 k (F.TRC_CNT_LO_COUNT i) (F.TRC_CNT_HI_COUNT i) (satAdd 64 (s.r2 k (F.TRC_CNT_LO_COUNT i) (F.TRC_CNT_HI_COUNT i)) n)
    else s) s

/-- A tile event with the ids of the command issued last (R459). -/
def State.cnt (s : State) (g ev n : Nat) : State :=
  s.cntAdd g ev n (s.r (.tile g) F.TRC_IDS_LAYER) (s.r (.tile g) F.TRC_IDS_OPERATOR)

/-- What stands at a DPA, where it is populated (R22, Table 1.8). -/
def State.addrOf (s : State) (d : Nat) : Option Nat :=
  if d < edgeEnd then some d
  else if 0x100000000000 ≤ d ∧ d < 0x200000000000 then
    if (d - 0x100000000000) % 0x100000000 < sliceBytes then
      (s.siteOf ((d - 0x100000000000) / 0x100000000)).map fun g => sliceAt g ((d - 0x100000000000) % 0x100000000)
    else none
  else if 0x200000000000 ≤ d ∧ d < 0x300000000000 then
    if (d - 0x200000000000) % 0x200000 < bobbinBytes then
      (s.siteOf ((d - 0x200000000000) / 0x200000)).map fun g => bobbinAt g ((d - 0x200000000000) % 0x200000)
    else none
  else none

/-- Two addresses of one stretch of populated memory: the edge stacks together, one slice, one bobbin (Table 1.8). -/
def sameStretch (a b : Nat) : Bool :=
  match placeOf a, placeOf b with
  | .edge _ _, .edge _ _ => true
  | .slice g _, .slice h _ => g == h
  | .bobbin g _, .bobbin h _ => g == h
  | _, _ => false

/-- The run [d, d + n) of DPAs, where every byte of it is populated: its first byte in the model's address space. -/
def State.runOf (s : State) (d n : Nat) : Option Nat :=
  if n = 0 then s.addrOf d
  else match s.addrOf d, s.addrOf (d + n - 1) with
    | some a, some b => if b = a + n - 1 ∧ sameStretch a b then some a else none
    | _, _ => none

/-! ### When a channel serves a request (R158 to R163, R181) -/

/-- The reserve class whose windows a channel has (R181, R250). -/
def State.chanClass (s : State) (c : Nat) : Nat := if c < 10000 then s.stackReserve (c / 320) else s.edgeReserve ((c - 10000) / 32)

/-- Period, first start and length of a channel's refresh windows in a reserve class (Table 6.6, R181). -/
def winOf (c cls : Nat) : Nat × Nat × Nat :=
  if c < 10000 then (3904 / 2 ^ cls, 0, 96) else (1600 / 2 ^ cls, (c - 10000) % 32 * (1600 / 2 ^ cls) / 32, 24)

/-- The first tape from `t` on at which the channel stands in no window: the device issues no scheduled request during them (R181). -/
def State.clearOf (s : State) (c t : Nat) : Nat :=
  let (p, o, n) := winOf c (s.chanClass c)
  if t < o then t else if (t - o) % p < n then t - (t - o) % p + n else t

/-- The tape at which a slice bank takes a request that arrives at tape `t`: not before 24 SCLK cycles after its previous one (R159), and in no
refresh window. -/
def State.bankTurn (s : State) (a t : Nat) : Nat := s.clearOf (chanOf a) (max t ((s.chan (chanOf a)).bankFree.get 0 (bankOf a)))

/-- The bank takes the request of that turn. -/
def State.bankTake (s : State) (a turn : Nat) : State :=
  let c := s.chan (chanOf a)
  s.setChan (chanOf a) { c with bankFree := c.bankFree.set (bankOf a) (turn + sclkCycles 24) }

/-- The key, past every bank's, of the tape from which a bank takes another request of those that only use idle slots. -/
abbrev idleKey (bank : Nat) : Nat := 1000 + bank

/-- A slot for a request that may delay no scheduled one (R176, R419, R447): no refresh in the channel's window now, and the bank idle. -/
def State.idleSlot (s : State) (a : Nat) : Bool :=
  let c := s.chan (chanOf a)
  decide (c.winBusy ≤ s.tape) && decide (c.bankFree.get 0 (bankOf a) ≤ s.tape) && decide (c.bankFree.get 0 (idleKey (bankOf a)) ≤ s.tape)

/-- The bank takes such a request now (R159); scheduled requests do not wait for it. -/
def State.idleTake (s : State) (a : Nat) : State :=
  let c := s.chan (chanOf a)
  s.setChan (chanOf a) { c with bankFree := c.bankFree.set (idleKey (bankOf a)) (s.tape + sclkCycles 24) }

/-- The key, past every bank's, of a pseudo-channel's next turn of unscheduled requests. -/
abbrev unschedKey : Nat := 1000000

/-- A needle read of an edge stack that arrives at tape `t`: the tape at which it goes, 2.4 reads in a tape cycle at most, five twelfths of a cycle each
(R163). A scheduled one goes before the unscheduled ones that wait, which come after all before them (R162), and in no window (R181). -/
def State.needleTurn (s : State) (sched : Bool) (e a t : Nat) : Nat × State :=
  let all := s.needle.get 0 (12 + e)
  let f := max (12 * t) (if sched then s.needle.get 0 e else all)
  let u := if sched then s.clearOf (chanOf a) (ceilDiv f 12) else ceilDiv f 12
  let f := max f (if sched then 12 * u else 0)
  (u, { s with needle := if sched then (s.needle.set e (f + 5)).set (12 + e) (max f all + 5) else s.needle.set (12 + e) (f + 5) })

/-- An unscheduled request to a pseudo-channel that arrives at tape `t`: the tape at which it goes. While its edge stack throttles, one slot in four of
0.8 ns serves such requests (R396), two slots for a needle read (R163); the turn is kept in fifths of a cycle, beside those of the banks. -/
def State.unschedTurn (s : State) (needle : Bool) (e c t : Nat) : Nat × State :=
  if !s.b .thm (F.THM_EDGE_THROTTLE e) then (t, s)
  else
    let x := s.chan c
    let f := max (5 * t) (x.bankFree.get 0 unschedKey)
    (ceilDiv f 5, s.setChan c { x with bankFree := x.bankFree.set unschedKey (f + (if needle then 32 else 16)) })

/-- The requests, outside the scheduled traffic, for the lines of a run: each takes its turn in its bank or pseudo-channel (R159, R163, R396). -/
def State.unschedPass (s : State) (needle : Bool) (a n : Nat) : State :=
  (cwsOf a n).foldl (fun s cw =>
    match placeOf cw with
    | .slice _ _ => s.bankTake cw (s.bankTurn cw s.tape)
    | .edge e _ =>
      let (t, s) := s.unschedTurn needle e (chanOf cw) s.tape
      if needle then (s.needleTurn false e cw t).2 else s
    | _ => s) s

/-- Seams on the route between two base dies. -/
def seamsBetween (a b : Nat) : Nat := if a = b then 0 else if (seamOf a b).isSome then 1 else 2

/-- The latency of a scheduled request of a site to an edge stack (Table 6.3). -/
def edgeLatency (g e : Nat) (needle : Bool) : Nat := (if needle then 120 else 140) + 40 * seamsBetween (g / 480) (dieOf e)

/-- A line crosses the seams of a route from tape `t` on: the tape at which the last takes it. A seam carries 30 flits of 64 bytes in a tape cycle, 15
at half width (R425, R426); its turns are kept in thirtieths of a cycle. -/
def State.seamTurns (s : State) (r : List Nat) (t : Nat) : Nat × State :=
  (hopsOf r).foldl (fun acc h =>
    match hopKey h with
    | none => acc
    | some k =>
      let x := acc.2.seam k
      let f := max (30 * acc.1) x.free
      (f / 30, acc.2.setSeam k { x with free := f + (if acc.2.r .rst (F.SEAM_STATUS_WIDTH (k / 2)) = 2 then 1 else 2) })) (t, s)

/-- The same for a scheduled request of a site to base die `d`, a write's data going there and a read's coming back. -/
def State.crossing (s : State) (g d : Nat) (wr : Bool) (t : Nat) : Nat × State :=
  match s.routeOf true (s.boltOf (g / 160)) (g / 480) d with
  | none => (t, s)
  | some r => s.seamTurns (if wr then r else r.reverse) t

/-- A shuttle request of a site that is issued at tape `t`: the tape at which its data have arrived or its write is complete (R158, R159, R161), and
whether a scheduled one that waits behind others, in the needle path or at a seam, misses its latency (R162, R163, R426). An unscheduled request has no
fixed edge latency, and a bobbin none in tape cycles: the model gives them none (DESIGN CHOICE, log entry 77). -/
def State.served (s : State) (g : Nat) (sched needle wr : Bool) (a t : Nat) : Nat × Bool × State :=
  match placeOf a with
  | .slice _ _ => (s.bankTurn a t + 16, false, s.bankTake a (s.bankTurn a t))
  | .edge e _ =>
    if sched then
      let clear := s.clearOf (chanOf a) t
      let (u, s) := if needle then s.needleTurn true e a t else (clear, s)
      let (v, s) := s.crossing g (dieOf e) wr t
      (u + (v - t) + edgeLatency g e needle, decide (clear < u ∨ t < v), s)
    else
      let (u, s) := s.unschedTurn needle e (chanOf a) t
      let (u, s) := if needle then s.needleTurn false e a u else (u, s)
      (u, false, s)
  | _ => (t, false, s)

/-- The same with a request that misses its latency counted (R162). -/
def State.serve (s : State) (g : Nat) (sched needle wr : Bool) (a t : Nat) : Nat × State :=
  let (u, late, s) := s.served g sched needle wr a t
  (u, match placeOf a, late with
    | .edge e _, true => s.inc (.edge e) F.EDGE_LATE_COUNT_COUNT
    | _, _ => s)

/-! ### Decoding -/

/-- Errors corrected beyond `e` listed erasures (Table 6.5). -/
def tRad (e : Nat) : Nat := [3, 3, 2, 2, 1, 1, 0, 0, 0].getD e 0
/-- Errors always detected (Table 6.5). -/
def dRad (e : Nat) : Nat := [5, 4, 4, 3, 3, 2, 2, 1, 0].getD e 0

/-- The symbols (or bits) of a stored codeword that differ, each once (R178: masks on one position combine). -/
def CodeErr.diffs (c : CodeErr) : List (Nat × BitVec 8) :=
  (List.range 72).filterMap fun p =>
    let x := (c.flips.filter fun f => f.1 == p).foldl (fun acc f => acc ^^^ f.2) 0
    if x = 0 then none else some (p, x)

/-- Both connections of a sideband signal have failed: every request to the slice fails (R414). -/
def State.sidebandDead (s : State) (g : Nat) : Bool :=
  let l := (s.chan (sliceChan g 0)).sideband
  (List.range 8).any fun i => l.contains (i, 0) && l.contains (i, 1)

/-- How a codeword decodes. -/
inductive Verdict where
  | clean
  | corrected (positions : List Nat)
  | ue
  | beyond
  deriving DecidableEq, Repr

/-- How the stored copy of an SRAM word decodes (R174). -/
def CodeErr.secded (c : CodeErr) : Verdict :=
  let d := c.diffs.map (·.1)
  if c.marker then .ue
  else if d.length = 0 then .clean
  else if d.length = 1 then .corrected d
  else if d.length = 2 then .ue
  else .beyond

/-- What is wrong with the stored copy of a codeword; the hem keeps that of its own words. -/
def State.errAt (s : State) (cw : Nat) : Option CodeErr :=
  match placeOf cw with
  | .hem g o => (s.tile g).hem.words.find (o / 8)
  | _ => s.errs.find cw

/-- The stored copy of a codeword is sound again. -/
def State.sound (s : State) (cw : Nat) : State :=
  match placeOf cw with
  | .hem g o => s.modTile g fun t => { t with hem := { t.hem with words := t.hem.words.erase (o / 8) } }
  | _ => { s with errs := s.errs.erase cw }

/-- A codeword that the decoder has reported reads uncorrectable until it is written (R173). -/
def State.stuck (s : State) (cw : Nat) : State :=
  match placeOf cw with
  | .hem g o => s.modTile g fun t => { t with hem := { t.hem with words := match t.hem.words.find (o / 8) with
      | some c => t.hem.words.set (o / 8) { c with marker := true }
      | none => t.hem.words } }
  | _ => { s with errs := match s.errs.find cw with
      | some c => s.errs.set cw { c with marker := true }
      | none => s.errs }

/-- The verdict on the codeword at `cw` (R170, R174, R414). `beyond` is an error pattern for which no outcome is guaranteed. -/
def State.verdict (s : State) (cw : Nat) : Verdict :=
  if (placeOf cw).isDram then
    let er := (s.chan (chanOf cw)).erasures
    let dead := match placeOf cw with
      | .slice g _ => s.sidebandDead g
      | _ => false
    if 9 ≤ er.length || dead then .ue
    else match s.errs.find cw with
      | none => .clean
      | some c =>
        let d := (c.diffs.filter fun f => !er.contains f.1).map (·.1)
        if c.marker then .ue
        else if d.length = 0 then .clean
        else if d.length ≤ tRad er.length then .corrected d
        else if d.length ≤ dRad er.length then .ue
        else .beyond
  else ((s.errAt cw).map CodeErr.secded).getD .clean

/-- The counts of a corrected DRAM line (R171, R186, R415): the stack's and the channel's, the positions' and the row's. -/
def State.countCe (s : State) (cw : Nat) (ps : List Nat) : State :=
  let c := s.chan (chanOf cw)
  let c := { c with
    posHits := ps.foldl (fun m p => m.set p ((s.tape :: m.get [] p).take 16)) c.posHits,
    rowHits := let l := c.rowHits.get [] (rowOf cw); c.rowHits.set (rowOf cw) (if l.contains cw then l else cw :: l) }
  let s := s.setChan (chanOf cw) c
  let s :=
    if 8 ≤ (c.rowHits.get [] (rowOf cw)).length && !s.store.rows.contains (chanOf cw, rowOf cw) then
      { s with store := { s.store with rows := s.store.rows ++ [(chanOf cw, rowOf cw)] } }
    else s
  match placeOf cw with
  | .edge e o => (s.inc (.edge e) F.EDGE_CE_COUNT_COUNT).inc (.edge e) (F.EDGE_PC_CE (bits o 8 5))
  | .slice g o =>
    let s := (s.inc (.stk (g / 160)) F.PMEM_CE_COUNT_COUNT).inc (.stk (g / 160)) (F.PMEM_CH_CE (g % 160 * 2 + bits o 6 1))
    let hot := ps.any fun p => let l := c.posHits.get [] p; l.length == 16 && s.tape < l.getLastD 0 + 1000000000
    if hot then s.wb (.stk (g / 160)) F.VC_STATUS_TEST_PENDING true else s
  | _ => s

/-- A corrected codeword: written back (its errors are gone), counted and logged (R171, R174, R431). The write-back takes no armed flip mask, which
waits for a write by a requester (DESIGN CHOICE, log entry 110). -/
def State.correct (s : State) (cw : Nat) (ps : List Nat) : State :=
  let s := s.sound cw
  let s := if (placeOf cw).isDram then s.countCe cw ps
    else match (placeOf cw).site with
      | some g => s.cnt g 0x14 1
      | none => s
  s.logEv { cls := .corrected, source := srcAddr cw, index := ixAddr cw, bolt := s.boltAddr cw, detail := s.detailAddr cw }

/-- An uncorrectable codeword is counted and its first address recorded (R173). -/
def State.countUe (s : State) (cw : Nat) : State :=
  let dpa := (s.dpaOf cw).getD 0
  match placeOf cw with
  | .edge e _ =>
    let k := Blk.edge e
    let s := s.inc k F.EDGE_UE_COUNT_COUNT
    if s.b k F.EDGE_UE_ADDR_HI_VALID then s
    else (s.w2 k F.EDGE_UE_ADDR_LO_DPA F.EDGE_UE_ADDR_HI_DPA dpa).wb k F.EDGE_UE_ADDR_HI_VALID true
  | .slice g _ =>
    let k := Blk.stk (g / 160)
    let s := s.inc k F.PMEM_UE_COUNT_COUNT
    if s.b k F.PMEM_UE_ADDR_HI_VALID then s
    else (s.w2 k F.PMEM_UE_ADDR_LO_DPA F.PMEM_UE_ADDR_HI_DPA dpa).wb k F.PMEM_UE_ADDR_HI_VALID true
  | _ => s

/-- The record of a request whose data were uncorrectable, where no command fault records it (R437). -/
def State.logUe (s : State) (cw : Nat) : State :=
  s.logEv { cls := .ue, source := srcAddr cw, index := ixAddr cw, bolt := s.boltAddr cw, detail := s.detailAddr cw }
def State.noteUe (s : State) (cw : Nat) : State := (s.countUe cw).logUe cw

/-- A read of one codeword: whether its data are delivered, and the state after correction. After `beyond` a free value says whether the
decoder reports the line, which then stays uncorrectable until a write covers it (R173); if not, the line is the miscorrected bytes (log
entry 9). -/
def State.readCw (s : State) (cw : Nat) : Bool × State :=
  match s.verdict cw with
  | .clean => (true, s)
  | .corrected ps => (true, s.correct cw ps)
  | .ue => (false, s)
  | .beyond =>
    let n := s.free
    let s := { s with free := n + 1 }
    if Config.decoderReports n then (false, s.stuck cw)
    else (true, { s with
      mem := s.mem.writeN cw ((List.range (cwBytes cw)).map fun i => Config.miscorrected n i),
      errs := s.errs.erase cw })

/-- `n` words of a memory that State keeps as the value `d`, the first at `base`, read in order (R174): single-bit errors corrected, an uncorrectable word
answered. -/
def State.wordsRead {w : Nat} (s : State) (base n : Nat) (d : BitVec w) : Option Nat × BitVec w × State :=
  (List.range n).foldl (fun acc i =>
    match acc with
    | (some e, d, s) => (some e, d, s)
    | (none, d, s) =>
      let cw := base + 8 * i
      match s.verdict cw with
      | .clean => (none, d, s)
      | .corrected ps => (none, d, s.correct cw ps)
      | .ue => (some cw, d, s)
      | .beyond =>
        let n := s.free
        let s := { s with free := n + 1 }
        if Config.decoderReports n then (some cw, d, s.stuck cw)
        else
          let x := leNat ((List.range 8).map fun j => Config.miscorrected n j)
          (none, BitVec.ofNat w (d.toNat - bits d.toNat (64 * i) 64 * 2 ^ (64 * i) + x * 2 ^ (64 * i)), s.sound cw)) (none, d, s)

/-- Reads codewords in order up to the first uncorrectable one, which it answers. -/
def State.readCws (s : State) : List Nat → Option Nat × State
  | [] => (none, s)
  | cw :: cws =>
    match s.readCw cw with
    | (true, s) => s.readCws cws
    | (false, s) => (some cw, s)

/-- A read of `n` bytes at `a`: the bytes, or the address of the first uncorrectable codeword. Nothing is logged yet. -/
def State.peek (s : State) (a n : Nat) : Except Nat (List (BitVec 8)) × State :=
  match s.readCws (cwsOf a n) with
  | (none, s) => (.ok (s.mem.readN a n), s)
  | (some cw, s) => (.error cw, s)

/-- The same with the uncorrectable request recorded and logged (R173, R437). -/
def State.fetch (s : State) (a n : Nat) : Except Nat (List (BitVec 8)) × State :=
  match s.peek a n with
  | (.ok d, s) => (.ok d, s)
  | (.error cw, s) => (.error cw, s.noteUe cw)

/-- The same for a tile's engines and shuttle: recorded, and logged by the command fault that follows (R90, R437). -/
def State.fetchT (s : State) (a n : Nat) : Except Nat (List (BitVec 8)) × State :=
  match s.peek a n with
  | (.ok d, s) => (.ok d, s)
  | (.error cw, s) => (.error cw, s.countUe cw)

/-! ### Flip masks (R177, R178) -/

/-- The differences that four positions and patterns make: symbols with their bytes for DRAM, single bits for SRAM. -/
def flipsOf (dram : Bool) (pos pat : Nat) : List (Nat × BitVec 8) :=
  (List.range 4).filterMap fun i =>
    let p := bits pos (8 * i) 7
    if p = 0x7F then none else some (p, if dram then BitVec.ofNat 8 (bits pat (8 * i) 8) else 1)

/-- Whether the armed flip mask of the stack takes a write to a codeword. -/
def State.flipHits (s : State) (cw : Nat) : Bool :=
  let pm (g cls lo : Nat) : Bool :=
    let k := Blk.stk (g / 160)
    let fa := s.r2 k F.PMEM_FLIP_ADDR_LO_ADDR F.PMEM_FLIP_ADDR_HI_ADDR
    s.b k F.PMEM_FLIP_CTRL_ARM && s.r k F.PMEM_FLIP_CTRL_CLASS == cls && s.r k F.PMEM_FLIP_CTRL_SITE == g % 160
      && (!s.b k F.PMEM_FLIP_CTRL_ADDR_EN || (lo ≤ fa && fa < lo + cwBytes cw))
  match placeOf cw with
  | .edge e _ =>
    let k := Blk.edge e
    let fa := s.r2 k F.EDGE_FLIP_ADDR_LO_DPA F.EDGE_FLIP_ADDR_HI_DPA
    s.b k F.EDGE_FLIP_CTRL_ARM && (!s.b k F.EDGE_FLIP_CTRL_ADDR_EN || (cw ≤ fa && fa < cw + 64))
  | .slice g o => pm g 0 ((s.dpaOf (sliceAt g o)).getD (2 ^ 60))
  | .bobbin g o => pm g 1 o
  | .iram g o => pm g 2 o
  | .dsram g o => pm g 3 o
  | .cq g o => pm g 4 o
  | _ => false

/-- The stored copy of a codeword just written: corrupted by the armed mask, which then clears; otherwise sound. -/
def State.sealCw (s : State) (cw : Nat) : State :=
  if s.flipHits cw then
    match placeOf cw with
    | .edge e _ =>
      let k := Blk.edge e
      let c : CodeErr := ⟨flipsOf true (s.word (k.base + F.EDGE_FLIP_CTRL_ARM.off + 4)).toNat (s.word (k.base + F.EDGE_FLIP_CTRL_ARM.off + 8)).toNat, false⟩
      ({ s with errs := s.errs.set cw c }).wb k F.EDGE_FLIP_CTRL_ARM false
    | p =>
      let g := p.site.getD 0
      let k := Blk.stk (g / 160)
      let c : CodeErr := ⟨flipsOf p.isDram (s.word (k.base + F.PMEM_FLIP_CTRL_ARM.off + 4)).toNat (s.word (k.base + F.PMEM_FLIP_CTRL_ARM.off + 8)).toNat, false⟩
      ({ s with errs := s.errs.set cw c }).wb k F.PMEM_FLIP_CTRL_ARM false
  else { s with errs := s.errs.erase cw }

/-- The memory of a run has an armed flip mask. -/
def State.flipArmed (s : State) (a : Nat) : Bool :=
  match placeOf a with
  | .edge e _ => s.b (.edge e) F.EDGE_FLIP_CTRL_ARM
  | p => p.site.any fun g => s.b (.stk (g / 160)) F.PMEM_FLIP_CTRL_ARM

/-- A run written as a whole, whose codewords are already sound: the first in the armed scope takes the mask (R177). -/
def State.sealRun (s : State) (a n : Nat) : State :=
  if s.flipArmed a then (match (cwsOf a n).find? s.flipHits with
    | some cw => s.sealCw cw
    | none => s) else s

/-! ### Writing -/

/-- The other address a write to a migrating slice goes to (R419): the line at the spare site, once it has been copied. -/
def State.mirrorOf (s : State) (cw : Nat) : Option Nat :=
  match placeOf cw with
  | .slice g o =>
    let k := Blk.stk (g / 160)
    let st := s.r k F.VC_MIG_STATUS_STATE
    if (st = 1 ∨ st = 2) ∧ s.r k F.VC_MIG_STATUS_SRC_SITE = g % 160 ∧ o / 64 < s.r k F.VC_MIG_DONE_LINES then
      some (sliceAt (g / 160 * 160 + s.r k F.VC_MIG_STATUS_DST_SITE) o)
    else none
  | _ => none

/-- Two runs of bytes meet. -/
def meet (a n b m : Nat) : Bool := decide (a < b + m ∧ b < a + n ∧ 0 < n ∧ 0 < m)

/-- The number that stands for the table messages of unit 0 beside its rings 0 to 3 (R195, R210). -/
abbrev msgRing : Nat := 4

/-- The lines of stack `e` that hold the bytes [off, off + n) are written, by an operation of ring `u.2` of unit `u.1` or by another requester:
every other running operation that claims or reads one of them has CONFLICT (R202). A table message is no such writer of the entries that
operations read in the table (DESIGN CHOICE, log entry 121). -/
def State.markConflict (s : State) (e off n : Nat) (u : Option (Nat × Nat)) : State :=
  let lo := off / 64 * 64
  let len := (off + n + 63) / 64 * 64 - lo
  let entry (a : Nat) : Bool := (u.all fun x => x.2 != msgRing) && a / edgeBytes == e && meet (a % edgeBytes) 8 lo len
  { s with nbus := s.nbus.map fun p =>
      (p.1, { p.2 with ops := p.2.ops.map fun q => (q.1, q.2.map fun o =>
        if u ≠ some (p.1, q.1) ∧ ((p.1 / 32 == e && (o.claims ++ o.reads).any fun r => meet r.1 r.2 lo len) || o.tbl.any entry)
        then { o with conflict := true } else o) }) }

/-- The enabled rings of an edge stack: unit number and ring (NBU_RING_r_CFG.EN is 0 at reset). -/
def State.ringsOn (s : State) (e : Nat) : List (Nat × Nat) :=
  s.regs.filterMap fun p =>
    let rel := p.1 - (Blk.edge e).base
    if (Blk.edge e).base + 0x10000 ≤ p.1 ∧ rel < 0x12000 ∧ rel % 16 = 4 ∧ 0x14 ≤ rel % 0x100 ∧ rel % 0x100 < 0x54 ∧ p.2.getLsbD 14 then
      some (e * 32 + (rel - 0x10000) / 0x100, (rel % 0x100 - 0x14) / 16)
    else none

/-- A doorbell (R193): PROD takes the value, or it is ignored with RING_ERR. -/
def State.bell (s : State) (u r v : Nat) : State :=
  let k := Blk.nbu u
  if s.r k (F.NBU_RING_CFG_SLOTS_M1 r) + 1 < (v + 2 ^ 16 - s.r k (F.NBU_RING_PTR_CONS r)) % 2 ^ 16 then s.wb k F.NBU_STATUS_RING_ERR true
  else s.w k (F.NBU_RING_PTR_PROD r) v

/-- What a write of edge memory by a requester other than a near-bank unit does beside the bytes: conflicts and doorbells (R193, R202). -/
def State.edgeSeen (s : State) (a n : Nat) : State :=
  match placeOf a with
  | .edge e off =>
    let s := s.markConflict e off n none
    (s.ringsOn e).foldl (fun s x =>
      let h := s.r (.nbu x.1) (F.NBU_RING_BASE_BASE x.2) * 64
      if off ≤ h ∧ h + 4 ≤ off + n then s.bell x.1 x.2 (s.mem.readLE (e * edgeBytes + h) 2) else s) s
  | _ => s

/-- A write of bytes within one codeword: a whole codeword replaces it; a part is merged, and is not performed when the read of the rest is
uncorrectable (R169, R174). A slice whose sideband is dead takes no write (R414). Answers whether it was performed; the requester's answer records it. -/
def State.storeRaw (s : State) (a : Nat) (bs : List (BitVec 8)) : Bool × State :=
  let cw := cwAt a
  let done (s : State) : State :=
    let s := ({ s with mem := s.mem.writeN a bs }).sealCw cw
    match s.mirrorOf cw with
    | none => s
    | some d => ({ s with mem := s.mem.copy cw d 64 }).sealCw d
  let dead := match placeOf cw with
    | .slice g _ => s.sidebandDead g
    | _ => false
  if bs.length = cwBytes a && !dead then (true, done s)
  else match s.readCw cw with
    | (true, s) => (true, done s)
    | (false, s) => (false, s.countUe cw)

/-- The same by a requester other than a near-bank unit. -/
def State.storeCw (s : State) (a : Nat) (bs : List (BitVec 8)) : Bool × State :=
  match s.storeRaw a bs with
  | (true, s) => (true, s.edgeSeen a bs.length)
  | (false, s) => (false, s)

/-- A write of any bytes, codeword by codeword in ascending order, up to the first that is not performed, whose address it answers. -/
def State.storeN (s : State) : Nat → Nat → List (BitVec 8) → Option Nat × State
  | 0, _, _ => (none, s)
  | n + 1, a, bs =>
    if bs = [] then (none, s)
    else
      let k := cwBytes a - a % cwBytes a
      match s.storeCw a (bs.take k) with
      | (false, s) => (some (cwAt a), s)
      | (true, s) => s.storeN n (a + k) (bs.drop k)

def State.put (s : State) (a : Nat) (bs : List (BitVec 8)) : Option Nat × State := s.storeN bs.length a bs

/-- A write whose partial lines that cannot be merged are dropped one by one, the rest being performed (host writes, R169). -/
def State.storeEachN (s : State) : Nat → Nat → List (BitVec 8) → State
  | 0, _, _ => s
  | n + 1, a, bs =>
    if bs = [] then s
    else
      let k := cwBytes a - a % cwBytes a
      match s.storeCw a (bs.take k) with
      | (true, s) => s.storeEachN n (a + k) (bs.drop k)
      | (false, s) => (s.logUe (cwAt a)).storeEachN n (a + k) (bs.drop k)

def State.storeEach (s : State) (a : Nat) (bs : List (BitVec 8)) : State := s.storeEachN bs.length a bs

/-- The same, answering the first word that could not be merged (a group of stores that has begun is completed, R106). -/
def State.putOnN (s : State) : Nat → Nat → List (BitVec 8) → Option Nat → Option Nat × State
  | 0, _, _, ue => (ue, s)
  | n + 1, a, bs, ue =>
    if bs = [] then (ue, s)
    else
      let k := cwBytes a - a % cwBytes a
      match s.storeCw a (bs.take k) with
      | (true, s) => s.putOnN n (a + k) (bs.drop k) ue
      | (false, s) => s.putOnN n (a + k) (bs.drop k) (some (ue.getD (cwAt a)))

def State.putOn (s : State) (a : Nat) (bs : List (BitVec 8)) (ue : Option Nat) : Option Nat × State := s.putOnN bs.length a bs ue

/-- Whether any codeword of [a, a + n) reads uncorrectable, without reading it. -/
def State.hasUe (s : State) (a n : Nat) : Bool := (cwsOf a n).any fun cw => s.verdict cw == .ue

end Sys2Proof.Machine
end

