-- ==== Sys2Proof/Machine/TraceOps.lean ====
section
/-! DEFINITION. Observation (chapter 17): hem records, triggers, cross-triggers and the global-stop request. Nothing here changes a value
or a time (R447). -/
namespace Sys2Proof.Machine

/-! ### Hem records (R448 to R453) -/

/-- Record kinds (Table 17.1). -/
inductive HemKind where | branch | push | markIssue | markDone | tack | fault | trigger | sync | overflow | gap
  deriving DecidableEq, Repr

def HemKind.n : HemKind → Nat
  | .branch => 1
  | .push => 2
  | .markIssue => 3
  | .markDone => 4
  | .tack => 5
  | .fault => 6
  | .trigger => 7
  | .sync => 8
  | .overflow => 9
  | .gap => 10

/-- The SRC bit that selects a kind (R449), for the kinds that have one. -/
def HemKind.srcBit : HemKind → Option Nat
  | .branch => some 0
  | .push => some 1
  | .markIssue => some 2
  | .markDone => some 2
  | .tack => some 3
  | .fault => some 4
  | _ => none

/-- A 16-byte record (R448). -/
def hemRec (k : HemKind) (tape payload : Nat) : BitVec 128 :=
  BitVec.ofNat 128 (k.n + tape % 2 ^ 48 * 2 ^ 16 + payload % 2 ^ 64 * 2 ^ 64)

def Hem.mode (h : Hem) : Nat := fget F.TRC_HEM_CFG_MODE h.cfg

/-- Whether a record has a slot (Table 17.2): stop-on-full keeps slot 1,023 for its OVERFLOW record, spill takes what is not drained. -/
def Hem.hasSlot (h : Hem) : Bool :=
  match h.mode with
  | 1 => decide (h.next < 1023)
  | 3 => decide (h.queued < 1024)
  | _ => true

/-- A record replaces the words of its slot and their check bits (R174). -/
def Hem.fresh (h : Hem) (slot : Nat) : SMap CodeErr := (h.words.erase (2 * slot)).erase (2 * slot + 1)

/-- A lost record is counted (R450, R451); in stop-on-full mode slot 1,023 is updated in place. -/
def Hem.lose (h : Hem) (tape : Nat) : Hem :=
  let h := { h with lost := satAdd 32 h.lost 1, runLost := satAdd 32 h.runLost 1,
                    firstLost := if h.runLost = 0 then tape else h.firstLost, lastLost := tape }
  if h.mode = 1 ∧ h.next = 1023 then
    { h with slots := h.slots.set 1023 (hemRec .overflow h.firstLost (h.runLost + h.lastLost % 2 ^ 32 * 2 ^ 32)), words := h.fresh 1023 }
  else h

/-- A record written in the post-trigger phase is one of A, and after the last of them the hem freezes (R453). -/
def Hem.tickPost (h : Hem) : Hem :=
  if h.hstate = 2 then { h with post := h.post - 1, hstate := if h.post ≤ 1 then 3 else 2 } else h

/-- One record into its slot, which makes `since` records since the last SYNC; lost without a slot. -/
def Hem.slotIn (h : Hem) (r : BitVec 128) (tape since : Nat) : Hem :=
  if h.hasSlot then
    ({ h with slots := h.slots.set h.next r, next := (h.next + 1) % 1024, wrapped := h.wrapped || h.next + 1 == 1024,
              queued := if h.mode = 3 then h.queued + 1 else h.queued, sinceSync := since, words := h.fresh h.next } : Hem).tickPost
  else h.lose tape

/-- A record of a hem that traces; one that is off or frozen writes none (R453). -/
def Hem.write (h : Hem) (r : BitVec 128) (tape since : Nat) : Hem := if h.hstate = 0 ∨ h.hstate = 3 then h else h.slotIn r tape since

/-- The SYNC payload: next instruction address, tape bits [63:48], core halted (Table 17.1). -/
def syncPayload (t : Tile) (tape : Nat) : Nat := t.pc.toNat % 2 ^ 16 + bits tape 48 16 * 2 ^ 16 + b2n (!t.run) * 2 ^ 32

/-- A SYNC record (R449). -/
def Hem.sync (h : Hem) (t : Tile) (now : Nat) : Hem := h.write (hemRec .sync now (syncPayload t now)) now 0

/-- The OVERFLOW record of a run of lost ones, once there is space for it, and the SYNC after it (R449, R451). -/
def Hem.overflow (h : Hem) (t : Tile) (now : Nat) : Hem :=
  if h.runLost = 0 ∨ h.hstate = 0 ∨ h.hstate = 3 ∨ !h.hasSlot then h
  else
    ({ (h.write (hemRec .overflow h.firstLost (h.runLost + h.lastLost % 2 ^ 32 * 2 ^ 32)) now (h.sinceSync + 1)) with runLost := 0 } : Hem).sync t now

/-- A site's hem replaced; TRC_HEM_STAT.OVERFLOW is set when records have been lost. -/
def State.setHem (s : State) (g : Nat) (h : Hem) : State :=
  let lost := (s.tile g).hem.lost
  let s := s.modTile g fun t => { t with hem := h }
  if h.lost = lost then s else s.wb (.tile g) F.TRC_HEM_STAT_OVERFLOW true

/-- The first tape of a TCLK cycle. -/
def State.tclkTape (s : State) (n : Nat) : Nat := ceilDiv (n * 2000) s.aclk

/-- An event of a past tape falls into the present TCLK cycle. -/
def State.thisCycle (s : State) (tape : Nat) : Bool := tape == s.tape || (s.aclk != 0 && s.tclkAt tape == s.tclkAt s.tape)

/-- What the hem owes since there is space: the entry queue drains one record per TCLK cycle (R450), `from_` is the tape at which slots came free. -/
def State.hemSettle (s : State) (g : Nat) (from_ : Nat := 0) : State :=
  let t := s.tile g
  let h := t.hem
  let at_ := max from_ (max h.lastLost (min s.tape (s.tclkTape (h.queueAt - 7))))
  if h.runLost = 0 ∨ s.tclkAt s.tape + 8 ≤ h.queueAt ∨ !h.freezeAt.all (fun x => decide (at_ < x)) then s else s.setHem g (h.overflow t at_)

/-- A traced event of a site: nothing while the hem is off or frozen; lost when the 8-entry queue is full (R450). `also`: a hem that froze in this
TCLK cycle still takes it (R456). -/
def State.hemRaw (s : State) (g : Nat) (k : HemKind) (tape payload : Nat) (also : Bool := false) : State :=
  let s := s.hemSettle g
  let h := (s.tile g).hem
  let on := match k.srcBit with
    | none => true
    | some i => bit (fget F.TRC_HEM_CFG_SRC h.cfg) i
  if h.hstate = 0 ∨ (h.hstate = 3 ∧ !also) ∨ !on then s
  else if h.hstate ≠ 3 ∧ h.freezeAt.any (fun x => decide (x ≤ s.tape)) then s.setHem g { h with hstate := 3 }
  else
    let now := s.tclkAt s.tape
    if now + 8 ≤ h.queueAt then s.setHem g (h.lose tape)
    else s.setHem g (({ h with queueAt := max h.queueAt now + 1 } : Hem).slotIn (hemRec k tape payload) tape (h.sinceSync + 1))

/-- The SYNC that follows every 256 records (R449). -/
def State.hemDue (s : State) (g : Nat) : State :=
  let t := s.tile g
  if t.hem.sinceSync < 256 then s else s.setHem g (t.hem.sync t s.tape)

/-- A record, and the SYNC that it may make due. -/
def State.hemPut (s : State) (g : Nat) (k : HemKind) (tape payload : Nat) : State := (s.hemRaw g k tape payload).hemDue g

/-- The payload of PUSH and MARK records (Table 17.1). -/
def descPayload (d : BitVec 512) : Nat :=
  let n := d.toNat
  bits n 48 16 + bits n 0 8 * 2 ^ 16 + bits n 16 16 * 2 ^ 24 + bits n 32 16 * 2 ^ 40

/-- Tracing resumes after a halt with EN set: a GAP record and a SYNC (R449, R451). -/
def State.hemResume (s : State) (g : Nat) : State :=
  match (s.tile g).hem.gapFrom with
  | none => s
  | some x =>
    let s := (s.modTile g fun t => { t with hem := { t.hem with gapFrom := none } }).hemSettle g
    let t := s.tile g
    s.setHem g ((t.hem.write (hemRec .gap x (s.tape % 2 ^ 48)) s.tape (t.hem.sinceSync + 1)).sync t s.tape)

/-- The tile halts by pre-emption, global stop, bolt reset or block reset: the next resumption writes a GAP record (R451). -/
def Tile.gap (t : Tile) (tape : Nat) : Tile :=
  if t.hem.hstate = 0 then t else { t with hem := { t.hem with gapFrom := some (t.hem.gapFrom.getD tape) } }

/-- The capacity that A is reckoned from (R453). -/
def State.hemCap (s : State) (g : Nat) : Nat :=
  if (s.tile g).hem.mode = 3 then s.r (.tile g) F.TRC_SPILL_LEN_LEN * 4096 else 1024

/-- A trigger's freeze (R453); only the first request is acted on, and none in stop-on-full mode once it is full (Table 17.2). -/
def State.hemFreeze (s : State) (g : Nat) : State :=
  let t := s.tile g
  let h := t.hem
  if h.hstate = 1 ∧ h.freezeAt.isNone ∧ !(h.mode == 1 && h.next == 1023) then
    if h.mode ≤ 1 then s.setTile g { t with hem := { h with hstate := 3 } }
    else
      let a := (s.hemCap g - 1) * (100 - fget F.TRC_HEM_CFG_PRE h.cfg) / 100
      s.setTile g { t with hem := { h with hstate := if a = 0 then 3 else 2, post := a } }
  else s

/-! ### Hem control (R452, R454, R455): the effects of writes of TRC_HEM_CFG and TRC_HEM_SEL, and the spill ring -/

/-- A spill ring that R454 refuses: empty, beyond the slice, or below the tile's private claim of `claim` bytes. -/
def State.spillBad (s : State) (g claim : Nat) : Bool :=
  let base := s.r (.tile g) F.TRC_SPILL_BASE_BASE * 65536
  let len := s.r (.tile g) F.TRC_SPILL_LEN_LEN * 65536
  len == 0 || decide (sliceBytes < base + len) || decide (base < claim)

/-- Spill refused: EN is clear and SPILL_REFUSED set. -/
def State.spillRefuse (s : State) (g : Nat) : State :=
  let t := s.tile g
  ((s.wb (.tile g) F.TRC_HEM_CFG_EN false).wb (.tile g) F.TRC_HEM_STAT_SPILL_REFUSED true).setTile g { t with hem := { t.hem with hstate := 0 } }

/-- EN from 0 to 1: the settings are taken, the hem is empty, LOST is 0, and tracing starts with a SYNC record (R449, R452). -/
def State.hemStart (s : State) (g claim : Nat) : State :=
  let k := Blk.tile g
  let cfg := s.word (k.base + F.TRC_HEM_CFG_EN.off)
  if fget F.TRC_HEM_CFG_MODE cfg = 3 ∧ s.spillBad g claim then s.spillRefuse g
  else
    let t := s.tile g
    let h := { Hem.reset with hstate := 1, cfg := cfg }
    let s := (s.w k F.TRC_SPILL_PTR_NEXT 0).wb k F.TRC_SPILL_PTR_WRAPPED false
    s.setTile g { t with hem := h.sync t s.tape }

/-- TRC_HEM_CFG written, its word having been `old`: EN changes or stays. -/
def State.hemCfg (s : State) (g claim : Nat) (old : BitVec 32) : State :=
  let was := fget F.TRC_HEM_CFG_EN old == 1
  if s.b (.tile g) F.TRC_HEM_CFG_EN then (if was then s else s.hemStart g claim)
  else s.modTile g fun t => { t with hem := { t.hem with hstate := 0, gapFrom := none } }

/-- A slot of the hem read (R174): its record, or none where a word of it is uncorrectable, which is logged (R437). -/
def State.hemRead (s : State) (g slot : Nat) : Option (BitVec 128) × State :=
  match s.wordsRead (hemAt g slot) 2 ((s.tile g).hem.slots.get 0 slot) with
  | (none, r, s) => (some r, s.modTile g fun t => { t with hem := { t.hem with slots := t.hem.slots.set slot r } })
  | (some cw, _, s) => (none, s.logUe cw)

/-- TRC_HEM_SEL written: the slot's record stands in TRC_HEM_DATA_0 to 3, which keep what they hold where it is uncorrectable (R437: no substitute
value; DESIGN CHOICE, log entry 113). -/
def State.hemLatch (s : State) (g : Nat) : State :=
  match (s.hemSettle g).hemRead g (s.r (.tile g) F.TRC_HEM_SEL_SLOT) with
  | (none, s) => s
  | (some r, s) => (List.range 4).foldl (fun s i => s.w (.tile g) (F.TRC_HEM_DATA_DATA i) (bits r.toNat (32 * i) 32)) s

/-- The four oldest records of the spill queue go to the ring; a ring without wrap that is full takes none (R454). A line of which a record reads
uncorrectable is not written, and its four records are lost (R437; DESIGN CHOICE, log entry 113). -/
def State.hemSpill (s : State) (g : Nat) : State :=
  let h := (s.tile g).hem
  let k := Blk.tile g
  let n := s.r k F.TRC_SPILL_LEN_LEN * 4096
  let p := s.r k F.TRC_SPILL_PTR_NEXT
  let wrap := fget F.TRC_HEM_CFG_SPILL_WRAP h.cfg == 1
  let a := sliceAt g (s.r k F.TRC_SPILL_BASE_BASE * 65536 + 16 * p)
  if h.mode ≠ 3 ∨ h.queued < 4 ∨ n < p + 4 ∨ !s.idleSlot a then s
  else
    let first := (h.next + 1024 - h.queued) % 1024
    let (line, s) := (List.range 4).foldl (fun (acc : Option (List (BitVec 8)) × State) i =>
      match acc.2.hemRead g ((first + i) % 1024) with
      | (some r, s) => (acc.1.map (· ++ leBytes 16 r.toNat), s)
      | (none, s) => (none, s)) (some [], s)
    let s := s.modTile g fun t => { t with hem := { t.hem with queued := h.queued - 4 } }
    match line with
    | none => (s.setHem g ((List.range 4).foldl (fun h _ => h.lose s.tape) (s.tile g).hem)).hemSettle g s.tape
    | some line =>
      let s := ((s.idleTake a).storeCw a line).2
      let last := wrap && p + 4 == n
      let s := (s.w k F.TRC_SPILL_PTR_NEXT (if last then 0 else p + 4)).wb k F.TRC_SPILL_PTR_WRAPPED (last || s.b k F.TRC_SPILL_PTR_WRAPPED)
      s.hemSettle g s.tape

/-! ### Cross-triggers and global stop (R456 to R458, R461) -/

/-- A cross-trigger for every tile of the module (R456): each tile receives it by CROSS_TRIGGER_ARRIVE. -/
def State.xmod (s : State) (tx : Nat) (id : Nat) : State :=
  let s := (s.w .trc F.TRC_XTRIG_STAT_LAST_ID id).w2 .trc F.TRC_XTRIG_TAPE_LO_TAPE F.TRC_XTRIG_TAPE_HI_TAPE tx
  { s with trace := { s.trace with xtrigs := s.trace.xtrigs ++ [(tx, BitVec.ofNat 8 id)] } }

/-- A trigger's request for a global stop (R461): ignored while a stop is armed or has been taken. A T already past is `late`. -/
def State.stopReq (s : State) (t : Nat) (late : Bool) : State :=
  if s.r .trc F.TRC_STOP_STATUS_STATE = 0 then
    let s := (s.w .trc F.TRC_STOP_STATUS_STATE 1).wb .trc F.TRC_STOP_STATUS_TRIGGERED true
    let s := if late then s.wb .trc F.TRC_STOP_STATUS_LATE true else s
    { s with trace := { s.trace with armed := some t } }
  else s

/-- An entry held by a global stop (R462, R464). -/
def State.hold (s : State) (kind ix at_ : Nat) (d : List (BitVec 8)) : State :=
  { s with trace := { s.trace with held := s.trace.held ++ [⟨kind, ix, at_, d⟩] } }

/-! ### Triggers (R456, Table 17.3) -/

/-- What a trigger unit may fire on. -/
inductive TEv where
  | exec (pc : Nat)
  | access (addr : Nat)
  | issue (layer op : Nat)
  | count (n v : Nat)
  | tack (n : Nat)
  | fault
  | xtrig (id : Nat)
  deriving DecidableEq, Repr

/-- Whether a unit of a kind with VALUE and CNT fires on an event. -/
def TEv.hits (e : TEv) (kind val cnt : Nat) : Bool :=
  match e with
  | .exec pc => kind == 1 && pc == val % 2 ^ 16
  | .access a => kind == 2 && a / 64 == val / 64
  | .issue l o => (kind == 3 && l == val % 2 ^ 16) || (kind == 4 && l == val % 2 ^ 16 && o == val / 2 ^ 16)
  | .count n v => kind == 5 && n == cnt && val ≤ v
  | .tack n => kind == 6 && n == val % 2 ^ 24
  | .fault => kind == 7
  | .xtrig id => kind == 8 && (val % 256 == 0xFF || val % 256 == id)

/-- The payload of a unit's TRIGGER record. -/
def trigPayload (es : List TEv) (u : Nat) : Nat :=
  match es with
  | [.xtrig i] => 0xF + i * 16
  | _ => u

/-- The FREEZE of units that fire: by a trigger under R453, by a cross-trigger at its tape (R457). -/
def State.fireFreeze (s : State) (g : Nat) (es : List TEv) (tape : Nat) : State :=
  match es with
  | [.xtrig _] =>
    let at_ := tape + s.r .trc F.TRC_XTRIG_POST_CYCLES
    let t := s.tile g
    if t.hem.hstate ≠ 1 ∨ t.hem.freezeAt.isSome then s
    else if at_ ≤ s.tape then (s.setTile g { t with hem := { t.hem with hstate := 3 } }).wb (.tile g) F.TRC_HEM_STAT_XLATE true
    else s.setTile g { t with hem := { t.hem with freezeAt := some at_ } }
  | _ => s.hemFreeze g

/-- Units of a site fire in one TCLK cycle: FIRED and a TRIGGER record each, in ascending order, and their actions combined (R456), also with those
that fired earlier in the cycle: a cross-trigger and a frame go out once. `tape` is the event's (the origin tape of a cross-trigger). -/
def State.fire (s : State) (g : Nat) (us : List Nat) (es : List TEv) (tape : Nat) : State :=
  let k := Blk.tile g
  let was := (s.tile g).fired.filter fun x => s.thisCycle x.tape
  let frozen := was.any (·.frozen)
  let any (f : Nat → Fld) : Bool := us.any fun u => s.b k (f u)
  let (freeze, xfab, xmod, stop) := (any F.TRC_TRIG_CFG_FREEZE, any F.TRC_TRIG_CFG_XFAB, any F.TRC_TRIG_CFG_XMOD, any F.TRC_TRIG_CFG_STOP)
  let xstop := us.any fun u => s.b k (F.TRC_TRIG_CFG_XFAB u) && s.b k (F.TRC_TRIG_CFG_STOP u)
  let post := s.r .trc F.TRC_XTRIG_POST_CYCLES
  let id := s.r .trc F.TRC_XTRIG_CFG_ID
  let s := us.foldl (fun s u => (s.wb k (F.TRC_TRIG_CFG_FIRED u) true).hemRaw g .trigger tape (trigPayload es u) frozen) s
  let on := (s.tile g).hem.hstate != 3
  let s := if freeze then s.fireFreeze g es tape else s
  let froze := on && (s.tile g).hem.hstate == 3
  let s := s.hemDue g
  let sentF := was.any (·.xfab)
  let sentM := was.any (·.xmod)
  let s := s.modTile g fun t => { t with fired := some ⟨s.tape, frozen || froze, sentM || xfab || xmod, sentF || xfab⟩ }
  let s := if xfab && !sentF then s.broadcast 0x04 (leBytes 8 tape ++ leBytes 1 id ++ leBytes 1 (b2n xstop)) else s
  let s := if (xfab || xmod) && !sentM then s.xmod tape id else s
  if stop then s.stopReq (tape + post) (decide (tape + post ≤ s.tape)) else s

/-- The units of a site meet the events of one cycle; each fires once until FIRED is cleared. -/
def State.trigger (s : State) (g : Nat) (es : List TEv) (tape : Nat) : State :=
  let k := Blk.tile g
  let us := (List.range 4).filter fun u => !s.b k (F.TRC_TRIG_CFG_FIRED u) &&
    es.any fun e => e.hits (s.r k (F.TRC_TRIG_CFG_KIND u)) (s.r k (F.TRC_TRIG_VAL_VALUE u)) (s.r k (F.TRC_TRIG_CFG_CNT u))
  if us = [] then s else s.fire g us es tape

/-- Counter thresholds (kind 5) after counters have moved; those that `e` moved by one per TCLK cycle for the last `n` cycles met their threshold
in the cycle of its count. -/
def State.trigCounts (s : State) (g : Nat) (e : Nat := 0) (n : Nat := 0) : State :=
  (List.range 4).foldl (fun s u =>
    let k := Blk.tile g
    let c := s.r k (F.TRC_TRIG_CFG_CNT u)
    let v := s.r2 k (F.TRC_CNT_LO_COUNT c) (F.TRC_CNT_HI_COUNT c)
    let past := v - s.r k (F.TRC_TRIG_VAL_VALUE u)
    let tape := if past < n ∧ s.r k (F.TRC_CNT_SEL_EVENT c) = e then min s.tape (s.tclkTape (s.tclkAt s.tape - past)) else s.tape
    if s.r k (F.TRC_TRIG_CFG_KIND u) = 5 then s.trigger g [.count c v] tape else s) s

/-- An event counted for a tile, with the counter triggers it may fire (R459); `n` TCLK cycles of an engine up to now. -/
def State.ev (s : State) (g e n : Nat) : State := if n = 0 then s else (s.cnt g e n).trigCounts g
def State.evIds (s : State) (g e n layer op : Nat) : State := if n = 0 then s else (s.cntAdd g e n layer op).trigCounts g
def State.evSpan (s : State) (g e n layer op : Nat) : State := if n = 0 then s else (s.cntAdd g e n layer op).trigCounts g e n

/-! ### Attribution (R460) -/

/-- A tile's accumulator for a key takes a retired command; a 17th key sends the one least recently updated to the HKC's table. -/
def attrAdd (l : List AttrAcc) (a : AttrAcc) : List AttrAcc × Option AttrAcc :=
  match l.find? fun x => x.layer == a.layer && x.operator == a.operator with
  | some x =>
    let y := { x with retired := x.retired + a.retired, array := x.array + a.array, vector := x.vector + a.vector,
                      moved := x.moved + a.moved, updated := a.updated }
    (l.map fun z => if z.layer == a.layer && z.operator == a.operator then y else z, none)
  | none =>
    if l.length < 16 then (l ++ [a], none)
    else
      let old := l.foldl (fun (m : AttrAcc) x => if x.updated < m.updated then x else m) (l.headD a)
      (l.filter (fun x => !(x == old)) ++ [a], some old)

/-- The HKC's table takes an accumulator: one entry per key in order of first appearance; once entries 0 to 4,094 are in use, new keys
add to entry 4,095. -/
def tableAdd (tb : List AttrAcc) (a : AttrAcc) : List AttrAcc :=
  if (tb.take 4095).any (fun x => x.layer == a.layer && x.operator == a.operator) then
    (attrMerge (tb.take 4095) a) ++ tb.drop 4095
  else if tb.length < 4095 then tb ++ [a]
  else match tb.drop 4095 with
    | [] => tb ++ [a]
    | o :: _ => tb.take 4095 ++ [{ o with retired := o.retired + a.retired, array := o.array + a.array,
                                          vector := o.vector + a.vector, moved := o.moved + a.moved }]
where
  attrMerge (l : List AttrAcc) (a : AttrAcc) : List AttrAcc :=
    l.map fun x => if x.layer == a.layer && x.operator == a.operator then
      { x with retired := x.retired + a.retired, array := x.array + a.array, vector := x.vector + a.vector, moved := x.moved + a.moved }
    else x

/-- A retiring command adds itself to its key's accumulator, when attribution is on for the tile's bolt. -/
def State.attribute (s : State) (g : Nat) (a : AttrAcc) : State :=
  match s.boltOf (g / 160) with
  | none => s
  | some b =>
    if s.b .trc F.TRC_ATTR_CTRL_EN && bit (s.r .trc F.TRC_ATTR_CTRL_BOLTS) b then
      let t := s.tile g
      let (l, out) := attrAdd t.attr a
      let s := s.setTile g { t with attr := l }
      match out with
      | none => s
      | some o => { s with trace := { s.trace with sent := s.trace.sent ++ [o] } }
    else s

end Sys2Proof.Machine
end

