-- ==== Sys2Proof/Machine/Operands.lean ====
section
/-! DEFINITION. The operand forms: descriptor fields (Table 3.6), the engines an opcode needs (Table 3.5), the control-core instructions'
operands, and the checks every descriptor gets. -/
namespace Sys2Proof.Machine

/-! ### Descriptors (R75) -/

/-- `w` bits from bit `lo` of the word at byte `byte`. -/
def dget (d : BitVec 512) (byte lo w : Nat) : Nat := bits d.toNat (8 * byte + lo) w
def dbit (d : BitVec 512) (byte lo : Nat) : Bool := bit d.toNat (8 * byte + lo)

def opcodeOf (d : BitVec 512) : Nat := dget d 0 0 8
def orderPrev (d : BitVec 512) : Bool := dbit d 0 8
def orderAll (d : BitVec 512) : Bool := dbit d 0 9
def notifyOf (d : BitVec 512) : Bool := dbit d 0 10
def markOf (d : BitVec 512) : Bool := dbit d 0 11
def layerOf (d : BitVec 512) : Nat := dget d 0 16 16
def operatorOf (d : BitVec 512) : Nat := dget d 0 32 16
def seqOf (d : BitVec 512) : Nat := dget d 0 48 16

/-- Reserved flag bits (R75). -/
def reservedFlags (d : BitVec 512) : Bool := dget d 0 12 4 != 0

/-- Whether every bit from bit `lo` of byte `byte` on, for `w` bits, is zero. -/
def dzero (d : BitVec 512) (byte lo w : Nat) : Bool := dget d byte lo w == 0

/-! ### Engines (R71, Table 3.5) -/

inductive Eng where | array | vector | shuttle | check | sync
  deriving DecidableEq, Repr

/-- The engines an opcode is served by. -/
def enginesOf (op : Nat) : List Eng :=
  match op with
  | 0x01 => [.array]
  | 0x02 => [.array]
  | 0x03 => [.array, .vector]
  | 0x04 => [.array, .vector]
  | 0x05 => [.vector]
  | 0x06 => [.shuttle]
  | 0x07 => [.shuttle]
  | 0x08 => [.shuttle]
  | 0x0C => [.check]
  | _ => [.sync]

/-- An MM or MMA with M = 0 or N = 0 occupies no engine (R86). -/
def mmEmpty (d : BitVec 512) : Bool := (opcodeOf d == 1 || opcodeOf d == 2) && (dget d 8 0 16 == 0 || dget d 8 16 16 == 0)

def Flight.op (f : Flight) : Nat := opcodeOf f.desc
def Flight.open_ (f : Flight) : Bool := f.phase == .waiting || f.phase == .running
def Flight.uses (f : Flight) (e : Eng) : Bool := !mmEmpty f.desc && (enginesOf f.op).contains e

/-- Commands an engine holds that have not completed. -/
def Tile.held (t : Tile) (e : Eng) : Nat := (t.flight.filter fun f => f.open_ && f.uses e).length

/-- Whether an engine has room (R71): array and vector one executing and one pending, the shuttle four in progress. -/
def Tile.room (t : Tile) (e : Eng) : Bool :=
  match e with
  | .array => t.held .array < 2
  | .vector => t.held .vector < 2
  | .shuttle => t.held .shuttle < Config.shuttleDepth
  | _ => true

/-! ### The tile's state as TILE_STATUS shows it (Table 3.14) -/

/-- No command executing and no request outstanding. -/
def Tile.drained (t : Tile) : Bool := if t.faulted then t.drainSet else !t.flight.any (·.open_)

def Tile.mode (t : Tile) : Mode :=
  if t.faulted then .faulted
  else if t.run then .running
  else if t.haltExec && t.queue.isEmpty && t.drained then .idle
  else .halted

def Mode.n : Mode → Nat
  | .idle => 0
  | .running => 1
  | .halted => 2
  | .faulted => 3

/-! ### Registers of the control core (R65) -/

/-- g0 reads as zero. -/
def Tile.gr (t : Tile) (r : BitVec 5) : BitVec 64 := if r = 0 then 0 else t.g.get 0 r.toNat
/-- Writes to g0 are discarded. -/
def Tile.setG (t : Tile) (r : BitVec 5) (v : BitVec 64) : Tile := if r = 0 then t else { t with g := t.g.set r.toNat v }

def sx16 (i : BitVec 16) : BitVec 64 := i.signExtend 64

/-! ### Floating-point and integer words of memory -/

def w32 (l : List (BitVec 8)) : BitVec 32 := BitVec.ofNat 32 (leNat (l.take 4))
def le32 (v : BitVec 32) : List (BitVec 8) := leBytes 4 v.toNat
/-- `n` little-endian words of `k` bytes each, from a byte list. -/
def wordsOf (k : Nat) : Nat → List (BitVec 8) → List Nat
  | 0, _ => []
  | n + 1, l => leNat (l.take k) :: wordsOf k n (l.drop k)

end Sys2Proof.Machine
end

