-- ==== Sys2Proof/Machine/TileOps.lean ====
section
/-! DEFINITION. The shared operations of a tile: command faults (R90 to R92), control-core faults (R68), issue (R69 to R71), completion and
retirement (R73, R74). -/
namespace Sys2Proof.Machine

/-! ### Completion records (R74, R314 to R317, Table 11.4) -/

def State.cqSize (s : State) (p n : Nat) : Nat := s.r4 p (F.HST_Q_CFG_CQ_SIZE_M1 n) + 1
def State.cqBase (s : State) (p n : Nat) : Nat := s.r4 p (F.HST_CQ_BASE_LO_ADDR n) * 64 + s.r4 p (F.HST_CQ_BASE_HI_ADDR n) * 2 ^ 32

/-- The next record would overwrite one that the head has not passed (R317). -/
def State.cqFull (s : State) (p n : Nat) : Bool := s.cqSize p n ≤ (s.qp p n).used

/-- A record written at the CQ's position with the pass's phase bit, and the CQ's interrupt when IEN is set (R315, R321). -/
def State.cqWrite (s : State) (p n : Nat) (w0 w1 : Nat) : State :=
  let q := s.qp p n
  let rec_ := leBytes 8 w0 ++ leBytes 8 w1 ++ leBytes 8 s.tape ++ leBytes 8 (b2n q.phase * 2 ^ 63)
  let s := s.send (.hostWrite (if p = 0 then .p0 else .p1) (s.cqBase p n + 32 * q.cqPos) rec_)
  let last := q.cqPos + 1 == s.cqSize p n
  let s := s.setQp p n { q with cqPos := if last then 0 else q.cqPos + 1, phase := q.phase != last, used := q.used + 1 }
  if s.r4 p (F.HST_Q_CTRL_IEN n) = 1 then s.msix p (s.r4 p (F.HST_Q_CTRL_VECTOR n)) else s

/-- The completion record of a retiring command with NOTIFY (R74): discarded without a count where no bolt owns the tile, counted in
DROPPED where nobody accepts it, and in HST_Q_n_DROP on a full or disabled CQ. -/
def State.notify (s : State) (g : Nat) (d : BitVec 512) : State :=
  match s.boltOf (g / 160) with
  | none => s
  | some b =>
    match s.owner b with
    | none => s.inc4 0 (F.HST_BOLT_DROPPED b)
    | some p =>
      if s.r4 0 (F.HST_BOLT_IEN b) = 0 ∨ !s.portAvail p then s.inc4 0 (F.HST_BOLT_DROPPED b)
      else
        let n := s.r4 0 (F.HST_BOLT_CQ b)
        if s.r4 p (F.HST_Q_CTRL_EN n) = 0 ∨ s.cqFull p n then s.inc4 p (F.HST_Q_DROP_COUNT n)
        else s.cqWrite p n (seqOf d + (s.mtile g).getD 0x7FF * 2 ^ 16 + 2 ^ 27 + b * 2 ^ 48) (layerOf d + operatorOf d * 2 ^ 16)

/-! ### Faults -/

/-- The error class of a command fault code (Table 3.11). -/
def faultClass (code : Nat) : ErrClass :=
  match code with
  | 0x0A => .ue
  | 0x0B => .ue
  | 0x10 => .fatal
  | _ => .protocol

/-- What a command fault records: the descriptor (none for a control-core fault), code, progress, CMD_FAULT_ADDR and DETAIL. -/
structure CmdFault where
  desc    : Option (BitVec 512)
  code    : Nat
  prog    : Nat := 0
  addr    : Nat := 0
  detail  : Nat := 0
  refusal : Bool := false
  /-- the command's place in queue order -/
  order   : Nat := 2 ^ 64

/-- The offsets of the CMD_FAULT registers (Table 3.14). -/
def faultOffs : List Nat := [0x40, 0x44, 0x48, 0x4C, 0x50, 0x54, 0x58]

/-- The CMD_FAULT registers record a fault. -/
def State.setFault (s : State) (g : Nat) (f : CmdFault) : State :=
  let k := Blk.tile g
  let d := f.desc.getD 0
  let s := ((s.w k F.CMD_FAULT_CODE_CODE f.code).w k F.CMD_FAULT_CODE_OPCODE (opcodeOf d)).w k F.CMD_FAULT_CODE_SEQ (seqOf d)
  let s := (s.w k F.CMD_FAULT_IDS_LAYER (layerOf d)).w k F.CMD_FAULT_IDS_OPERATOR (operatorOf d)
  let s := s.w2 k F.CMD_FAULT_PROG_LO_PROG F.CMD_FAULT_PROG_HI_PROG f.prog
  let s := s.w2 k F.CMD_FAULT_ADDR_LO_ADDR F.CMD_FAULT_ADDR_HI_ADDR f.addr
  ((s.wb k F.CMD_FAULT_STAT_VALID true).wb k F.CMD_FAULT_STAT_REFUSAL f.refusal).modTile g fun t => { t with faultAt := some (s.tape, f.order) }

/-- The CMD_FAULT registers of a fault, subject to R92: while VALID is set, it only sets OVERFLOW, unless the record is one of the same TCLK
cycle of a command later in queue order. -/
def State.fillFault (s : State) (g : Nat) (f : CmdFault) : State :=
  let k := Blk.tile g
  if s.b k F.CMD_FAULT_STAT_VALID then
    let words (s : State) : List (BitVec 32) := faultOffs.map fun o => s.word (k.base + o)
    let ovf := s.b k F.CMD_FAULT_STAT_OVERFLOW
    if (s.tile g).faultAt.any fun x => s.thisCycle x.1 && decide (f.order < x.2) then
      let old : LateFault := ⟨s.tape, (((s.tile g).faultAt.map (·.2)).getD 0), words s, ovf, true⟩
      ((s.setFault g f).wb k F.CMD_FAULT_STAT_OVERFLOW true).modTile g fun t => { t with faultLate := some old }
    else
      let new : LateFault := ⟨s.tape, f.order, words (s.setFault g f), ovf, false⟩
      let late := match (s.tile g).faultLate.filter fun x => s.thisCycle x.tape with
        | some x => { (if f.order < x.order then new else x) with ovf := x.ovf, two := true }
        | none => new
      (s.wb k F.CMD_FAULT_STAT_OVERFLOW true).modTile g fun t => { t with faultLate := some late }
  else s.setFault g f

/-- Software clears VALID in the TCLK cycle in which a fault arrives (R92): VALID stays set, the registers hold the new fault, of two the one earlier
in queue order, and OVERFLOW is unchanged by it (`clr`: the write clears OVERFLOW as well) but set by two in the cycle. -/
def State.faultStays (s : State) (g : Nat) (clr : Bool) : State :=
  let k := Blk.tile g
  if (s.tile g).faultAt.any fun x => s.thisCycle x.1 then
    let two := (s.tile g).faultLate.any fun x => s.thisCycle x.tape
    let s := s.wb k F.CMD_FAULT_STAT_VALID true
    if two then s.wb k F.CMD_FAULT_STAT_OVERFLOW true else s
  else match (s.tile g).faultLate.filter fun x => s.thisCycle x.tape with
    | none => s
    | some x =>
      let s := (faultOffs.zip x.words).foldl (fun s x => s.setWord (k.base + x.1) x.2) s
      (s.wb k F.CMD_FAULT_STAT_OVERFLOW (x.two || (x.ovf && !clr))).modTile g fun t => { t with faultAt := some (x.tape, x.order), faultLate := none }

/-- A command fault (R90): the registers, the log, the FAULT record and triggers, and the faulted state. -/
def State.commandFault (s : State) (g : Nat) (f : CmdFault) : State :=
  let d := f.desc.getD 0
  let s := s.fillFault g f
  let s := s.logEv { cls := faultClass f.code, source := Src.tile, index := ixTile g, code := f.code, layer := layerOf d,
                     operator := operatorOf d, bolt := s.boltOf (g / 160), detail := f.detail }
  let s := (s.hemPut g .fault s.tape (f.code + seqOf d * 2 ^ 8)).trigger g [.fault] s.tape
  s.modTile g fun t => { t with faulted := true, drainSet := false }

/-- A refusal at issue (R70): the command stays at the head of the queue. -/
def State.refuse (s : State) (g : Nat) (d : BitVec 512) (code : Nat) : State :=
  s.commandFault g { desc := some d, code := code, refusal := true, order := (s.tile g).nextUid }

/-- VEC_PROGRESS and ATT_PROGRESS of the last element-wise VEC or ATTN (Tables 4.10, 5.5) take the progress of a command. -/
def State.keepProg (s : State) (g : Nat) (f : Flight) (prog : Nat) : State :=
  if f.op = 5 ∧ dget f.desc 8 0 2 = 0 then s.w (.tile g) F.VEC_PROGRESS_GROUPS prog else if f.op = 3 then s.w (.tile g) F.ATT_PROGRESS_BLOCKS prog else s

/-- The first open flight on an engine: the one it executes, or will execute next. -/
def Tile.first (t : Tile) (e : Eng) : Option Flight := t.flight.find? fun f => f.open_ && f.uses e

/-- A command executes: no earlier open command holds one of its engines. -/
def Tile.executes (t : Tile) (f : Flight) : Bool :=
  f.open_ && (enginesOf f.op).all fun e => (t.first e).any fun x => x.uid == f.uid

/-- The TCLK cycles since `t0`, or since the counters were last settled (R459). -/
def State.spanFrom (s : State) (g t0 : Nat) : Nat := s.tclkSpan (max (s.tile g).clkFrom t0) s.schedTape

/-- The parts of a tile that use its bobbin at the same time (R62); how many requests its banks refuse is not stated. -/
def Tile.busyParts (t : Tile) : Nat :=
  b2n t.run + ([Eng.array, .vector, .shuttle].filter fun e => (t.first e).any fun f => t.executes f).length

/-- An engine's cycles since the last settling, with the ids of the command that it executes. -/
def State.engSettle (s : State) (g : Nat) (e : Eng) (ev : Nat) : State :=
  let t := s.tile g
  match t.first e with
  | some f => if t.executes f then s.evSpan g ev (s.spanFrom g (if e = .shuttle then t.shutFrom else f.start)) (layerOf f.desc) (operatorOf f.desc) else s
  | none => s

/-- The counters that move with the clock are brought up to the present, before the engines, the head or the ids that gate them change (R459): TCLK
cycles (0x01), engines executing (0x05 to 0x07), the head waiting (0x08) and bobbin requests refused (0x09, a free value; DESIGN CHOICE, log
entry 100). -/
def State.clkSettle (s : State) (g : Nat) : State :=
  let t := s.tile g
  let l := s.r (.tile g) F.TRC_IDS_LAYER
  let o := s.r (.tile g) F.TRC_IDS_OPERATOR
  let n := s.spanFrom g 0
  let s' := s.evSpan g 0x01 n l o
  let s' := ((s'.engSettle g .array 0x05).engSettle g .vector 0x06).engSettle g .shuttle 0x07
  let s' := if t.queue.isEmpty then s' else s'.evSpan g 0x08 (s.spanFrom g t.headAt) l o
  let s' := if n = 0 ∨ t.busyParts < 2 then s' else s'.ev g 0x09 (Config.bobbinRefused g s.tape)
  s'.modTile g fun t => { t with clkFrom := s.schedTape }

/-- The progress that Table 3.12 records of a command (R94): blocks, groups and bytes of the kinds that resume part-way, 0 of those that start
again. -/
def progOf (d : BitVec 512) (prog : Nat) : Nat :=
  match opcodeOf d with
  | 0x03 => prog
  | 0x05 => if dget d 8 0 2 = 0 then prog else 0
  | 0x06 => prog
  | 0x0C => prog
  | _ => 0

/-- A command stops at its restart point with its progress, and with it the commands waiting behind it on its engines (DEDUCED, log entry
14). -/
def State.stopAt (s : State) (g : Nat) (f : Flight) (prog : Nat) : State :=
  ((s.clkSettle g).keepProg g f prog).modTile g fun t =>
    let behind (x : Flight) : Bool := decide (f.uid < x.uid) && x.phase == .waiting && x.op != 0x0C && (enginesOf f.op).any fun e => x.uses e
    { t with flight := t.flight.map fun x =>
        if x.uid = f.uid then { x with phase := .stopped, prog := prog } else if behind x then { x with phase := .stopped } else x }

/-- A fault of a command in flight (R90): it never completes, so later commands do not retire
(R73); its descriptor stands in the fault slot. -/
def State.flightFault (s : State) (g uid : Nat) (code prog addr detail : Nat) : State :=
  match (s.tile g).flight.find? fun f => f.uid == uid with
  | none => s
  | some f =>
    let prog := progOf f.desc prog
    let s := s.commandFault g { desc := some f.desc, code := code, prog := prog, addr := addr, detail := detail, order := uid }
    (s.modTile g fun t => { t with fault := some (t.fault.getD f.desc) }).stopAt g f prog

/-- The wait of an ATTN on its ring ends, and its cycles are counted (R154, R459). -/
def State.ringWaited (s : State) (g : Nat) (f : Flight) : State :=
  if s.b (.tile g) F.ATT_STATUS_WAIT_RING then
    (s.wb (.tile g) F.ATT_STATUS_WAIT_RING false).evIds g 0x12 (s.tclkSpan (s.tile g).ringFrom s.tape) (layerOf f.desc) (operatorOf f.desc)
  else s

/-- Before what the tile has open stops: its engines' cycles are counted, and the VEC and the ATTN that execute leave their progress in VEC_PROGRESS and
ATT_PROGRESS (R106, R131, R154, R459). -/
def State.keepOpen (s : State) (g : Nat) : State :=
  let s := s.clkSettle g
  ((s.tile g).flight.filter fun f => (s.tile g).executes f).foldl
    (fun s f => (if f.op = 3 then s.ringWaited g f else s).keepProg g f f.prog) s

/-- The descriptors of a tile's CHKs leave its check unit when the CHKs stop (R90, R96). -/
def State.dropStopped (s : State) (g : Nat) : State :=
  let n := dieOf (g / 160)
  let u := s.chkU n
  s.setChkU n { u with jobs := u.jobs.filter fun j => !j.tile.any fun x => x.1 == g && (s.tile g).flight.any fun f => f.uid == x.2 && f.phase == .stopped }

/-- A request of a command completes as an abort (R365): code 0x10, and everything the tile has open stops at its restart point (R90). -/
def State.abortFlight (s : State) (g uid prog addr : Nat) : State :=
  (((s.keepOpen g).flightFault g uid 0x10 prog addr 0).modTile g fun t =>
    { t with flight := t.flight.map fun f => if f.open_ then { f with phase := .stopped } else f }).dropStopped g

/-- A fault on an uncorrectable codeword (R90, R173, R174): 0x0A with the bobbin offset, or 0x0B with the address as the engine gave it. -/
def State.ueFault (s : State) (g uid cw prog issued : Nat) : State :=
  match placeOf cw with
  | .edge _ _ => s.flightFault g uid 0x0B prog issued (s.detailAddr cw)
  | .slice _ _ => s.flightFault g uid 0x0B prog issued (s.detailAddr cw)
  | .bobbin _ o => s.flightFault g uid 0x0A prog o (s.detailAddr cw)
  | .shq _ o => s.flightFault g uid 0x0A prog o (s.detailAddr cw)
  | _ => s.flightFault g uid 0x0A prog 0 (s.detailAddr cw)

/-- A control-core fault (R68): the core stops before the instruction changes any state, CC_FAULT records cause and address, and the tile
is faulted with code 0x0F. Where a command faults in the same TCLK cycle, R92 orders commands alone: the command's record is the one kept
(DESIGN CHOICE, log entry 99). -/
def State.coreFault (s : State) (g cause : Nat) (ue : Option Nat := none) : State :=
  let k := Blk.tile g
  let pc := (s.tile g).pc.toNat
  let s := ((s.w k F.CC_FAULT_CAUSE cause).wb k F.CC_FAULT_VALID true).w k F.CC_FAULT_PC (pc / 4)
  let s := match ue with
    | none => s
    | some cw => s.logEv { cls := .ue, source := Src.tile, index := ixTile g, bolt := s.boltOf (g / 160), detail := s.detailAddr cw }
  (s.commandFault g { desc := none, code := 0x0F }).modTile g fun t => { t with run := false }

/-! ### What lets a tile act -/

/-- The tile's clocks run and nothing has stopped the scheduled domain: no global stop (R462), no gated ACLK (R392, R398), no device-level
reset in progress (R357). -/
def State.live (s : State) : Bool := !s.trace.stopped && !s.therm.aclkGated && s.rst.level == 0

/-- The bolt of the tile pauses: no command issues, no WAIT or TACK completes (R263). -/
def State.boltPaused (s : State) (g : Nat) : Bool :=
  match s.boltOf (g / 160) with
  | none => false
  | some b => s.patRuns b && !s.canReach b (s.countOf b)

/-- A NOP, WAIT or TACK that has not completed, or a FENCE that has not retired, blocks later issue (R89, R254). -/
def Tile.syncBlocks (t : Tile) : Bool :=
  t.flight.any fun f =>
    (f.open_ && (f.op == 0x00 || f.op == 0x0A || f.op == 0x09)) || (f.op == 0x0D && f.phase != .stopped)

/-- The order flags of the head command hold (R75). -/
def Tile.orderOk (t : Tile) (d : BitVec 512) : Bool :=
  (!orderPrev d || !(t.flight.getLast?.any fun f => f.phase != .done)) &&
  (!orderAll d || !(t.flight.any fun f => f.phase != .done))

/-- The head command could be handed on in this cycle (R70, R71). -/
def State.mayIssue (s : State) (g : Nat) (d : BitVec 512) : Bool :=
  let t := s.tile g
  s.live && s.clocked g && !t.faulted && !t.saved && decide (t.easeUntil ≤ s.tape) && t.atTack.isNone && !s.boltPaused g && !t.syncBlocks && t.orderOk d
    && (mmEmpty d || (enginesOf (opcodeOf d)).all fun e => t.room e)

/-! ### Issue -/

/-- What the checks at issue answer: pass, a refusal with its code, or an uncorrectable word met while reading (R70). -/
inductive Check where
  | ok
  | refuse (code : Nat)
  | ue (cw : Nat)
  deriving DecidableEq, Repr

/-- The head entry read from the queue's SRAM (R174): single-bit errors corrected, an uncorrectable word answered. -/
def State.cqRead (s : State) (g : Nat) (d : BitVec 512) : Option Nat × BitVec 512 × State := s.wordsRead (cqAt g ((s.tile g).nextUid % 64)) 8 d

/-- The head leaves the queue (R70): CQ_ISSUED, the ids of TRC_IDS, the counts, the MARK record and the triggers. Answers its number. -/
def State.pop (s : State) (g : Nat) (d : BitVec 512) : Nat × State :=
  let k := Blk.tile g
  let s := s.clkSettle g
  let uid := (s.tile g).nextUid
  let s := s.modTile g fun t => { t with queue := t.queue.tail, nextUid := t.nextUid + 1, headAt := s.tape }
  let s := ((s.w k F.CQ_ISSUED_SEQ (seqOf d)).w k F.TRC_IDS_LAYER (layerOf d)).w k F.TRC_IDS_OPERATOR (operatorOf d)
  let s := s.ev g 0x03 1
  let s := if markOf d then s.hemPut g .markIssue s.tape (descPayload d) else s
  (uid, s.trigger g [.issue (layerOf d) (operatorOf d)] s.tape)

/-- A command in flight. -/
def State.fly (s : State) (g : Nat) (f : Flight) : State := s.modTile g fun t => { t with flight := t.flight ++ [f] }

/-- A command's turn at the head of the queue (R69 to R71, R75): if it is of the row's kind and can be handed on, it is checked; refused,
it stays; met by an uncorrectable word, it is handed on and faults at once with progress 0; else it is handed on. A reserved opcode is code
0x01 also where a reserved flag is set (DESIGN CHOICE, log entry 92). -/
def State.issue (s : State) (g : Nat) (kind : BitVec 512 → Bool) (chk : State → BitVec 512 → Check × State)
    (go : State → Nat → BitVec 512 → State) : State :=
  match (s.tile g).queue with
  | [] => s
  | d :: _ =>
    if !kind d || !s.mayIssue g d then s
    else match s.cqRead g d with
      | (some cw, d, s) =>
        let (uid, s) := s.pop g d
        (s.fly g ⟨uid, d, .running, s.tape, s.tape, 0, 0, 0, 0, []⟩).ueFault g uid cw 0 0
      | (none, d, s) =>
        if reservedFlags d && opcodeOf d < 0x0E then s.refuse g d 0x02
        else match chk s d with
          | (.refuse code, s) => s.refuse g d code
          | (.ue cw, s) =>
            let (uid, s) := s.pop g d
            (s.fly g ⟨uid, d, .running, s.tape, s.tape, 0, 0, 0, 0, []⟩).ueFault g uid cw 0 0
          | (.ok, s) =>
            let (uid, s) := s.pop g d
            go s uid d

/-- A command kind with one opcode. -/
def isOp (op : Nat) (d : BitVec 512) : Bool := opcodeOf d == op

/-! ### Completion and retirement -/

def Tile.flightOf (t : Tile) (uid : Nat) : Option Flight := t.flight.find? fun f => f.uid == uid
def Tile.modFlight (t : Tile) (uid : Nat) (f : Flight → Flight) : Tile :=
  { t with flight := t.flight.map fun x => if x.uid = uid then f x else x }
def State.modFlight (s : State) (g uid : Nat) (f : Flight → Flight) : State := s.modTile g fun t => t.modFlight uid f

/-- A command completes (R73): all its writes are performed; the cycles of its engines have been counted (R459), MARK_DONE is written. -/
def State.complete (s : State) (g uid : Nat) : State :=
  match (s.tile g).flightOf uid with
  | none => s
  | some f =>
    let s := (s.clkSettle g).modFlight g uid fun f => { f with phase := .done, due := s.tape }
    if markOf f.desc then s.hemPut g .markDone s.tape (descPayload f.desc) else s

/-- The units of 64 bytes that a shuttle command moves (R460, Table 17.5). -/
def movedUnits (f : Flight) : Nat := if f.uses .shuttle then ceilDiv f.prog 64 else 0

/-- Retirement of the oldest command in flight, the TCLK cycle after its completion (R73, R74): CQ_DONE, the completion record, the counts
and the attribution. -/
def State.retire (s : State) (g : Nat) : State :=
  match (s.tile g).flight with
  | [] => s
  | f :: _ =>
    if f.phase != .done then s
    else
      let k := Blk.tile g
      let s := s.advanceTo (f.due + s.tclkCycles 1)
      let s := s.modTile g fun t => { t with flight := t.flight.tail }
      let s := (s.w k F.CQ_DONE_SEQ (seqOf f.desc)).wb k F.CQ_DONE_ANY true
      let s := s.ev g 0x04 1
      let span (e : Eng) : Nat := if f.uses e then s.tclkSpan f.start f.due else 0
      let s := s.attribute g ⟨layerOf f.desc, operatorOf f.desc, 1, span .array, span .vector, movedUnits f, s.tape⟩
      if notifyOf f.desc then s.notify g f.desc else s

end Sys2Proof.Machine
end

