-- ==== Sys2Proof/Machine/Flags.lean ====
section
/-! DEFINITION. The flag computations of the engines (R54, R60, R108, Tables 2.8, 4.10, 5.7): what an output element sets and counts. -/
namespace Sys2Proof.Machine

/-- The value of an FP32 word written without conversion (PARTIAL). -/
def plainConv (w : BitVec 32) : Conv := { bits := w.toNat, nan := isNan32 w, inf := isInf32 w }

/-- An element that the array output stage writes (R60): flags, counters, and the tile's counter events. -/
def State.arrFlags (s : State) (g : Nat) (f : Flight) (c : Conv) : State :=
  let k := Blk.tile g
  let s := if c.nan then ((s.wb k F.ARR_FLAGS_NAN_OUT true).inc k F.ARR_NAN_COUNT_COUNT).evIds g 0x0F 1 (layerOf f.desc) (operatorOf f.desc) else s
  let s := if c.inf then s.wb k F.ARR_FLAGS_INF_OUT true else s
  let s := if c.sat then ((s.wb k F.ARR_FLAGS_SAT_OUT true).inc k F.ARR_SAT_COUNT_COUNT).evIds g 0x10 1 (layerOf f.desc) (operatorOf f.desc) else s
  if c.flushed then s.wb k F.ARR_FLAGS_FLUSHED true else s

/-- An element that the vector engine stores. -/
def State.vecFlags (s : State) (g : Nat) (f : Flight) (c : Conv) : State :=
  let k := Blk.tile g
  let s := if c.nan then (s.wb k F.VEC_FLAGS_NAN_OUT true).evIds g 0x0F 1 (layerOf f.desc) (operatorOf f.desc) else s
  let s := if c.inf then s.wb k F.VEC_FLAGS_INF_OUT true else s
  let s := if c.sat then (s.wb k F.VEC_FLAGS_SAT_OUT true).evIds g 0x10 1 (layerOf f.desc) (operatorOf f.desc) else s
  if c.flushed then s.wb k F.VEC_FLAGS_FLUSHED true else s

/-- An element of ATTN's or ATTN_BWD's output. -/
def State.attFlags (s : State) (g : Nat) (c : Conv) : State :=
  let k := Blk.tile g
  let s := if c.nan then s.wb k F.ATT_FLAGS_NAN_OUT true else s
  let s := if c.sat then s.wb k F.ATT_FLAGS_SAT_OUT true else s
  if c.flushed then s.wb k F.ATT_FLAGS_FLUSHED true else s

/-! ### Random shares (R56, R57, R115 to R118) -/

/-- The seed register (R119). -/
def State.seedOf (s : State) (g : Nat) : BitVec 256 :=
  BitVec.ofNat 256 ((List.range 8).foldl (fun a i => a + s.r (.tile g) (F.RNG_SEED_SEED i) * 2 ^ (32 * i)) 0)

/-- Output rounding of an RND code: 0 nearest even, 1 toward zero, 2 stochastic by the element's share. -/
def rndOf (code : Nat) (seed : BitVec 256) (stream idx : Nat) : Rnd :=
  match code with
  | 0 => .rne
  | 1 => .rtz
  | _ => .sto (share16 seed 1 stream idx % 4096)

/-- `n` draws counted (RNG_DRAWS, event 0x15). Elements that share a draw count it once in a group of an element-wise program, in a command of the other
VEC kinds, and in an output beat of MM and MMA (DESIGN CHOICE, log entry 106). -/
def State.countDraws (s : State) (g : Nat) (f : Flight) (n : Nat) : State :=
  let k := Blk.tile g
  (s.w2 k F.RNG_DRAWS_LO_COUNT F.RNG_DRAWS_HI_COUNT (satAdd 64 (s.r2 k F.RNG_DRAWS_LO_COUNT F.RNG_DRAWS_HI_COUNT) n)).evIds g 0x15 n
    (layerOf f.desc) (operatorOf f.desc)

/-- How many different numbers a list holds. -/
def distinct (l : List Nat) : Nat := (l.foldl (fun a x => if a.contains x then a else x :: a) []).length

/-- The tensor position descriptor (R78). -/
structure Pos where
  base   : Nat
  rowP   : Nat
  itemP  : Nat
  stream : Nat
  deriving DecidableEq, Repr

def posOf (l : List (BitVec 8)) : Pos :=
  ⟨leNat (l.take 6), leNat ((l.drop 8).take 6), leNat ((l.drop 16).take 6), leNat ((l.drop 24).take 4)⟩
/-- A reserved bit of the descriptor is set. -/
def posReserved (l : List (BitVec 8)) : Bool :=
  leNat ((l.drop 6).take 2) != 0 || leNat ((l.drop 14).take 2) != 0 || leNat ((l.drop 22).take 2) != 0 || leNat ((l.drop 28).take 4) != 0

/-! ### Bobbin regions (R79, R101, R102) -/

/-- A region of `count` rows of `len` bytes, `pitch` apart. -/
structure Rgn where
  base  : Nat
  pitch : Nat
  count : Nat
  len   : Nat
  deriving DecidableEq, Repr

/-- One run of bytes. -/
def Rgn.flat (base len : Nat) : Rgn := ⟨base, 0, 1, len⟩
def Rgn.isEmpty (r : Rgn) : Bool := r.count == 0 || r.len == 0
/-- Ends within the bobbin. -/
def Rgn.fits (r : Rgn) : Bool := r.isEmpty || decide (r.base + (r.count - 1) * r.pitch + r.len ≤ bobbinBytes)
/-- Meets the bytes [a, a + n). Rows do not overlap (`len ≤ pitch`, or one row). -/
def Rgn.meets (r : Rgn) (a n : Nat) : Bool :=
  let i := if a < r.base + r.len then 0 else (a - r.base - r.len) / r.pitch + 1
  !r.isEmpty && n != 0 && decide (i < r.count) && decide (r.base + i * r.pitch < a + n)
def Rgn.overlaps (r q : Rgn) : Bool := !r.isEmpty && (List.range r.count).any fun i => q.meets (r.base + i * r.pitch) r.len

/-- Reads regions of a bobbin row by row, answering the first uncorrectable word. -/
def State.readRows (s : State) (g : Nat) (r : Rgn) : Nat → Option Nat × State
  | 0 => (none, s)
  | n + 1 =>
    match s.readRows g r n with
    | (some cw, s) => (some cw, s)
    | (none, s) =>
      match s.fetchT (bobbinAt g (r.base + n * r.pitch)) r.len with
      | (.ok _, s) => (none, s)
      | (.error cw, s) => (some cw, s)

def State.readRgns (s : State) (g : Nat) (rs : List Rgn) : Option Nat × State :=
  rs.foldl (fun acc r =>
    match acc with
    | (some cw, s) => (some cw, s)
    | (none, s) => if r.isEmpty then (none, s) else s.readRows g r r.count) (none, s)

/-- The waiting commands of an engine start no earlier than a tape (R88, R105). -/
def State.bump (s : State) (g : Nat) (e : Eng) (tape : Nat) : State :=
  s.modTile g fun t => { t with flight := t.flight.map fun x =>
    if x.phase == .waiting && x.uses e then { x with start := max x.start tape } else x }

end Sys2Proof.Machine
end

