-- ==== Sys2Proof/Machine/Arrays.lean ====
section
/-! DEFINITION. MM and MMA (chapters 2 and 3: R25 to R60, R76 to R88): fields, issue checks, pleat modes, timing, element values and output
beats. -/
namespace Sys2Proof.Machine

/-- The body of MM and MMA (Table 3.7). -/
structure MmD where
  mma : Bool
  m : Nat
  n : Nat
  k : Nat
  aOff : Nat
  aFmt : Nat
  bFmt : Nat
  bOff : Nat
  dFmt : Nat
  cFmt : Nat
  dOff : Nat
  pleat : Nat
  canon : Bool
  rnd : Nat
  nosat : Bool
  flush : Bool
  cOff : Nat
  raw : Bool
  part : Bool
  aBs : Bool
  bBs : Bool
  rowTs : Bool
  colTs : Bool
  scaleEn : Bool
  asOff : Nat
  bsOff : Nat
  aStr : Nat
  bStr : Nat
  dStr : Nat
  tsOff : Nat
  items : Nat
  alpha : BitVec 32
  beta : BitVec 32
  b0 : Nat
  nbLog : Nat
  posOff : Nat

def mmOf (d : BitVec 512) : MmD :=
  let se := dbit d 24 62
  { mma := opcodeOf d == 2, m := dget d 8 0 16, n := dget d 8 16 16, k := dget d 8 32 32,
    aOff := dget d 16 0 24, aFmt := dget d 16 24 4, bFmt := dget d 16 28 4, bOff := dget d 16 32 24, dFmt := dget d 16 56 4,
    cFmt := dget d 16 60 4, dOff := dget d 24 0 24, pleat := dget d 24 24 3, canon := dbit d 24 27, rnd := dget d 24 28 2,
    nosat := dbit d 24 30, flush := dbit d 24 31, cOff := dget d 24 32 24, raw := dbit d 24 56, part := dbit d 24 57,
    aBs := dbit d 24 58, bBs := dbit d 24 59, rowTs := dbit d 24 60, colTs := dbit d 24 61, scaleEn := se,
    asOff := dget d 32 0 24, bsOff := dget d 32 24 24, aStr := dget d 32 48 16, bStr := dget d 40 0 16, dStr := dget d 40 16 16,
    tsOff := dget d 40 32 24, items := dget d 40 56 8 + 1,
    alpha := if se then BitVec.ofNat 32 (dget d 48 0 32) else one32,
    beta := if se then BitVec.ofNat 32 (dget d 48 32 32) else one32,
    b0 := dget d 56 0 16, nbLog := dget d 56 16 16 + 1, posOff := dget d 56 32 24 }

/-- Blocks in the command (R77). -/
def MmD.nb (x : MmD) : Nat := ceilDiv x.k 32
/-- The integer path (R48). -/
def MmD.intPath (x : MmD) : Bool := isIntFmt x.aFmt && isIntFmt x.bFmt && !x.aBs && !x.bBs
/-- Bytes of an output element (R77). -/
def sizeOf8 (fmt : Nat) : Nat := rowBytes fmt 1
/-- The command uses the position descriptor (R78): RND is stochastic and there is an output element, whether or not D_FMT rounds it
(DESIGN CHOICE, log entry 91). -/
def MmD.usesPos (x : MmD) : Bool := x.rnd == 2 && x.m != 0 && x.n != 0

/-! ### Regions (R77) -/

def MmD.aR (x : MmD) : Rgn := ⟨x.aOff, x.aStr * 64, x.items * x.m, rowBytes x.aFmt x.k⟩
def MmD.bR (x : MmD) : Rgn := ⟨x.bOff, x.bStr * 64, x.items * x.n, rowBytes x.bFmt x.k⟩
def MmD.dR (x : MmD) : Rgn := ⟨x.dOff, x.dStr * 64, x.items * x.m, x.n * sizeOf8 x.dFmt⟩
def MmD.cR (x : MmD) : Rgn := ⟨x.cOff, x.dStr * 64, x.items * x.m, x.n * sizeOf8 x.cFmt⟩
/-- The regions that the command reads, but for the position descriptor. -/
def MmD.inputs (x : MmD) : List Rgn :=
  (if x.k = 0 then [] else [x.aR, x.bR] ++ (if x.aBs then [Rgn.flat x.asOff (x.items * x.m * x.nb)] else [])
    ++ (if x.bBs then [Rgn.flat x.bsOff (x.items * x.n * x.nb)] else []))
  ++ (if x.mma then [x.cR] else [])
  ++ [Rgn.flat x.tsOff (4 * ((if x.rowTs then x.m else 0) + (if x.colTs then x.n else 0)))]

/-! ### Pleat modes (R80, R82, R84) -/

inductive Pleat where | square | wide | tall | kpleat | batch
  deriving DecidableEq, Repr

/-- The mode of a single product under PLEAT = 0. -/
def autoPleat (m n : Nat) : Pleat :=
  if m = 1 ∨ n = 1 then .kpleat else if m ≤ 8 then .wide else if n ≤ 8 then .tall else .square

def MmD.mode (x : MmD) : Pleat :=
  if 1 < x.items then (if x.m ≤ 8 ∧ x.n ≤ 8 then .batch else autoPleat x.m x.n)
  else if x.m = 1 ∧ x.n = 1 ∧ x.pleat ≤ 4 then .kpleat
  else match x.pleat with
    | 0 => autoPleat x.m x.n
    | 1 => .square
    | 2 => .wide
    | 3 => .tall
    | 4 => .kpleat
    | _ => .batch

/-- The pleat check (R79 step 3). -/
def MmD.pleatBad (x : MmD) : Bool :=
  (1 < x.items && 1 ≤ x.pleat && x.pleat ≤ 4)
  || (x.pleat == 4 && !(x.m == 1 || x.n == 1))
  || (x.pleat == 5 && (8 < x.m || 8 < x.n))

/-- Footprints of one item in a mode (Table 3.8). -/
def MmD.fpItem (x : MmD) : Nat :=
  match x.mode with
  | .square => ceilDiv x.m 32 * ceilDiv x.n 32
  | .wide => ceilDiv x.m 8 * ceilDiv x.n 128
  | .tall => ceilDiv x.m 128 * ceilDiv x.n 8
  | .kpleat => if x.m = 1 then ceilDiv x.n 128 else ceilDiv x.m 128
  | .batch => 1

/-- F, the footprint count over all items (R88). -/
def MmD.fp (x : MmD) : Nat := if x.mode = .batch then ceilDiv x.items 16 else x.items * x.fpItem

/-- K-steps per block of a format (Table 2.1). -/
def ksteps (fmt : Nat) : Nat :=
  match fmt with
  | 1 => 32
  | 2 => 32
  | 7 => 8
  | 9 => 8
  | _ => 16

/-- One split of the ranges of R84: the longest, the lowest where two are equal, into its children under the canonical tree. -/
def splitMax (l : List Nat) : List Nat :=
  let mx := l.foldl max 0
  if mx ≤ 1 then l
  else
    let i := l.findIdx (· == mx)
    l.take i ++ [splitP mx, mx - splitP mx] ++ l.drop (i + 1)

/-- The blocks in each array row's range under the K-pleat (R84). -/
def kRanges (nb : Nat) : List Nat := (List.range 7).foldl (fun l _ => splitMax l) [nb]

/-- K-steps per footprint: J, or Jmax under the K-pleat (R88). -/
def MmD.j (x : MmD) : Nat :=
  let st := max (ksteps x.aFmt) (ksteps x.bFmt)
  if x.mode = .kpleat ∧ (x.canon ∨ x.intPath) then (kRanges x.nb).foldl max 0 * st else x.nb * st

/-- The ACLK cycle after the start at whose end beat `b`, counted over all footprints, is written (R36, R87, R88). R87 gives a command with K = 0 its
16 cycles per footprint and its completion and not the cycle of each beat: the last beat is written at the footprint's end, the others in the
cycles before it (DESIGN CHOICE, log entry 102). -/
def MmD.beatCycle (x : MmD) (b : Nat) : Nat :=
  let fp := b / 8
  let i := b % 8
  if x.k = 0 then 16 * fp + 9 + i + 6
  else (fp + 1) * x.j + 20 + 15 + i + (if x.mode = .kpleat then 12 else 0) + 6

/-- The elements (item, row, column) that output beat `b` carries. -/
def MmD.elems (x : MmD) (b : Nat) : List (Nat × Nat × Nat) :=
  let fp := b / 8
  let c := 7 - b % 8
  let slots (l : Nat) : List (Nat × Nat) := (List.range 16).flatMap fun a => (List.range l).map fun r => (a, r)
  let keep (l : List (Nat × Nat × Nat)) : List (Nat × Nat × Nat) := l.filter fun e => e.1 < x.items && e.2.1 < x.m && e.2.2 < x.n
  let it := fp / x.fpItem
  let q := fp % x.fpItem
  keep (match x.mode with
    | .batch => (slots 8).map fun (a, r) => (fp * 16 + a, r, c)
    | .square => let w := ceilDiv x.n 32; (slots 8).map fun (a, r) => (it, q / w * 32 + a / 4 * 8 + r, q % w * 32 + a % 4 * 8 + c)
    | .wide => let w := ceilDiv x.n 128; (slots 8).map fun (a, r) => (it, q / w * 8 + r, q % w * 128 + a * 8 + c)
    | .tall => let w := ceilDiv x.n 8; (slots 8).map fun (a, r) => (it, q / w * 128 + a * 8 + r, q % w * 8 + c)
    | .kpleat => (slots 1).map fun (a, _) => if x.m = 1 then (it, 0, q * 128 + a * 8 + c) else (it, q * 128 + a * 8 + c, 0))

/-! ### Issue checks (R79) -/

/-- A range of blocks is a node of T(0, NB) (R44). -/
def isNode (b0 nb nbLog : Nat) : Bool :=
  if nb = 0 ∨ nbLog < b0 + nb then false
  else if 2 ^ Nat.log2 nb = nb ∧ b0 % nb = 0 then true
  else if b0 + nb = nbLog then b0 % 2 ^ (Nat.log2 nb + 1) == 0
  else false

/-- Format rules of step 2. -/
def MmD.fmtBad (x : MmD) : Bool :=
  let inFmt (f : Nat) : Bool := 1 ≤ f && f ≤ 9
  let half (f : Nat) : Bool := f == 1 || f == 2
  let mixed := inFmt x.aFmt && inFmt x.bFmt && isIntFmt x.aFmt != isIntFmt x.bFmt
  mixed || !inFmt x.aFmt || !inFmt x.bFmt || 4 < x.dFmt || (x.mma && 4 < x.cFmt)
  || (x.aBs && half x.aFmt) || (x.bBs && half x.bFmt)
  || (x.part && (x.dFmt != 0 || x.raw || !x.canon || x.intPath))
  || (x.raw && (!x.intPath || x.dFmt != 0))

/-- Step 4: alignment, strides and range, of the offsets that the command uses (TS_OFF and POS_OFF unused are not checked; DESIGN CHOICE, log
entry 91). -/
def MmD.rangeBad (x : MmD) : Bool :=
  let k := x.k != 0
  (k && (x.aOff % 64 != 0 || x.bOff % 64 != 0)) || x.dOff % 64 != 0 || (x.mma && x.cOff % 64 != 0)
  || ((x.rowTs || x.colTs) && x.tsOff % 4 != 0) || (x.usesPos && x.posOff % 32 != 0)
  || (k && (x.aStr < ceilDiv x.aR.len 64 || x.bStr < ceilDiv x.bR.len 64))
  || x.dStr < ceilDiv x.dR.len 64 || (x.mma && x.dStr < ceilDiv x.cR.len 64)
  || !(x.inputs.all fun r => r.fits) || !x.dR.fits || (x.usesPos && !(Rgn.flat x.posOff 32).fits)

/-- Step 5. -/
def MmD.overlapBad (x : MmD) : Bool :=
  let rs := x.inputs ++ (if x.usesPos then [Rgn.flat x.posOff 32] else [])
  rs.any fun r => x.dR.overlaps r

/-- The checks of R79 in order, with the reading of the position descriptor (R70, R78). ALIGN_REFUSED is set with code 0x07 also where the range is a
node and K mod 32 is what refuses it (DESIGN CHOICE, log entry 103). -/
def State.mmCheck (s : State) (g : Nat) (d : BitVec 512) : Check × State :=
  let x := mmOf d
  if !dzero d 24 63 1 || !dzero d 56 56 8 || 6 ≤ x.pleat || x.rnd == 3 then (.refuse 0x02, s)
  else
    let readable := x.usesPos && x.posOff % 32 == 0 && (Rgn.flat x.posOff 32).fits
    match (if readable then s.fetchT (bobbinAt g x.posOff) 32 else (.ok [], s)) with
    | (.error cw, s) => (.ue cw, s)
    | (.ok p, s) =>
      if posReserved p then (.refuse 0x02, s)
      else if x.fmtBad then (.refuse 0x03, s)
      else if x.pleatBad then (.refuse 0x04, s)
      else if x.m = 0 ∨ x.n = 0 then (.ok, s)
      else if x.rangeBad then (.refuse 0x05, s)
      else if x.overlapBad then (.refuse 0x06, s)
      else if x.canon && x.k != 0 && 65536 < x.nb then (.refuse 0x08, s.wb (.tile g) F.ARR_FLAGS_DEPTH_REFUSED true)
      else if x.canon && x.k != 0 && (!isNode x.b0 x.nb x.nbLog || (x.k % 32 != 0 && x.b0 + x.nb < x.nbLog)) then
        (.refuse 0x07, s.wb (.tile g) F.ARR_FLAGS_ALIGN_REFUSED true)
      else if x.raw && (x.rowTs || x.colTs || x.mma || (x.scaleEn && x.alpha != one32)) then (.refuse 0x09, s)
      else (.ok, s)

/-- Handed on: an empty product completes in the next TCLK cycle (R86); else it waits to start 4 TCLK cycles later (R88). -/
def State.mmGo (s : State) (g uid : Nat) (d : BitVec 512) : State :=
  let f : Flight := ⟨uid, d, .waiting, s.tape + s.tclkCycles 4, 0, 0, s.seedOf g, 0, 0, s.mem.readN (bobbinAt g (mmOf d).posOff) 32⟩
  if mmEmpty d then (s.fly g { f with phase := .running, start := s.tape }).advanceTo (s.tape + s.tclkCycles 1) |>.complete g uid
  else s.fly g f

/-- MM at the head of the queue (R79). -/
def execMm (t : Site) (s : State) : Result := .next (s.issue t.g (isOp 0x01) (fun s d => s.mmCheck t.g d) (fun s u d => s.mmGo t.g u d))
/-- MMA at the head of the queue (R79). -/
def execMma (t : Site) (s : State) : Result := .next (s.issue t.g (isOp 0x02) (fun s d => s.mmCheck t.g d) (fun s u d => s.mmGo t.g u d))

/-! ### Execution -/

def Flight.isMm (f : Flight) : Bool := f.op == 1 || f.op == 2

/-- ACLK cycles after its start at which the last K-step has entered (R88). -/
def MmD.entered (x : MmD) : Nat := x.fp * x.j

/-- An issued MM or MMA starts (R88): at its own time, or when the product before it allows. -/
def execArrayProductStart (t : Site) (s : State) : Result :=
  let g := t.g
  .next (match (s.tile g).flight.find? fun f => f.phase == .waiting && f.uses .array with
  | none => s
  | some f =>
    if !s.live || !f.isMm then s
    else
      let x := mmOf f.desc
      let go (at_ : Nat) : State := (s.advanceTo at_).modFlight g f.uid fun f => { f with phase := .running, start := at_ }
      match (s.tile g).flight.find? fun e => e.phase == .running && e.uses .array with
      | none => go f.start
      | some e => if e.isMm && x.k != 0 && (mmOf e.desc).k != 0 then go (max f.start (e.start + s.aclkCycles (mmOf e.desc).entered)) else s)

/-- Row `r` of A or B of an item as one number. -/
def rowNat (s : State) (g : Nat) (r : Rgn) (row : Nat) : Nat := s.mem.readLE (bobbinAt g (r.base + row * r.pitch)) r.len

/-- Element `i` of a row of length `k`, or the padding +0 (R32). -/
def padVal (fmt : Nat) (bs : Bool) (row k i : Nat) : FV := if i < k then elemVal fmt bs (elemAt fmt row i) else .fin false 0 0
def padInt (fmt row k i : Nat) : Int := if i < k then elemInt fmt (elemAt fmt row i) else 0

/-- The accumulated value of an output element on the floating-point path (R39 to R42). -/
def MmD.accF (x : MmD) (s : State) (g it m n : Nat) : BitVec 32 :=
  let ra := rowNat s g x.aR (it * x.m + m)
  let rb := rowNat s g x.bR (it * x.n + n)
  let sc (on : Bool) (off row j : Nat) : Nat := if on then (s.mem.read (bobbinAt g (off + row * x.nb + j))).toNat else 127
  let bvs := (List.range x.nb).map fun j =>
    blockValue (sc x.aBs x.asOff (it * x.m + m) j) (sc x.bBs x.bsOff (it * x.n + n) j)
      ((List.range 32).map fun i => padVal x.aFmt x.aBs ra x.k (32 * j + i))
      ((List.range 32).map fun i => padVal x.bFmt x.bBs rb x.k (32 * j + i))
  if x.canon then canonSum bvs else seqSum bvs

/-- The accumulated value on the integer path, modulo 2^32 (R48). -/
def MmD.accI (x : MmD) (s : State) (g it m n : Nat) : BitVec 32 :=
  let ra := rowNat s g x.aR (it * x.m + m)
  let rb := rowNat s g x.bR (it * x.n + n)
  BitVec.ofInt 32 ((List.range x.k).foldl (fun a i => a + padInt x.aFmt ra x.k i * padInt x.bFmt rb x.k i) 0)

/-- An FP32 word of the bobbin. -/
def bobWord (s : State) (g off : Nat) : BitVec 32 := BitVec.ofNat 32 (s.mem.readLE (bobbinAt g off) 4)

/-- C[m][n] converted exactly to FP32 (R51). -/
def MmD.cVal (x : MmD) (s : State) (g it m n : Nat) : BitVec 32 :=
  let z := sizeOf8 x.cFmt
  enc32 ((fmtOf x.cFmt).dec (s.mem.readLE (bobbinAt g (x.cOff + (it * x.m + m) * (x.dStr * 64) + n * z)) z))

/-- The output stage (R46, R50, R51, R87): the converted element. PARTIAL with K = 0 has no accumulated value and bypasses the stage: +0,
for MMA also (DESIGN CHOICE, log entry 90). -/
def MmD.out (x : MmD) (s : State) (g : Nat) (r : Rnd) (it m n : Nat) : Conv :=
  if x.k = 0 then
    if x.raw then { bits := 0 }
    else if x.part then plainConv 0
    else
      let t := if x.mma then fmul x.beta (x.cVal s g it m n) else 0
      convFloat x.dFmt r (!x.nosat) x.flush (dec32 t)
  else if x.raw then { bits := (x.accI s g it m n).toNat }
  else if x.part then plainConv (x.accF s g it m n)
  else
    let t := if x.intPath then ofInt32 (x.accI s g it m n).toInt else x.accF s g it m n
    let t := if x.rowTs then fmul t (bobWord s g (x.tsOff + 4 * m)) else t
    let t := if x.colTs then fmul t (bobWord s g (x.tsOff + (if x.rowTs then 4 * x.m else 0) + 4 * n)) else t
    let t := fmul x.alpha t
    let t := if x.mma then ffma x.beta (x.cVal s g it m n) t else t
    convFloat x.dFmt r (!x.nosat) x.flush (dec32 t)

/-- One element converted, written to the bobbin, flagged and counted; nothing after a word that could not be merged (R174). -/
def State.mmElem (x : MmD) (p : Pos) (f : Flight) (g : Nat) (acc : Option Nat × State) (e : Nat × Nat × Nat) : Option Nat × State :=
  match acc with
  | (some cw, s) => (some cw, s)
  | (none, s) =>
    let (it, m, n) := e
    let c := x.out s g (rndOf x.rnd f.seed p.stream (p.base + it * p.itemP + m * p.rowP + n)) it m n
    let z := sizeOf8 x.dFmt
    match s.put (bobbinAt g (x.dOff + (it * x.m + m) * (x.dStr * 64) + n * z)) (leBytes z c.bits) with
    | (some cw, s) => (some cw, s)
    | (none, s) => (none, s.arrFlags g f c)

/-- The product whose beats come next: the first running MM or MMA. -/
def Tile.product (t : Tile) : Option Flight := t.flight.find? fun f => f.phase == .running && f.isMm && f.uses .array

/-- An output beat (R36, R60): written 6 ACLK cycles after it leaves the array. An uncorrectable operand stops the command before its
first write (R90). -/
def execMmOutputBeat (t : Site) (s : State) : Result :=
  let g := t.g
  .next (match (s.tile g).product with
  | none => s
  | some f =>
    let x := mmOf f.desc
    if !s.live || 8 * x.fp ≤ f.prog then s
    else
      let s := s.advanceTo (f.start + s.aclkCycles (x.beatCycle f.prog + 1))
      match (if f.prog = 0 then s.readRgns g (x.inputs ++ [x.dR]) else (none, s)) with
      | (some cw, s) => s.ueFault g f.uid cw 0 0
      | (none, s) =>
        let p := posOf f.cap
        let es := x.elems f.prog
        match es.foldl (State.mmElem x p f g) (none, s) with
        | (some cw, s) => s.ueFault g f.uid cw 0 0
        | (none, s) =>
          let s := s.modFlight g f.uid fun f => { f with prog := f.prog + 1 }
          if x.rnd = 2 ∧ x.dFmt ≠ 0 then
            s.countDraws g f (distinct (es.map fun (it, m, n) => (p.base + it * p.itemP + m * p.rowP + n) / 32))
          else s)

/-- The last write of the product has been performed and it completes (R88). A product waiting behind it may start no earlier than R88 says. -/
def execMmComplete (t : Site) (s : State) : Result :=
  let g := t.g
  .next (match (s.tile g).product with
  | none => s
  | some f =>
    let x := mmOf f.desc
    if f.prog < 8 * x.fp then s
    else
      let fin := f.start + s.aclkCycles (x.beatCycle (8 * x.fp - 1) + 1)
      let s := (s.advanceTo fin).complete g f.uid
      s.modTile g fun t => { t with flight := t.flight.map fun e =>
        if e.phase == .waiting && e.uses .array then
          let from_ := if x.k != 0 && e.isMm && (mmOf e.desc).k != 0 then f.start + s.aclkCycles x.entered else fin
          { e with start := max e.start from_ }
        else e })

end Sys2Proof.Machine
end

