-- ==== Sys2Proof/Machine/Repair.lean ====
section
/-! DEFINITION. The repair map and the alteration record (R16, R24, R328, R346, R422). -/
namespace Sys2Proof.Machine

/-! ### The alteration record (R346, R347, Tables 12.6, 12.7) -/

/-- A first failure of the item has an alternate (ACTION 1); otherwise the item is retired or skipped at once (ACTION 2). -/
def hasAlternate (step kind : Nat) : Bool :=
  match kind with
  | 1 => step == 9
  | 2 => step == 7
  | 3 => true
  | 4 => true
  | 5 => true
  | 8 => true
  | _ => false

/-- A failure of an item: its entry is updated or created; the oldest entry of ACTION 0, 3 or 4 gives way when the array is full, and
without one ALT_FULL is set. A further failure in the start that gave an item its alternate leaves ACTION 1: the alternate is not in force yet (R347). -/
def State.altAdd (s : State) (step kind item code detail : Nat) (act : Option Nat := none) : State :=
  let s := s.pulse
  let st := s.store
  let same (e : AltEntry) : Bool := e.step == step && e.kind == kind && e.item == item
  match st.alts.find? same with
  | some e =>
    let a := act.getD (if e.action = 4 ∨ e.action = 0 ∨ s.hkc.altIgnore then (if hasAlternate step kind then 1 else 2)
      else if e.action = 1 ∧ e.last = st.starts then 1 else 2)
    let e' := { e with code := code, action := a, fails := satAdd 8 e.fails 1, last := st.starts, detail := detail }
    { s with store := { st with alts := st.alts.map fun x => if same x then e' else x } }
  | none =>
    let e : AltEntry := ⟨step, kind, item, code, act.getD (if hasAlternate step kind then 1 else 2), 1, st.starts, st.starts, detail⟩
    if st.alts.length < 512 then { s with store := { st with alts := st.alts ++ [e] } }
    else
      let olds := st.alts.filter fun x => x.action == 0 || 3 ≤ x.action
      match olds with
      | [] => s.wb .mbx F.MBX_STATUS_ALT_FULL true
      | o :: rest =>
        let old := rest.foldl (fun (m : AltEntry) x => if x.last < m.last then x else m) o
        { s with store := { st with alts := st.alts.map fun x => if x == old then e else x } }

/-- Items of a step and kind that passed with their alternate keep it (ACTION 3): those with ACTION 1 that ran and did not fail. -/
def State.altResolve (s : State) (step kind : Nat) (ran : Nat → Bool) (failed : List Nat) : State :=
  let hit (e : AltEntry) : Bool :=
    e.step == step && e.kind == kind && e.action == 1 && decide (e.last < s.store.starts) && ran e.item && !failed.contains e.item
  if s.hkc.altIgnore || !s.store.alts.any hit then s
  else ({ s with store := { s.store with alts := s.store.alts.map fun e => if hit e then { e with action := 3 } else e } } : State).pulse

/-- The record names an item with ACTION 2, as the HKC read it before step 5 (R347). -/
def State.skipped (s : State) (kind item : Nat) : Bool := s.hkc.skip.contains (kind, item)

/-! ### The repair map (R16, R24) -/

/-- The counts of a stack's identity: STK_INFO, STK_SPARES and the identity capability; GEN counts a change of the tile count (R328). -/
def State.countMap (s : State) (k : Nat) : State :=
  let l := (List.range 160).map fun i => s.r (.stk k) (F.STK_SMAP_LTILE i)
  let act := (l.filter fun v => decide (v < 144)).length
  let s := (s.w (.stk k) F.STK_SPARES_FREE ((l.filter fun v => v == 0xFF).length)).w (.stk k) F.STK_SPARES_DARNED ((l.filter fun v => v == 0xFE).length)
  let s := (s.w (.stk k) F.STK_INFO_ACTIVE act).wb (.stk k) F.STK_INFO_DEGRADED (decide (act < 144))
  let w := s.r .id (F.ID_W4_6_TILES (k / 4))
  let old := bits w (8 * (k % 4)) 8
  if old = act then s
  else
    let s := s.w .id (F.ID_W4_6_TILES (k / 4)) (w - old * 2 ^ (8 * (k % 4)) + act * 2 ^ (8 * (k % 4)))
    if s.b .id F.ID_STATUS_READY then s.wrapInc .id F.ID_STATUS_GEN else s

/-- The map of a stack changed on one tape tick (R24). -/
def State.mapChanged (s : State) (k : Nat) : State := (s.countMap k).wrapInc (.stk k) F.STK_SPARES_MAP_EPOCH

/-- A site is retired (R380, R422): another site takes its local logical number, or the number becomes absent, with VALID clear and SITE as it stood
(DESIGN CHOICE, log entry 88). -/
def State.retireSite (s : State) (g : Nat) (dst : Option Nat) : State :=
  let k := g / 160
  let l := s.ltile g
  let s := s.w (.stk k) (F.STK_SMAP_LTILE (g % 160)) 0xFE
  let s :=
    if 144 ≤ l then s
    else match dst with
      | some d => ((s.w (.stk k) (F.STK_SMAP_LTILE (d % 160)) l).w (.stk k) (F.STK_LMAP_SITE l) (d % 160)).wb (.stk k) (F.STK_LMAP_VALID l) true
      | none => s.wb (.stk k) (F.STK_LMAP_VALID l) false
  s.mapChanged k

/-- The lowest-numbered free spare of a stack (R418). -/
def State.freeSpare (s : State) (k : Nat) : Option Nat := (List.range 160).find? fun i => s.r (.stk k) (F.STK_SMAP_LTILE i) == 0xFF

/-- The channel item (KIND 2: stack, and channel n mod 2 of site n div 2 as PMEM_CH_n numbers them) that a migrated site failed by: that with the
longer erasure list. -/
def State.migChan (s : State) (g : Nat) : Nat :=
  ixOf (g / 160) (2 * (g % 160) + b2n (decide ((s.chan (sliceChan g 0)).erasures.length < (s.chan (sliceChan g 1)).erasures.length)))

/-- The site that a stack's migration moves from, and the retirement of that site (R418, R422). -/
def State.migSrc (s : State) (k : Nat) : Nat := k * 160 + s.r (.stk k) F.VC_MIG_STATUS_SRC_SITE
def State.migRetire (s : State) (k : Nat) : State :=
  let g := s.migSrc k
  let st := s.r (.stk k) F.VC_MIG_STATUS_STATE
  let s := s.retireSite g (if st = 2 then some (k * 160 + s.r (.stk k) F.VC_MIG_STATUS_DST_SITE) else none)
  (s.w (.stk k) F.VC_MIG_STATUS_STATE 3).altAdd 10 2 (s.migChan g) 0 0 (some 2)

/-- A tile stands on a site that a migration copies or has copied (R421). -/
def State.migrating (s : State) (g : Nat) : Bool :=
  let st := s.r (.stk (g / 160)) F.VC_MIG_STATUS_STATE
  (st == 1 || st == 2 || st == 4) && s.migSrc (g / 160) == g

/-- The first line of the channel of a site that has the longer erasure list (R421). -/
def State.migLine (s : State) (g : Nat) : Nat :=
  sliceAt g (if (s.chan (sliceChan g 0)).erasures.length < (s.chan (sliceChan g 1)).erasures.length then 64 else 0)

/-! ### Vertical connections (R416, R417) -/

/-- PMEM_CH_n.ERASURES of a list of erasures (Table 6.7). -/
def erasField (n : Nat) : Nat := if n ≤ 8 then n else 15

/-- Spares and erasures of a slice channel in its register. -/
def State.showChan (s : State) (c : Nat) : State :=
  let b := Blk.stk (c / 320)
  (s.w b (F.PMEM_CH_SPARES (c % 320)) (s.chan c).spares.length).w b (F.PMEM_CH_ERASURES (c % 320)) (erasField (s.chan c).erasures.length)

/-- The same in the record store too (R416, R417). -/
def State.putSpares (s : State) (c : Nat) : State :=
  let s := s.showChan c
  ({ s with store := { s.store with chans := s.store.chans.set c ((s.chan c).spares, (s.chan c).erasures) } }).pulse

/-- A dead connection of a symbol: the next spare takes its place, or the symbol becomes an erasure. -/
def State.deadConn (s : State) (c p conn : Nat) : State :=
  let x := s.chan c
  if x.spares.length < 16 then s.setChan c { x with spares := x.spares ++ [(p, conn)] }
  else if x.erasures.contains p then s
  else (s.setChan c { x with erasures := x.erasures ++ [p] }).logEv { cls := .corrected, source := Src.pmem, index := ixTile (c / 2), code := c % 2 }

/-! ### Migration (R418 to R422) -/

/-- No bolt with a loaded pattern holds the stack. -/
def State.stackFree (s : State) (k : Nat) : Bool := !(s.boltOf k).any s.patBusy

/-- The move of a failing site begins: VC_MIG_STATUS names it and its spare. With `copy` false it moves without a copy; without a free spare it only waits
for its retirement. -/
def State.migBegin (s : State) (g : Nat) (copy : Bool) : State :=
  let b := Blk.stk (g / 160)
  let s := ((s.w b F.VC_MIG_STATUS_SRC_SITE (g % 160)).w b F.VC_MIG_DONE_LINES 0).w b F.VC_MIG_LOST_LINES 0
  match s.freeSpare (g / 160) with
  | some d => (s.w b F.VC_MIG_STATUS_DST_SITE d).w b F.VC_MIG_STATUS_STATE (if copy then 1 else 2)
  | none => (s.w b F.VC_MIG_STATUS_STATE 4).logEv { cls := .fatal, source := Src.pmem, index := ixTile g }

/-- A stack's move is under way. -/
def State.migUnder (s : State) (k : Nat) : Bool := let st := s.r (.stk k) F.VC_MIG_STATUS_STATE; st == 1 || st == 2 || st == 4

/-- A site that needs no copy, or no more of it, is retired at once where no bolt with a loaded pattern holds the stack (R422). -/
def State.migSettle (s : State) (k : Nat) : State :=
  if s.migUnder k && s.r (.stk k) F.VC_MIG_STATUS_STATE != 1 && s.stackFree k then s.migRetire k else s

/-- The failing sites of a stack that wait begin to move one after the other (log entry 64). -/
def State.migNext (s : State) (k : Nat) : Nat → State
  | 0 => s
  | n + 1 =>
    match (if s.migUnder k then none else s.migs.find? fun x => x.1 / 160 == k) with
    | none => s
    | some (g, copy) =>
      let s := { s with migs := s.migs.filter fun x => x.1 != g }
      if s.ltile g = 0xFE then s.migNext k n else ((s.migBegin g copy).migSettle k).migNext k n

/-- A failing site is to move (R414, R418). -/
def State.migStart (s : State) (g : Nat) (copy : Bool) : State :=
  if s.ltile g = 0xFE ∨ s.migrating g ∨ s.migs.any fun x => x.1 == g then s
  else ({ s with migs := s.migs ++ [(g, copy)] } : State).migNext (g / 160) 160

/-- At a load, the sites of a stack that wait for their retirement are retired (R422). -/
def State.migFlush (s : State) (k : Nat) : Nat → State
  | 0 => s
  | n + 1 => if s.migUnder k && s.r (.stk k) F.VC_MIG_STATUS_STATE != 1 then ((s.migRetire k).migNext k 160).migFlush k n else s

end Sys2Proof.Machine
end

