-- ==== Sys2Proof/Machine/Attention.lean ====
section
/-! DEFINITION. ATTN and ATTN_BWD (chapter 5: R121 to R140, R152): fields, issue checks, the online softmax block by block, chaining, FINAL
and the backward pass. -/
namespace Sys2Proof.Machine

/-- The fields of Tables 5.1 and 5.3. -/
structure AttD where
  qtok : Nat
  g : Nat
  hdim : Nat
  mask : Nat
  qFmt : Nat
  kvFmt : Nat
  oFmt : Nat
  qBs : Bool
  ring : Bool
  init : Bool
  final : Bool
  rtz : Bool
  nosat : Bool
  flush : Bool
  kvStart : Nat
  kvLen : Nat
  qPos : Nat
  window : Nat
  qOff : Nat
  oOff : Nat
  qStr : Nat
  stOff : Nat
  statOff : Nat
  oStr : Nat
  scale : BitVec 32
  kvOff : Nat
  doOff : Nat
  dqOff : Nat
  dkvOff : Nat

def attOf (d : BitVec 512) : AttD :=
  let bwd := opcodeOf d == 4
  { qtok := dget d 8 0 16, g := dget d 8 16 4 + 1, hdim := dget d 8 20 2, mask := dget d 8 22 2, qFmt := dget d 8 24 4,
    kvFmt := dget d 8 28 4, oFmt := dget d 8 32 4, qBs := dbit d 8 36, ring := dbit d 8 37, init := dbit d 8 38, final := dbit d 8 39,
    rtz := dbit d 8 40, nosat := dbit d 8 41, flush := dbit d 8 42,
    kvStart := dget d 16 0 32, kvLen := dget d 16 32 32, qPos := dget d 24 0 32, window := dget d 24 32 32,
    qOff := dget d 32 0 24, qStr := dget d 32 48 16,
    oOff := if bwd then dget d 40 0 24 else dget d 32 24 24, oStr := if bwd then dget d 32 48 16 else dget d 40 48 16,
    stOff := dget d 40 0 24, statOff := dget d 40 24 24, scale := BitVec.ofNat 32 (dget d 48 0 32), kvOff := dget d 48 32 24,
    doOff := dget d 32 24 24, dqOff := dget d 56 0 24, dkvOff := dget d 56 24 24 }

/-- D, the head dimension. -/
def AttD.dim (x : AttD) : Nat := 64 * 2 ^ x.hdim
/-- Mq, the query rows (R122). -/
def AttD.mq (x : AttD) : Nat := x.qtok * x.g
/-- nb, the KV blocks. -/
def AttD.nb (x : AttD) : Nat := ceilDiv x.kvLen 64
/-- RB, sc, H and SS of R132. -/
def kvRow (fmt d : Nat) : Nat := rowBytes fmt d
def kvSc (fmt d : Nat) : Nat := if fmt = 1 then 0 else d / 32
def kvHalf (fmt d : Nat) : Nat := 64 * (kvRow fmt d + kvSc fmt d)
def kvBlockBytes (fmt d : Nat) : Nat := 2 * kvHalf fmt d
/-- SR of R129. -/
def AttD.sr (x : AttD) : Nat := 64 + 4 * x.dim

/-! ### Regions -/

def AttD.qR (x : AttD) : Rgn := ⟨x.qOff, x.qStr * 64, x.mq, rowBytes x.qFmt x.dim⟩
def AttD.qsBase (x : AttD) : Nat := x.qOff + x.mq * (x.qStr * 64)
def AttD.qsR (x : AttD) : Rgn := Rgn.flat x.qsBase (if x.qBs then x.mq * (x.dim / 32) else 0)
def AttD.oR (x : AttD) : Rgn := ⟨x.oOff, x.oStr * 64, x.mq, rowBytes x.oFmt x.dim⟩
def AttD.doR (x : AttD) : Rgn := ⟨x.doOff, x.qStr * 64, x.mq, rowBytes x.qFmt x.dim⟩
def AttD.statR (x : AttD) : Rgn := Rgn.flat x.statOff (8 * x.mq)
def AttD.stR (x : AttD) : Rgn := Rgn.flat x.stOff (x.mq * x.sr)
def AttD.kvR (x : AttD) : Rgn := Rgn.flat x.kvOff (x.nb * kvBlockBytes x.kvFmt x.dim)
def AttD.dqR (x : AttD) : Rgn := Rgn.flat x.dqOff (4 * x.dim * x.mq)
def AttD.dkvR (x : AttD) : Rgn := Rgn.flat x.dkvOff (8 * x.dim * x.kvLen)

/-- The tile's KV ring (R133). -/
def State.ringOff (s : State) (g : Nat) : Nat := s.r (.tile g) F.ATT_RING_CFG_OFF
def State.ringSlots (s : State) (g : Nat) : Nat := s.r (.tile g) F.ATT_RING_CFG_SLOTS_M1 + 1
def State.ringProd (s : State) (g : Nat) : Nat := s.r (.tile g) F.ATT_RING_PROD_COUNT
def State.ringCons (s : State) (g : Nat) : Nat := s.r (.tile g) F.ATT_RING_CONS_COUNT
def State.ringBlockBytes (s : State) (g : Nat) : Nat :=
  kvBlockBytes (s.r (.tile g) F.ATT_RING_FMT_KV_FMT) (64 * 2 ^ s.r (.tile g) F.ATT_RING_CFG_HDIM)
def State.ringR (s : State) (g : Nat) : Rgn := Rgn.flat (s.ringOff g) (s.ringSlots g * s.ringBlockBytes g)

/-! ### Issue checks (R135, R140) -/

def attReserved (d : BitVec 512) : Bool :=
  let x := attOf d
  !dzero d 8 43 21 || x.hdim == 3 || x.mask == 3 || !dzero d 48 56 8 || !dzero d 56 0 64 || (x.ring && x.kvOff != 0)
def bwdReserved (d : BitVec 512) : Bool :=
  let x := attOf d
  !dzero d 8 36 28 || x.hdim == 3 || x.mask == 3 || !dzero d 40 48 16 || !dzero d 48 56 8 || !dzero d 56 48 16

def kvFmtOk (f : Nat) : Bool := f == 1 || f == 3 || f == 4 || f == 7

/-- Step 3. -/
def AttD.shapeBad (x : AttD) (bwd : Bool) : Bool :=
  256 < x.mq || x.kvStart % 64 != 0 || (!bwd && x.kvLen % 64 != 0 && !x.final) || (x.mask == 2 && x.window == 0)
  || 2 ^ 32 < x.kvStart + x.kvLen

def overlapAny (l m : List Rgn) : Bool := l.any fun r => m.any fun q => r.overlaps q

/-- R135. -/
def State.attCheck (s : State) (g : Nat) (d : BitVec 512) : Check × State :=
  let x := attOf d
  let k := Blk.tile g
  let det (n : Nat) : Check × State := (.refuse 0x0E, s.w k F.ATT_BODY_FAULT_DETAIL n)
  let kv := if x.ring then s.ringR g else x.kvR
  if attReserved d then (.refuse 0x02, s)
  else if !(1 ≤ x.qFmt && x.qFmt ≤ 3) || !kvFmtOk x.kvFmt || 4 < x.oFmt || (x.qBs && x.qFmt != 3) then (.refuse 0x03, s)
  else if x.shapeBad false then (.refuse 0x04, s)
  else if x.mq = 0 then (.ok, s)
  else if x.ring && !s.b k F.ATT_RING_CFG_VALID then det 0x01
  else if x.ring && (s.r k F.ATT_RING_CFG_HDIM != x.hdim || s.r k F.ATT_RING_FMT_KV_FMT != x.kvFmt) then det 0x02
  else if x.ring && x.kvFmt == 1 then det 0x03
  else if x.qOff % 64 != 0 || x.oOff % 64 != 0 || x.stOff % 64 != 0 || x.statOff % 8 != 0 || x.kvOff % 64 != 0
      || x.qStr < ceilDiv (rowBytes x.qFmt x.dim) 64 || x.oStr < ceilDiv (rowBytes x.oFmt x.dim) 64
      || !([x.qR, x.qsR, x.oR, x.statR, x.stR, kv].all fun r => r.fits) then (.refuse 0x05, s)
  else if overlapAny [x.oR, x.statR] [x.qR, x.qsR, x.stR, kv] || x.oR.overlaps x.statR || overlapAny [x.stR] [x.qR, x.qsR, kv] then
    (.refuse 0x06, s)
  else (.ok, s)

/-- The same for ATTN_BWD (R140). Table 5.3 states no alignment: Q, dO, O and KV offsets are held to 64 bytes and STAT to 8, as ATTN's are, DQ_OFF and
DKV_OFF to none (DESIGN CHOICE, log entry 107). -/
def State.bwdCheck (s : State) (d : BitVec 512) : Check × State :=
  let x := attOf d
  let ins := [x.qR, x.doR, x.oR, x.statR, x.kvR]
  if bwdReserved d then (.refuse 0x02, s)
  else if !(x.qFmt == 1 || x.qFmt == 2) || !kvFmtOk x.kvFmt || 2 < x.oFmt then (.refuse 0x03, s)
  else if x.shapeBad true then (.refuse 0x04, s)
  else if x.mq = 0 then (.ok, s)
  else if x.qOff % 64 != 0 || x.doOff % 64 != 0 || x.oOff % 64 != 0 || x.statOff % 8 != 0 || x.kvOff % 64 != 0
      || x.qStr < ceilDiv (rowBytes x.qFmt x.dim) 64 || x.qStr < ceilDiv (rowBytes x.oFmt x.dim) 64
      || !((ins ++ [x.dqR, x.dkvR]).all fun r => r.fits) then (.refuse 0x05, s)
  else if overlapAny [x.dqR, x.dkvR] ins then (.refuse 0x06, s)
  else (.ok, s)

/-- Handed on: with no query rows it completes in the next TCLK cycle (R136); else it waits for both engines. -/
def State.attGo (s : State) (g uid : Nat) (d : BitVec 512) : State :=
  if (attOf d).mq = 0 then
    let s := (s.advanceTo (s.tape + s.tclkCycles 1)).w (.tile g) F.ATT_PROGRESS_BLOCKS 0
    ((s.fly g ⟨uid, d, .running, s.tape, s.tape, 0, 0, 0, 0, []⟩).wb (.tile g) F.ATT_STATUS_STOPPED false).complete g uid
  else (s.fly g ⟨uid, d, .waiting, s.tape, 0, 0, 0, 0, 0, []⟩).wb (.tile g) F.ATT_STATUS_STOPPED false

/-- ATTN at the head of the queue (R135). -/
def execAttn (t : Site) (s : State) : Result := .next (s.issue t.g (isOp 0x03) (fun s d => s.attCheck t.g d) (fun s u d => s.attGo t.g u d))
/-- ATTN_BWD at the head of the queue (R140). -/
def execAttnBwd (t : Site) (s : State) : Result := .next (s.issue t.g (isOp 0x04) (fun s d => s.bwdCheck d) (fun s u d => s.attGo t.g u d))

/-! ### Values -/

/-- Key position `k` is visible to a row of position `p` (R123). -/
def AttD.visible (x : AttD) (p k : Nat) : Bool :=
  x.kvStart ≤ k && k < x.kvStart + x.kvLen
  && (match x.mask with
    | 1 => k ≤ p
    | 2 => p < k + x.window && k ≤ p
    | _ => true)

/-- Position of query row i (R122). -/
def AttD.posOfRow (x : AttD) (i : Nat) : Nat := x.qPos + i / x.g

def minusInf : BitVec 32 := 0xFF800000
/-- Equality of values, ±0 alike, NaN unequal. -/
def feq (a b : BitVec 32) : Bool := !isNan32 a && !isNan32 b && (a == b || (a.toNat % 2 ^ 31 == 0 && b.toNat % 2 ^ 31 == 0))
def bf16v (a : BitVec 32) : FV := Fmt.bf16.dec (convFloat 1 .rne false false (dec32 a)).bits

/-- Elements of a row of `d` elements. -/
def rowElems (fmt d : Nat) (bs : Bool) (row : Nat) : List FV := (List.range d).map fun i => elemVal fmt bs (elemAt fmt row i)

/-- A dot product along the head dimension: its 32-element blocks combined by the canonical tree (R125). -/
def dotTree (d : Nat) (sa sb : List Nat) (a b : List FV) : BitVec 32 :=
  canonSum ((List.range (d / 32)).map fun j =>
    blockValue (sa.getD j 127) (sb.getD j 127) ((a.drop (32 * j)).take 32) ((b.drop (32 * j)).take 32))

/-- An element converted to BF16 after its scale (R126), and whether it was rounded or overflowed. -/
def dequant (fmt sc b : Nat) : FV × Bool :=
  match (if fmt = 1 then some 0 else scaleExp sc) with
  | none => (.nan, false)
  | some e =>
    let v := (elemVal fmt false b).scale e
    let w := Fmt.bf16.dec (convFloat 1 .rne false false v).bits
    (w, v.lt w || w.lt v)

/-- One KV block as read: key rows, key scales, dequantised keys and values, whether a position's value (key) left the BF16 range. -/
structure KvBlk where
  k  : List (List FV)
  ks : List (List Nat)
  kd : List (List (FV × Bool))
  vd : List (List (FV × Bool))

/-- A KV block in the layout of R132. -/
def kvParse (fmt d : Nat) (bs : List (BitVec 8)) : KvBlk :=
  let rb := kvRow fmt d
  let sc := kvSc fmt d
  let h := kvHalf fmt d
  let row (o : Nat) (c : Nat) : Nat := leNat ((bs.drop (o + c * rb)).take rb)
  let scs (o : Nat) (c : Nat) : List Nat := ((bs.drop (o + 64 * rb + c * sc)).take sc).map (·.toNat)
  let deq (o : Nat) (c : Nat) : List (FV × Bool) :=
    let r := row o c
    let s := scs o c
    (List.range d).map fun i => dequant fmt (s.getD (i / 32) 127) (elemAt fmt r i)
  { k := (List.range 64).map fun c => rowElems fmt d false (row 0 c), ks := (List.range 64).map (scs 0),
    kd := (List.range 64).map (deq 0), vd := (List.range 64).map (deq h) }

/-- Row i's state (R124). -/
structure RowSt where
  m : BitVec 32
  l : BitVec 32
  o : List (BitVec 32)

def zeroV : FV := .fin false 0 0
/-- Column `d` of a block's dequantised rows, +0 at positions that are not visible (R127). -/
def visCol (vis : List Bool) (rows : List (List (FV × Bool))) (d : Nat) : List FV :=
  List.zipWith (fun v r => if v then (r.getD d (zeroV, false)).1 else zeroV) vis rows

/-- The scores of row i against a block (R124, R125). -/
def AttD.scores (x : AttD) (q : List FV) (qs : List Nat) (vis : List Bool) (kv : KvBlk) : List (BitVec 32) :=
  (List.range 64).map fun c =>
    if vis.getD c false then fmul (dotTree x.dim qs (kv.ks.getD c []) q (kv.k.getD c [])) x.scale else minusInf

/-- One block's update of a row (R124). -/
def AttD.update (x : AttD) (q : List FV) (qs : List Nat) (vis : List Bool) (kv : KvBlk) (r : RowSt) : RowSt :=
  let t := x.scores q qs vis kv
  let mn := t.foldl fmax r.m
  if mn = minusInf then r
  else
    let cf := if feq mn r.m then one32 else sfExp2 (fadd r.m (fneg mn))
    let p := List.zipWith (fun v tc => if v then sfExp2 (fadd tc (fneg mn)) else 0) vis t
    let l := fadd (fmul cf r.l) (canonSum p)
    let pb := p.map bf16v
    let o := r.o.mapIdx fun d od =>
      let col := visCol vis kv.vd d
      fadd (fmul cf od) (fadd (blockValue 127 127 (pb.take 32) (col.take 32)) (blockValue 127 127 (pb.drop 32) (col.drop 32)))
    ⟨mn, l, o⟩

/-! ### Reading and writing the bobbin -/

/-- A row's record in the state area (R129). -/
def recBytes (r : RowSt) : List (BitVec 8) := le32 r.m ++ le32 r.l ++ List.replicate 56 0 ++ (r.o.map le32).flatten
def RowSt.init (d : Nat) : RowSt := ⟨minusInf, 0, List.replicate d 0⟩
def State.readRec (s : State) (g : Nat) (x : AttD) (i : Nat) : RowSt :=
  let a := bobbinAt g (x.stOff + i * x.sr)
  ⟨BitVec.ofNat 32 (s.mem.readLE a 4), BitVec.ofNat 32 (s.mem.readLE (a + 4) 4),
    (List.range x.dim).map fun d => BitVec.ofNat 32 (s.mem.readLE (a + 64 + 4 * d) 4)⟩

/-- Q row i and its scales (R122). -/
def State.qRow (s : State) (g : Nat) (x : AttD) (i : Nat) : List FV × List Nat :=
  (rowElems x.qFmt x.dim x.qBs (s.mem.readLE (bobbinAt g (x.qOff + i * (x.qStr * 64))) (rowBytes x.qFmt x.dim)),
   if x.qBs then (s.mem.readN (bobbinAt g (x.qsBase + i * (x.dim / 32))) (x.dim / 32)).map (·.toNat) else [])

/-- The visibility of block b's 64 positions to row i. -/
def AttD.visRow (x : AttD) (b i : Nat) : List Bool := (List.range 64).map fun c => x.visible (x.posOfRow i) (x.kvStart + 64 * b + c)

/-- Whether a visible element of the block left the BF16 range. -/
def vRange (vis : List Bool) (rows : List (List (FV × Bool))) : Bool :=
  (List.zipWith (fun v r => v && r.any (·.2)) vis rows).any id

/-- ATTN or ATTN_BWD when both engines have come to it. -/
def Tile.attNow (t : Tile) (op : Nat) : Option Flight :=
  match t.first .array, t.first .vector with
  | some f, some h => if f.uid = h.uid ∧ f.op = op then some f else none
  | _, _ => none

/-! ### Timing (R137, R140) -/

def AttD.st (x : AttD) : Nat := if x.qFmt ≤ 2 ∨ x.kvFmt = 1 then 32 else 16
def AttD.fqk (x : AttD) : Nat := if x.mq ≤ 8 then 1 else 2 * ceilDiv x.mq 32
def AttD.fpv (x : AttD) : Nat := if x.mq ≤ 8 then ceilDiv x.dim 128 else ceilDiv x.mq 32 * (x.dim / 32)
/-- I of R137. -/
def AttD.per (x : AttD) : Nat :=
  max (ceilDiv (x.fqk * (x.dim / 32) * x.st + x.fpv * 64) 2) (x.mq * (10 + x.dim / 16))
def AttD.cycles (x : AttD) : Nat := 60 + x.nb * x.per + (if x.final then 20 + 6 * x.mq * (x.dim / 64) else 0)
def AttD.bwdCycles (x : AttD) : Nat :=
  let a := x.fqk * (x.dim / 32) * (x.st + 32) + x.fpv * 64 + 4 * (x.dim / 32) * ceilDiv x.mq 32 * 32
  60 + x.nb * max (ceilDiv a 2) (x.mq * (14 + x.dim / 16)) + (12 * x.mq * (x.dim / 64) + 4 * x.dim) + 4 * x.mq * (x.dim / 64)

/-! ### ATTN -/

/-- The ring is empty: ATTN stops at its restart point where the walk has stopped (R152), else it waits (R133). -/
def State.attEmpty (s : State) (g : Nat) (f : Flight) : State :=
  let k := Blk.tile g
  if s.b k F.ATT_RING_FMT_STOPPED then
    ((s.wb k F.ATT_STATUS_STOPPED true).ringWaited g f).stopAt g f f.prog
  else if s.b k F.ATT_STATUS_WAIT_RING then s
  else (s.wb k F.ATT_STATUS_WAIT_RING true).modTile g fun t => { t with ringFrom := s.tape }

/-- The wait on the ring ends: its cycles are counted and delay the command (R137). -/
def State.attFed (s : State) (g : Nat) (f : Flight) : State :=
  if s.b (.tile g) F.ATT_STATUS_WAIT_RING then
    let from_ := (s.tile g).ringFrom
    (s.ringWaited g f).modFlight g f.uid fun f => { f with start := f.start + (s.tape - from_) }
  else s

/-- The rows' new states after block b. -/
def State.attRows (s : State) (g : Nat) (x : AttD) (b : Nat) (fresh : Bool) (kv : KvBlk) : List RowSt :=
  (List.range x.mq).map fun i =>
    let (q, qs) := s.qRow g x i
    x.update q qs (x.visRow b i) kv (if fresh then RowSt.init x.dim else s.readRec g x i)

def State.putRecs (s : State) (g : Nat) (x : AttD) (rs : List RowSt) : State :=
  (rs.foldl (fun (acc : State × Nat) r => ((acc.1.put (bobbinAt g (x.stOff + acc.2 * x.sr)) (recBytes r)).2, acc.2 + 1)) (s, 0)).1

/-- One KV block, once it is available (R124, R129, R133). The end of block b is taken at TCLK cycle 60 + (b + 1) × I. -/
def execAttnBlock (t : Site) (s : State) : Result :=
  let g := t.g
  let k := Blk.tile g
  .next (match (s.tile g).attNow 3 with
  | none => s
  | some f =>
    let x := attOf f.desc
    if !s.live || x.nb ≤ f.prog then s
    else if x.ring && s.ringProd g == s.ringCons g then s.attEmpty g f
    else
      let s := s.attFed g f
      let start := (((s.tile g).flightOf f.uid).getD f).start
      let s := s.advanceTo (start + s.tclkCycles (60 + (f.prog + 1) * x.per))
      let s := s.modFlight g f.uid fun f => { f with phase := .running }
      let n := kvBlockBytes x.kvFmt x.dim
      let kvA := if x.ring then s.ringOff g + s.ringCons g % s.ringSlots g * n else x.kvOff + f.prog * n
      let fresh := x.init && f.prog == 0
      match s.readRgns g ([x.qR, x.qsR, Rgn.flat kvA n] ++ (if fresh then [] else [x.stR])) with
      | (some cw, s) => s.ueFault g f.uid cw f.prog 0
      | (none, s) =>
        let kv := kvParse x.kvFmt x.dim (s.mem.readN (bobbinAt g kvA) n)
        let rng := (List.range x.mq).any fun i => vRange (x.visRow f.prog i) kv.vd
        let s := s.putRecs g x (s.attRows g x f.prog fresh kv)
        let s := if rng then s.wb k F.ATT_FLAGS_V_RANGE true else s
        let s := if x.ring then s.w k F.ATT_RING_CONS_COUNT (s.ringCons g + 1) else s
        (s.w k F.ATT_PROGRESS_BLOCKS (f.prog + 1)).modFlight g f.uid fun f => { f with prog := f.prog + 1 })

/-- FINAL (R124): row i's output and statistics. -/
def State.attFinalRow (s : State) (g : Nat) (x : AttD) (i : Nat) (r : RowSt) : State :=
  let none_ := r.m == minusInf
  let inv := sfRcp r.l
  let cs := r.o.map fun od =>
    if none_ then ({ bits := 0 } : Conv) else convFloat x.oFmt (if x.rtz then .rtz else .rne) (!x.nosat) x.flush (dec32 (fmul od inv))
  let z := sizeOf x.oFmt
  let s := (s.put (bobbinAt g (x.oOff + i * (x.oStr * 64))) ((cs.map fun c => leBytes z c.bits).flatten)).2
  let s := (s.put (bobbinAt g (x.statOff + 8 * i)) (le32 r.m ++ le32 r.l)).2
  let s := cs.foldl (fun s c => s.attFlags g c) s
  if none_ then s.wb (.tile g) F.ATT_FLAGS_MASKED_ROW true else s
where sizeOf (fmt : Nat) : Nat := rowBytes fmt 1

/-- ATTN completes (R136, R137). -/
def execAttnComplete (t : Site) (s : State) : Result :=
  let g := t.g
  .next (match (s.tile g).attNow 3 with
  | none => s
  | some f =>
    let x := attOf f.desc
    if !s.live || f.prog < x.nb then s
    else
      let s := s.advanceTo (f.start + s.tclkCycles x.cycles)
      let fresh := x.init && x.nb == 0
      match (if x.final && !fresh then s.readRgns g [x.stR] else (none, s)) with
      | (some cw, s) => s.ueFault g f.uid cw f.prog 0
      | (none, s) =>
        let rows := (List.range x.mq).map fun i => if fresh then RowSt.init x.dim else s.readRec g x i
        let s := if fresh then s.putRecs g x rows else s
        let s := if x.final then (rows.foldl (fun (acc : State × Nat) r => (acc.1.attFinalRow g x acc.2 r, acc.2 + 1)) (s, 0)).1 else s
        let s := (s.w (.tile g) F.ATT_PROGRESS_BLOCKS f.prog).complete g f.uid
        (s.bump g .array s.tape).bump g .vector s.tape)

/-! ### ATTN_BWD (R139, R140) -/

/-- What a query row contributes: its Q and dO elements, and p and dS by position. -/
structure BwdRow where
  q  : List FV
  dq : List FV
  p  : List (BitVec 32)
  ds : List (BitVec 32)

/-- A row of dO or O as FP32 words. -/
def rowWords (fmt d row : Nat) : List (BitVec 32) := (List.range d).map fun i => enc32 (elemVal fmt false (elemAt fmt row i))

/-- p and dS of row i over all positions of the command's KV blocks. -/
def State.bwdRow (s : State) (g : Nat) (x : AttD) (kvs : List KvBlk) (i : Nat) : BwdRow :=
  let (q, qs) := s.qRow g x i
  let doN := s.mem.readLE (bobbinAt g (x.doOff + i * (x.qStr * 64))) x.doR.len
  let oN := s.mem.readLE (bobbinAt g (x.oOff + i * (x.oStr * 64))) x.oR.len
  let m := bobW s g (x.statOff + 8 * i)
  let l := bobW s g (x.statOff + 8 * i + 4)
  let dO := rowElems x.qFmt x.dim false doN
  let dsum := canonSum (List.zipWith fmul (rowWords x.qFmt x.dim doN) (rowWords x.oFmt x.dim oN))
  let sc := fmul x.scale 0x3F317218
  let inv := sfRcp l
  let blk (b : Nat) (kv : KvBlk) : List (BitVec 32 × BitVec 32) :=
    let vis := x.visRow b i
    let t := x.scores q qs vis kv
    (List.range 64).map fun c =>
      let v := vis.getD c false
      let p := if v && m != minusInf then fmul (sfExp2 (fadd (t.getD c 0) (fneg m))) inv else 0
      let vr := if v then (kv.vd.getD c []).map (·.1) else List.replicate x.dim zeroV
      let dp := dotTree x.dim [] [] dO vr
      (p, fmul (fmul p (fadd dp (fneg dsum))) sc)
  let all := (kvs.mapIdx blk).flatten
  ⟨q, dO, all.map (·.1), all.map (·.2)⟩
where bobW (s : State) (g off : Nat) : BitVec 32 := BitVec.ofNat 32 (s.mem.readLE (bobbinAt g off) 4)

/-- Blocks of 32 products, each rounded once. -/
def blocks32 (n : Nat) (a b : List FV) : List (BitVec 32) :=
  (List.range n).map fun j =>
    let pad (l : List FV) : List FV := let m := (l.drop (32 * j)).take 32; m ++ List.replicate (32 - m.length) zeroV
    blockValue 127 127 (pad a) (pad b)

/-- ATTN_BWD completes after its fixed duration with dQ, dK and dV written. -/
def execAttnBwdComplete (t : Site) (s : State) : Result :=
  let g := t.g
  .next (match (s.tile g).attNow 4 with
  | none => s
  | some f =>
    let x := attOf f.desc
    if !s.live then s
    else
      let s := s.advanceTo (f.start + s.tclkCycles x.bwdCycles)
      match s.readRgns g [x.qR, x.doR, x.oR, x.statR, x.kvR] with
      | (some cw, s) => s.ueFault g f.uid cw 0 0
      | (none, s) =>
        let n := kvBlockBytes x.kvFmt x.dim
        let kvs := (List.range x.nb).map fun b => kvParse x.kvFmt x.dim (s.mem.readN (bobbinAt g (x.kvOff + b * n)) n)
        let rows := (List.range x.mq).map (s.bwdRow g x kvs)
        let vis (c : Nat) : List Bool := (List.range x.mq).map fun i => x.visible (x.posOfRow i) (x.kvStart + c)
        let rng := (List.range x.mq).any fun i =>
          (kvs.mapIdx fun b kv => vRange (x.visRow b i) kv.vd || vRange (x.visRow b i) kv.kd).any id
        let dq := rows.mapIdx fun i r =>
          (List.range x.dim).map fun d =>
            let col := (kvs.mapIdx fun b kv => visCol (x.visRow b i) kv.kd d).flatten
            seqSum (blocks32 (2 * x.nb) (r.ds.map bf16v) col)
        let along (c : Nat) (w : BwdRow → List (BitVec 32)) (e : BwdRow → List FV) : List (BitVec 32) :=
          if (vis c).any id then
            let a := rows.map fun r => bf16v ((w r).getD c 0)
            (List.range x.dim).map fun d => canonSum (blocks32 (ceilDiv x.mq 32) a (rows.map fun r => (e r).getD d zeroV))
          else List.replicate x.dim 0
        let dk := (List.range x.kvLen).map fun c => along c BwdRow.ds BwdRow.q
        let dv := (List.range x.kvLen).map fun c => along c BwdRow.p BwdRow.dq
        let put (acc : Option Nat × State) (off : Nat) (ws : List (BitVec 32)) : Option Nat × State :=
          let (ue, s) := acc.2.putOn (bobbinAt g off) ((ws.map le32).flatten) acc.1
          (ue, ws.foldl (fun s w => s.attFlags g (plainConv w)) s)
        let (ue, s) := put (put (none, s) x.dqOff dq.flatten) x.dkvOff (dk ++ dv).flatten
        let s := if rng then s.wb (.tile g) F.ATT_FLAGS_V_RANGE true else s
        match ue with
        | some cw => s.ueFault g f.uid cw 0 0
        | none =>
          let s := s.complete g f.uid
          (s.bump g .array s.tape).bump g .vector s.tape)

end Sys2Proof.Machine
end

