-- ==== Sys2Proof/Machine/ControlCore.lean ====
section
/-! DEFINITION. The tile control core (R64 to R68): fetch, the operations of Table 3.4, timing and stalls, and RUN and STEP of CC_CTRL; then
the meanings of the instruction rows. A row names the instruction it is; it executes when the word at the program counter is that
instruction (log entry 1). CSRR and CSRW stand in Machine/RegRows.lean. -/
namespace Sys2Proof.Machine

/-! ### Arithmetic (Table 3.4) -/

/-- Format A; shift amounts are rs2[5:0]. -/
def aluOp (op : AluOp) (x y : BitVec 64) : BitVec 64 :=
  match op with
  | .add => x + y
  | .sub => x - y
  | .and_ => x &&& y
  | .or_ => x ||| y
  | .xor => x ^^^ y
  | .shl => x <<< (y.toNat % 64)
  | .shr => x >>> (y.toNat % 64)
  | .sar => x.sshiftRight (y.toNat % 64)
  | .slt => if x.slt y then 1 else 0
  | .sltu => if x < y then 1 else 0
  | .mul => x * y
  | .mulhu => BitVec.ofNat 64 (x.toNat * y.toNat / 2 ^ 64)

def immOp (op : ImmOp) (x : BitVec 64) (i : BitVec 16) : BitVec 64 :=
  match op with
  | .addi => x + sx16 i
  | .andi => x &&& sx16 i
  | .ori => x ||| sx16 i
  | .xori => x ^^^ sx16 i

/-- imm16[6] chooses the direction, imm16[5:0] the amount. -/
def shiOp (x : BitVec 64) (i : BitVec 16) : BitVec 64 :=
  if i.getLsbD 6 then x >>> (i.toNat % 64) else x <<< (i.toNat % 64)

/-- The immediate shifted left 16 as a 32-bit word, sign-extended. -/
def luiOp (i : BitVec 16) : BitVec 64 := (BitVec.ofNat 32 (i.toNat * 65536)).signExtend 64

def condOp (c : Cond) (x y : BitVec 64) : Bool :=
  match c with
  | .eq => x == y
  | .ne => x != y
  | .lt => x.slt y
  | .ge => !x.slt y
  | .ltu => decide (x < y)
  | .geu => !decide (x < y)

/-! ### Addresses (R64, Table 3.2) -/

/-- Where a load or store address lies: the memory's place in the model, none outside data SRAM and the bobbin window. -/
def coreAddr (g : Nat) (a : Nat) : Option Nat :=
  if 0x10000 ≤ a ∧ a < 0x20000 then some (dsramAt g (a - 0x10000))
  else if 0x1000000 ≤ a ∧ a < 0x1180000 then some (bobbinAt g (a - 0x1000000))
  else none

/-! ### Fetch (R64, R68) -/

/-- What the fetch answers: an instruction, or a fault with its cause and the uncorrectable word. -/
inductive Fetched where
  | instr (i : CoreInstr)
  | fault (cause : Nat) (ue : Option Nat)
  deriving DecidableEq, Repr

def State.fetchInstr (s : State) (g : Nat) : Fetched × State :=
  let pc := (s.tile g).pc.toNat
  if pc % 4 ≠ 0 then (.fault 2 none, s)
  else if 0x10000 ≤ pc then (.fault 3 none, s)
  else match s.peek (iramAt g pc) 4 with
    | (.error cw, s) => (.fault 4 (some cw), s)
    | (.ok l, s) =>
      match decodeCore (w32 l) with
      | some i => (.instr i, s)
      | none => (.fault 1 none, s)

/-! ### The end of an instruction -/

/-- The address of the next instruction. -/
def Tile.next (t : Tile) : BitVec 64 := t.pc + 4

/-- The core goes on at `pc`, ready again after `n` TCLK cycles; its record is written, after which `pc` is the next instruction's address (R448),
the instruction is counted, and the triggers of its execution and access met (R459, R456). -/
def State.coreNext (s : State) (g : Nat) (pc : BitVec 64) (n : Nat) (rec_ : Option (HemKind × Nat) := none) (access : List TEv := []) : State :=
  let from_ := (s.tile g).pc.toNat
  let s := (s.hemSettle g).modTile g fun t => { t with pc := pc, readyAt := s.tape + s.tclkCycles n }
  let s := match rec_ with
    | some (k, payload) => s.hemPut g k s.tape payload
    | none => s
  (s.ev g 0x02 1).trigger g (.exec from_ :: access) s.tape

/-- A result written to rd, and the next instruction. -/
def State.coreWrite (s : State) (g : Nat) (rd : BitVec 5) (v : BitVec 64) (access : List TEv := []) : State :=
  (s.modTile g fun t => t.setG rd v).coreNext g (s.tile g).next 1 none access

/-- A taken branch or jump: two further TCLK cycles (R66) and a BRANCH record. -/
def State.coreJump (s : State) (g : Nat) (dst : BitVec 64) : State :=
  let pc := (s.tile g).pc.toNat
  s.coreNext g dst 3 (some (.branch, pc % 2 ^ 16 + dst.toNat % 2 ^ 16 * 2 ^ 16))

/-! ### The operations -/

/-- LD, LW, LB (R66, R68): aligned, inside Table 3.2, zero-extended; the value reaches an instruction two TCLK cycles later. An address both misaligned
and outside Table 3.2 is reported as misaligned (DESIGN CHOICE, log entry 101). -/
def State.coreLoad (s : State) (g : Nat) (w : AccW) (rd rs1 : BitVec 5) (i : BitVec 16) : State :=
  let a := ((s.tile g).gr rs1 + sx16 i).toNat
  if a % w.bytes ≠ 0 then s.coreFault g 2
  else match coreAddr g a with
    | none => s.coreFault g 3
    | some m =>
      match s.peek m w.bytes with
      | (.error cw, s) => s.coreFault g 4 (some cw)
      | (.ok l, s) =>
        let s := s.modTile g fun t => { t with loadReg := rd.toNat, loadAt := s.tape + s.tclkCycles 2 }
        s.coreWrite g rd (BitVec.ofNat 64 (leNat l)) [.access a]

/-- SD, SW, SB (R66, R68, R174): the low bits of rd; a store of part of a word is a read, merge and write. Misalignment comes first, as in coreLoad. -/
def State.coreStore (s : State) (g : Nat) (w : AccW) (rd rs1 : BitVec 5) (i : BitVec 16) : State :=
  let a := ((s.tile g).gr rs1 + sx16 i).toNat
  if a % w.bytes ≠ 0 then s.coreFault g 2
  else match coreAddr g a with
    | none => s.coreFault g 3
    | some m =>
      match s.put m (leBytes w.bytes ((s.tile g).gr rd).toNat) with
      | (some cw, s) => s.coreFault g 4 (some cw)
      | (none, s) => s.coreNext g (s.tile g).next 1 none [.access a]

def State.coreBranch (s : State) (g : Nat) (c : Cond) (rs1 rs2 : BitVec 5) (off : BitVec 16) : State :=
  let t := s.tile g
  if condOp c (t.gr rs1) (t.gr rs2) then s.coreJump g (t.next + 4 * off.signExtend 64) else s.coreNext g t.next 1

/-- CQPUSH (R66): without room it stalls and has not executed, so its address is looked at only once there is room (DEDUCED, log entry 93);
then it reserves the tail entry and copies for 8 TCLK cycles. -/
def State.corePush (s : State) (g : Nat) (rs1 : BitVec 5) (i : BitVec 16) : State :=
  let t := s.tile g
  let a := (t.gr rs1 + sx16 i).toNat
  if Config.queueDepth ≤ t.queue.length then s
  else if a % 64 ≠ 0 then s.coreFault g 5
  else if a < 0x10000 ∨ 0x20000 ≤ a then s.coreFault g 3
  else match s.peek (dsramAt g (a - 0x10000)) 64 with
    | (.error cw, s) => s.coreFault g 4 (some cw)
    | (.ok l, s) => s.modTile g fun t => { t with pushing := some (BitVec.ofNat 512 (leNat l), s.tape + s.tclkCycles 8) }

/-- The condition on which CQWAIT returns (R67). -/
def State.waitDone (s : State) (g : Nat) (v : Nat) : Bool :=
  let k := Blk.tile g
  s.b k F.CQ_DONE_ANY && decide ((s.r k F.CQ_DONE_SEQ + 2 ^ 16 - v % 2 ^ 16) % 2 ^ 16 < 2 ^ 15)

/-- CQWAIT (R67): returns at once, or stalls. -/
def State.coreWait (s : State) (g : Nat) (rs1 : BitVec 5) : State :=
  let v := ((s.tile g).gr rs1).toNat % 2 ^ 16
  if s.waitDone g v then (s.modTile g fun t => { t with waitSeq := none }).coreNext g (s.tile g).next 1
  else s.modTile g fun t => { t with waitSeq := some v }

def State.coreHalt (s : State) (g : Nat) : State :=
  (s.coreNext g (s.tile g).next 1).modTile g fun t => { t with run := false, haltExec := true }

/-- The operation of an instruction other than CSRR and CSRW, which reach registers (Machine/RegRows.lean gives theirs). -/
def State.execInstr (csr : State → Nat → CoreInstr → State) (s : State) (g : Nat) (i : CoreInstr) : State :=
  let t := s.tile g
  match i with
  | .alu op rd rs1 rs2 => s.coreWrite g rd (aluOp op (t.gr rs1) (t.gr rs2))
  | .imm op rd rs1 i => s.coreWrite g rd (immOp op (t.gr rs1) i)
  | .shi rd rs1 i => s.coreWrite g rd (shiOp (t.gr rs1) i)
  | .lui rd i => s.coreWrite g rd (luiOp i)
  | .load w rd rs1 i => s.coreLoad g w rd rs1 i
  | .store w rd rs1 i => s.coreStore g w rd rs1 i
  | .branch c rs1 rs2 off => s.coreBranch g c rs1 rs2 off
  | .j off => s.coreJump g (t.next + 4 * off.signExtend 64)
  | .jal off => (s.modTile g fun t => t.setG 31 t.next).coreJump g (t.next + 4 * off.signExtend 64)
  | .jr rd rs1 i => (s.modTile g fun t => t.setG rd t.next).coreJump g (t.gr rs1 + sx16 i)
  | .cqpush rs1 i => s.corePush g rs1 i
  | .cqwait rs1 => s.coreWait g rs1
  | .csrr rd i => csr s g (.csrr rd i)
  | .csrw rs1 i => csr s g (.csrw rs1 i)
  | .taper rd => s.coreWrite g rd (BitVec.ofNat 64 s.tape)
  | .halt => s.coreHalt g

/-- Nothing stalls the core and no copy is under way. -/
def Tile.coreFree (t : Tile) : Bool := t.pushing.isNone && t.waitSeq.isNone

/-- The tape at which an instruction executes: when the core is ready and the load it needs has delivered (R66). -/
def Tile.issueAt (t : Tile) (i : CoreInstr) : Nat :=
  if i.reads.any (fun r => r.toNat == t.loadReg && r != 0) then max t.readyAt t.loadAt else t.readyAt

/-- An instruction row of a running core: the word at the program counter is fetched, faults, or is executed if it is `want`. A core that has come to a word
which none of the sources of R330 wrote executes nothing more (DEDUCED, log entry 115). -/
def State.coreTurn (s : State) (g : Nat) (want : CoreInstr) (eff : State → State) : State :=
  let t := s.tile g
  if !t.run || !t.coreFree || !t.codeOk || !s.live || !s.clocked g then s
  else match s.fetchInstr g with
    | (.fault c ue, s') => (s'.advanceTo t.readyAt).coreFault g c ue
    | (.instr i, s') => if i = want then eff (s'.advanceTo (t.issueAt i)) else s

/-- Setting RUN (R66, Table 3.14): the core fetches from CC_PC; a fault of that fetch is taken (R68). A core at a word that none of the
sources of R330 wrote does not run, nor does one whose clocks are gated (R367). -/
def State.runCore (s : State) (g : Nat) : State :=
  if (s.tile g).faulted || (s.tile g).run || !(s.tile g).codeOk || !s.clocked g then s
  else
    let s := s.modTile g fun t => { t with run := true, haltExec := false, readyAt := max t.readyAt s.tape, headAt := s.tape }
    let s := s.hemResume g
    match s.fetchInstr g with
    | (.fault c ue, s) => s.coreFault g c ue
    | (.instr _, s) => s

/-- Clearing RUN (R66): at once during a stall; a copy that has begun completes. -/
def State.haltCore (s : State) (g : Nat) : State := s.modTile g fun t => { t with run := false, waitSeq := none }

/-- STEP (R97, Table 3.14): one instruction while RUN is clear, on an idle or faulted tile as on a halted one (DESIGN CHOICE, log entry 87). -/
def State.stepCore (csr : State → Nat → CoreInstr → State) (s : State) (g : Nat) : State :=
  let t := s.tile g
  if t.run || !t.coreFree || !t.codeOk || !s.clocked g then s
  else match s.fetchInstr g with
    | (.fault c ue, s) => s.coreFault g c ue
    | (.instr i, s) =>
      let s := ((s.advanceTo (t.issueAt i)).modTile g fun t => { t with haltExec := false }).execInstr csr g i
      s.modTile g fun t => { t with waitSeq := none }

/-! ### The rows -/

/-- The operation of an instruction that is not CSRR or CSRW. -/
def State.plainInstr (s : State) (g : Nat) (i : CoreInstr) : State := s.execInstr (fun s _ _ => s) g i

/-- A row whose instruction is executed whole when it is the word at the program counter. -/
def State.coreRow (s : State) (t : Site) (i : CoreInstr) : Result := .next (s.coreTurn t.g i fun s => s.plainInstr t.g i)

def execAdd (t : Site) (rd rs1 rs2 : BitVec 5) (s : State) : Result := s.coreRow t (.alu .add rd rs1 rs2)
def execSub (t : Site) (rd rs1 rs2 : BitVec 5) (s : State) : Result := s.coreRow t (.alu .sub rd rs1 rs2)
def execAnd (t : Site) (rd rs1 rs2 : BitVec 5) (s : State) : Result := s.coreRow t (.alu .and_ rd rs1 rs2)
def execOr (t : Site) (rd rs1 rs2 : BitVec 5) (s : State) : Result := s.coreRow t (.alu .or_ rd rs1 rs2)
def execXor (t : Site) (rd rs1 rs2 : BitVec 5) (s : State) : Result := s.coreRow t (.alu .xor rd rs1 rs2)
def execShl (t : Site) (rd rs1 rs2 : BitVec 5) (s : State) : Result := s.coreRow t (.alu .shl rd rs1 rs2)
def execShr (t : Site) (rd rs1 rs2 : BitVec 5) (s : State) : Result := s.coreRow t (.alu .shr rd rs1 rs2)
def execSar (t : Site) (rd rs1 rs2 : BitVec 5) (s : State) : Result := s.coreRow t (.alu .sar rd rs1 rs2)
def execSlt (t : Site) (rd rs1 rs2 : BitVec 5) (s : State) : Result := s.coreRow t (.alu .slt rd rs1 rs2)
def execSltu (t : Site) (rd rs1 rs2 : BitVec 5) (s : State) : Result := s.coreRow t (.alu .sltu rd rs1 rs2)
def execMul (t : Site) (rd rs1 rs2 : BitVec 5) (s : State) : Result := s.coreRow t (.alu .mul rd rs1 rs2)
def execMulhu (t : Site) (rd rs1 rs2 : BitVec 5) (s : State) : Result := s.coreRow t (.alu .mulhu rd rs1 rs2)
def execAddi (t : Site) (rd rs1 : BitVec 5) (imm : BitVec 16) (s : State) : Result := s.coreRow t (.imm .addi rd rs1 imm)
def execAndi (t : Site) (rd rs1 : BitVec 5) (imm : BitVec 16) (s : State) : Result := s.coreRow t (.imm .andi rd rs1 imm)
def execOri (t : Site) (rd rs1 : BitVec 5) (imm : BitVec 16) (s : State) : Result := s.coreRow t (.imm .ori rd rs1 imm)
def execXori (t : Site) (rd rs1 : BitVec 5) (imm : BitVec 16) (s : State) : Result := s.coreRow t (.imm .xori rd rs1 imm)
def execShi (t : Site) (rd rs1 : BitVec 5) (imm : BitVec 16) (s : State) : Result := s.coreRow t (.shi rd rs1 imm)
def execLui (t : Site) (rd : BitVec 5) (imm : BitVec 16) (s : State) : Result := s.coreRow t (.lui rd imm)
def execLd (t : Site) (rd rs1 : BitVec 5) (imm : BitVec 16) (s : State) : Result := s.coreRow t (.load .dword rd rs1 imm)
def execLw (t : Site) (rd rs1 : BitVec 5) (imm : BitVec 16) (s : State) : Result := s.coreRow t (.load .word rd rs1 imm)
def execLb (t : Site) (rd rs1 : BitVec 5) (imm : BitVec 16) (s : State) : Result := s.coreRow t (.load .byte rd rs1 imm)
def execSd (t : Site) (rd rs1 : BitVec 5) (imm : BitVec 16) (s : State) : Result := s.coreRow t (.store .dword rd rs1 imm)
def execSw (t : Site) (rd rs1 : BitVec 5) (imm : BitVec 16) (s : State) : Result := s.coreRow t (.store .word rd rs1 imm)
def execSb (t : Site) (rd rs1 : BitVec 5) (imm : BitVec 16) (s : State) : Result := s.coreRow t (.store .byte rd rs1 imm)
def execBeq (t : Site) (rs1 rs2 : BitVec 5) (off : BitVec 16) (s : State) : Result := s.coreRow t (.branch .eq rs1 rs2 off)
def execBne (t : Site) (rs1 rs2 : BitVec 5) (off : BitVec 16) (s : State) : Result := s.coreRow t (.branch .ne rs1 rs2 off)
def execBlt (t : Site) (rs1 rs2 : BitVec 5) (off : BitVec 16) (s : State) : Result := s.coreRow t (.branch .lt rs1 rs2 off)
def execBge (t : Site) (rs1 rs2 : BitVec 5) (off : BitVec 16) (s : State) : Result := s.coreRow t (.branch .ge rs1 rs2 off)
def execBltu (t : Site) (rs1 rs2 : BitVec 5) (off : BitVec 16) (s : State) : Result := s.coreRow t (.branch .ltu rs1 rs2 off)
def execBgeu (t : Site) (rs1 rs2 : BitVec 5) (off : BitVec 16) (s : State) : Result := s.coreRow t (.branch .geu rs1 rs2 off)
def execJ (t : Site) (off : BitVec 26) (s : State) : Result := s.coreRow t (.j off)
def execJal (t : Site) (off : BitVec 26) (s : State) : Result := s.coreRow t (.jal off)
def execJr (t : Site) (rd rs1 : BitVec 5) (imm : BitVec 16) (s : State) : Result := s.coreRow t (.jr rd rs1 imm)
def execCqpush (t : Site) (rs1 : BitVec 5) (imm : BitVec 16) (s : State) : Result := s.coreRow t (.cqpush rs1 imm)
def execCqwait (t : Site) (rs1 : BitVec 5) (s : State) : Result := s.coreRow t (.cqwait rs1)
def execTaper (t : Site) (rd : BitVec 5) (s : State) : Result := s.coreRow t (.taper rd)
def execHalt (t : Site) (s : State) : Result := s.coreRow t .halt

/-- The end of a CQPUSH copy (R66, R69): the entry is appended and becomes visible, and the core goes on. -/
def State.append (s : State) (g : Nat) : State :=
  match (s.tile g).pushing with
  | none => s
  | some (d, due) =>
    let s := s.advanceTo due
    let t := s.tile g
    let slot := (t.nextUid + t.queue.length) % 64
    let s := s.setTile g { t with pushing := none, queue := t.queue ++ [d], headAt := if t.queue.isEmpty then s.tape else t.headAt }
    let s := (List.range 8).foldl (fun s i => s.sealCw (cqAt g slot + 8 * i)) s
    s.coreNext g t.next 0 (some (.push, descPayload d))

def execCqpushAppend (t : Site) (s : State) : Result := if s.live && s.clocked t.g then .next (s.append t.g) else .next s

/-- CQWAIT returns once CQ_DONE shows the waited command retired (R67). -/
def execCqwaitReturn (t : Site) (rs1 : BitVec 5) (s : State) : Result :=
  match (s.tile t.g).waitSeq with
  | none => .next s
  | some v =>
    if (s.tile t.g).run && s.live && s.clocked t.g && ((s.tile t.g).gr rs1).toNat % 2 ^ 16 == v && s.waitDone t.g v then .next (s.coreWait t.g rs1) else .next s

end Sys2Proof.Machine
end

