-- ==== Sys2Proof/Machine/PatternOps.lean ====
section
/-! DEFINITION. The operations of bolts and tacks (chapter 9, R286 to R292): the tack tree, decisions, holds and releases, slips, ease,
the end of a pattern, and the widths of ports. -/
namespace Sys2Proof.Machine

/-! ### The pattern's state (Table 9.8, R321) -/

/-- PAT_STATUS.STATE takes a value; a change raises the bolt vector (R321). -/
def State.setPat (s : State) (b st : Nat) : State :=
  if s.patState b = st then s else (s.w (.bolt b) F.PAT_STATUS_STATE st).boltIrq b

/-- A refusal of a load or a start: CODE and PAT_DETAIL. -/
def State.patRefuse (s : State) (b code detail : Nat) : State :=
  (s.w (.bolt b) F.PAT_STATUS_CODE code).w (.bolt b) F.PAT_DETAIL_INDEX detail

/-- The private bytes that an admitted or running pattern claims in a tile's slice (Table 9.9). -/
def State.privClaim (s : State) (g : Nat) : Nat :=
  match s.boltOf (g / 160) with
  | none => 0
  | some b =>
    if s.patHolds b then (((s.bolt b).pat.bind fun p => p.tiles.find? fun t => s.siteOf t.1 == some g).map fun t => t.2.2).getD 0 else 0

/-! ### Ports: width and lanes (R271, R286 to R289) -/

def popCount (m : Nat) : Nat := ((List.range 12).filter fun i => bit m i).length
/-- The width that a mask of lanes gives (R271). -/
def widthOf (m : Nat) : Nat :=
  match popCount m with
  | 0 => 0
  | 1 => 1
  | 2 => 2
  | 3 => 2
  | _ => 4
/-- The lanes in use: the lowest of the mask that the width takes (R271). -/
def lanesOf (m : Nat) : Nat :=
  ((((List.range 4).filter fun i => bit m i).take (widthOf m)).map fun i => 2 ^ i).foldl (· + ·) 0

/-- A port takes a width and lanes. -/
def State.setWidth (s : State) (f m : Nat) : State :=
  (s.w (.fab f) F.FAB_PORT_STATUS_WIDTH (widthOf m)).w (.fab f) F.FAB_PORT_STATUS_LANES (lanesOf m)

/-- A bit of FAB_TOPO.PORTS_UP. -/
def State.setUp (s : State) (f : Nat) (up : Bool) : State :=
  let m := s.r (.fab 0) F.FAB_TOPO_PORTS_UP
  s.w (.fab 0) F.FAB_TOPO_PORTS_UP (if bit m f = up then m else if up then m + 2 ^ f else m - 2 ^ f)

/-- A record of the link class about a port. -/
def State.logLink (s : State) (f lane : Nat) (b : Option Nat) : State :=
  s.logEv { cls := .link, source := Src.fabric, index := ixOf f lane, bolt := b }

/-- FAB_TIME_PARENT and the root and alignment bits as the coordinate and the ports stand (R293). -/
def State.retime (s : State) : State :=
  let root (s : State) (v : Bool) : State := (s.wb (.fab 0) F.FAB_TIME_PARENT_ROOT v).wb .tape F.TAPE_STATUS_ROOT v
  match rootStep s.coord s.dims with
  | none => (root s true).wb .tape F.TAPE_STATUS_ALIGNED (s.b .tape F.TAPE_STATUS_LOCKED)
  | some (axis, plus) =>
    match s.upPort axis plus with
    | some f => (root s false).w (.fab 0) F.FAB_TIME_PARENT_PORT f
    | none => (root s false).wb .tape F.TAPE_STATUS_ALIGNED false

/-- A port goes down (R285, R289): its buffers are discarded, WIDTH is 0. -/
def State.portDown (s : State) (f : Nat) : State :=
  if !s.portUp f then s
  else
    let p := s.fport f
    let s := s.setFport f { p with replay := [], backlog := [], resv := [], slots := [], nakOut := false, nakDue := false, slipAsked := false, slipMarks := [] }
    let s := ((s.setWidth f 0).w (.fab f) F.FAB_PORT_STATUS_STATE 0).wb (.fab f) F.FAB_PORT_STATUS_FAILING false
    ((s.setUp f false).logLink f 0 (s.portBolt f)).retime

/-- The width a port will have once its failing lanes are dropped (R287, R288). -/
def State.widthAfter (s : State) (f : Nat) : Nat :=
  let p := s.fport f
  if !s.portUp f then 0
  else if p.failing = 0 then s.r (.fab f) F.FAB_PORT_STATUS_WIDTH
  else widthOf (p.both &&& ~~~p.failing).toNat

/-- A port drops failing lanes: it narrows to the others, with the flits of its slots, and goes down when none is left (R285, R287). -/
def State.narrow (s : State) (f : Nat) (mask : BitVec 4) : State :=
  let p := s.fport f
  let m := p.both &&& ~~~mask
  if !s.portUp f ∨ m = p.both then s
  else if m = 0 then s.portDown f
  else ((s.setFport f ({ p with both := m }.rescale (s.fabWidth f) (widthOf m.toNat))).setWidth f m.toNat).wb (.fab f) F.FAB_PORT_STATUS_FAILING (m &&& p.failing != 0)

/-- Ports that no running bolt claims any more drop their failing lanes at once (R287). -/
def State.narrowAll (s : State) (ports : List Nat) : State := ports.foldl (fun s f => s.narrow f (s.fport f).failing) s

/-- The ports of a bolt start afresh: at a new count no slot has been used (R275, R290). -/
def State.freshPorts (s : State) (b : Nat) : State :=
  ((List.range 12).filter fun f => s.portBolt f == some b).foldl (fun s f => s.modFport f fun p => { p with nextSlot := 0, resvNext := 0 }) s

/-- No running bolt claims a port. -/
def State.portFree (s : State) (f : Nat) : Bool :=
  match s.portBolt f with
  | some b => !s.patRuns b
  | none => true

/-- A message of the tack channel: each on both planes of the tree link, and on each plane in two successive reserved slots (R290). -/
def State.tackSend (s : State) (ports : List Nat) (bs : List (BitVec 8)) : State :=
  (ports.flatMap fun f => [f, f, twinPort f, twinPort f]).foldl (fun s f => s.enqueue f Prec.tack (plainFlit 2 bs)) s

/-- The bytes of tack-channel messages (DESIGN CHOICE, log entry 80): kind, bolt, and what the message says. -/
def tackBytes (kind b : Nat) (m : TackMsg) : List (BitVec 8) :=
  leBytes 1 kind ++ leBytes 1 b ++ leBytes 4 m.tack ++ leBytes 1 (b2n m.late + 2 * b2n m.second + 4 * b2n m.lateXyz.isSome) ++ leBytes 2 m.pace
    ++ (match m.lateXyz with | some (x, y, z) => leBytes 2 (x + 16 * y + 256 * z) | none => leBytes 2 0)
    ++ (List.range 12).flatMap fun i => leBytes 1 (m.minw.getD i 0)
def countBytes (kind b v : Nat) : List (BitVec 8) := leBytes 1 kind ++ leBytes 1 b ++ leBytes 8 v

def State.sendReport (s : State) (b : Nat) (p : Pattern) (m : TackMsg) : State := s.tackSend [p.parent] (tackBytes 1 b m)
def State.sendDecision (s : State) (b : Nat) (ports : List Nat) (m : TackMsg) : State := s.tackSend ports (tackBytes 2 b m)
def State.sendSlipRequest (s : State) (b : Nat) (p : Pattern) (sc : Nat) : State := s.tackSend [p.parent] (countBytes 3 b sc)
def State.sendSlip (s : State) (b : Nat) (ports : List Nat) (sc : Nat) : State := s.tackSend ports (countBytes 4 b sc)
def State.sendRelease (s : State) (b : Nat) (ports : List Nat) (h : Nat) : State := s.tackSend ports (countBytes 5 b h)

/-! ### Reports and decisions (R257, R288, R290) -/

def xyzLt (a b : Nat × Nat × Nat) : Bool :=
  decide (a.1 < b.1 ∨ (a.1 = b.1 ∧ (a.2.1 < b.2.1 ∨ (a.2.1 = b.2.1 ∧ a.2.2 < b.2.2))))

/-- Two reports combined: late prevails, the longest pace request, the lowest late module, the lowest width of each port. -/
def combine (a b : TackMsg) : TackMsg :=
  { a with
    late := a.late || b.late, pace := max a.pace b.pace,
    lateXyz := match a.lateXyz, b.lateXyz with
      | some x, some y => some (if xyzLt y x then y else x)
      | some x, none => some x
      | none, y => y,
    minw := (List.range 12).map fun i => min (a.minw.getD i 0) (b.minw.getD i 0) }

/-- The mark of this module's own report among its children's (which carry their port number). -/
abbrev ownReport : Nat := 99

/-- The ports of the tree's children. -/
def Pattern.kids (p : Pattern) : List Nat := if p.fabric then (List.range 12).filter fun i => bit p.children i else []
/-- This module is the root of the bolt's tack tree. -/
def Pattern.isRoot (p : Pattern) : Bool := !p.fabric || p.parent == 0xFF

/-- The pace request, in whole microseconds, that the module raises for a bolt's next report (R393, R396, R397); 0 for none. -/
def State.paceAsked (s : State) (p : Pattern) : Nat :=
  let stk := (List.range 12).any fun k => bit p.stkMask k && 3 ≤ s.r .thm (F.THM_STK_LEVEL_LEVEL k)
  let edge := p.ranges.any fun r => s.b .thm (F.THM_EDGE_THROTTLE r.stack)
  if stk || edge then s.r .thm F.THM_CFG_PACE_US else 0

/-- Every tile of the bolt has arrived (R257). -/
def State.allArrived (s : State) (b : Nat) : Bool := (s.boltTiles b).all fun g => (s.bolt b).arrived.contains g

/-- The module's own report for the next tack (R257, R288). -/
def State.ownMsg (s : State) (b : Nat) (p : Pattern) : TackMsg :=
  let late := !s.allArrived b
  { tack := (s.bolt b).tack, late := late, pace := s.paceAsked p, lateXyz := if late then some s.coord else none,
    minw := (List.range 12).map s.widthAfter, from_ := ownReport, second := false }

/-- FAB_MINW takes the widths of a decision (R288). -/
def State.setMinw (s : State) (w : List Nat) : State :=
  let v := ((List.range 12).map fun i => w.getD i 0 * 16 ^ i).foldl (· + ·) 0
  (s.w (.fab 0) F.FAB_MINW_LO_WIDTH v).w (.fab 0) F.FAB_MINW_HI_WIDTH (v / 2 ^ 32)

/-- A decision reaches this module (R257, R262): it is kept, its pace pause is set for the tack after it, unless the tack is held when it arrives (R397),
and it goes on to the children. -/
def State.takeDecision (s : State) (b : Nat) (p : Pattern) (m : TackMsg) : State :=
  let x := s.bolt b
  let s := s.setBolt b { x with decision := some m, lateMod := m.lateXyz,
                                paces := if m.pace = 0 ∨ x.pause = .hold then x.paces else x.paces ++ [(m.tack + 1, m.pace * 1000)] }
  let s := if p.fabric then s.setMinw m.minw else s
  s.sendDecision b p.kids m

/-- The root sets the release tape H and broadcasts it (R258). -/
def State.setRelease (s : State) (b : Nat) (p : Pattern) : State :=
  let h := s.tape + p.tackLat
  (s.modBolt b fun x => { x with release := some h }).sendRelease b p.kids h

/-- The senders whose reports the module awaits for the next tack: itself and its children; a bolt restored at that tack awaits its own alone
(DEDUCED, log entry 31). -/
def Bolt.awaited (x : Bolt) (p : Pattern) : List Nat := if x.restoreTack = some x.tack then [ownReport] else ownReport :: p.kids

/-- What the reports received so far bring about: the first combined report goes to the parent or decides at the root; a combined report that
is no longer late goes as the second one, and at the root sets the release tape H (R257, R258), as does a first one that completes after
R_N (R259). A module that has missed a decision sends no further reports (R292). -/
def State.tackFlow (s : State) (b : Nat) : State :=
  let x := s.bolt b
  match x.pat with
  | none => s
  | some p =>
    let rs := x.reports.filter fun r => r.tack == x.tack
    if !(x.awaited p).all (fun c => rs.any fun r => r.from_ == c) then s
    else
      match rs with
      | [] => s
      | r :: rest =>
        let m := { rest.foldl combine r with from_ := 0, second := false }
        if !x.sent then
          let s := s.setBolt b { x with sent := true, sent2 := !m.late, lateMod := m.lateXyz }
          if p.isRoot then
            let s := s.takeDecision b p m
            if x.pause = .hold ∧ !m.late then s.setRelease b p else s
          else if x.silent then s
          else s.sendReport b p m
        else if m.late || x.sent2 then s
        else
          let s := s.setBolt b { x with sent2 := true }
          if p.isRoot then s.setRelease b p
          else if x.silent then s
          else s.sendReport b p { m with second := true }

/-- A report enters the combination, in place of an earlier one of the same sender. -/
def State.putReport (s : State) (b : Nat) (r : TackMsg) : State :=
  let x := s.bolt b
  (s.setBolt b { x with reports := (x.reports.filter fun q => !(q.from_ == r.from_ && q.tack == r.tack)) ++ [r] }).tackFlow b

/-- A tile's arrival at tack `n` (R254, R257): a repeated report counts once, one of a tack already released not at all. -/
def State.arrive (s : State) (g b n : Nat) : State :=
  let x := s.bolt b
  if x.tack ≠ n ∨ x.arrived.contains g then s
  else
    let s := s.setBolt b { x with arrived := x.arrived ++ [g] }
    if s.allArrived b then
      match x.reports.find? fun r => r.from_ == ownReport && r.tack == n with
      | some r => if r.late then s.putReport b { r with late := false, lateXyz := none, second := true } else s
      | none => s
    else s

/-! ### Holds and pauses (R258, R259, R263) -/

/-- The bolt holds at tack `n` from the tape at which the count reached R_N. -/
def State.holdAt (s : State) (b n at_ : Nat) : State :=
  let s := s.modBolt b fun x => { x with pause := .hold, pauseFrom := at_, holdFrom := at_, holdFlag := false }
  let k := Blk.bolt b
  (((s.inc k F.PAT_HOLDS_COUNT).w2 k F.PAT_LAST_HOLD_LO_TAPE F.PAT_LAST_HOLD_HI_TAPE at_).w k F.PAT_HOLD_INFO_TACK n).setPat b 5

/-- TACKs whose arrival was reported during a pause complete when it ends (R263; log entry 22). -/
def State.tacksDone (s : State) (b : Nat) : State :=
  (s.boltSites b).foldl (fun s g =>
    if (s.tile g).reported then
      let s := s.modTile g fun t => { t with reported := false }
      ((s.tile g).flight.filter fun f => f.phase == .running && f.op == 0x09).foldl (fun s f => s.complete g f.uid) s
    else s) s

/-- A pause ends at a tape: its cycles are accumulated and the count advances again. -/
def State.unpause (s : State) (b at_ : Nat) : State :=
  (s.modBolt b fun x => { x with pausedAcc := x.pausedAcc + (at_ - x.pauseFrom), pause := .none }).setPat b 4

/-! ### The end of a pattern (R233, R235, R252) -/

/-- A pre-emption that has not reached its tack lapses (R233). -/
def State.preemptLapse (s : State) (b : Nat) : State :=
  if (s.bolt b).preempt.isNone then s
  else
    let s := s.modBolt b fun x => { x with preempt := none }
    let s := (List.range 12).foldl (fun s k =>
      if bit (s.r (.bolt b) F.BOLT_STACKS_STACKS) k then
        ((s.wb (.stk k) F.CTX_CTRL_SAVE false).w (.stk k) F.CTX_STATUS_STATE 0).w (.stk k) F.CTX_STATUS_CODE 0x0C
      else s) s
    (s.boltSites b).foldl (fun s g => s.wb (.tile g) F.TILE_STATUS_PREEMPT_PENDING false) s

/-- The bolt's rings and windows are disabled (R252). -/
def State.disable (s : State) (b : Nat) : State :=
  let s := (List.range 384).foldl (fun s k => (List.range 4).foldl (fun s r =>
    if s.r (.nbu k) (F.NBU_RING_CFG_OWNER r) = 0 ∧ s.r (.nbu k) (F.NBU_RING_CFG_BOLT r) = b then s.wb (.nbu k) (F.NBU_RING_CFG_EN r) false else s) s) s
  (List.range 12).foldl (fun s k =>
    if bit (s.r (.bolt b) F.BOLT_STACKS_STACKS) k then
      (List.range 64).foldl (fun s w => s.wb (.stk k) (F.TRN_WIN_LEN_HI_EN w) false) s
    else s) s

/-- The pattern ends: STATE is ended, its count stands, rings, windows and claims are released, and its ports with failing lanes narrow (R287). -/
def State.endPattern (s : State) (b : Nat) : State :=
  let ports := (List.range 12).filter fun f => s.portBolt f == some b
  let s := ((s.preemptLapse b).disable b).freshPorts b
  let s := (s.wb (.bolt b) F.PAT_CTRL_STOP false).modBolt b fun x =>
    { x with endAt := some (x.endAt.getD s.tape), slips := [], paces := [], stopPend := false, decision := none, release := none,
             restoreTack := none }
  (s.setPat b 7).narrowAll ports

/-- A tile halts where it stands. -/
def State.haltTile (s : State) (g : Nat) : State := s.modTile g fun t => { t with run := false, waitSeq := none }

/-! ### Release of a tack (R258, R260, R287, R288) -/

/-- The first schedule, in image order, whose minimum widths a list of widths meets. -/
def Pattern.fit (p : Pattern) (w : List Nat) : Option Nat :=
  (List.range p.scheds.length).find? fun i =>
    match p.scheds[i]? with
    | none => false
    | some x => (List.range 12).all fun f => decide (x.minw.getD f 0 ≤ w.getD f 0)

/-- The ports' widths as FAB_MINW shows them. -/
def State.minw (s : State) : List Nat :=
  (List.range 12).map fun i => bits (s.r (.fab 0) F.FAB_MINW_LO_WIDTH + 2 ^ 32 * s.r (.fab 0) F.FAB_MINW_HI_WIDTH) (4 * i) 4

/-- Every tile discards its unissued queue entries and its core goes on at an entry point, its registers kept (R239, R288). -/
def State.reenter (s : State) (b entry : Nat) : State :=
  (s.boltTiles b).foldl (fun s g =>
    s.modTile g fun t => { t with queue := [], pushing := none, waitSeq := none, pc := BitVec.ofNat 64 entry, run := true, haltExec := false,
                                  readyAt := max t.readyAt s.tape }) s

/-- A tile passes the tack it has arrived at: it may issue again, after its ease (R260, R393; log entry 21). -/
def State.passTile (s : State) (b n : Nat) (g : Nat) : State :=
  match (s.tile g).atTack with
  | none => s
  | some (k, se, en) =>
    if k ≠ n then s
    else
      let lvl := s.r .thm (F.THM_STK_LEVEL_LEVEL (g / 160))
      let en := if 1 ≤ lvl ∧ s.r .thm (F.THM_STK_LEVEL_HOT_TILE (g / 160)) = s.ltile g then en else 0
      let se := if 2 ≤ lvl then se else 0
      let s := s.modTile g fun t => { t with atTack := none, easeUntil := max t.easeUntil (s.tape + max en se) }
      let s := s.hemPut g .tack s.tape (n + 2 ^ 24)
      (s.ev g 0x13 (s.tclkSpan s.tape (s.tape + en))).inc (.bolt b) F.PAT_EASE_USED_CYCLES en

/-- The STACK_EASE that a stack takes at a release: the longest its tiles declare. -/
def State.stackEase (s : State) (b k : Nat) : Nat :=
  if 2 ≤ s.r .thm (F.THM_STK_LEVEL_LEVEL k) then
    (s.boltTiles b).foldl (fun m g => if g / 160 = k then max m (match (s.tile g).atTack with | some (_, se, _) => se | none => 0) else m) 0
  else 0

/-- Every tile goes on at R_N; the next tack becomes the bolt's, and transactions that waited for the release are let go (R184). -/
def State.passTack (s : State) (b n : Nat) : State :=
  let ease := ((List.range 12).map fun k => s.stackEase b k).foldl (· + ·) 0
  let s := s.inc (.bolt b) F.PAT_EASE_USED_CYCLES ease
  let s := (s.boltSites b).foldl (fun s g => s.passTile b n g) s
  let s := (s.w (.bolt b) F.PAT_TACK_TACK n).wb (.bolt b) F.PAT_TACK_ANY true
  let s := s.modBolt b fun x => { x with tack := n + 1, relAt := (s.releaseOf b n).getD 0, arrived := [], sent := false, sent2 := false, decision := none, release := none,
                                         reports := x.reports.filter fun r => decide (n < r.tack), restoreTack := none, silent := false }
  { s with stitched := s.stitched.map fun t => if t.bolt == some b then { t with bolt := none, at_ := s.tape } else t }

/-! ### Slips (R261, R284) -/

/-- A slip enters the list of a module: at s + TACK_LAT, or at the present count where that has passed (log entry 19). -/
def State.addSlip (s : State) (b sc : Nat) (p : Pattern) : State :=
  let v := max (sc + p.tackLat) (s.countOf b)
  s.modBolt b fun x => { x with slips := x.slips ++ [v] }

/-- A slip request at this module: the root takes and broadcasts it, another module sends it on toward the root. -/
def State.slipUp (s : State) (b sc : Nat) : State :=
  match (s.bolt b).pat with
  | none => s
  | some p =>
    if p.isRoot then
      (s.addSlip b sc p).sendSlip b p.kids sc
    else s.sendSlipRequest b p sc

end Sys2Proof.Machine
end

