-- ==== Sys2Proof/Machine/FabricOps.lean ====
section
/-! DEFINITION. The operations of fabric ports (chapter 10): slots, routes, placement, flits on the link, replay, slips by lateness, failing
lanes. -/
namespace Sys2Proof.Machine

/-! ### Routes (R268, R278, Table 10.1) -/

/-- A 5-bit hop count. -/
def hop5 (v : Nat) : Int := sext 5 v

/-- The port of the next hop in dimension order, none where no hops remain. -/
def nextPort (hx hy hz : Int) (plane : Bool) : Option Nat :=
  if hx ≠ 0 then some (dirPort 0 (0 < hx) plane)
  else if hy ≠ 0 then some (dirPort 1 (0 < hy) plane)
  else if hz ≠ 0 then some (dirPort 2 (0 < hz) plane)
  else none

def towardZero (h : Int) : Int := if 0 < h then h - 1 else if h < 0 then h + 1 else 0
/-- A flit with the next hop taken from its remaining hops (DEDUCED, log entry 24). -/
def hopFlit (f : Flit) : Flit :=
  if f.hx ≠ 0 then { f with hx := towardZero f.hx }
  else if f.hy ≠ 0 then { f with hy := towardZero f.hy }
  else { f with hz := towardZero f.hz }

/-! ### The bytes of a flit (R274, Table 10.5) -/

/-- HOPS, PLANE, FTILE, CHAN, LAST, SRC and STILE of a data flit, as bytes 5 to 11 hold them. -/
def flitRoute (f : Flit) : Nat :=
  (f.hx % 32).toNat + (f.hy % 32).toNat * 2 ^ 5 + (f.hz % 32).toNat * 2 ^ 10 + b2n f.plane * 2 ^ 15 + f.ftile % 2048 * 2 ^ 16 + f.chan % 16 * 2 ^ 27
    + b2n f.last * 2 ^ 31 + f.srcX % 16 * 2 ^ 32 + f.srcY % 16 * 2 ^ 36 + f.srcZ % 16 * 2 ^ 40 + f.stile % 2048 * 2 ^ 44

/-- Bytes 0 to 251 of a flit. -/
def flitBody (f : Flit) : List (BitVec 8) :=
  leBytes 1 (f.type % 16) ++ leBytes 2 (f.seq % 8192) ++ leBytes 2 (f.ack % 8192 + b2n f.nak * 2 ^ 13)
    ++ leBytes 7 (if f.type = 1 then flitRoute f else 0) ++ (f.payload.take 240 ++ List.replicate (240 - f.payload.length) 0)

/-- The 256 bytes of a flit: its CRC-32 follows, the lowest byte first (log entry 82). -/
def flitBytes (f : Flit) : List (BitVec 8) := flitBody f ++ leBytes 4 (crc32 (flitBody f))

/-- The CRC-32 of 256 received bytes is right. -/
def flitOk (raw : List (BitVec 8)) : Bool := raw.length == 256 && leNat (raw.drop 252) == crc32 (raw.take 252)

/-- The flit that received bytes hold. -/
def readFlit (raw : List (BitVec 8)) : Flit :=
  let h := leNat ((raw.drop 1).take 4)
  let r := leNat ((raw.drop 5).take 7)
  { type := (raw.headD 0).toNat % 16, seq := bits h 0 13, ack := bits h 16 13, nak := bit h 29, hx := hop5 (bits r 0 5), hy := hop5 (bits r 5 5),
    hz := hop5 (bits r 10 5), plane := bit r 15, ftile := bits r 16 11, chan := bits r 27 4, last := bit r 31, srcX := bits r 32 4,
    srcY := bits r 36 4, srcZ := bits r 40 4, stile := bits r 44 11, payload := (raw.drop 12).take 240 }

/-- A flit in equal parts on the active lanes, in ascending order of lane (R270). -/
def State.laneParts (s : State) (f : Nat) (l : List (BitVec 8)) : List (Nat × List (BitVec 8)) :=
  let lanes := (List.range 4).filter fun i => bit (s.r (.fab f) F.FAB_PORT_STATUS_LANES) i
  let n := 256 / max 1 lanes.length
  lanes.zipIdx.map fun (i, k) => (i, (l.drop (n * k)).take n)

/-! ### Placement (R277, R279) -/

/-- Two flits of one SEND, as far as their headers tell. -/
def sameSend (a b : Flit) : Bool :=
  a.stile == b.stile && a.chan == b.chan && a.ftile == b.ftile && a.srcX == b.srcX && a.srcY == b.srcY && a.srcZ == b.srcZ

/-- A flit takes the first free slot from its first choice on, a forwarded one behind the flits of its SEND; one that does not take its first
choice is counted, once (R279). -/
def State.place (s : State) (f : Nat) (x : Placed) : State :=
  let p := s.fport f
  let lo := if x.own then x.first
    else (p.slots.filter fun e => !e.2.own && sameSend e.2.flit x.flit).foldl (fun m e => max m (e.1 + 1)) x.first
  let q := freeSlot p.slots lo
  let miss := q != x.first
  let s := s.setFport f { p with slots := p.slots.set q { x with moved := x.moved || miss } }
  if miss && !x.moved then s.inc (.fab f) F.FAB_COLLIDE_COUNT_COUNT else s

/-- Forwarded flits leave their slots and are placed again, in the order of those slots. -/
def State.replace (s : State) (f : Nat) (out : Nat → Placed → Bool) (place : State → State) : State :=
  let p := s.fport f
  let gone := p.slots.filter fun e => out e.1 e.2
  let s := place (s.setFport f { p with slots := p.slots.filter fun e => !out e.1 e.2 })
  gone.foldl (fun s e => s.place f e.2) s

/-- A flit that originates here takes its slot before forwarded flits, which move with the later ones of their SEND; where an originating flit
holds it, the next free one (R279). -/
def State.placeOwn (s : State) (f q : Nat) (fl : Flit) : State :=
  let x : Placed := { flit := fl, own := true, first := q, at_ := s.tape, inPort := 12, moved := false }
  match (s.fport f).slots.find q with
  | some old =>
    if old.own then s.place f x
    else s.replace f (fun k e => !e.own && decide (q ≤ k) && sameSend e.flit old.flit) fun s => s.place f x
  | none => s.place f x

/-- A forwarded flit takes the first free scheduled slot from its due count on, or after its arrival, behind the flits of its SEND; of those that
arrive in one tape cycle, those of a lower inbound port come first (R279; log entry 24). -/
def State.placeForward (s : State) (f b due inPort : Nat) (fl : Flit) : State :=
  let q := max (slotFrom (s.fabWidth f) (max due (s.countOf b))) (s.fport f).nextSlot
  let x : Placed := { flit := fl, own := false, first := q, at_ := s.tape, inPort := inPort, moved := false }
  s.replace f (fun _ e => !e.own && e.at_ == s.tape && decide (inPort < e.inPort)) fun s => s.place f x

/-! ### Transmission (R274, R276, R283, R284, R290) -/

/-- A port asks for a slip (R284); the third while one flit stays unacknowledged takes it down (R285). -/
def State.askSlip (s : State) (f : Nat) : State :=
  let p := s.fport f
  let marks := p.slipMarks.filter fun n => p.replay.any fun r => r.1.seq == n
  let s := (s.setFport f { p with slipAsked := true, slipMarks := marks ++ [p.txSeq] }).inc (.fab f) F.FAB_SLIP_REQ_COUNT_COUNT
  let s := match s.portBolt f with
    | some b => s.slipUp b (s.countOf b)
    | none => s
  if 2 ≤ marks.length then s.portDown f else s

/-- A flit was sent at a tape count, its slot having started at another: counted when late; more than 600 tape cycles ask for a slip, once for
each time that the port's lateness passes them (R283, R284). -/
def State.lateness (s : State) (f slot at_ : Nat) : State :=
  let s := if slot < at_ then s.inc (.fab f) F.FAB_LATE_COUNT_COUNT else s
  if at_ ≤ slot + 600 then s.modFport f fun p => { p with slipAsked := false }
  else if (s.fport f).slipAsked then s else s.askSlip f

/-- The first flit boundary at or after a tape count, in hundredths (log entry 25). -/
def boundary (ft tape : Nat) : Nat := ceilDiv (tape * 100) ft * ft
/-- The first flit boundary at or after a tape count at which the link is free. -/
def FabPort.free (p : FabPort) (ft tape : Nat) : Nat := max (ceilDiv p.busyUntil ft * ft) (boundary ft tape)

/-- A timing flit takes the stamp of its sending (R294; log entry 80): t1 of a request, t3 of a reply. -/
def stampTime (fl : Flit) (at_ : Nat) : Flit :=
  if fl.type ≠ 2 then fl
  else match fl.payload.headD 0 with
    | 6 => { fl with payload := fl.payload.take 2 ++ leBytes 8 at_ ++ fl.payload.drop 10 }
    | 7 => { fl with payload := fl.payload.take 10 ++ leBytes 8 at_ ++ fl.payload.drop 18 }
    | _ => fl

/-- A flit goes onto the link at a boundary with the acknowledgement of the reverse direction, and NAK where one is due. -/
def State.onLink (s : State) (f : Nat) (fl : Flit) (at_ : Nat) : State :=
  let p := s.fport f
  let fl := { fl with ack := p.rxSeq, nak := p.nakDue }
  let s := s.setFport f { p with busyUntil := at_ + flitTime (s.fabWidth f), ackSent := p.rxSeq, nakDue := false }
  s.send (.flit f (at_ / 100) (s.laneParts f (flitBytes fl)))

/-- A new flit: the next sequence number, and a place in the replay buffer. -/
def State.emit (s : State) (f : Nat) (fl : Flit) (slot at_ : Nat) : State :=
  let p := s.fport f
  let fl := { stampTime fl (at_ / 100) with seq := (p.txSeq + 1) % 8192 }
  (s.setFport f { p with txSeq := fl.seq, replay := p.replay ++ [(fl, slot, at_ / 100)] }).onLink f fl at_

/-- An idle flit: it repeats the last sequence number (Table 10.5). -/
def State.emitIdle (s : State) (f at_ : Nat) : State := s.onLink f { plainFlit 0 [] with seq := (s.fport f).txSeq } at_

/-- When the first flit of the backlog can go: not while a global stop lasts (R463). -/
def State.dataAt (s : State) (f : Nat) : Option Nat :=
  let p := s.fport f
  match p.backlog with
  | [] => none
  | (_, slot, came) :: _ => if 4096 ≤ p.replay.length ∨ s.trace.stopped then none else some (p.free (flitTime (s.fabWidth f)) (max slot came))

/-- When a flit of reserved traffic can go, and the count of its slot: at the next reserved slot of the bolt that claims the port while its count
advances, at any flit boundary otherwise (R276, R290). -/
def State.waitAt (s : State) (f : Nat) (x : Waiting) : Option (Nat × Nat) :=
  let p := s.fport f
  let ft := flitTime (s.fabWidth f)
  match s.portBolt f with
  | some b =>
    if s.canReach b (s.countOf b) then
      let c := reservedFrom (s.fabWidth f) (max x.count p.resvNext)
      if c ≤ s.countOf b then some (p.free ft (max x.since ((s.bolt b).tapeOf c)), c + 1) else none
    else if s.patRuns b then some (p.free ft s.tape, p.resvNext)
    else some (p.free ft x.since, 0)
  | none => some (p.free ft x.since, 0)

/-- The flit of reserved traffic that goes next: the earliest, and of those the first in precedence; none while 4,096 flits are unacknowledged (R283). -/
def State.nextWait (s : State) (f : Nat) : Option (Nat × Nat × Waiting) :=
  if 4096 ≤ (s.fport f).replay.length then none
  else (s.fport f).resv.foldl (fun m x =>
    match s.waitAt f x, m with
    | none, m => m
    | some (t, c), none => some (t, c, x)
    | some (t, c), some y => if t < y.1 ∨ (t = y.1 ∧ x.prec < y.2.2.prec) then some (t, c, x) else some y) none

/-- The port has something to tell that no other flit carries: an acknowledgement not sent yet, or a NAK (log entry 83). -/
def FabPort.news (p : FabPort) : Bool := p.nakDue || p.ackSent != p.rxSeq

/-- The link goes on to the present tape: reserved traffic in its slots, the backlog in order as the replay buffer has room, and an idle flit for
what is to be told besides. The 2 boundaries a tape cycle may hold at x4 are not passed. -/
def State.pump (s : State) (f : Nat) : Nat → State
  | 0 => s
  | n + 1 =>
    let p := s.fport f
    let ft := flitTime (s.fabWidth f)
    let last := s.tape * 100 + ft
    if !s.portUp f then s
    else
      let idle (s : State) : State := if p.news ∧ p.free ft s.tape ≤ last then s.emitIdle f (p.free ft s.tape) else s
      let wait (s : State) (t c : Nat) (x : Waiting) : State :=
        if last < t then idle s
        else ((s.setFport f { p with resv := p.resv.erase x, resvNext := c }).emit f x.flit (t / 100) t).pump f n
      let data (s : State) (t : Nat) : State :=
        match p.backlog with
        | [] => s
        | (fl, slot, _) :: rest =>
          if last < t then idle s
          else (((s.setFport f { p with backlog := rest }).emit f fl slot t).lateness f slot (t / 100)).pump f n
      match s.nextWait f, s.dataAt f with
      | none, none => idle s
      | some (t, c, x), none => wait s t c x
      | none, some t => data s t
      | some (t, c, x), some u => if t ≤ u then wait s t c x else data s u

def State.pumpAll (s : State) (f : Nat) : State := s.pump f ((s.fport f).backlog.length + (s.fport f).resv.length + 1)

/-- A flit that is still to go, or to go again, will go more than 600 tape cycles late. -/
def State.tooLate (s : State) (f : Nat) : Bool :=
  let p := s.fport f
  (p.backlog.any fun x => decide (x.2.1 + 600 < max s.tape (p.busyUntil / 100)))
    || p.replay.any fun x => decide (x.1.type = 1 ∧ s.tape < x.2.2 ∧ x.2.1 + 600 < x.2.2)

/-- The flit of a slot joins the backlog, with the tape at which it came to the port, and the link goes on (R276); a backlog of 4,096 takes the port
down (R285). -/
def State.slotGo (s : State) (f : Nat) (fl : Flit) (slot came : Nat) : State :=
  let s := (s.modFport f fun p => { p with backlog := p.backlog ++ [(fl, slot, came)] }).pumpAll f
  if 4096 ≤ (s.fport f).backlog.length then s.portDown f
  else if s.tooLate f && !(s.fport f).slipAsked then s.askSlip f else s

/-- A flit goes again at a boundary; a data flit's lateness counts (R283, R284). -/
def State.again (s : State) (f : Nat) (r : Flit × Nat × Nat) : State :=
  let at_ := (s.fport f).free (flitTime (s.fabWidth f)) s.tape
  let s := s.modFport f fun p => { p with replay := p.replay.map fun x => if x.1.seq = r.1.seq then (x.1, x.2.1, at_ / 100) else x }
  let s := s.onLink f r.1 at_
  if r.1.type = 1 ∧ s.portUp f then s.lateness f r.2.1 (at_ / 100) else s

/-- Replay from the oldest unacknowledged flit, in sequence and ahead of new flits, which the far end would discard (R283). -/
def State.replayAll (s : State) (f : Nat) : State :=
  let p := s.fport f
  if p.replay = [] then s
  else p.replay.foldl (fun s r => if s.portUp f then s.again f r else s) (s.inc (.fab f) F.FAB_RETRY_COUNT_COUNT)

/-- An acknowledgement frees the flits up to the one it names; where the replay buffer was full, new flits go from now on. -/
def State.ackTo (s : State) (f ack : Nat) : State :=
  let now := s.tape * 100
  s.modFport f fun p =>
    if p.replay.any fun r => r.1.seq == ack then
      let rest := (p.replay.dropWhile fun r => r.1.seq != ack).drop 1
      { p with replay := rest, slipMarks := p.slipMarks.filter fun n => rest.any fun r => r.1.seq == n,
               busyUntil := if 4096 ≤ p.replay.length then max p.busyUntil now else p.busyUntil }
    else p

/-- A flit was discarded or a sequence is missing: the next header carries NAK (R283). -/
def State.sendNak (s : State) (f : Nat) : State := s.modFport f fun p => { p with nakOut := true, nakDue := true }

/-! ### Failing lanes (R286, R287) -/

/-- Lanes are declared failing: FAILING is set, the far end is told by a frame of one hop where this end found it, a link record is logged, and an
unclaimed port narrows at once. A port with every lane lost goes down (R285). -/
def State.lanesFail (s : State) (f : Nat) (mask : BitVec 4) (tell : Bool) : State :=
  let p := s.fport f
  let new := mask &&& ~~~p.failing
  if new = 0 ∨ !s.portUp f then s
  else
    let s := s.setFport f { p with failing := p.failing ||| new }
    let s := (List.range 4).foldl (fun s l => if bit new.toNat l then (s.wb (.fab f) (F.FAB_LANE_FAILING l) true).logLink f l (s.portBolt f) else s) s
    let s := s.wb (.fab f) F.FAB_PORT_STATUS_FAILING true
    let s := if tell then s.frameTo f (frameFlits 0x01 (xyz12 (s.neighbour f)) (xyz12 s.coord) 1 (leBytes 1 (p.failing ||| new).toNat)) else s
    if p.both &&& ~~~(p.failing ||| new) = 0 then s.portDown f
    else if s.portFree f then s.narrow f (p.failing ||| new) else s

/-- Uncorrectable codewords of a lane within a millisecond (R286). -/
def State.laneUnc (s : State) (f l n : Nat) : State :=
  if n = 0 then s
  else
    let s := s.inc (.fab f) (F.FAB_LANE_UNCORR l) n
    let p := s.fport f
    let l0 := (List.replicate n s.tape ++ p.laneUnc.get [] l).take 255
    let s := s.setFport f { p with laneUnc := p.laneUnc.set l l0 }
    if s.r (.fab f) F.FAB_LANE_FAIL_CFG_UNCORR_THR ≤ (l0.filter fun t => decide (s.tape < t + 1000000)).length then s.lanesFail f (BitVec.ofNat 4 (2 ^ l)) true else s

end Sys2Proof.Machine
end

