-- ==== Sys2Proof/Machine/NbuClaims.lean ====
section
/-! DEFINITION. What a near-bank operation may write and read (chapter 7: R197 to R212): descriptors and their checks, the registers of the
swatch table and the prefix tree, host-tagged regions, the claims of operations and the requests that wait for them. -/
namespace Sys2Proof.Machine

/-! ### Descriptor (R197, Table 7.1) -/

def nOp (d : BitVec 512) : Nat := dget d 0 0 8
def nRetag (d : BitVec 512) : Bool := dbit d 0 8
def nIrq (d : BitVec 512) : Bool := dbit d 0 9
def nSub (d : BitVec 512) : Nat := dget d 0 16 8
def nSfmt (d : BitVec 512) : Nat := dget d 0 24 4
def nDfmt (d : BitVec 512) : Nat := dget d 0 28 4
def nCookie (d : BitVec 512) : Nat := dget d 0 32 32
def nSrc (d : BitVec 512) : Nat := dget d 8 0 37
def nDst (d : BitVec 512) : Nat := dget d 16 0 37
def nLen (d : BitVec 512) : Nat := dget d 24 0 40
def nAux (d : BitVec 512) : Nat := dget d 32 0 37
def nArg0 (d : BitVec 512) : Nat := dget d 40 0 32
def nArg1 (d : BitVec 512) : Nat := dget d 40 32 32
def nArg3 (d : BitVec 512) : Nat := dget d 56 0 64

/-- COUNT, HDIM as a dimension, BOLT of an APPEND; elements of a GATHER or SCATTER and their size. -/
def apCount (d : BitVec 512) : Nat := bits (nArg0 d) 0 7
def apDim (d : BitVec 512) : Nat := 64 * 2 ^ bits (nArg0 d) 8 2
def apBolt (d : BitVec 512) : Nat := bits (nArg0 d) 12 4
def gsElem (d : BitVec 512) : Nat := 64 * 2 ^ bits (nArg1 d) 0 4
def keyed (d : BitVec 512) : Bool := bit (nSub d) 7

/-- The row of Tables 7.2 and 7.4 that a descriptor asks for; none where the operation or sub-operation is reserved. -/
def nRow (d : BitVec 512) : Option Nat :=
  let op := nOp d
  let sub := nSub d
  if 1 ≤ op ∧ op ≤ 7 then some (16 * op)
  else if op = 8 then (if sub % 128 ≤ 1 ∨ sub ≤ 5 then some (0x80 + sub % 128) else none)
  else if op = 9 then (if sub ≤ 2 then some (0x90 + sub) else none)
  else if op = 0x0A then (if sub ≤ 2 then some (0xA0 + sub) else none)
  else none

/-- A field that Table 7.2 does not list for the operation is not zero, or a reserved bit or encoding is used (status 0x01). -/
def nReserved (d : BitVec 512) : Bool :=
  let op := nOp d
  let sub := nSub d
  let uses (l : List Nat) : Bool := l.contains op
  let hashKey := op == 8 && sub % 128 ≤ 1
  !(1 ≤ op && op ≤ 0x0A) || !dzero d 0 10 6 || !dzero d 8 37 27 || !dzero d 16 37 27 || !dzero d 24 40 24 || !dzero d 32 37 27 || !dzero d 48 0 64
    || (!uses [8, 9, 0x0A] && sub != 0)
    || (!uses [1, 4, 5] && nSfmt d != 0) || (!uses [1, 4] && nDfmt d != 0)
    || (!(uses [1, 2, 4, 5, 6, 7, 9] || (hashKey && keyed d)) && nSrc d != 0)
    || (!(uses [2, 3, 4, 6, 7] || (op == 9 && sub == 2)) && nDst d != 0)
    || (!(uses [2, 3, 4, 5, 9] || (hashKey && keyed d)) && nLen d != 0)
    || (!uses [1, 6, 7] && nAux d != 0)
    || (!(uses [1, 4, 6, 7] || (hashKey && keyed d)) && nArg0 d != 0)
    || (!(uses [1, 6, 7, 0x0A] || (op == 8 && !hashKey)) && nArg1 d != 0)
    || (!(uses [3, 9] || (hashKey && !keyed d)) && nArg3 d != 0)
    || (op == 1 && (apCount d == 0 || 64 < apCount d || bit (nArg0 d) 7 || bits (nArg0 d) 8 2 == 3 || bits (nArg0 d) 10 2 != 0
        || 12 ≤ apBolt d || bits (nArg0 d) 16 16 != 0))
    || ((op == 6 || op == 7) && (13 < bits (nArg1 d) 0 4 || nArg1 d / 16 != 0))
    || (hashKey && keyed d && 12 ≤ nArg0 d)
    || (op == 8 && !hashKey && 4194304 ≤ nArg1 d)
    || (op == 0x0A && sub == 0 && (12 ≤ bits (nArg1 d) 0 4 || 12 ≤ bits (nArg1 d) 4 4 || nArg1 d / 256 != 0))

/-- Formats or sub-operations not permitted (status 0x02). -/
def nBadFormat (d : BitVec 512) : Bool :=
  let op := nOp d
  (nRow d).isNone
    || (op == 1 && (!([0, 1].contains (nSfmt d)) || !([3, 4, 7].contains (nDfmt d))))
    || (op == 4 && (!([0, 1, 3, 4].contains (nSfmt d)) || nSfmt d != nDfmt d))
    || (op == 5 && !([0, 1, 3, 4].contains (nSfmt d)))

/-- Bytes of the key (or value) rows at SRC of an APPEND. -/
def apRowBytes (d : BitVec 512) : Nat := rowBytes (nSfmt d) (apDim d)

/-- The runs that an operation reads, the index list apart. -/
def nReads (d : BitVec 512) : List (Nat × Nat) :=
  match nOp d with
  | 1 => [(nSrc d, 2 * apCount d * apRowBytes d)]
  | 2 => [(nSrc d, nLen d)]
  | 4 => [(nSrc d, nLen d)]
  | 5 => [(nSrc d, nLen d)]
  | 6 => [(nAux d, 4 * nArg0 d)]
  | 7 => [(nSrc d, nArg0 d * gsElem d), (nAux d, 4 * nArg0 d)]
  | 8 => if keyed d then [(nSrc d, nLen d)] else []
  | 9 => [(nSrc d, nLen d)]
  | _ => []

/-- The contiguous run that an operation writes. -/
def nWrites (d : BitVec 512) : List (Nat × Nat) :=
  match nOp d with
  | 2 => [(nDst d, nLen d)]
  | 3 => [(nDst d, nLen d)]
  | 4 => [(nDst d, nLen d)]
  | 6 => [(nDst d, nArg0 d * gsElem d)]
  | 9 => if nSub d = 2 then [(nDst d, nLen d / 512 * 8)] else []
  | _ => []

/-- Misaligned offsets and lengths, or ranges beyond the stack (status 0x03). -/
def nMisaligned (d : BitVec 512) : Bool :=
  let op := nOp d
  let a64 (v : Nat) : Bool := v % 64 != 0
  (if op = 9 then nSub d == 2 && (nSrc d % 512 != 0 || nLen d % 512 != 0 || nDst d % 8 != 0)
   else if op = 8 then a64 (nSrc d) || nLen d % 4 != 0
   else a64 (nSrc d) || a64 (nDst d) || a64 (nAux d) || a64 (nLen d))
    || (nReads d ++ nWrites d).any fun r => edgeBytes < r.1 + r.2

/-- Operations whose ranges must not overlap do (status 0x04). -/
def nOverlap (d : BitVec 512) : Bool := nOp d == 2 && meet (nSrc d) (nLen d) (nDst d) (nLen d)

/-! ### The swatch table and the prefix tree (R141 to R143, R149, R150, R155) -/

/-- The swatch size (SWT_CFG.SIZE). -/
def State.swSize (s : State) (k : Blk) : Nat := 0x10000 * 2 ^ s.r k F.SWT_CFG_SIZE
/-- Positions per swatch (R141). -/
def tpsOf (size fmt dim : Nat) : Nat := size / (2 * kvRow fmt dim)
/-- The segment of a swatch number, if one of the bolt's holds it (R142). -/
def State.segOf (s : State) (k : Blk) (w : Nat) : Option Nat :=
  (List.range 12).find? fun n => decide (s.r k (F.SWT_SEG_FIRST_FIRST n) ≤ w ∧ w < s.r k (F.SWT_SEG_FIRST_FIRST n) + s.r k (F.SWT_SEG_COUNT_COUNT n))
/-- Data and shadow DPAs of swatch w of segment n (R142). -/
def State.swData (s : State) (k : Blk) (n w : Nat) : Nat :=
  n * edgeBytes + s.r k (F.SWT_SEG_BASE_BASE n) * 0x10000 + (w - s.r k (F.SWT_SEG_FIRST_FIRST n)) * s.swSize k
def State.swShadow (s : State) (k : Blk) (n w : Nat) : Nat :=
  n * edgeBytes + s.r k (F.SWT_SEG_BASE_BASE n) * 0x10000 + s.r k (F.SWT_SEG_COUNT_COUNT n) * s.swSize k
    + (w - s.r k (F.SWT_SEG_FIRST_FIRST n)) * (s.swSize k / 16)
/-- SWT_TABLE_BASE, a register of STK instance 0 (R155). -/
def State.tableBase (s : State) : Nat := s.r (.stk 0) F.SWT_TABLE_BASE_LO_ADDR * 2 ^ 26 + s.r (.stk 0) F.SWT_TABLE_BASE_HI_ADDR * 2 ^ 32

/-- A compute stack of a bolt, whose swatch registers describe it (R155). -/
def State.swtStk (s : State) (b : Nat) : Option Blk :=
  ((List.range 12).find? fun k => bit (s.r (.bolt b) F.BOLT_STACKS_STACKS) k).map Blk.stk

/-- Unit 0 of the stack that holds the table. -/
def State.tableUnit (s : State) : Nat := s.tableBase / edgeBytes * 32

/-- An entry with STATE, REFS and FILL at new values, the rest kept. -/
def swSet (v st refs fill : Nat) : Nat := v / 2 ^ 32 * 2 ^ 32 + st + refs * 2 ^ 2 + fill * 2 ^ 18
def swState (v : Nat) : Nat := bits v 0 2
def swRefs (v : Nat) : Nat := bits v 2 16
def swFill (v : Nat) : Nat := bits v 18 14

def State.treeBase (s : State) (k : Blk) : Nat := s.r k F.SWT_PTREE_BASE_LO_ADDR * 2 ^ 25 + s.r k F.SWT_PTREE_BASE_HI_ADDR * 2 ^ 32

/-- A bolt whose prefix tree lies in an edge stack. -/
def State.treeIn (s : State) (e b : Nat) : Bool :=
  (s.swtStk b).any fun k => s.b k F.SWT_CFG_EN && s.b k F.SWT_CFG_MODE && s.treeBase k / edgeBytes == e

/-- The bolt whose tree a HASH operation works on: the one it names, that of the ring, or the first with a tree in the stack (DESIGN CHOICE, log
entry 37). -/
def State.treeBolt (s : State) (k r : Nat) (d : BitVec 512) : Option Nat :=
  let b := if nSub d % 128 ≤ 1 ∧ keyed d then some (nArg0 d)
    else if s.r (.nbu k) (F.NBU_RING_CFG_OWNER r) = 0 then some (s.r (.nbu k) (F.NBU_RING_CFG_BOLT r))
    else (List.range 12).find? (s.treeIn (k / 32))
  b.filter (s.treeIn (k / 32))

/-- FNV-1a (R149). -/
def fnv (l : List (BitVec 8)) : Nat := l.foldl (fun h x => Nat.xor h x.toNat * 0x100000001B3 % 2 ^ 64) 0xCBF29CE484222325

/-! ### Host tags (R206 to R208) -/

/-- The number of a unit: stack * 32 + unit. -/
def nbuNo (e u : Nat) : Nat := e * 32 + u

/-- The enabled host-tagged regions of a stack (R206). -/
def State.tagRegions (s : State) (e : Nat) : List (Nat × ERange) :=
  ((List.range 8).filter fun n => s.b (.edge e) (F.EDGE_TAG_LEN_EN n)).map fun n =>
    (n, ⟨e, s.r (.edge e) (F.EDGE_TAG_BASE_BASE n) * 512, s.r (.edge e) (F.EDGE_TAG_LEN_LEN n) * 512⟩)

/-- The blocks of a tagged region that runs meet, each once. -/
def regionBlocks (r : ERange) (runs : List (Nat × Nat)) : List Nat :=
  (runs.flatMap fun x =>
    let lo := max x.1 r.off - r.off
    let hi := min (x.1 + x.2) (r.off + r.len) - r.off
    if meet x.1 x.2 r.off r.len then (List.range ((hi - 1) / 512 + 1 - lo / 512)).map fun i => lo / 512 + i else []).eraseDups

/-- The same regions, each with the in-stack offset of its tags. -/
def State.tagTable (s : State) (e : Nat) : List (ERange × Nat) :=
  (s.tagRegions e).map fun x => (x.2, s.r (.edge e) (F.EDGE_TAG_TAGS_TAGS x.1) * 64)

/-- The tags of the blocks that runs meet. -/
def tagRuns (tags : List (ERange × Nat)) (runs : List (Nat × Nat)) : List (Nat × Nat) :=
  tags.flatMap fun x => (regionBlocks x.1 runs).map fun b => (x.2 + 8 * b, 8)

/-- The tag line of the block that holds an offset, if a region does. -/
def tagLine (tags : List (ERange × Nat)) (off : Nat) : Option Nat :=
  (tags.find? fun x => decide (x.1.off ≤ off ∧ off < x.1.off + x.1.len)).map fun x => (x.2 + (off - x.1.off) / 512 * 8) / 64

/-- Runs meet a host-tagged region. -/
def tagMet (tags : List (ERange × Nat)) (runs : List (Nat × Nat)) : Bool :=
  runs.any fun w => tags.any fun t => meet w.1 w.2 t.1.off t.1.len

/-! ### Claims (R200, R202, R207) -/

/-- Where a position lies: list entry number, position in its swatch, positions per swatch. -/
def apPlace (tps p : Nat) : Nat × Nat := (p / tps, p % tps)

/-- Bytes of a row, of its scales. -/
def apRb (d : BitVec 512) : Nat := rowBytes (nDfmt d) (apDim d)
def apSc (d : BitVec 512) : Nat := apDim d / 32

/-- The runs a group of `m` positions from `q` writes in swatch w (R141). -/
def State.apRuns (s : State) (q' : Blk) (d : BitVec 512) (n w tps q m : Nat) : List (Nat × Nat) :=
  let a := s.swData q' n w % edgeBytes
  let h := s.swShadow q' n w % edgeBytes
  [(a + q * apRb d, m * apRb d), (a + tps * apRb d + q * apRb d, m * apRb d), (h + q * apSc d, m * apSc d), (h + tps * apSc d + q * apSc d, m * apSc d)]

/-- The swatches at the head of segment n's free list, as the table now links them: at most `m` (R148). -/
def State.freeChain (s : State) (q' : Blk) (n : Nat) : Nat → Nat → List Nat
  | 0, _ => []
  | m + 1, w =>
    let l := bits (s.mem.readLE (s.tableBase + 8 * w) 8) 37 23
    if l = w || s.segOf q' l != some n then [w] else w :: s.freeChain q' n m l
def State.freeHeads (s : State) (q' : Blk) (n m : Nat) : List Nat :=
  if s.b q' (F.SWT_SEG_FREE_EMPTY n) then [] else s.freeChain q' n m (s.r q' (F.SWT_SEG_FREE_HEAD n))

/-- The list entries of an append: their number, the first position in the swatch and the positions appended. -/
def apEntries (d : BitVec 512) (tps : Nat) : List (Nat × Nat × Nat) :=
  let p := nArg1 d
  let n := apCount d
  (List.range ((p + n - 1) / tps + 1 - p / tps)).map fun i =>
    let e := p / tps + i
    let q := if i = 0 then p % tps else 0
    (e, q, min (p + n) ((e + 1) * tps) - (e * tps + q))

/-- Positions per swatch of an append; 0 where its bolt has no swatches. -/
def State.apTps (s : State) (d : BitVec 512) : Nat :=
  match s.swtStk (apBolt d) with
  | none => 0
  | some q' => tpsOf (s.swSize q') (nDfmt d) (apDim d)

/-- The list entries that an append reads or writes, as runs. -/
def State.apList (s : State) (d : BitVec 512) : List (Nat × Nat) :=
  if s.apTps d = 0 then [] else (apEntries d (s.apTps d)).map fun x => (nAux d + 4 * x.1, 4)

/-- The swatch that a list entry now names. -/
def State.apNamed (s : State) (k : Nat) (d : BitVec 512) (e : Nat) : Nat := bits (s.mem.readLE (k / 32 * edgeBytes + nAux d + 4 * e) 4) 0 23

/-- The swatch that entry `e` of an append now names, where it lies in the bolt's segment of the stack. -/
def State.apIn (s : State) (k : Nat) (q' : Blk) (d : BitVec 512) (e : Nat) : Option Nat :=
  let w := s.apNamed k d e
  if s.segOf q' w = some (k / 32) then some w else none

/-- A swatch that an append would copy: other lists name it, in reference-count mode (R147). -/
def State.apShared (s : State) (q' : Blk) (w : Nat) : Bool := !s.b q' F.SWT_CFG_MODE && 1 < swRefs (s.mem.readLE (s.tableBase + 8 * w) 8)

/-- The list entries for which an append takes a new swatch, as things stand: those it begins, and one whose swatch it has to copy. -/
def State.apTakes (s : State) (k : Nat) (q' : Blk) (d : BitVec 512) (x : Nat × Nat × Nat) : Bool :=
  x.2.1 == 0 || (s.apIn k q' d x.1).any (s.apShared q')

/-- The runs an append may write: the positions it adds to the swatches it names; and, where it takes swatches, the list entries of those, and
data and shadows of the swatches at the head of the free list (R200). -/
def State.apClaims (s : State) (k : Nat) (d : BitVec 512) : List (Nat × Nat) :=
  let tps := s.apTps d
  match s.swtStk (apBolt d) with
  | none => []
  | some q' =>
    if tps = 0 then []
    else
      let es := apEntries d tps
      let new := es.filter (s.apTakes k q' d)
      (((s.freeHeads q' (k / 32) new.length).zip new).flatMap fun (w, x) => (nAux d + 4 * x.1, 4) :: s.apRuns q' d (k / 32) w tps 0 (x.2.1 + x.2.2))
        ++ ((es.filter fun x => !s.apTakes k q' d x).flatMap fun x =>
          (s.apIn k q' d x.1).elim [] fun w => s.apRuns q' d (k / 32) w tps x.2.1 x.2.2)

/-- The runs that an append reads beside its source rows: the list entry of a swatch that it goes on with, and the positions of a swatch that it
copies (R147). -/
def State.apReads (s : State) (k : Nat) (d : BitVec 512) : List (Nat × Nat) :=
  let tps := s.apTps d
  match s.swtStk (apBolt d) with
  | none => []
  | some q' =>
    if tps = 0 || nArg1 d % tps = 0 then []
    else
      let e := nArg1 d / tps
      (nAux d + 4 * e, 4) :: ((s.apIn k q' d e).filter (s.apShared q')).elim [] fun w => s.apRuns q' d (k / 32) w tps 0 (nArg1 d % tps)

/-- The DPAs of the table entries that an append reads: those of the swatches it goes on with and of the ones it takes (R147, R210). -/
def State.apTable (s : State) (k : Nat) (d : BitVec 512) : List Nat :=
  let tps := s.apTps d
  match s.swtStk (apBolt d) with
  | none => []
  | some q' =>
    if tps = 0 then []
    else
      let es := apEntries d tps
      (((es.filter fun x => x.2.1 != 0).filterMap fun x => s.apIn k q' d x.1) ++ s.freeHeads q' (k / 32) (es.filter (s.apTakes k q' d)).length).map
        fun w => s.tableBase + 8 * w

/-- The indices of a GATHER or SCATTER as they stand. -/
def State.gsIdx (s : State) (k : Nat) (d : BitVec 512) : List Nat :=
  (List.range (nArg0 d)).map fun i => s.mem.readLE (k / 32 * edgeBytes + nAux d + 4 * i) 4

/-- The key of PROBE and INSERT as its bytes stand (R149). -/
def State.hashKey (s : State) (k b : Nat) (d : BitVec 512) : Nat :=
  if keyed d then
    let salt := leBytes 8 ((s.swtStk b).elim 0 fun q => s.r2 q F.SWT_SALT_LO_SALT F.SWT_SALT_HI_SALT)
    fnv (salt ++ s.mem.readN (k / 32 * edgeBytes + nSrc d) (nLen d))
  else nArg3 d

/-- The line that a HASH or TABLE operation may write: a bucket, or the line of a table entry. -/
def State.lineWrites (s : State) (k r : Nat) (d : BitVec 512) : List (Nat × Nat) :=
  let at_ (a : Nat) : List (Nat × Nat) := [(a % edgeBytes / 64 * 64, 64)]
  if nOp d = 8 then
    match s.treeBolt k r d with
    | none => []
    | some b =>
      let base := (s.swtStk b).elim 0 fun q => s.treeBase q
      match nSub d % 128 with
      | 0 => []
      | 1 => at_ (base + 64 * (s.hashKey k b d % 2 ^ 19))
      | _ => at_ (base + 8 * nArg1 d)
  else if k ≠ s.tableUnit then []
  else if nSub d = 0 then
    match s.swtStk (bits (nArg1 d) 4 4) with
    | none => []
    | some q' => (s.freeHeads q' (bits (nArg1 d) 0 4) 1).flatMap fun w => at_ (s.tableBase + 8 * w)
  else at_ (s.tableBase + 8 * nArg1 d)

/-- The runs an operation of ring r of unit k may write, tags included (R200). -/
def State.nbuClaims (s : State) (k r : Nat) (d : BitVec 512) : List (Nat × Nat) :=
  let w := match nOp d with
    | 1 => s.apClaims k d
    | 7 => (s.gsIdx k d).map fun i => (nDst d + i * gsElem d, gsElem d)
    | 8 => s.lineWrites k r d
    | 0x0A => s.lineWrites k r d
    | _ => nWrites d
  if nRetag d then w ++ tagRuns (s.tagTable (k / 32)) w else w

/-- The runs an operation reads: its operands, what an append reads, and with RETAG the whole blocks whose tags it makes. -/
def State.nbuReads (s : State) (k r : Nat) (d : BitVec 512) : List (Nat × Nat) :=
  nReads d ++ (if nOp d = 6 then (s.gsIdx k d).map fun i => (nSrc d + i * gsElem d, gsElem d) else [])
    ++ (if nOp d = 1 then s.apReads k d else [])
    ++ (if nRetag d then (s.tagRegions (k / 32)).flatMap fun x =>
          (regionBlocks x.2 (s.nbuClaims k r d)).map fun b => (x.2.off + 512 * b, 512) else [])

/-! ### Requests of a bolt's tiles that wait (R203) -/

/-- The operation that stands in a ring with count c, as its slot now reads. -/
def State.slotDesc (s : State) (k r c : Nat) : BitVec 512 :=
  let slots := s.r (.nbu k) (F.NBU_RING_CFG_SLOTS_M1 r) + 1
  BitVec.ofNat 512 (s.mem.readLE (k / 32 * edgeBytes + s.r (.nbu k) (F.NBU_RING_BASE_BASE r) * 64 + 64 * (1 + c % slots)) 64)

/-- How many operations of a ring have not ended that doorbells up to PROD = `prod` asked for. -/
def State.rungLeft (s : State) (k r prod : Nat) : Nat :=
  let cons := s.r (.nbu k) (F.NBU_RING_PTR_CONS r)
  let n := (prod + 2 ^ 16 - cons) % 2 ^ 16
  if n ≤ (s.r (.nbu k) (F.NBU_RING_PTR_PROD r) + 2 ^ 16 - cons) % 2 ^ 16 then n else 0

/-- What those operations may write: the one that runs and those not yet fetched. -/
def State.ringClaims (s : State) (k r prod : Nat) : List (Nat × Nat) :=
  let cons := s.r (.nbu k) (F.NBU_RING_PTR_CONS r)
  let n := s.rungLeft k r prod
  match (s.nbu k).ops.get none r with
  | some o => if n = 0 then [] else o.claims ++ (List.range (n - 1)).flatMap fun i => s.nbuClaims k r (s.slotDesc k r (cons + 1 + i))
  | none => (List.range n).flatMap fun i => s.nbuClaims k r (s.slotDesc k r (cons + i))

/-- The rings of stack `e` that a bolt owns, each with its PROD. -/
def State.bellsOf (s : State) (b : Option Nat) (e : Nat) : List (Nat × Nat × Nat) :=
  b.elim [] fun b => ((s.ringsOn e).filter fun x =>
    s.r (.nbu x.1) (F.NBU_RING_CFG_OWNER x.2) == 0 && s.r (.nbu x.1) (F.NBU_RING_CFG_BOLT x.2) == b).map fun x =>
      (x.1, x.2, s.r (.nbu x.1) (F.NBU_RING_PTR_PROD x.2))

/-- Operations rung up to `bells` may write to the bytes [off, off + n) of their stack. -/
def State.bellClaims (s : State) (bells : List (Nat × Nat × Nat)) (off n : Nat) : Bool :=
  bells.any fun x => (s.ringClaims x.1 x.2.1 x.2.2).any fun r => meet r.1 r.2 (off / 64 * 64) (off + n - off / 64 * 64)

/-- The wait of a request of tile `g` as it stands, or as it begins now: the doorbells before the request are those it waits for (R203). -/
def State.waitOf (s : State) (g : Nat) (uid : Option Nat) (off kind e : Nat) : Wait :=
  ((s.tile g).waited.find? fun w => w.uid == uid && w.off == off && w.kind == kind && w.e == e).getD ⟨uid, off, kind, e, s.bellsOf (s.boltOf (g / 160)) e⟩

/-- The request waits; a scheduled one counts once in EDGE_LATE_COUNT (R203). -/
def State.keepWait (s : State) (g : Nat) (w : Wait) (sched : Bool) : State :=
  if (s.tile g).waited.contains w then s
  else
    let s := s.modTile g fun t => { t with waited := w :: t.waited }
    if sched then s.inc (.edge w.e) F.EDGE_LATE_COUNT_COUNT else s

/-- A request of a tile of the ring's bolt that arrived before the doorbell of the ring's next operation still waits, so that the unit does not
start the operation (R203). -/
def State.barredBy (s : State) (k r : Nat) : Bool :=
  s.r (.nbu k) (F.NBU_RING_CFG_OWNER r) == 0 && s.tiles.any fun p =>
    s.boltOf (p.1 / 160) == some (s.r (.nbu k) (F.NBU_RING_CFG_BOLT r)) && p.2.waited.any fun w =>
      w.e == k / 32 && (w.uid.all fun u => (p.2.flightOf u).any (·.open_)) && w.bells.all fun x => x.1 != k || x.2.1 != r || s.rungLeft k r x.2.2 == 0

/-- A ring lies in its stack: header, slots and records (R191, R192). A ring that does not is not served (DESIGN CHOICE, log entry 78). -/
def State.ringFits (s : State) (k r : Nat) : Bool :=
  let slots := s.r (.nbu k) (F.NBU_RING_CFG_SLOTS_M1 r) + 1
  decide (s.r (.nbu k) (F.NBU_RING_BASE_BASE r) * 64 + 64 * (1 + slots) + 32 * slots ≤ edgeBytes)

end Sys2Proof.Machine
end

