-- ==== Sys2Proof/Machine/Sync.lean ====
section
/-! DEFINITION. The sync unit and retirement (chapter 3: R71, R73, R89, R90; R119): NOP, FENCE, RNGK, reserved opcodes, retirement and the
drained state. -/
namespace Sys2Proof.Machine

/-- The first open flight of an opcode. -/
def Tile.openOp (t : Tile) (op : Nat) : Option Flight := t.flight.find? fun f => f.open_ && f.op == op

/-- A body that is zero from bit `lo` of the descriptor on. -/
def zeroFrom (d : BitVec 512) (lo : Nat) : Bool := d.toNat / 2 ^ lo == 0

/-- A check of reserved body bits alone. -/
def resCheck (bad : BitVec 512 → Bool) (s : State) (d : BitVec 512) : Check × State := (if bad d then .refuse 0x02 else .ok, s)

/-! ### NOP and FENCE (R89) -/

/-- NOP issues; it completes DELAY TCLK cycles later, one when DELAY is 0. -/
def execNop (t : Site) (s : State) : Result :=
  .next (s.issue t.g (isOp 0x00) (resCheck fun d => !zeroFrom d 96) fun s u d =>
    s.fly t.g ⟨u, d, .running, s.tape, s.tape + s.tclkCycles (max 1 (dget d 8 0 32)), 0, 0, 0, 0, []⟩)

/-- The NOP's delay expires. -/
def execNopDelayExpire (t : Site) (s : State) : Result :=
  .next (match (s.tile t.g).openOp 0x00 with
  | none => s
  | some f => if f.phase = .running ∧ s.live then (s.advanceTo f.due).complete t.g f.uid else s)

/-- FENCE issues. -/
def execFence (t : Site) (s : State) : Result :=
  .next (s.issue t.g (isOp 0x0D) (resCheck fun d => !zeroFrom d 69) fun s u d => s.fly t.g ⟨u, d, .running, s.tape, s.tape, 0, 0, 0, 0, []⟩)

/-- The engines of a mask; zero means all. -/
def maskEng (mask : Nat) : List Eng :=
  if mask = 0 then [.array, .vector, .shuttle, .check, .sync]
  else ([(0, .array), (1, .vector), (2, .shuttle), (3, .check), (4, .sync)] : List (Nat × Eng)).filterMap fun (i, e) =>
    if bit mask i then some e else none

/-- Every earlier command that uses an engine in the mask has completed, and the FENCE completes. -/
def execFenceComplete (t : Site) (s : State) : Result :=
  .next (match (s.tile t.g).openOp 0x0D with
  | none => s
  | some f =>
    let waits := (s.tile t.g).flight.any fun x =>
      decide (x.uid < f.uid) && x.phase != .done && (maskEng (dget f.desc 8 0 5)).any fun e => x.uses e
    if !waits ∧ s.live then s.complete t.g f.uid else s)

/-! ### RNGK (R119) -/

/-- WORDS outside 1 to 8, a nonzero seed word at or above WORDS, or another nonzero body bit. -/
def rngkBad (d : BitVec 512) : Bool :=
  let n := dget d 40 0 4
  n == 0 || 8 < n || dget d 8 0 256 / 2 ^ (32 * n) != 0 || !zeroFrom d 324

/-- The seed register takes the words of an RNGK. -/
def State.loadSeed (s : State) (g : Nat) (d : BitVec 512) : State :=
  (List.range 8).foldl (fun s i => s.w (.tile g) (F.RNG_SEED_SEED i) (dget d (8 + 4 * i) 0 32)) s

/-- RNGK loads the seed register, whose old value its flight keeps; it completes in the TCLK cycle after its issue (DESIGN CHOICE, log entry 15). -/
def execRngk (t : Site) (s : State) : Result :=
  .next (s.issue t.g (isOp 0x0B) (resCheck rngkBad) fun s u d =>
    let old := s.seedOf t.g
    let s := s.loadSeed t.g d
    ((s.fly t.g ⟨u, d, .running, s.tape, s.tape, 0, old, 0, 0, []⟩).advanceTo (s.tape + s.tclkCycles 1)).complete t.g u)

/-! ### Reserved opcodes, retirement, the drained state -/

/-- A descriptor with a reserved opcode is refused with code 0x01 (R71). -/
def execReservedOpcode (t : Site) (s : State) : Result :=
  .next (s.issue t.g (fun d => 0x0E ≤ opcodeOf d) (fun s _ => (.refuse 0x01, s)) fun s _ _ => s)

/-- The oldest command in flight, once completed, retires (R73). -/
def execCommandRetire (t : Site) (s : State) : Result := .next (if s.live && s.clocked t.g then s.retire t.g else s)

/-- After a fault, once the commands on the engines have completed, DRAINED is set (R90). -/
def execTileDrained (t : Site) (s : State) : Result :=
  let x := s.tile t.g
  .next (if !s.trace.stopped && x.faulted && !x.flight.any (fun f => f.open_ && !f.uses .sync) then s.setTile t.g { x with drainSet := true } else s)

end Sys2Proof.Machine
end

