-- ==== Sys2Proof/Machine/Shuttle.lean ====
section
/-! DEFINITION. The tile shuttle (chapter 8: R214 to R231): translation, copy, gather, swatch walk, SEND and RECV. -/
namespace Sys2Proof.Machine

/-! ### Translation (R217) -/

/-- A translation: the place of the first byte, or the address detail of Table 8.5. -/
inductive Tr where
  | at_ (a : Nat)
  | bad (detail : Nat)
  deriving DecidableEq, Repr

/-- The DPA of a shuttle address, before R22 and R215 are applied. -/
def State.dpaFor (s : State) (g a n : Nat) (wr : Bool) : Except Nat Nat :=
  if !bit a 47 then .ok a
  else
    let k := Blk.stk (g / 160)
    let w := bits a 41 6
    let off := bits a 0 41
    let t := (s.mtile g).getD 0x7FF
    let len := s.r k (F.TRN_WIN_LEN_LO_LEN w) * 64 + s.r k (F.TRN_WIN_LEN_HI_LEN w) * 2 ^ 32
    let base := s.r k (F.TRN_WIN_BASE_LO_BASE w) * 64 + s.r k (F.TRN_WIN_BASE_HI_BASE w) * 2 ^ 32
    if !s.b k (F.TRN_WIN_LEN_HI_EN w) then .error 2
    else if len < off + n then .error 3
    else if !(if wr then s.b k (F.TRN_WIN_LEN_HI_WR w) else s.b k (F.TRN_WIN_LEN_HI_RD w)) then .error 4
    else match s.r k (F.TRN_WIN_LEN_HI_KIND w) with
      | 0 => .ok (base + off)
      | 1 => .ok (0x100000000000 + t * 0x100000000 + base + off)
      | _ => .ok (0x200000000000 + t * 0x200000 + base + off)

/-- A tile shuttle reaches its own bobbin, its own slice and edge memory (R215). -/
def reaches (g a : Nat) : Bool :=
  match placeOf a with
  | .edge _ _ => true
  | .slice h _ => h == g
  | .bobbin h _ => h == g
  | _ => false

def State.translate (s : State) (g a n : Nat) (wr : Bool) : Tr :=
  match s.dpaFor g a n wr with
  | .error e => .bad e
  | .ok d =>
    match s.runOf d n with
    | none => .bad 1
    | some m => if reaches g m then .at_ m else .bad 5

def Tr.addr? (t : Tr) : Option Nat :=
  match t with
  | .at_ a => some a
  | .bad _ => none

/-- The translated address as a DPA, by which hulls are compared (R224). -/
def State.trDpa (s : State) (t : Tr) : Option Nat := t.addr?.bind s.dpaOf

/-! ### Descriptors (R219) -/

def shutKind (d : BitVec 512) : Nat := dget d 8 0 4
def shutSrc (d : BitVec 512) : Nat := dget d 16 0 48
def shutDst (d : BitVec 512) : Nat := dget d 24 0 48

/-- A copy (Tables 8.1 and 8.2). -/
structure CopyD where
  src  : Nat
  dst  : Nat
  len0 : Nat
  c1   : Nat
  c2   : Nat
  ss1  : Nat
  ds1  : Nat
  ss2  : Nat
  ds2  : Nat

def copyOf (d : BitVec 512) : CopyD :=
  let m := dget d 8 4 2
  { src := shutSrc d, dst := shutDst d, len0 := dget d 32 0 32,
    c1 := if 1 ≤ m then dget d 32 32 16 else 1, c2 := if 2 ≤ m then dget d 32 48 16 else 1,
    ss1 := if 1 ≤ m then dget d 40 0 32 else 0, ds1 := if 1 ≤ m then dget d 40 32 32 else 0,
    ss2 := if 2 ≤ m then dget d 48 0 32 else 0, ds2 := if 2 ≤ m then dget d 48 32 32 else 0 }

def CopyD.total (c : CopyD) : Nat := c.c2 * c.c1 * c.len0
def CopyD.hull (c : CopyD) (s2 s1 : Nat) : Nat := (c.c2 - 1) * s2 + (c.c1 - 1) * s1 + c.len0
/-- The source and destination addresses of a transfer-order position, and the bytes left in its row (R220). -/
def CopyD.place (c : CopyD) (p : Nat) : Nat × Nat × Nat :=
  let row := p / c.len0
  let b := p % c.len0
  let pl := row / c.c1
  let r := row % c.c1
  (c.src + pl * c.ss2 + r * c.ss1 + b, c.dst + pl * c.ds2 + r * c.ds1 + b, c.len0 - b)

/-- Reserved bits of a copy descriptor. -/
def copyRes (d : BitVec 512) : Bool :=
  let m := dget d 8 4 2
  !dzero d 8 7 57 || m == 3 || !dzero d 16 48 16 || !dzero d 24 48 16 || !dzero d 56 0 64 ||
  (m == 0 && (!dzero d 32 32 32 || !dzero d 40 0 64)) || (m ≤ 1 && (!dzero d 32 48 16 || !dzero d 48 0 64))

/-- Reserved bits of a gather descriptor; a base-die shuttle's index list is a DPA (R216). -/
def gatherRes (baseDie : Bool) (d : BitVec 512) : Bool :=
  !dzero d 8 7 57 || !dzero d 8 4 2 || !dzero d 16 48 16 || !dzero d 24 48 16 ||
  (if baseDie then !dzero d 40 48 16 else !dzero d 40 24 40) || !zeroFrom d 384

/-- A gather (Table 8.3). -/
structure GatherD where
  src   : Nat
  dst   : Nat
  esz   : Nat
  count : Nat
  idx   : Nat
def gatherOf (baseDie : Bool) (d : BitVec 512) : GatherD :=
  ⟨shutSrc d, shutDst d, dget d 32 0 32, dget d 32 32 32, if baseDie then dget d 40 0 48 else dget d 40 0 24⟩
def GatherD.eszOk (x : GatherD) : Bool := x.esz == 16 || (x.esz % 64 == 0 && 64 ≤ x.esz && x.esz ≤ 4096)

/-- A walk (Table 8.4). -/
structure WalkD where
  list    : Nat
  kvStart : Nat
  kvLen   : Nat
  ring    : Nat
  slotsM1 : Nat
  hdim    : Nat
  fmt     : Nat
def walkOf (d : BitVec 512) : WalkD :=
  ⟨shutSrc d, dget d 32 0 32, dget d 32 32 32, dget d 40 0 24, dget d 40 24 4, dget d 40 28 2, dget d 40 32 4⟩
def walkRes (d : BitVec 512) : Bool :=
  !dzero d 8 7 57 || !dzero d 8 4 2 || !dzero d 16 48 16 || !dzero d 24 0 64 || dget d 40 28 2 == 3 || !dzero d 40 30 2 || !dzero d 40 36 28
    || !zeroFrom d 384
def WalkD.dim (x : WalkD) : Nat := 64 * 2 ^ x.hdim
def WalkD.blocks (x : WalkD) : Nat := ceilDiv x.kvLen 64
def WalkD.ss (x : WalkD) : Nat := kvBlockBytes x.fmt x.dim

/-! ### Channels (R214, Table 8.10) -/

/-- The lowest channel that no open command holds. -/
def Tile.freeChan (t : Tile) : Nat :=
  ((List.range 4).find? fun c => !t.flight.any fun f => f.open_ && f.uses .shuttle && f.chan == c).getD 0

def isWalk (d : BitVec 512) : Bool := opcodeOf d == 6 && shutKind d == 2
/-- A walk that is handed on or runs. -/
def Tile.walking (t : Tile) : Bool := t.flight.any fun f => f.open_ && isWalk f.desc

/-- A shuttle command starts in a channel; a walk waits behind another (R214). -/
def State.shutStartAt (s : State) (g uid : Nat) (d : BitVec 512) (c : Nat) : State :=
  let t := s.tile g
  let k := Blk.tile g
  let ph := if isWalk d && t.walking then Phase.waiting else .running
  let s := if t.held .shuttle = 0 then s.modTile g fun t => { t with shutFrom := s.tape } else s
  let s := (s.w k (F.SHT_CH_SEQ_SEQ c) (seqOf d)).w k (F.SHT_CH_SEQ_OPCODE c) (opcodeOf d - 6)
  let s := s.w2 k (F.SHT_CH_BYTES_LO_BYTES c) (F.SHT_CH_BYTES_HI_BYTES c) 0
  let s := { s with errs := s.errs.filter fun e => !decide (shqAt g c ≤ e.1 ∧ e.1 < shqAt g c + 64) }
  s.fly g ⟨uid, d, ph, s.tape, s.tape, 0, 0, c, 0, []⟩

/-- A shuttle command takes the lowest free channel. -/
def State.shutStart (s : State) (g uid : Nat) (d : BitVec 512) : State := s.shutStartAt g uid d (s.tile g).freeChan

/-- A command that moves nothing completes in the TCLK cycle after its issue (R225, R227). -/
def State.shutEmpty (s : State) (g uid : Nat) (d : BitVec 512) : State :=
  ((s.shutStart g uid d).advanceTo (s.tape + s.tclkCycles 1)).complete g uid

/-- The waiting walk issued first starts once no walk runs (R214). -/
def State.nextWalk (s : State) (g : Nat) : State :=
  let t := s.tile g
  if t.flight.any fun f => f.phase == .running && isWalk f.desc then s
  else match t.flight.find? fun f => f.phase == .waiting && isWalk f.desc with
    | some f => s.modFlight g f.uid fun f => { f with phase := .running, start := s.tape }
    | none => s

/-- Progress of a channel: the flight's and SHT_CH_c_BYTES. -/
def State.shutProg (s : State) (g : Nat) (f : Flight) (p : Nat) : State :=
  (s.modFlight g f.uid fun x => { x with prog := p }).w2 (.tile g) (F.SHT_CH_BYTES_LO_BYTES f.chan) (F.SHT_CH_BYTES_HI_BYTES f.chan) p

/-- A counted event of a shuttle command. -/
def State.shutEv (s : State) (g : Nat) (f : Flight) (e n : Nat) : State := s.evIds g e n (layerOf f.desc) (operatorOf f.desc)

/-- An access counted by the memory it meets (events 0x0B to 0x0D). -/
def State.accEv (s : State) (g : Nat) (f : Flight) (a n : Nat) (wr : Bool) : State :=
  match placeOf a with
  | .slice _ _ => s.shutEv g f (if wr then 0x0C else 0x0B) n
  | .edge _ _ => s.shutEv g f 0x0D n
  | _ => s

/-- The units of 64 bytes that progress from `p` to `q` completes (event 0x0A). -/
def State.unitEv (s : State) (g : Nat) (f : Flight) (p q : Nat) : State := s.shutEv g f 0x0A (ceilDiv q 64 - ceilDiv p 64)

/-- What the shuttle records of a failed access (R229): detail, channel, direction, address as issued and progress. -/
def State.shutLog (s : State) (g : Nat) (f : Flight) (prog addr detail : Nat) (wr : Bool) : State :=
  let k := Blk.tile g
  let s := ((s.w k F.SHT_FAULT_DETAIL_DETAIL detail).w k F.SHT_FAULT_DETAIL_CHANNEL f.chan).wb k F.SHT_FAULT_DETAIL_WRITE wr
  (s.w2 k F.SHT_FAULT_ADDR_LO_ADDR F.SHT_FAULT_ADDR_HI_ADDR addr).shutProg g f prog

/-- A failed access: recorded, and the command faults. -/
def State.shutFault (s : State) (g : Nat) (f : Flight) (code prog addr detail : Nat) (wr : Bool) (logDetail : Nat) : State :=
  (s.shutLog g f prog addr detail wr).flightFault g f.uid code prog addr logDetail

/-- A translation that failed. -/
def State.shutAddrFault (s : State) (g : Nat) (f : Flight) (prog addr detail : Nat) (wr : Bool) : State :=
  s.shutFault g f 0x0C prog addr detail wr addr
/-- A request that finds no path to its memory (R365, R426). -/
def State.shutAbort (s : State) (g : Nat) (f : Flight) (prog addr : Nat) (wr : Bool) : State :=
  (s.shutLog g f prog addr 0 wr).abortFlight g f.uid prog addr
/-- Uncorrectable data met by a shuttle access, at the address as issued. -/
def State.shutUe (s : State) (g : Nat) (f : Flight) (prog addr cw : Nat) (wr : Bool) : State :=
  s.shutFault g f (if (placeOf cw).isDram then 0x0B else 0x0A) prog addr 0 wr (s.detailAddr cw)

/-! ### Issue checks (R224, Table 8.5) -/

/-- A refusal with code 0x0E and its detail. -/
def bodyRefuse (s : State) (g detail : Nat) : Check × State := (.refuse 0x0E, s.w (.tile g) F.SHT_BODY_FAULT_DETAIL detail)

def unreach (t : Tr) : Bool := t == .bad 5
/-- Two runs meet, where both addresses are known. -/
def runsMeet (a : Option Nat) (n : Nat) (b : Option Nat) (m : Nat) : Bool :=
  match a, b with
  | some a, some b => decide (a < b + m ∧ b < a + n ∧ 0 < n ∧ 0 < m)
  | _, _ => false

def copyMisaligned (c : CopyD) : Bool := !([c.src, c.dst, c.len0, c.ss1, c.ds1, c.ss2, c.ds2].all fun v => v % 16 == 0)
/-- The destination rows of a copy overlap one another. -/
def copySelf (c : CopyD) : Bool :=
  (decide (1 < c.c1) && decide (c.ds1 < c.len0)) || (decide (1 < c.c2) && decide (c.ds2 < (c.c1 - 1) * c.ds1 + c.len0))

def copyCheck (g : Nat) (s : State) (d : BitVec 512) : Check × State :=
  if 2 < shutKind d ∨ copyRes d then (.refuse 0x02, s)
  else
    let c := copyOf d
    let ts := s.translate g c.src 16 false
    let td := s.translate g c.dst 16 true
    if unreach ts || unreach td then bodyRefuse s g 0x06
    else if c.total = 0 then (.ok, s)
    else if copyMisaligned c then (.refuse 0x05, s)
    else if copySelf c || runsMeet (s.trDpa td) (c.hull c.ds2 c.ds1) (s.trDpa ts) (c.hull c.ss2 c.ss1) then (.refuse 0x06, s)
    else (.ok, s)

def gatherCheck (g : Nat) (s : State) (d : BitVec 512) : Check × State :=
  if gatherRes false d then (.refuse 0x02, s)
  else
    let x := gatherOf false d
    let n := min (max x.esz 16) 64
    let ts := s.translate g x.src n false
    let td := s.translate g x.dst 16 true
    let isEdge : Bool := match ts with
      | .at_ a => decide (a < edgeEnd)
      | .bad 5 => false
      | .bad _ => true
    if !x.eszOk then bodyRefuse s g 0x01
    else if x.esz = 16 ∧ !isEdge then bodyRefuse s g 0x02
    else if unreach ts || unreach td then bodyRefuse s g 0x06
    else if x.count = 0 then (.ok, s)
    else if x.src % (if x.esz = 16 then 16 else 64) ≠ 0 ∨ x.dst % 16 ≠ 0 ∨ x.idx % 4 ≠ 0 ∨ bobbinBytes < x.idx + 4 * x.count then (.refuse 0x05, s)
    else if runsMeet (s.trDpa td) (x.count * x.esz) (s.dpaOf (bobbinAt g x.idx)) (4 * x.count) then (.refuse 0x06, s)
    else (.ok, s)

/-- The ring has the walk's geometry (R223). -/
def State.sameRing (s : State) (g : Nat) (x : WalkD) : Bool :=
  let k := Blk.tile g
  s.b k F.ATT_RING_CFG_VALID && s.r k F.ATT_RING_CFG_OFF == x.ring && s.r k F.ATT_RING_CFG_SLOTS_M1 == x.slotsM1
    && s.r k F.ATT_RING_CFG_HDIM == x.hdim && s.r k F.ATT_RING_FMT_KV_FMT == x.fmt

/-- An ATTN that reads the ring executes. -/
def Tile.attnOnRing (t : Tile) : Bool := t.flight.any fun f => f.op == 3 && (attOf f.desc).ring && t.executes f

/-- The bobbin runs, as DPAs, of a copy or gather that runs on the tile (R224 step 4). -/
def State.shutRuns (s : State) (g : Nat) (d : BitVec 512) : List (Nat × Nat) :=
  let own (t : Tr) (n : Nat) : List (Nat × Nat) :=
    match t.addr?.map placeOf with
    | some (.bobbin _ _) => (s.trDpa t).toList.map fun a => (a, n)
    | _ => []
  if shutKind d = 0 then
    let c := copyOf d
    own (s.translate g c.src 16 false) (c.hull c.ss2 c.ss1) ++ own (s.translate g c.dst 16 true) (c.hull c.ds2 c.ds1)
  else
    let x := gatherOf false d
    own (s.translate g x.src 16 false) x.esz ++ own (s.translate g x.dst 16 true) (x.count * x.esz)
      ++ (s.dpaOf (bobbinAt g x.idx)).toList.map fun a => (a, 4 * x.count)

def walkCheck (g : Nat) (s : State) (d : BitVec 512) : Check × State :=
  let k := Blk.tile g
  if walkRes d then (.refuse 0x02, s)
  else
    let x := walkOf d
    let ts := s.translate g x.list 4 false
    let offEdge : Bool := match ts with
      | .at_ a => !decide (a < edgeEnd)
      | .bad e => e == 5
    let t := s.tile g
    let change := !s.sameRing g x
    if !s.b (.stk (g / 160)) F.SWT_CFG_EN ∨ !([3, 4, 7].contains x.fmt) ∨ offEdge then bodyRefuse s g 0x03
    else if change && (t.walking || s.r k F.ATT_RING_PROD_COUNT != s.r k F.ATT_RING_CONS_COUNT || t.attnOnRing) then bodyRefuse s g 0x04
    else if x.kvStart % 64 ≠ 0 ∨ x.slotsM1 = 0 then bodyRefuse s g 0x05
    else if x.kvLen = 0 then (.ok, s)
    else if x.list % 4 ≠ 0 ∨ x.ring % 64 ≠ 0 ∨ bobbinBytes < x.ring + (x.slotsM1 + 1) * x.ss then (.refuse 0x05, s)
    else if (t.flight.filter fun f => f.open_ && f.op == 6 && shutKind f.desc != 2).any (fun f => (s.shutRuns g f.desc).any fun r =>
        runsMeet (some r.1) r.2 (s.dpaOf (bobbinAt g x.ring)) ((x.slotsM1 + 1) * x.ss)) then (.refuse 0x06, s)
    else (.ok, s)

/-- A walk's issue sets or keeps the ring and clears STOPPED (R223). -/
def State.setRing (s : State) (g : Nat) (x : WalkD) : State :=
  let k := Blk.tile g
  let s := if s.sameRing g x then s else
    let s := ((s.w k F.ATT_RING_CFG_OFF x.ring).w k F.ATT_RING_CFG_SLOTS_M1 x.slotsM1).w k F.ATT_RING_CFG_HDIM x.hdim
    let s := (s.w k F.ATT_RING_FMT_KV_FMT x.fmt).wb k F.ATT_RING_CFG_VALID true
    (s.w k F.ATT_RING_PROD_COUNT 0).w k F.ATT_RING_CONS_COUNT 0
  s.wb k F.ATT_RING_FMT_STOPPED false

def execShutCopy (t : Site) (s : State) : Result :=
  .next (s.issue t.g (fun d => opcodeOf d == 6 && shutKind d != 1 && shutKind d != 2) (copyCheck t.g) fun s u d =>
    if (copyOf d).total = 0 then s.shutEmpty t.g u d else s.shutStart t.g u d)

def execShutGather (t : Site) (s : State) : Result :=
  .next (s.issue t.g (fun d => opcodeOf d == 6 && shutKind d == 1) (gatherCheck t.g) fun s u d =>
    if (gatherOf false d).count = 0 then s.shutEmpty t.g u d else s.shutStart t.g u d)

def execSwatchWalk (t : Site) (s : State) : Result :=
  .next (s.issue t.g isWalk (walkCheck t.g) fun s u d =>
    let s := s.setRing t.g (walkOf d)
    if (walkOf d).kvLen = 0 then s.shutEmpty t.g u d else s.shutStart t.g u d)

/-! ### Accesses of copies, gathers and SENDs (R217, R220, R221, R229) -/

/-- The bytes to the end of the 64-byte line of an address. -/
def lineLeft (a : Nat) : Nat := 64 - a % 64

/-- A command of a channel has moved its last byte: it completes when its last access is complete. -/
def State.shutDone (s : State) (g : Nat) (f : Flight) : State :=
  let due := ((s.tile g).flightOf f.uid).elim s.tape (·.due)
  ((s.advanceTo due).complete g f.uid).nextWalk g

/-- A SHUT is on a scheduled path unless BG is set (Table 8.1). -/
def shutSched (d : BitVec 512) : Bool := !dbit d 8 6

/-- The edge stack in which an access of a command of a tile's shuttle waits for an operation of a ring of its bolt (R203). -/
def State.waitsAt (s : State) (g uid a n : Nat) : Option Nat :=
  match placeOf a with
  | .edge e off => if s.bellClaims (s.waitOf g (some uid) 0 0 e).bells off n then some e else none
  | _ => none

/-- An access of a command waits for an operation of stack `e`: a scheduled request counts once in EDGE_LATE_COUNT (R162, R203). -/
def State.claimWait (s : State) (g : Nat) (f : Flight) (e : Nat) : State := s.keepWait g (s.waitOf g (some f.uid) 0 0 e) (shutSched f.desc)

/-- The access goes: it is complete at tape `due` at the earliest, and what the command waits for next counts anew. -/
def State.accessAt (s : State) (g : Nat) (f : Flight) (due : Nat) : State :=
  (s.modTile g fun t => { t with waited := t.waited.filter (·.uid != some f.uid) }).modFlight g f.uid fun f => { f with due := max f.due due }

/-- One access pair: `n` bytes from `src` to `dst` at transfer-order position `p` of `total`; `needle` for a 16-byte gather element. The read is
issued now and the write when the data have arrived. -/
def State.moveChunk (s : State) (g : Nat) (f : Flight) (needle : Bool) (p total src dst n : Nat) : State :=
  match s.translate g src n false with
  | .bad e => s.shutAddrFault g f p src e false
  | .at_ a =>
    if s.cutOffBy g (shutSched f.desc) a then s.shutAbort g f p src false
    else match (s.waitsAt g f.uid a n).or ((s.translate g dst n true).addr?.bind fun b => s.waitsAt g f.uid b n) with
    | some e => s.claimWait g f e
    | none =>
      let sched := shutSched f.desc
      let (t1, s) := s.serve g sched needle false a s.tape
      match s.fetchT a n with
      | (.error cw, s) => s.shutUe g f p src cw false
      | (.ok l, s) =>
        match s.translate g dst n true with
        | .bad e => s.shutAddrFault g f p dst e true
        | .at_ b =>
          if s.cutOffBy g sched b then s.shutAbort g f p dst true
          else
            let (t2, s) := s.serve g sched false true b t1
            match s.put b l with
            | (some cw, s) => s.shutUe g f p dst cw true
            | (none, s) =>
              let s := ((s.accEv g f a 1 false).accEv g f b 1 true).unitEv g f p (p + n)
              let s := (s.accessAt g f t2).shutProg g f (p + n)
              if p + n = total then s.shutDone g f else s

def State.copyStep (s : State) (g : Nat) (f : Flight) : State :=
  let c := copyOf f.desc
  let (src, dst, left) := c.place f.prog
  s.moveChunk g f false f.prog c.total src dst (min left (min (lineLeft src) (lineLeft dst)))

def State.gatherStep (s : State) (g : Nat) (f : Flight) : State :=
  let x := gatherOf false f.desc
  let i := f.prog / x.esz
  let b := f.prog % x.esz
  match s.fetchT (bobbinAt g (x.idx + 4 * i)) 4 with
  | (.error cw, s) => s.shutUe g f f.prog (x.idx + 4 * i) cw false
  | (.ok l, s) =>
    let src := (x.src + leNat l * x.esz + b) % 2 ^ 48
    let dst := x.dst + f.prog
    let s := if x.esz = 16 then s.shutEv g f 0x0E 1 else s
    s.moveChunk g f (x.esz == 16) f.prog (x.count * x.esz) src dst (min (x.esz - b) (min (lineLeft src) (lineLeft dst)))

/-! ### SEND and RECV (R226 to R228, R277, R278) -/

def sendRoute (d : BitVec 512) : Nat := dget d 8 0 2
def sendChan (d : BitVec 512) : Nat := dget d 8 4 4
def sendTile (d : BitVec 512) : Nat := dget d 8 8 11
def sendAddr (d : BitVec 512) : Nat := dget d 16 0 48
def sendLen (d : BitVec 512) : Nat := dget d 24 0 32

/-- Reserved bits of SEND and RECV. -/
def sendRes (d : BitVec 512) : Bool :=
  let fab := opcodeOf d == 7 && sendRoute d == 1
  !dzero d 8 2 2 || !dzero d 8 19 45 || !dzero d 16 48 16 || !dzero d 24 32 32
    || ((opcodeOf d == 8 || sendRoute d != 0) && !dzero d 8 8 11)
    || (if fab then !dzero d 32 27 5 || !dzero d 36 24 8 || !dzero d 40 48 16 || !zeroFrom d 384 else !zeroFrom d 256)

/-- The whole range translates into the tile's own bobbin. -/
def State.ownRange (s : State) (g a n : Nat) (wr : Bool) : Option Nat :=
  match s.translate g a n wr with
  | .at_ m => (match placeOf m with
    | .bobbin _ o => some o
    | _ => none)
  | .bad _ => none

/-- The SEND fabric fields (Table 10.7). -/
def fabHx (d : BitVec 512) : Int := hop5 (dget d 32 0 5)
def fabHy (d : BitVec 512) : Int := hop5 (dget d 32 5 5)
def fabHz (d : BitVec 512) : Int := hop5 (dget d 32 10 5)
def fabPlane (d : BitVec 512) : Bool := dbit d 32 15
def fabStride (d : BitVec 512) : Nat := dget d 36 0 8
def fabStart (d : BitVec 512) : Nat := dget d 40 0 48

/-- Body detail 0x08: the route or STRIDE is not permitted (R278). -/
def State.badRoute (s : State) (d : BitVec 512) : Bool :=
  let bad (h : Int) (dim : Nat) : Bool := decide (8 < h.natAbs) || decide (dim + 1 ≤ h.natAbs)
  (fabHx d == 0 && fabHy d == 0 && fabHz d == 0) || bad (fabHx d) (s.r (.fab 0) F.FAB_COORD_DX_M1) || bad (fabHy d) (s.r (.fab 0) F.FAB_COORD_DY_M1)
    || bad (fabHz d) (s.r (.fab 0) F.FAB_COORD_DZ_M1) || fabStride d == 0

/-- Body detail 0x09: the first port is down or not claimed by the tile's bolt. -/
def State.badPort (s : State) (g : Nat) (d : BitVec 512) : Bool :=
  match nextPort (fabHx d) (fabHy d) (fabHz d) (fabPlane d) with
  | none => true
  | some f => !s.portUp f || (s.boltOf (g / 160)).isNone || s.portBolt f != s.boltOf (g / 160)

def sendCheck (g : Nat) (s : State) (d : BitVec 512) : Check × State :=
  let rcv := opcodeOf d == 8
  if sendRes d then (.refuse 0x02, s)
  else
    let route := sendRoute d
    let posted := ((s.tile g).recvs.get none (sendChan d)).isSome
    if (if rcv then route != 0 else 2 ≤ route) || (!rcv && route == 0 && (s.siteOf (sendTile d)).isNone) || (rcv && posted)
        || (sendLen d != 0 && (s.ownRange g (sendAddr d) (sendLen d) rcv).isNone) then bodyRefuse s g 0x07
    else if !rcv && route == 1 && s.badRoute d then bodyRefuse s g 0x08
    else if !rcv && route == 1 && s.badPort g d then bodyRefuse s g 0x09
    else if sendAddr d % 64 ≠ 0 ∨ sendLen d % 64 ≠ 0 then (.refuse 0x05, s)
    else (.ok, s)

def execSend (t : Site) (s : State) : Result :=
  .next (s.issue t.g (isOp 0x07) (sendCheck t.g) fun s u d => if sendLen d = 0 then s.shutEmpty t.g u d else s.shutStart t.g u d)

/-- RECV posts its buffer (R227). -/
def State.postRecv (s : State) (g uid : Nat) (d : BitVec 512) : State :=
  s.modTile g fun t =>
    { t with recvs := t.recvs.set (sendChan d) (some ⟨uid, (s.ownRange g (sendAddr d) (sendLen d) true).getD 0, sendLen d, 0⟩) }

def execRecv (t : Site) (s : State) : Result :=
  .next (s.issue t.g (isOp 0x08) (sendCheck t.g) fun s u d =>
    if sendLen d = 0 then s.shutEmpty t.g u d else (s.shutStart t.g u d).postRecv t.g u d)

/-- The flit count of a SEND (R277). -/
def flitsOf (d : BitVec 512) : Nat := ceilDiv (sendLen d) 240

/-- `n` bytes of a SEND from an address as issued, access by access (R217): the bytes, or the state after the first access that fails (R229). -/
def State.readSend (s : State) (g : Nat) (f : Flight) : Nat → Nat → Nat → Except State (List (BitVec 8) × State)
  | 0, _, _ => .ok ([], s)
  | k + 1, a, n =>
    if n = 0 then .ok ([], s)
    else
      let m := min n (lineLeft a)
      match s.translate g a m false with
      | .bad e => .error (s.shutAddrFault g f 0 a e false)
      | .at_ x =>
        match s.fetchT x m with
        | (.error cw, s) => .error (s.shutUe g f 0 a cw false)
        | (.ok l, s) => (s.readSend g f k (a + m) (n - m)).map fun r => (l ++ r.1, r.2)

/-- One flit of a fabric SEND: its bytes are read and it is placed in its slot (R277). -/
def State.fabStep (s : State) (g : Nat) (f : Flight) : State :=
  let d := f.desc
  let n := min 240 (sendLen d - f.prog)
  let a := sendAddr d + f.prog
  match s.readSend g f 5 a n with
  | .error s => s
  | .ok (l, s) =>
    match nextPort (fabHx d) (fabHy d) (fabHz d) (fabPlane d) with
    | none => s
    | some p =>
      let k := f.prog / 240
      let (x, y, z) := s.coord
      let fl : Flit := { type := 1, seq := 0, ack := 0, nak := false, hx := fabHx d, hy := fabHy d, hz := fabHz d, plane := fabPlane d,
                         ftile := dget d 32 16 11, chan := sendChan d, last := decide (k + 1 = flitsOf d), srcX := x, srcY := y, srcZ := z,
                         stile := (s.mtile g).getD 0x7FF, payload := l ++ List.replicate (240 - n) 0 }
      let s := (s.unitEv g f f.prog (f.prog + n)).shutProg g f (f.prog + n)
      if s.portUp p then s.placeOwn p (fabStart d + k * fabStride d) (hopFlit fl) else s

/-- One access of a mesh SEND: 64 bytes leave for the destination (R227). -/
def State.sendStep (s : State) (g : Nat) (f : Flight) : State :=
  let d := f.desc
  let a := sendAddr d + f.prog
  match s.translate g a 64 false with
  | .bad e => s.shutAddrFault g f 0 a e false
  | .at_ m =>
    match s.fetchT m 64 with
    | (.error cw, s) => s.shutUe g f 0 a cw false
    | (.ok l, s) =>
      match s.siteOf (sendTile d) with
      | none => s
      | some dst =>
        match s.routeOf true (s.boltOf (g / 160)) (g / 480) (dst / 480) with
        | none => s.shutAbort g f 0 a false
        | some r =>
          let (t, s) := s.seamTurns r s.tape
          let msg : MeshMsg := ⟨s.meshId, t, g, f.uid, dst, sendChan d, l, decide (f.prog + 64 = sendLen d)⟩
          let s := { s with mesh := s.mesh ++ [msg], meshId := s.meshId + 1 }
          (s.unitEv g f f.prog (f.prog + 64)).shutProg g f (f.prog + 64)

/-- The running command of a channel. -/
def Tile.chanCmd (t : Tile) (c : Nat) : Option Flight := t.flight.find? fun f => f.phase == .running && f.uses .shuttle && f.chan == c

/-- One access of the command in a channel. -/
def State.shutStep (s : State) (g : Nat) (f : Flight) : State :=
  if f.op = 6 then (if shutKind f.desc = 0 then s.copyStep g f else if shutKind f.desc = 1 then s.gatherStep g f else s)
  else if f.op = 7 ∧ f.prog < sendLen f.desc then (if sendRoute f.desc = 1 then s.fabStep g f else s.sendStep g f)
  else s

/-- The shuttle reads the descriptor of a channel from its queue before the command's first access (R174): the command as it goes on, or none where a word is
uncorrectable and it has faulted with code 0x0A. -/
def State.chanRead (s : State) (g : Nat) (f : Flight) : Option Flight × State :=
  if f.prog ≠ 0 then (some f, s)
  else match s.wordsRead (shqAt g f.chan) 8 f.desc with
    | (some cw, _, s) => (none, s.ueFault g f.uid cw 0 0)
    | (none, d, s) => (some { f with desc := d }, s.modFlight g f.uid fun x => { x with desc := d })

/-- A shuttle performs one access (row SHUTTLE_ACCESS). -/
def execShuttleAccess (t : Site) (c : Fin 4) (s : State) : Result :=
  .next (if !s.live then s else match (s.tile t.g).chanCmd c.val with
    | none => s
    | some f => match s.chanRead t.g f with
      | (none, s) => s
      | (some f, s) => s.shutStep t.g f)

/-! ### Data that arrive (R227, R228, R281) -/

/-- Data with no posted RECV or beyond its LEN: dropped, and the receiving tile faults (R228). -/
def State.orphan (s : State) (g chan : Nat) (r : Option Flight) : State :=
  let k := Blk.tile g
  let s := s.wb k F.SHT_STATUS_ORPHAN true
  let s := ((s.w k F.SHT_FAULT_DETAIL_DETAIL 6).w k F.SHT_FAULT_DETAIL_CHANNEL (r.elim 0 (·.chan))).wb k F.SHT_FAULT_DETAIL_WRITE false
  let s := s.w2 k F.SHT_FAULT_ADDR_LO_ADDR F.SHT_FAULT_ADDR_HI_ADDR chan
  s.commandFault g { desc := some (r.elim 0x08 (·.desc)), code := 0x0C, addr := chan, detail := chan }

/-- Data for a channel of a tile: written to the posted buffer in arrival order, completing the RECV at LEN bytes. -/
def State.recvData (s : State) (g chan : Nat) (l : List (BitVec 8)) : State :=
  match (s.tile g).recvs.get none chan with
  | none => s.orphan g chan none
  | some p =>
    match (s.tile g).flightOf p.uid with
    | none => s.orphan g chan none
    | some f =>
      let n := min l.length (p.len - p.got)
      let (ue, s) := s.put (bobbinAt g (p.off + p.got)) (l.take n)
      match ue with
      | some cw => s.shutUe g f 0 (sendAddr f.desc + max p.got (cw / 64 * 64 - bobbinAt g p.off)) cw true
      | none =>
        let s := (s.unitEv g f p.got (p.got + n)).shutProg g f (p.got + n)
        let done := p.got + n == p.len
        let s := s.modTile g fun t => { t with recvs := t.recvs.set chan (if done then none else some { p with got := p.got + n }) }
        let s := if done then s.complete g p.uid else s
        if n < l.length then s.orphan g chan (some f) else s

/-- A message of the mesh arrives, after the earlier ones of its SEND. -/
def execMeshDataArrive (m : Nat) (s : State) : Result :=
  .next (match s.mesh.find? fun x => x.id == m with
  | none => s
  | some x =>
    if !s.live || s.mesh.any (fun y => decide (y.id < m) && y.src == x.src && y.uid == x.uid) then s
    else (({ s with mesh := s.mesh.filter fun y => y.id != m } : State).advanceTo x.at_).recvData x.dst x.chan x.data)

/-- A mesh SEND completes when its last byte has been written at the destination (R227). -/
def execSendComplete (t : Site) (c : Fin 4) (s : State) : Result :=
  .next (match (s.tile t.g).chanCmd c.val with
  | none => s
  | some f =>
    if f.op = 7 ∧ sendRoute f.desc = 0 ∧ f.prog = sendLen f.desc ∧ s.live ∧ !(s.mesh.any fun x => x.src == t.g && x.uid == f.uid) then
      s.complete t.g f.uid
    else s)

/-! ### Swatch walks (R141 to R145, R222) -/

/-- The DPA that a walk computes for list entry e (R229), where the list's address gives one. -/
def State.walkDpa (s : State) (g : Nat) (x : WalkD) (e : Nat) : Nat :=
  match s.dpaFor g (x.list + 4 * e) 4 false with
  | .ok d => d
  | .error _ => x.list + 4 * e

/-- A walk stops on an invalid entry (R144, R145); `addr` is the DPA of the access that shows it, the list's or the table's (DEDUCED, log entry 79). -/
def State.walkStop (s : State) (g : Nat) (f : Flight) (reason e entry prog addr : Nat) : State :=
  let k := Blk.tile g
  let s := ((s.w k F.ATT_WALK_STOP_REASON reason).wb k F.ATT_WALK_STOP_VALID true).w k F.ATT_WALK_INDEX_INDEX e
  let s := (s.w k F.ATT_WALK_ENTRY_ENTRY entry).w2 k F.ATT_WALK_LIST_LO_DPA F.ATT_WALK_LIST_HI_DPA (s.walkDpa g (walkOf f.desc) 0)
  (s.wb k F.ATT_RING_FMT_STOPPED true).shutFault g f 0x0D prog addr 0 false addr

/-- The list entry of a position and its table entry, asked for at tape `t`: the swatch number and the tape of the answer, or the state after the
walk has stopped. The entry's value is shown as 0 where its own line is uncorrectable (DESIGN CHOICE, log entry 108). -/
def State.walkEntry (s : State) (g : Nat) (f : Flight) (e prog t : Nat) : Except State ((Nat × Nat) × State) :=
  let x := walkOf f.desc
  let k := Blk.stk (g / 160)
  let la := s.walkDpa g x e
  match s.translate g (x.list + 4 * e) 4 false with
  | .bad d => .error (s.shutAddrFault g f prog la d false)
  | .at_ a =>
    if s.cutOffBy g (shutSched f.desc) a then .error (s.shutAbort g f prog la false)
    else
      let (t, s) := s.serve g (shutSched f.desc) false false a t
      match s.fetchT a 4 with
      | (.error _, s) => .error (s.walkStop g f 5 e 0 prog la)
      | (.ok l, s) =>
        let v := leNat l
        let s := s.accEv g f a 1 false
        if !bit v 31 then .error (s.walkStop g f 1 e v prog la)
        else if bits v 23 8 ≠ 0 then .error (s.walkStop g f 2 e v prog la)
        else
          let w := bits v 0 23
          if (s.segOf k w).isNone then .error (s.walkStop g f 3 e v prog la)
          else
            let ta := s.tableBase + 8 * w
            match s.runOf ta 8 with
            | none => .error (s.shutAddrFault g f prog ta 1 false)
            | some m =>
              if s.cutOffBy g (shutSched f.desc) m then .error (s.shutAbort g f prog ta false)
              else
                let (t, s) := s.serve g (shutSched f.desc) false false m t
                match s.fetchT m 8 with
                | (.error _, s) => .error (s.walkStop g f 5 e v prog ta)
                | (.ok q, s) =>
                  if bits (leNat q) 0 2 ≠ 1 then .error (s.walkStop g f 4 e v prog ta)
                  else .ok ((w, t), s.accEv g f m 1 false)

/-- The lines of a run are asked for at tape `t`: the tape at which the last has arrived. -/
def State.serveRun (s : State) (g : Nat) (sched : Bool) (a n t : Nat) : Nat × State :=
  (cwsOf a n).foldl (fun acc cw =>
    let (u, s) := acc.2.serve g sched false false cw t
    (max acc.1 u, s)) (t, s)

/-- A run of bytes cut at line boundaries, the accesses by which it is read (R217). -/
def linesOf (d n : Nat) : List (Nat × Nat) :=
  (List.range (n / 64 + 2)).filterMap fun i =>
    let a := max d ((d / 64 + i) * 64)
    let b := min (d + n) ((d / 64 + i + 1) * 64)
    if a < b then some (a, b - a) else none

/-- Reads the accesses of a block, asked for at tape `t`, and answers them in the layout of R132 with the tape at which the last has arrived; one that
fails is recorded with its DPA (R229). -/
def State.walkParts (s : State) (g : Nat) (f : Flight) (prog t : Nat) : List (Nat × Nat) → Except State ((List (BitVec 8) × Nat) × State)
  | [] => .ok (([], t), s)
  | (d, n) :: rest =>
    if n = 0 then s.walkParts g f prog t rest
    else match s.runOf d n with
      | none => .error (s.shutAddrFault g f prog d 1 false)
      | some a =>
        if s.cutOffBy g (shutSched f.desc) a then .error (s.shutAbort g f prog d false)
        else
          let (u, s) := s.serveRun g (shutSched f.desc) a n t
          match s.fetchT a n with
          | (.error cw, s) => .error (s.shutUe g f prog d cw false)
          | (.ok l, s) =>
            match (s.accEv g f a (cwsOf a n).length false).walkParts g f prog t rest with
            | .ok ((l', u'), s) => .ok ((l ++ l', max u u'), s)
            | .error s => .error s

/-- The parts of the block at position q of swatch w in the layout of R132: rows and scales of the keys, then of the values. -/
def State.blockParts (s : State) (k : Blk) (x : WalkD) (w q : Nat) : List (Nat × Nat) :=
  let tps := tpsOf (s.swSize k) x.fmt x.dim
  let n := (s.segOf k w).getD 0
  let rb := kvRow x.fmt x.dim
  let sc := kvSc x.fmt x.dim
  let d := s.swData k n w
  let sh := s.swShadow k n w
  [(d + q * rb, 64 * rb), (sh + q * sc, 64 * sc), (d + tps * rb + q * rb, 64 * rb), (sh + tps * sc + q * sc, 64 * sc)]

/-- The stack in which the next block of a walk waits for an operation of its bolt: at its list entry, its table entry or its parts as they now
stand (R203). -/
def State.walkWaits (s : State) (g : Nat) (f : Flight) : Option Nat :=
  let x := walkOf f.desc
  let k := Blk.stk (g / 160)
  let tps := tpsOf (s.swSize k) x.fmt x.dim
  let pos := x.kvStart + 64 * f.aux
  let entry := f.cap = [] ∨ pos % tps = 0
  let list := (s.translate g (x.list + 4 * (pos / tps)) 4 false).addr?
  let w := if entry then (list.map fun a => bits (s.mem.readLE a 4) 0 23).getD 0 else leNat f.cap
  let own := if entry then (list.toList.map fun a => (a, 4)) ++ [(s.tableBase + 8 * w, 8)] else []
  (own ++ s.blockParts k x w (pos % tps)).findSome? fun r => if r.2 = 0 then none else s.waitsAt g f.uid r.1 r.2

/-- The next block of a walk: its entry, its bytes, the slot and PROD (R222). -/
def State.walkStep (s : State) (g : Nat) (f : Flight) : State :=
  let x := walkOf f.desc
  let k := Blk.stk (g / 160)
  let b := f.aux
  let prog := b * x.ss
  let tps := tpsOf (s.swSize k) x.fmt x.dim
  let pos := x.kvStart + 64 * b
  let q := pos % tps
  match s.walkWaits g f with
  | some e => s.claimWait g f e
  | none =>
    let got := if f.cap = [] ∨ q = 0 then s.walkEntry g f (pos / tps) prog s.tape else .ok ((leNat f.cap, s.tape), s)
    match got with
    | .error s => s
    | .ok ((w, t), s) =>
      match s.walkParts g f prog t ((s.blockParts k x w q).flatMap fun r => linesOf r.1 r.2) with
      | .error s => s
      | .ok ((l, t), s) =>
        let slot := s.ringProd g % s.ringSlots g
        match s.put (bobbinAt g (s.ringOff g + slot * x.ss)) l with
        | (some cw, s) => s.shutUe g f prog (s.ringOff g + slot * x.ss) cw true
        | (none, s) =>
          let s := s.accessAt g f t
          let s := s.advanceTo (((s.tile g).flightOf f.uid).elim t (·.due))
          let s := s.w (.tile g) F.ATT_RING_PROD_COUNT (s.ringProd g + 1)
          let s := (s.unitEv g f prog (prog + x.ss)).shutProg g f (prog + x.ss)
          let s := s.modFlight g f.uid fun f => { f with aux := b + 1, cap := leBytes 4 w }
          if b + 1 = x.blocks then s.shutDone g f else s

/-- The ring has a free slot (R133). -/
def State.ringRoom (s : State) (g : Nat) : Bool := decide ((s.ringProd g + 2 ^ 32 - s.ringCons g) % 2 ^ 32 < s.ringSlots g)

/-- A walk delivers a block once the ring has room (row WALK_BLOCK). -/
def execWalkBlock (t : Site) (c : Fin 4) (s : State) : Result :=
  .next (match (s.tile t.g).chanCmd c.val with
  | none => s
  | some f =>
    if isWalk f.desc ∧ s.live ∧ s.ringRoom t.g then (match s.chanRead t.g f with
      | (none, s) => s
      | (some f, s) => s.walkStep t.g f)
    else s)

end Sys2Proof.Machine
end

