-- ==== Sys2Proof/Machine/Check.lean ====
section
/-! DEFINITION. The check units (R438 to R446): CHK commands, scan turns, submissions of the control port, context values; and the latch of
the error log and FAULT_N (R432, R434, R436). -/
namespace Sys2Proof.Machine

/-! ### CHK (R442, Table 16.5) -/

def chkAddr (d : BitVec 512) : Nat := dget d 8 0 48
def chkLen (d : BitVec 512) : Nat := dget d 16 0 40
def chkAlg (d : BitVec 512) : Nat := dget d 24 0 2
def chkCtx (d : BitVec 512) : Nat := dget d 24 4 4
def chkAlive (d : BitVec 512) : Nat := dget d 24 8 8
def chkLoad (d : BitVec 512) : Bool := dbit d 24 16
def chkRes (d : BitVec 512) : Nat := dget d 24 24 24
def chkInit (d : BitVec 512) : Nat := dget d 32 0 64
def chkReserved (d : BitVec 512) : Bool :=
  !dzero d 8 48 16 || !dzero d 16 40 24 || !dzero d 24 2 2 || !dzero d 24 17 7 || !dzero d 24 48 16 || chkAlg d == 3 || !zeroFrom d 320

/-- The check unit of a tile's base die. -/
def dieChk (g : Nat) : Nat := dieOf (g / 160)

def chkBody (s : State) (g detail : Nat) : Check × State :=
  let k := Blk.chk (dieChk g)
  (.refuse 0x0E, ((s.w k F.CHK_BODY_FAULT_DETAIL detail).w k F.CHK_BODY_FAULT_SITE (g % 160)).w k F.CHK_BODY_FAULT_STACK (g / 160))

def chkCheck (g : Nat) (s : State) (d : BitVec 512) : Check × State :=
  if chkReserved d then (.refuse 0x02, s)
  else if !s.b (.chk (dieChk g)) F.CHK_STATUS_AVAILABLE then chkBody s g 0x01
  else match s.translate g (chkAddr d) 1 false with
    | .bad _ => chkBody s g 0x02
    | .at_ _ => if chkRes d % 8 ≠ 0 ∨ 0x17FFF8 < chkRes d then (.refuse 0x05, s) else (.ok, s)

/-- Descriptors waiting at a unit (R439). -/
def ChkUnit.waiting (u : ChkUnit) : Nat := (u.jobs.filter fun j => !j.begun).length

/-- A descriptor joins the unit's queue with a number of its own. -/
def ChkUnit.join (u : ChkUnit) (j : ChkJob) : ChkUnit := { u with jobs := u.jobs ++ [{ j with id := u.nextId }], nextId := u.nextId + 1 }

/-- The CHK is handed on: its descriptor joins the unit's queue, with what it resumes from (R94). -/
def State.chkGoFrom (s : State) (g uid : Nat) (d : BitVec 512) (resume : Option (Nat × Nat)) : State :=
  let n := dieChk g
  let j : ChkJob := ⟨0, some (g, uid), chkAddr d, chkLen d, chkAlg d, chkCtx d, chkAlive d, chkLoad d, BitVec.ofNat 64 (chkInit d), chkRes d, false, resume⟩
  let f : Flight := ⟨uid, d, .waiting, s.tape, 0, ((resume.map (·.2)).getD 0), 0, 0, ((resume.map (·.1)).getD 0), []⟩
  (s.fly g f).setChkU n ((s.chkU n).join j)
def State.chkGo (s : State) (g uid : Nat) (d : BitVec 512) : State := s.chkGoFrom g uid d none

/-- CHK; with the unit's queue full it is not handed on (R439). -/
def execChk (t : Site) (s : State) : Result :=
  .next (if 16 ≤ (s.chkU (dieChk t.g)).waiting then s else s.issue t.g (isOp 0x0C) (chkCheck t.g) fun s u d => s.chkGo t.g u d)

/-! ### Scans (R439 to R444) -/

def State.ctxVal (s : State) (n c : Nat) : Nat := s.r2 (.chk n) (F.CHK_CTX_VAL_LO_VALUE c) (F.CHK_CTX_VAL_HI_VALUE c)
def State.ctxBytes (s : State) (n c : Nat) : Nat := s.r2 (.chk n) (F.CHK_CTX_BYTES_LO_BYTES c) (F.CHK_CTX_BYTES_HI_BYTES c)
def State.setCtx (s : State) (n c v : Nat) : State := s.w2 (.chk n) (F.CHK_CTX_VAL_LO_VALUE c) (F.CHK_CTX_VAL_HI_VALUE c) v
def State.setBytes (s : State) (n c v : Nat) : State := s.w2 (.chk n) (F.CHK_CTX_BYTES_LO_BYTES c) (F.CHK_CTX_BYTES_HI_BYTES c) v

/-- A protocol event of a check unit. -/
def State.logChk (s : State) (n code : Nat) : State := s.logEv { cls := .protocol, source := Src.check, index := ixOf n 0, code := code }

/-- The job leaves the unit's queue. -/
def State.dropJob (s : State) (n : Nat) (j : ChkJob) : State :=
  let u := s.chkU n
  s.setChkU n { u with jobs := u.jobs.filter fun x => x.id != j.id }

/-- The descriptor ends with the running value: into the tile's bobbin and the context (R443). -/
def State.chkEnd (s : State) (n : Nat) (j : ChkJob) : State :=
  let s := (s.dropJob n j).wb (.chk n) (F.CHK_CTX_STAT_DONE j.ctx) true
  match j.tile with
  | none => s
  | some (g, uid) => ((s.put (bobbinAt g j.res) (leBytes 8 (s.ctxVal n j.ctx))).2).complete g uid

/-- A tile's CHK runs from here on, from byte `p` with running value `v`. -/
def State.chkRuns (s : State) (j : ChkJob) (p v : Nat) : State :=
  match j.tile with
  | some (g, uid) => s.modFlight g uid fun f => { f with phase := .running, prog := p, aux := v }
  | none => s

/-- The alive comparison and the loads at the start of a descriptor (R441): `none` where it is a repeat, which ends at once. A CHK that resumes is not
compared again; its running value and byte count go into the context (R444). -/
def State.chkBegin (s : State) (n : Nat) (j : ChkJob) : Option ChkJob × State :=
  let k := Blk.chk n
  let last := s.r k (F.CHK_CTX_STAT_LAST_ALIVE j.ctx)
  let s := s.w k (F.CHK_CTX_STAT_ALG j.ctx) j.alg
  let j' := { j with begun := true }
  let begin_ (s : State) (v p : Nat) : State :=
    let u := s.chkU n
    (((s.setCtx n j.ctx v).setBytes n j.ctx p).setChkU n { u with jobs := u.jobs.map fun x => if x.id = j.id then j' else x }).chkRuns j p v
  match j.resume with
  | some (v, p) => (some j', begin_ s v p)
  | none =>
  if !j.load && last == j.alive then (none, ((s.wb k (F.CHK_CTX_STAT_REPEAT j.ctx) true).logChk n 0).chkEnd n j)
  else
    let s := if !j.load && j.alive != (last + 1) % 256 then (s.wb k (F.CHK_CTX_STAT_SKIP j.ctx) true).logChk n 1 else s
    let s := s.w k (F.CHK_CTX_STAT_LAST_ALIVE j.ctx) j.alive
    let v := if j.load then j.init.toNat else s.ctxVal n j.ctx
    (some j', begin_ s (if j.alg = 0 then v % 2 ^ 32 else v) 0)

/-- A scan's request finds no path (R365): a tile's CHK receives the abort, a submission of the control port ends with FAULT (log entry 63). -/
def State.chkCut (s : State) (n : Nat) (j : ChkJob) (p : Nat) : State :=
  let s := s.dropJob n j
  match j.tile with
  | none => s.wb (.chk n) (F.CHK_CTX_STAT_FAULT j.ctx) true
  | some (g, uid) => s.abortFlight g uid p (j.addr + p)

/-- The address of the next byte: a shuttle address of the tile, or a DPA of edge memory. -/
def State.chkAt (s : State) (j : ChkJob) (a n : Nat) : Tr :=
  match j.tile with
  | some (g, _) => s.translate g a n false
  | none => if a + n ≤ edgeEnd then .at_ a else .bad 1

/-- A scan stops at `p` bytes on an uncorrectable line or an address fault (R444). -/
def State.chkStop (s : State) (n : Nat) (j : ChkJob) (p : Nat) (ue : Option Nat) : State :=
  let k := Blk.chk n
  let s := (s.dropJob n j).wb k (if ue.isSome then F.CHK_CTX_STAT_UE j.ctx else F.CHK_CTX_STAT_FAULT j.ctx) true
  match j.tile with
  | none => s
  | some (g, uid) =>
    match ue with
    | some cw => s.ueFault g uid cw p (j.addr + p)
    | none => s.flightFault g uid 0x0C p (j.addr + p) (j.addr + p)

/-- Scans on, access by access up to the end of a 64-byte line, for up to `stop` bytes of the descriptor in all. -/
def State.chkScan (s : State) (n : Nat) (j : ChkJob) (stop : Nat) : Nat → State
  | 0 => s
  | fuel + 1 =>
    let p := s.ctxBytes n j.ctx
    if j.len ≤ p then s.chkEnd n j
    else if stop ≤ p then s
    else
      let a := j.addr + p
      let m := min (lineLeft a) (j.len - p)
      match s.chkAt j a m with
      | .bad _ => s.chkStop n j p none
      | .at_ x =>
        if s.cutOff n x then s.chkCut n j p
        else
          let s := s.unschedPass false x m
          match (if j.tile.isSome then s.fetchT x m else s.fetch x m) with
        | (.error cw, s) => s.chkStop n j p (some cw)
        | (.ok l, s) =>
          let v := crcAlg j.alg (s.ctxVal n j.ctx) l
          let s := ((s.setCtx n j.ctx v).setBytes n j.ctx (p + m)).chkRuns j (p + m) v
          s.chkScan n j stop fuel

/-- The context served next: the first after the last one served that has a descriptor. -/
def ChkUnit.turn (u : ChkUnit) : Option ChkJob :=
  (List.range 16).findSome? fun i => u.jobs.find? fun j => j.ctx == (u.lastCtx + 1 + i) % 16

/-- One turn of a unit: up to 4 KiB of the first descriptor of the next busy context (row CHK_SCAN_TURN). -/
def execChkScanTurn (d : Fin 4) (s : State) : Result :=
  .next (
    let n := d.val
    let u := s.chkU n
    match (if s.live && !s.chkHeld n then u.turn else none) with
    | none => s
    | some j =>
      let s := s.setChkU n { u with lastCtx := j.ctx }
      match (if j.begun then (some j, s) else s.chkBegin n j) with
      | (none, s) => s
      | (some j, s) => s.chkScan n j (s.ctxBytes n j.ctx + 4096) 66)

/-! ### The control port's submissions and writes (R439, R445): the effects of CHK_SUB_CTRL.GO and of CHK_CTX_n_VAL -/

def State.chkSubGo (s : State) (n : Nat) : State :=
  let k := Blk.chk n
  let a := s.r2 k F.CHK_SUB_ADDR_LO_DPA F.CHK_SUB_ADDR_HI_DPA
  let alg := s.r k F.CHK_SUB_CTRL_ALG
  if edgeEnd ≤ a ∨ alg = 3 then s.wb k F.CHK_SUB_STAT_REFUSED true
  else if 16 ≤ (s.chkU n).waiting then s.wb k F.CHK_SUB_STAT_FULL true
  else
    let u := s.chkU n
    s.setChkU n (u.join ⟨0, none, a, s.r2 k F.CHK_SUB_LEN_LO_LEN F.CHK_SUB_LEN_HI_LEN, alg, s.r k F.CHK_SUB_CTRL_CTX,
      s.r k F.CHK_SUB_CTRL_ALIVE, false, 0, 0, false, none⟩)

def ChkUnit.busy (u : ChkUnit) (c : Nat) : Bool := u.jobs.any fun j => j.ctx == c

def State.chkValWrite (s : State) (n c : Nat) (hi : Bool) (v : BitVec 32) : State :=
  let k := Blk.chk n
  if (s.chkU n).busy c then (s.wb k (F.CHK_CTX_STAT_CTX_BUSY c) true).logChk n 2
  else s.w k (if hi then F.CHK_CTX_VAL_HI_VALUE c else F.CHK_CTX_VAL_LO_VALUE c) v.toNat

/-! ### ERR_LOG_SEL and FATAL (R432, R434, R436) -/

/-- The key of a port's latched word. -/
def logKey (q i : Nat) : Nat := q * 16 + i

/-- A write of ERR_LOG_SEL by a requester: the selection and the record's eight words. -/
def State.logLatch (s : State) (q : Nat) (v : BitVec 32) : State :=
  let slot := bits v.toNat 0 12
  let w := match (if bit v.toNat 12 then s.store.fatals.find slot else s.log.find slot) with
    | none => 0
    | some r => r.toNat
  let m := s.logSel.set (logKey q 0) (BitVec.ofNat 32 (v.toNat % 2 ^ 13))
  { s with logSel := (List.range 8).foldl (fun m i => m.set (logKey q (i + 1)) (BitVec.ofNat 32 (bits w (32 * i) 32))) m }

/-- FATAL is cleared and FAULT_N released. -/
def State.clearFatal (s : State) : State := { s.wb .err F.ERR_STATUS_FATAL false with pins := { s.pins with fault := false } }

end Sys2Proof.Machine
end

