-- ==== Sys2Proof/Machine/Stops.lean ====
section
/-! DEFINITION. Stopping a tile's work at its boundaries (R96, R234, R444), for pre-emption and for a STOP at a tack release (R252). -/
namespace Sys2Proof.Machine

/-- SHUT and CHK may be stopped by a pre-emption (R96). -/
def stoppable (f : Flight) : Bool := f.op == 0x06 || f.op == 0x0C

/-- One access of a copy that does not pass the next multiple of 4,096 bytes in transfer order. -/
def State.copyStepTo (s : State) (g : Nat) (f : Flight) : State :=
  let c := copyOf f.desc
  let (src, dst, left) := c.place f.prog
  s.moveChunk g f false f.prog c.total src dst (min (min left (4096 - f.prog % 4096)) (min (lineLeft src) (lineLeft dst)))

/-- A copy runs on to the next multiple of 4,096 bytes, a gather to the next element; a walk stands at a block boundary. -/
def State.stopShut (s : State) (g uid : Nat) : Nat → State
  | 0 => s
  | fuel + 1 =>
    match (s.tile g).flightOf uid with
    | none => s
    | some f =>
      if f.phase ≠ .running then s
      else if shutKind f.desc = 0 ∧ f.prog % 4096 ≠ 0 then (s.copyStepTo g f).stopShut g uid fuel
      else if shutKind f.desc = 1 ∧ f.prog % (gatherOf false f.desc).esz ≠ 0 then (s.gatherStep g f).stopShut g uid fuel
      else s

/-- A tile's CHKs: the one that scans runs on to a 64-byte boundary; their descriptors leave the unit. -/
def State.stopChk (s : State) (g : Nat) : State :=
  let n := dieChk g
  let mine (j : ChkJob) : Bool := j.tile.any fun t => t.1 == g
  let s := ((s.chkU n).jobs.filter fun j => mine j && j.begun).foldl (fun s j =>
    let p := s.ctxBytes n j.ctx
    let stop := p + (64 - (j.addr + p) % 64) % 64
    if p < stop then s.chkScan n j stop 2 else s) s
  let u := s.chkU n
  s.setChkU n { u with jobs := u.jobs.filter fun j => !mine j }

/-- A copy or gather of the tile stands off its boundary, where it waits for an operation of its bolt (R203). -/
def State.midAccess (s : State) (g : Nat) : Bool :=
  (s.tile g).flight.any fun f => f.op == 0x06 && f.phase == .running &&
    ((shutKind f.desc == 0 && f.prog % 4096 != 0) || (shutKind f.desc == 1 && f.prog % (gatherOf false f.desc).esz != 0))

/-- A tile's shuttle and check work stops at its boundaries. -/
def State.stopWork (s : State) (g : Nat) : State :=
  (((s.tile g).flight.filter fun f => f.op == 0x06 && f.phase == .running).foldl (fun s f => s.stopShut g f.uid 4096) s).stopChk g

/-- The tile halts: its core stops, what is open stands at its restart point. -/
def State.haltAll (s : State) (g : Nat) : State :=
  ((s.keepOpen g).modTile g fun t =>
    { t with run := false, waitSeq := none, flight := t.flight.map fun f => if f.open_ then { f with phase := .stopped } else f }).dropStopped g

def State.stopTile (s : State) (g : Nat) : State := (s.stopWork g).haltAll g

end Sys2Proof.Machine
end

