-- ==== Sys2Proof/Machine/Tacks.lean ====
section
/-! DEFINITION. TACK and WAIT, and the tack channel, holds, slips, pace pauses and the tape (chapter 9: R241 to R243, R253 to R263). -/
namespace Sys2Proof.Machine

/-! ### The release of a tack (R252, R258, R287, R288) -/

/-- The release of tack `n` at a tape, the decision being arrived: ports narrow, a schedule is selected, then the tiles go on, or
halt where a STOP waits. -/
def State.releaseTack (s : State) (b n : Nat) (p : Pattern) (at_ : Nat) : State :=
  let s := (List.range 12).foldl (fun s f => if bit p.ports f then s.narrow f (s.fport f).told else s) s
  let cur := s.r (.bolt b) F.PAT_STATUS_SCHED
  let sel := if p.fabric && (s.bolt b).restoreTack != some n then p.fit s.minw else some cur
  match sel with
  | none =>
    let bad := (List.range 12).find? fun f => ((s.schedOf b).map (·.minw)).any fun w => decide (s.minw.getD f 0 < w.getD f 0)
    ((if (s.bolt b).pause = .hold then s else s.holdAt b n at_).modBolt b fun x => { x with release := none }).logLink (bad.getD 0) 0 (some b)
  | some i =>
    let s := if (s.bolt b).pause = .hold then s.unpause b at_ else s
    if (s.bolt b).stopPend then
      let s := (s.w (.bolt b) F.PAT_TACK_TACK n).wb (.bolt b) F.PAT_TACK_ANY true
      ((s.boltTiles b).foldl State.stopTile (s.tacksDone b)).endPattern b
    else
      let s := (s.passTack b n).tacksDone b
      if i = cur then s
      else
        let s := (s.w (.bolt b) F.PAT_STATUS_SCHED i).inc (.fab 0) F.FAB_RESCHED_COUNT_COUNT
        s.reenter b (((p.scheds[i]?).bind fun x => x.tacks[n]?.map (·.2)).getD 0)

/-! ### TACK and WAIT (R253, R254, R421) -/

def tackNo (d : BitVec 512) : Nat := dget d 8 0 24

/-- The bolt of a site when its pattern runs. -/
def State.runBolt (s : State) (g : Nat) : Option Nat :=
  match s.boltOf (g / 160) with
  | some b => if s.patRuns b then some b else none
  | none => none

/-- TACK: reserved bits; then a running pattern, the numbering and TACKS (code 0x0E). -/
def tackCheck (g : Nat) (s : State) (d : BitVec 512) : Check × State :=
  if !dzero d 8 24 8 || !zeroFrom d 160 then (.refuse 0x02, s)
  else
    let n := tackNo d
    let t := s.tile g
    match s.runBolt g with
    | none => (.refuse 0x0E, s)
    | some b =>
      let tacks := ((s.bolt b).pat.map fun p => p.tacks).getD 0
      if tacks ≤ n ∨ (n ≠ t.nextTack ∧ t.altTack ≠ some n) then (.refuse 0x0E, s) else (.ok, s)

/-- TACK issues; a tile on a migrating site faults with code 0x0B (R421). -/
def execTack (t : Site) (s : State) : Result :=
  .next (s.issue t.g (isOp 0x09) (tackCheck t.g) fun s u d =>
    let s := s.modTile t.g fun x => { x with nextTack := tackNo d + 1, altTack := none, lastEase := (dget d 16 0 32, dget d 12 0 32) }
    let s := s.fly t.g ⟨u, d, .running, s.tape, s.tape, 0, 0, 0, tackNo d, []⟩
    if s.migrating t.g then s.flightFault t.g u 0x0B 0 ((s.dpaOf (s.migLine t.g)).getD 0) (s.detailAddr (s.migLine t.g)) else s)

/-- A pre-emption of the bolt is pending for tack `n` (R232). -/
def State.preemptsAt (s : State) (b n : Nat) : Bool :=
  match (s.bolt b).preempt with
  | some none => true
  | some (some k) => k == n
  | none => false

/-- A report of this module enters the combination (R257): its ports will have dropped at R_N the lanes that it counts as failing (R287, R288). -/
def State.ownReports (s : State) (b : Nat) (p : Pattern) (m : TackMsg) : State :=
  let s := if m.pace = 0 then s else s.inc .thm F.THM_PACE_COUNT_COUNT
  let s := (List.range 12).foldl (fun s f => if bit p.ports f then s.setFport f { s.fport f with told := (s.fport f).failing } else s) s
  s.putReport b m

/-- The module's report for the next tack. -/
def State.formReport (s : State) (b : Nat) (p : Pattern) : State := s.ownReports b p (s.ownMsg b p)

/-- The module's own report for the next tack has been formed. -/
def Bolt.hasOwn (x : Bolt) : Bool := x.reports.any fun r => r.from_ == ownReport && r.tack == x.tack

/-- The tile's arrival is reported once every earlier command has completed (R254): before D_N has passed it counts as on time (R257). The
TACK completes, after a pause where one lasts (R263). -/
def execTackArrival (t : Site) (s : State) : Result :=
  .next (
    let x := s.tile t.g
    match x.openOp 0x09, s.runBolt t.g with
    | some f, some b =>
      let n := f.aux
      let earlier := x.flight.any fun y => decide (y.uid < f.uid) && y.phase != .done && !(s.preemptsAt b n && stoppable y)
      if f.phase ≠ .running ∨ x.faulted ∨ x.reported ∨ earlier ∨ !s.live then s
      else
        let s := match (s.bolt b).pat, s.deadlineOf b (s.bolt b).tack with
          | some p, some d => if d < s.countOf b ∧ !(s.bolt b).hasOwn then s.formReport b p else s
          | _, _ => s
        let s := (s.hemPut t.g .tack s.tape n).trigger t.g [.tack n] s.tape
        if n < (s.bolt b).tack then s.complete t.g f.uid
        else
          let s := s.modTile t.g fun x => { x with atTack := some (n, dget f.desc 12 0 32, dget f.desc 16 0 32) }
          let s := s.arrive t.g b n
          if s.boltPaused t.g then s.modTile t.g fun x => { x with reported := true } else s.complete t.g f.uid
    | _, _ => s)

def waitCheck (g : Nat) (s : State) (d : BitVec 512) : Check × State :=
  if !zeroFrom d 160 then (.refuse 0x02, s)
  else if (s.runBolt g).isNone then (.refuse 0x0E, s) else (.ok, s)

/-- WAIT issues and compares the schedule count with TARGET; one that is already passed is a late wait. -/
def execWait (t : Site) (s : State) : Result :=
  .next (s.issue t.g (isOp 0x0A) (waitCheck t.g) fun s u d =>
    let c := ((s.runBolt t.g).map s.countOf).getD 0
    let target := dget d 8 0 64
    let s := s.modTile t.g fun x => { x with lastEase := (dget d 16 0 32, x.lastEase.2) }
    let s := s.fly t.g ⟨u, d, .running, s.tape, s.tape, 0, 0, 0, if target ≤ c then 1 else 0, []⟩
    if target < c then (s.inc (.tile t.g) F.TRC_LATE_WAIT_COUNT).ev t.g 0x11 1 else s)

/-- Tile ease after a WAIT of the hottest tile of a throttling stack (R260, R393). -/
def State.waitEase (s : State) (g b n : Nat) : State :=
  if 1 ≤ s.r .thm (F.THM_STK_LEVEL_LEVEL (g / 160)) ∧ s.r .thm (F.THM_STK_LEVEL_HOT_TILE (g / 160)) = s.ltile g then
    ((s.modTile g fun t => { t with easeUntil := max t.easeUntil (s.tape + n) }).ev g 0x13 (s.tclkSpan s.tape (s.tape + n))).inc (.bolt b)
      F.PAT_EASE_USED_CYCLES n
  else s

/-- A WAIT completes: late or on its count in the TCLK cycle after issue, otherwise when the count reaches TARGET outside any pause. -/
def execWaitComplete (t : Site) (s : State) : Result :=
  .next (
    match (s.tile t.g).openOp 0x0A, s.runBolt t.g with
    | some f, some b =>
      if f.phase ≠ .running ∨ !s.live then s
      else if f.aux = 1 then
        if s.boltPaused t.g then s
        else ((s.advanceTo (f.start + s.tclkCycles 1)).complete t.g f.uid).waitEase t.g b (dget f.desc 16 0 32)
      else
        let target := dget f.desc 8 0 64
        if s.canReach b target then ((s.advanceTo ((s.bolt b).tapeOf target)).complete t.g f.uid).waitEase t.g b (dget f.desc 16 0 32)
        else s
    | _, _ => s)

/-! ### The tack channel (R257, R258, R288 to R292) -/

/-- At schedule count D_N the module forms its report for tack N. -/
def execTackDeadline (b : Fin 12) (s : State) : Result :=
  .next (
    let x := s.bolt b
    match x.pat, s.deadlineOf b x.tack with
    | some p, some d =>
      if !s.patRuns b || x.hasOwn || !s.live then s
      else if d ≤ s.countOf b then s.formReport b p
      else if s.canReach b d then (s.advanceTo (x.tapeOf d)).formReport b p
      else s
    | _, _ => s)

/-- In a held reset the ports go on forwarding the tack-channel messages of a tree: `up` to its parent, else to its children (R398). A report goes no
further: the parent would take it for this module's, which sends none (DEDUCED, log entry 119). -/
def State.relay (s : State) (b : Nat) (up : Bool) (bs : List (BitVec 8)) : State :=
  match s.rst.trees.find b with
  | none => s
  | some (parent, kids) =>
    s.tackSend (if up then (if parent < 12 then [parent] else []) else (List.range 12).filter (bit kids)) bs

/-- A report arrives from a child of the tree and is combined. One for a tack that has been released comes from a restored bolt, which gets the
decision again; one that arrives while the bolt itself is saved waits for its restore (R259; DEDUCED, log entry 31). -/
def execTackReport (b : Fin 12) (r : TackMsg) (s : State) : Result :=
  .next (
    let x := s.bolt b
    match x.pat with
    | some p =>
      if !p.kids.contains r.from_ || s.trace.stopped then s
      else if !s.patRuns b then s.setBolt b { x with reports := x.reports ++ [r] }
      else if x.tack ≤ r.tack then s.putReport b r
      else s.sendDecision b [r.from_] { r with late := false, lateXyz := none }
    | none => s)

/-- The root's decision for the next tack arrives; to a bolt restored at that tack it gives its release (R259; DEDUCED, log entry 31). -/
def execTackDecision (b : Fin 12) (d : TackMsg) (s : State) : Result :=
  .next (
    let x := s.bolt b
    match x.pat with
    | some p =>
      if !s.patLive b || p.isRoot || d.tack != x.tack || x.decision.isSome then s
      else
        let s := s.takeDecision b p d
        if x.restoreTack = some d.tack ∧ x.pause = .hold ∧ x.release = none ∧ !d.late then
          s.modBolt b fun x => { x with release := some (s.tape + p.tackLat) }
        else s
    | none => s.relay b false (tackBytes 2 b d))

/-- A slip or a pace pause stands before a count. -/
def Bolt.pauseBefore (x : Bolt) (r : Nat) : Bool :=
  (x.slips ++ (x.paces.filterMap fun q => if q.1 < x.tack then some x.relAt else none)).any fun v => decide (v < r)

/-- At schedule count R_N the tiles go on when every tile of the fabric arrived, and the bolt holds when one was late (R258), when the decision
is missing (R292) or when no schedule fits (R288). A pre-emption at this tack comes first (R232). -/
def execTackRelease (b : Fin 12) (s : State) : Result :=
  .next (
    let x := s.bolt b
    match x.pat, s.releaseOf b x.tack with
    | some p, some r =>
      if !s.patLive b || x.pause != .none || !x.hasOwn || s.preemptsAt b x.tack || !s.live then s
      else if x.pauseBefore r then s
      else
        let s := s.advanceTo (x.tapeOf r)
        match x.decision with
        | none => ((s.holdAt b x.tack (x.tapeOf r)).modBolt b fun x => { x with silent := true }).logEv
            { cls := .fatal, source := Src.bolt, index := b, bolt := some b.val, detail := x.tack }
        | some m => if m.late then s.holdAt b x.tack (x.tapeOf r) else s.releaseTack b x.tack p (x.tapeOf r)
    | _, _ => s)

/-- A hold has a release tape H, and ends then. -/
def execHoldRelease (b : Fin 12) (s : State) : Result :=
  .next (
    let x := s.bolt b
    match x.pat, x.release with
    | some p, some h =>
      if x.pause != .hold || s.preemptsAt b x.tack || !s.patLive b then s
      else
        let s := s.advanceTo h
        (s.w (.bolt b) F.PAT_HOLD_LEN_CYCLES (min (h - x.pauseFrom) (2 ^ 32 - 1))).releaseTack b x.tack p h
    | _, _ => s)

/-- The root's broadcast of the release tape reaches this module and goes on to its children. -/
def execHoldReleaseMessage (b : Fin 12) (h : Nat) (s : State) : Result :=
  .next (
    match (s.bolt b).pat with
    | some p =>
      if !s.patLive b || p.isRoot then s
      else
        (s.modBolt b fun x => { x with release := some h }).sendRelease b p.kids h
    | none => s.relay b false (countBytes 5 b h))

/-- A hold reaches 10 ms (R259): HOLD_LONG, the hold's record, and the owner's bolt vector (R321). -/
def execHoldLong (b : Fin 12) (s : State) : Result :=
  .next (
    let x := s.bolt b
    if x.pause != .hold || x.holdFlag || !s.patRuns b then s
    else
      let s := (s.advanceTo (x.holdFrom + 10000000)).modBolt b fun x => { x with holdFlag := true }
      let xyz := match x.lateMod with
        | some (a, c, d) => a + c * 16 + d * 256
        | none => 0
      ((s.wb (.bolt b) F.PAT_STATUS_HOLD_LONG true).logEv
        { cls := .protocol, source := Src.bolt, index := b, bolt := some b.val, detail := x.tack % 2 ^ 24 + xyz * 2 ^ 24 }).boltIrq b)

/-! ### Slips and pace pauses (R261 to R263) -/

/-- A slip request reaches this module: the root takes it and broadcasts it, another sends it on. -/
def execSlipRequest (b : Fin 12) (sc : Nat) (s : State) : Result :=
  .next (if s.patLive b then s.slipUp b sc else s.relay b true (countBytes 3 b sc))

/-- A slip broadcast reaches this module. -/
def execSlipBroadcast (b : Fin 12) (sc : Nat) (s : State) : Result :=
  .next (
    match (s.bolt b).pat with
    | some p =>
      if !s.patLive b || p.isRoot then s
      else
        (s.addSlip b sc p).sendSlip b p.kids sc
    | none => s.relay b false (countBytes 4 b sc))

/-- The count stops at a slip's count, once it advances there: after the release of a tack and a pace pause at or before it. -/
def execSlipStart (b : Fin 12) (s : State) : Result :=
  .next (
    let x := s.bolt b
    match x.slips, x.pat with
    | v0 :: rest, some p =>
      let v := rest.foldl min v0
      let tackFirst := (s.releaseOf b x.tack).any fun r => decide (r ≤ v)
      let paceFirst := x.paces.any fun q => decide (q.1 < x.tack)
      if !s.patLive b || x.pause != .none || tackFirst || paceFirst then s
      else
        let at_ := x.tapeOf v
        let s := (s.advanceTo at_).setBolt b { x with pauseFrom := at_, pause := .slip (at_ + p.slipLen), slips := x.slips.erase v }
        let k := Blk.bolt b
        ((s.inc k F.PAT_SLIPS_COUNT).w2 k F.PAT_LAST_SLIP_LO_TAPE F.PAT_LAST_SLIP_HI_TAPE at_).setPat b 6
    | _, _ => s)

/-- Ports claimed by a bolt. -/
def State.boltPorts (s : State) (b : Nat) : List Nat := (List.range 12).filter fun f => s.portBolt f == some b

/-- The slip ends: its backlog has gone out meanwhile, and a port still more than 600 tape cycles late asks for another slip (R284). -/
def execSlipEnd (b : Fin 12) (s : State) : Result :=
  .next (
    match (if s.trace.stopped then .none else (s.bolt b).pause) with
    | .slip u =>
      let s := (s.advanceTo u).unpause b u
      let s := (s.boltPorts b).foldl (fun s f =>
        let s := s.pumpAll f
        if s.tooLate f then s.askSlip f else s.modFport f fun p => { p with slipAsked := false }) s
      s.tacksDone b
    | _ => s)

/-- At R_N of a tack that carries one, the pace pause starts, after the release of that tack. -/
def execPaceStart (b : Fin 12) (s : State) : Result :=
  .next (
    let x := s.bolt b
    match x.paces.find? fun q => decide (q.1 < x.tack) with
    | none => s
    | some q =>
      if !s.patLive b || x.pause != .none then s
      else
        let at_ := x.tapeOf x.relAt
        let s := (s.advanceTo at_).setBolt b { x with pauseFrom := at_, pause := .pace (at_ + q.2), paces := x.paces.erase q }
        (s.inc (.bolt b) F.PAT_PACES_COUNT).setPat b 6)

def execPaceEnd (b : Fin 12) (s : State) : Result :=
  .next (
    match (if s.trace.stopped then .none else (s.bolt b).pause) with
    | .pace u =>
      ((s.advanceTo u).unpause b u).tacksDone b
    | _ => s)

/-! ### The tape (R241 to R243, R294) -/

/-- Some bolt has a started pattern (R242). -/
def State.anyStarted (s : State) : Bool := (List.range 12).any fun b => s.patRuns b

/-- A slew of `n` counts at 100 ppm begins: it lasts 10,000 tape cycles for each (R242). -/
def State.slewBy (s : State) (tenths : Nat) : State := { s with slewTo := s.tape + tenths * 1000 }

/-- A rising edge on TAPE_SYNC_IN (R243): on the root it assigns TAPE_SYNC_VAL, by a step while no pattern runs here or `elsewhere` in the fabric, and
by a slew otherwise; the stamp takes the count of the cycle in which it is sampled. -/
def execTapeSyncInEdge (elsewhere : Bool) (s : State) : Result :=
  .next (
    let v := s.r2 .tape F.TAPE_SYNC_VAL_LO_VALUE F.TAPE_SYNC_VAL_HI_VALUE
    let assign := s.b .tape F.TAPE_STATUS_ROOT && s.b .tape F.TAPE_SYNC_CFG_IN_EN
    let s := if !assign then s
      else if s.anyStarted || elsewhere then s.slewBy (((v : Int) - s.tape).natAbs * 10)
      else { s with tape := v, slewTo := 0 }
    s.w2 .tape F.TAPE_SYNC_STAMP_LO_TAPE F.TAPE_SYNC_STAMP_HI_TAPE s.tape)

/-- TAPE_SYNC_OUT rises at the next multiple of 2^OUT_SHIFT and stays high for 100 tape cycles (R243). -/
def execTapeSyncOutPulse (s : State) : Result :=
  .next (
    if !s.b .tape F.TAPE_SYNC_CFG_OUT_EN then s
    else
      let n := 2 ^ s.r .tape F.TAPE_SYNC_CFG_OUT_SHIFT
      let at_ := ceilDiv s.tape n * n
      let at_ := if s.pins.syncPulse = at_ + 100 then at_ + n else at_
      let s := s.advanceTo at_
      ({ s with pins := { s.pins with syncPulse := at_ + 100 } }).send (.pin "TAPE_SYNC_OUT" true))

/-- The timing exchange with the parent that R293 names (R294), the stamps in tape counts and the asymmetry in tenths of a nanosecond: the offset is
corrected by a step, or by a slew while a pattern is started (R242). Rounds to whole tape counts when it steps. -/
def execTimingExchange (t1 t2 t3 t4 asym : Int) (s : State) : Result :=
  .next (
    if s.parentPort.isNone then s
    else
      let off10 := ((t2 - t1) - (t4 - t3)) * 5 - asym
      let k := Blk.tape
      let stepped := !s.anyStarted
      let move := (off10 + 5).fdiv 10
      let s := if stepped then { s with tape := ((s.tape : Int) + move).toNat } else s.slewBy off10.natAbs
      let left := if stepped then off10 - move * 10 else off10
      let v := if 127 < left then 127 else if left < -128 then -128 else left
      let s := s.w k F.TAPE_STATUS_OFFSET (BitVec.ofInt 8 v).toNat
      s.wb k F.TAPE_STATUS_ALIGNED (s.b k F.TAPE_STATUS_LOCKED && decide (left.natAbs ≤ 40)))

end Sys2Proof.Machine
end

