-- ==== Sys2Proof/Machine/Patterns.lean ====
section
/-! DEFINITION. Loading, admission, start, stop and end of patterns (R245 to R256, R490, R218, R411, Tables 9.1 to 9.4, 9.9). -/
namespace Sys2Proof.Machine

/-! ### Reading an image -/

/-- An image: what reads `n` bytes at an offset, little-endian, and its sections (type, length, offset). -/
structure Image where
  base  : Nat
  len   : Nat
  rd    : Nat → Nat → Nat
  sects : List (Nat × Nat × Nat)

/-- `n` bytes at an offset are all zero. -/
def Image.zero (i : Image) (off n : Nat) : Bool := (List.range n).all fun k => i.rd (off + k) 1 == 0

/-- The image at a DPA as memory holds it. -/
def State.imageAt (s : State) (base : Nat) : Image :=
  let rd := fun off n => s.mem.readLE (base + off) n
  { base := base, len := rd 8 8, rd := rd,
    sects := (List.range (min (rd 6 2) 64)).map fun k => (rd (0x100 + 16 * k) 2, rd (0x104 + 16 * k) 4, rd (0x108 + 16 * k) 8) }

def Image.nsec (i : Image) : Nat := i.rd 6 2
def Image.tableEnd (i : Image) : Nat := 0x100 + 16 * i.nsec
/-- The index, length and offset of the first section of a type. -/
def Image.sect (i : Image) (ty : Nat) : Option (Nat × Nat × Nat) :=
  (i.sects.zipIdx.find? fun x => x.1.1 == ty).map fun x => (x.2, x.1.2.1, x.1.2.2)
/-- The schedule sections in image order: index, length, offset. -/
def Image.schedSects (i : Image) : List (Nat × Nat × Nat) :=
  (i.sects.zipIdx.filter fun x => x.1.1 == 6).map fun x => (x.2, x.1.2.1, x.1.2.2)
/-- Index, length and offset of a section, all 0 where the image has none. -/
def Image.sectD (i : Image) (ty : Nat) : Nat × Nat × Nat := (i.sect ty).getD (0, 0, 0)

def Image.ntiles (i : Image) : Nat := i.rd (i.sectD 1).2.2 4
def Image.nranges (i : Image) : Nat := i.rd ((i.sectD 1).2.2 + 4) 4
/-- A tile entry of the claims section (Table 9.9): tile, bobbin bytes, private bytes. -/
def Image.tileClaim (i : Image) (k : Nat) : Nat × Nat × Nat :=
  let a := (i.sectD 1).2.2 + 0x100 + 16 * k
  (i.rd a 2 % 2048, i.rd (a + 4) 4, i.rd (a + 8) 4)
/-- A range in the layout of RANGE_r at an offset. -/
def Image.range (i : Image) (a : Nat) : ERange := ⟨i.rd a 1 % 16, i.rd (a + 4) 4 * 65536, i.rd (a + 8) 4 * 65536⟩
/-- The tiles of the tile programs section with the offsets of their images (log entry 18). -/
def Image.progs (i : Image) : List (Nat × Nat) :=
  let (_, l, o) := i.sectD 2
  (List.range (l / 131076)).map fun k => (i.rd (o + 131076 * k) 4, o + 131076 * k + 4)
/-- A window entry: BASE_LO, BASE_HI, LEN_LO, LEN_HI words (Table 8.11). -/
def Image.win (i : Image) (w : Nat) : List Nat :=
  match i.sect 3 with
  | none => [0, 0, 0, 0]
  | some (_, _, o) => (List.range 4).map fun j => i.rd (o + 16 * w + 4 * j) 4
/-- The rings of section 0x0005 (log entry 17): stack, unit, ring, BASE, SLOTS_M1. -/
def Image.rings (i : Image) : List (Nat × Nat × Nat × Nat × Nat) :=
  let (_, l, o) := i.sectD 5
  (List.range (l / 16)).map fun k =>
    let a := o + 16 * k
    (i.rd a 1, i.rd (a + 1) 1, i.rd (a + 2) 1, i.rd (a + 4) 8, i.rd (a + 12) 2)
/-- A schedule section. -/
def Image.schedOf (i : Image) (o tacks : Nat) : Sched :=
  { minw := (List.range 12).map fun f => i.rd (o + f) 1, start := i.rd (o + 12) 4,
    tacks := (List.range tacks).map fun n => (i.rd (o + 16 + 12 * n) 8, i.rd (o + 24 + 12 * n) 4) }

/-- The pattern that an image holds. -/
def Image.pattern (i : Image) : Pattern :=
  let c := (i.sectD 1).2.2
  let tacks := i.rd 0x18 4
  { stkMask := i.rd 0x10 2, fabric := bit (i.rd 0x12 1) 0, thermal := i.rd 0x13 1, reserve := i.rd 0x14 1, tacks := tacks,
    maxInt := i.rd 0x1C 4, tackLat := i.rd 0x20 4, slipLen := i.rd 0x24 4, coord := i.rd 0x28 3, dims := i.rd 0x2B 3, aclk := i.rd 0x2E 2,
    tiles := i.progs.map fun p =>
      (p.1, match ((List.range i.ntiles).map i.tileClaim).find? (fun t => t.1 == p.1) with | some t => t.2 | none => (0, 0)),
    ranges := (List.range i.nranges).map fun r => i.range (c + 0x100 + 16 * i.ntiles + 16 * r),
    ports := i.rd (c + 8) 2, edgeBw := (List.range 12).map fun e => i.rd (c + 0x10 + 16 * e) 4,
    needle := (List.range 12).map fun e => i.rd (c + 0x14 + 16 * e) 8,
    seamBw := (List.range 8).map fun k => i.rd (c + 0xD0 + 4 * k) 4, rings := i.rings,
    scheds := i.schedSects.map fun x => i.schedOf x.2.2 tacks,
    parent := (i.sect 7).elim 0xFF (fun x => i.rd x.2.2 1), children := (i.sect 7).elim 0 (fun x => i.rd (x.2.2 + 2) 2),
    retag := match i.sect 8 with
      | none => []
      | some (_, l, o) => ((List.range (l / 16)).filter fun k => !bit (i.rd (o + 16 * k + 1) 1) 0).map fun k => i.range (o + 16 * k) }

/-- The declared NBU destination ranges without RETAG, which byte 1 bit 0 of an entry marks (DESIGN CHOICE, log entry 17). -/
def Image.plainDst (i : Image) : List ERange :=
  match i.sect 8 with
  | none => []
  | some (_, l, o) => ((List.range (l / 16)).filter fun k => bit (i.rd (o + 16 * k + 1) 1) 0).map fun k => i.range (o + 16 * k)

/-! ### The checks of Table 9.4: each answers the detail of its first failure -/

abbrev Chk := Option Nat
def failIf (c : Bool) (detail : Nat) : Chk := if c then some detail else none
def firstFail (l : List Chk) : Chk := l.findSome? id

/-- 0x01 IMAGE_FORMAT. -/
def chkFormat (i : Image) : Chk := failIf (i.rd 0 4 != 0x51544150 || i.rd 4 2 != 1) 0

/-- The header and the section table (check 0x02). -/
def chkHeader (i : Image) : Chk :=
  failIf (edgeEnd < i.base + i.len || i.len < i.tableEnd || i.nsec == 0 || 64 < i.nsec || !i.zero 0x16 2 || !i.zero 0x30 0xD0
    || 0xFFF < i.rd 0x10 2 || 1 < i.rd 0x12 1 || 2 < i.rd 0x13 1 || 2 < i.rd 0x14 1 || i.rd 0x15 1 == 0 || 8 < i.rd 0x15 1) 0

/-- A section lies wholly after the table, within the image, apart from every other, and has a known type once (schedules NSCHED times). -/
def chkSections (i : Image) : Chk :=
  firstFail (i.sects.zipIdx.map fun (x, k) =>
    let (ty, l, o) := x
    failIf (i.rd (0x102 + 16 * k) 2 != 0 || ty == 0 || 8 < ty || o < i.tableEnd || i.len < o + l ||
      (i.sects.zipIdx.any fun (y, j) => decide (j < k) && (decide (y.2.2 < o + l ∧ o < y.2.2 + y.2.1 ∧ 0 < l ∧ 0 < y.2.1)
        || (ty != 6 && y.1 == ty)))) k)

/-- The required sections are there. -/
def chkRequired (i : Image) : Chk :=
  failIf ((i.sect 1).isNone || (i.sect 2).isNone || i.schedSects.length != i.rd 0x15 1 || (bit (i.rd 0x12 1) 0 && (i.sect 7).isNone)) 0

/-- The claims section has the layout of Table 9.9 (R490). -/
def chkClaims (i : Image) : Chk :=
  let (k, l, o) := i.sectD 1
  let tiles := (List.range i.ntiles).map fun t => (i.tileClaim t).1
  failIf (l != 0x100 + 16 * (i.ntiles + i.nranges) || 0xFFF < i.rd (o + 8) 2 || !i.zero (o + 10) 6 || !i.zero (o + 0xF0) 16
    || !(List.range 12).all (fun e => i.zero (o + 0x10 + 16 * e + 12) 4)
    || !(List.range i.ntiles).all (fun t => i.rd (o + 0x100 + 16 * t) 4 < 2048 && i.zero (o + 0x100 + 16 * t + 12) 4)
    || !(List.range i.nranges).all (fun r =>
        let a := o + 0x100 + 16 * (i.ntiles + r)
        i.rd a 1 < 16 && i.zero (a + 1) 3 && i.zero (a + 12) 4)
    || !tiles.all (fun t => (tiles.filter (· == t)).length == 1 && i.progs.any (fun p => p.1 == t))
    || !i.progs.all (fun p => tiles.contains p.1)) k

/-- The lengths and reserved fields of the other sections. -/
def chkLayout (i : Image) : Chk :=
  let len (ty : Nat) (ok : Nat → Nat → Bool) : Chk := match i.sect ty with
    | none => none
    | some (k, l, o) => failIf (!ok l o) k
  firstFail ([len 2 fun l _ => l % 131076 == 0 && (i.progs.all fun p => (i.progs.filter fun q => q.1 == p.1).length == 1),
    len 3 fun l _ => l == 1024,
    len 4 fun l o => l == 0xF0 && i.rd o 4 < 256 && i.rd (o + 4) 4 < 2 ^ 14 && i.zero (o + 8) 8 && i.zero (o + 0xE4) 4
      && (List.range 12).all fun n => i.rd (o + 0x10 + 16 * n) 4 < 2 ^ 21 && i.rd (o + 0x14 + 16 * n) 4 < 2 ^ 23 && i.rd (o + 0x18 + 16 * n) 4 < 2 ^ 23
        && bits (i.rd (o + 0x1C + 16 * n) 4) 23 8 == 0
      && i.rd (o + 0xD0) 4 % 2 ^ 25 == 0 && i.zero (o + 0xD6) 2 && i.rd (o + 0xD8) 4 % 64 == 0 && i.zero (o + 0xDE) 2 && i.zero (o + 0xE2) 2,
    len 5 fun l o => l % 16 == 0 && (List.range (l / 16)).all fun k => i.zero (o + 16 * k + 3) 1 && i.zero (o + 16 * k + 14) 2,
    len 7 fun l o => 4 ≤ l && i.zero (o + 1) 1,
    len 8 fun l o => l % 16 == 0 && (List.range (l / 16)).all fun k =>
      i.rd (o + 16 * k) 1 < 16 && i.rd (o + 16 * k + 1) 1 < 2 && i.zero (o + 16 * k + 2) 2 && i.zero (o + 16 * k + 12) 4]
    ++ i.schedSects.map fun (k, l, o) => failIf (16 ≤ l && !(List.range 12).all fun f => [0, 1, 2, 4].contains (i.rd (o + f) 1)) k)

/-- 0x03 BOLT. -/
def chkBolt (s : State) (b : Nat) (p : Pattern) : Chk :=
  failIf (p.stkMask != s.r (.bolt b) F.BOLT_STACKS_STACKS || s.owner b != some (s.bolt b).loadBy) b

/-- 0x04 TILE_COUNT, 0x05 BOBBIN, 0x06 PRIVATE. -/
def chkTiles (s : State) (p : Pattern) : Chk := firstFail (p.tiles.map fun t => failIf (!bit p.stkMask (t.1 / 144) || (s.siteOf t.1).isNone) t.1)
def chkBobbin (p : Pattern) : Chk := firstFail (p.tiles.map fun t => failIf (bobbinBytes < t.2.1) t.1)
def chkPrivate (p : Pattern) : Chk := firstFail (p.tiles.map fun t => failIf (sliceBytes < t.2.2) t.1)

def ERange.meets (a c : ERange) : Bool := a.stack == c.stack && decide (a.off < c.off + c.len ∧ c.off < a.off + a.len)
def ERange.inside (a : ERange) (l : List ERange) : Bool := l.any fun c => a.stack == c.stack && decide (c.off ≤ a.off ∧ a.off + a.len ≤ c.off + c.len)
/-- The in-stack bytes of a ring (R192). -/
def ringRange (r : Nat × Nat × Nat × Nat × Nat) : ERange := ⟨r.1, r.2.2.2.1 * 64, 64 + 96 * (r.2.2.2.2 + 1)⟩

/-- The patterns that other bolts hold. -/
def State.otherPats (s : State) (b : Nat) : List Pattern :=
  (List.range 12).filterMap fun o => if o ≠ b ∧ s.patHolds o then (s.bolt o).pat else none

/-- The image parts of other bolts whose state is saved (R235). -/
def State.savedParts (s : State) (b : Nat) : List ERange :=
  (List.range 12).filterMap fun k =>
    if s.r (.stk k) F.CTX_STATUS_STATE = 3 ∧ s.boltOf k ≠ some b then
      let a := s.r (.stk k) F.CTX_BASE_LO_ADDR * 65536 + s.r (.stk k) F.CTX_BASE_HI_ADDR * 2 ^ 32
      some ⟨a / edgeBytes, a % edgeBytes, 0x12010000⟩
    else none

/-- 0x07 EDGE_RANGE. -/
def chkRanges (s : State) (b : Nat) (p : Pattern) : Chk :=
  let held := (s.otherPats b).flatMap (fun q => q.ranges ++ q.rings.map ringRange) ++ s.savedParts b
  firstFail (p.ranges.map fun r =>
    failIf (12 ≤ r.stack || edgeBytes < r.off + r.len || !s.b (.edge r.stack) F.EDGE_STATUS_TRAINED || held.any r.meets) r.stack)

/-- The lines of [a, a + n) of edge memory lie in the ranges, piece by piece. -/
def coveredN (l : List ERange) (e : Nat) : Nat → Nat → Nat → Bool
  | 0, a, last => decide (last ≤ a)
  | k + 1, a, last =>
    decide (last ≤ a) || match l.find? fun r => r.stack == e && decide (r.off ≤ a ∧ a < r.off + r.len) with
      | some r => coveredN l e k (r.off + r.len) last
      | none => false
def ERange.covered (r : ERange) (l : List ERange) : Bool := coveredN l r.stack (l.length + 1) r.off (r.off + r.len)
/-- The pieces of a DPA run in edge memory, stack by stack. -/
def edgePieces (a n : Nat) : List ERange :=
  (List.range 12).filterMap fun e =>
    let lo := max a (e * edgeBytes)
    let hi := min (a + n) ((e + 1) * edgeBytes)
    if lo < hi then some ⟨e, lo - e * edgeBytes, hi - lo⟩ else none

/-- 0x08 WINDOW (R218): the detail is the window's number. -/
def chkWindows (s : State) (i : Image) (p : Pattern) : Chk :=
  firstFail ((List.range 64).map fun w =>
    let v := i.win w
    let hi := v.getD 3 0
    let base := v.getD 0 0 + v.getD 1 0 % 65536 * 2 ^ 32
    let len := v.getD 2 0 + hi % 512 * 2 ^ 32
    let ok := if bits hi 16 2 = 0 then
        (s.runOf base len).isSome && (edgePieces base len).all fun r => r.covered p.ranges
      else true
    failIf (bit hi 20 && (bits hi 16 2 == 3 || v.getD 0 0 % 64 != 0 || v.getD 2 0 % 64 != 0 || !ok)) w)

/-- A bolt holds a run of edge memory in its claims while its pattern runs. -/
def State.runHolds (s : State) (r : ERange) : Bool :=
  (List.range 12).any fun o => s.patRuns o && (s.bolt o).pat.any fun q => r.covered q.ranges

/-- 0x09 SWATCH (R141, R142, R246). -/
def chkSwatch (s : State) (b : Nat) (i : Image) (p : Pattern) : Chk :=
  match i.sect 4 with
  | none => none
  | some (k, _, o) =>
    let cfg := i.rd o 4
    if !bit cfg 3 then none
    else
      let sz := 0x10000 * 2 ^ (cfg % 4)
      let seg (n : Nat) : Nat × Nat × Nat := (i.rd (o + 0x10 + 16 * n) 4, i.rd (o + 0x14 + 16 * n) 4, i.rd (o + 0x18 + 16 * n) 4)
      let segs := ((List.range 12).map fun n => (n, seg n)).filter fun x => x.2.2.2 != 0
      let rng (x : Nat × Nat × Nat × Nat) : ERange := ⟨x.1, x.2.1 * 65536, x.2.2.2 * (sz + sz / 16)⟩
      let at_ (d n : Nat) : ERange := ⟨d / edgeBytes, d % edgeBytes, n⟩
      let table := at_ s.tableBase 0x4000000
      let tree := at_ (i.rd (o + 0xD0) 4 + i.rd (o + 0xD4) 2 * 2 ^ 32) 0x2000000
      let mode := bit cfg 2
      let others := (List.range 12).filter fun q => q != b && s.patHolds q
      let otherSegs := others.flatMap fun q =>
        match (List.range 12).find? (fun st => bit (s.r (.bolt q) F.BOLT_STACKS_STACKS) st) with
        | none => []
        | some st => if !s.b (.stk st) F.SWT_CFG_EN then [] else
          ((List.range 12).map fun n => (s.r (.stk st) (F.SWT_SEG_FIRST_FIRST n), s.r (.stk st) (F.SWT_SEG_COUNT_COUNT n))).filter fun x => x.2 != 0
      let placeOk (r : ERange) : Bool := r.covered p.ranges || s.runHolds r
      firstFail ([failIf (mode != (p.fabric || 4 ≤ popCount p.stkMask) || !placeOk table || (mode && !placeOk tree)) k] ++
        segs.map fun x => failIf (x.2.1 % (sz / 65536) != 0 || edgeBytes < (rng x).off + (rng x).len || 8388608 < x.2.2.1 + x.2.2.2
          || (rng x).meets table || (mode && (rng x).meets tree)
          || (segs.any fun y => y.1 != x.1 && decide (y.2.2.1 < x.2.2.1 + x.2.2.2 ∧ x.2.2.1 < y.2.2.1 + y.2.2.2))
          || (otherSegs.any fun y => decide (y.1 < x.2.2.1 + x.2.2.2 ∧ x.2.2.1 < y.1 + y.2))) x.1)

/-- 0x0A NBU (R213, R207). -/
def chkNbu (s : State) (b : Nat) (i : Image) (p : Pattern) : Chk :=
  firstFail ((p.rings.map fun r =>
      let k := Blk.nbu (nbuNo r.1 r.2.1)
      failIf (12 ≤ r.1 || 32 ≤ r.2.1 || 4 ≤ r.2.2.1 || r.2.2.2.2 == 0 || 255 < r.2.2.2.2 || !(ringRange r).covered p.ranges
        || (s.b k (F.NBU_RING_CFG_EN r.2.2.1) && !(s.r k (F.NBU_RING_CFG_OWNER r.2.2.1) == 0 && s.r k (F.NBU_RING_CFG_BOLT r.2.2.1) == b))) r.1)
    ++ i.plainDst.map fun d => failIf ((s.tagRegions d.stack).any fun t => t.2.meets d) d.stack)

/-- 0x0B EDGE_BW (R255) and 0x0C SEAM_BW (R256), over all running and admitted bolts. -/
def chkEdgeBw (s : State) (b : Nat) (p : Pattern) : Chk :=
  let all := p :: s.otherPats b
  firstFail ((List.range 12).map fun e =>
    let bw := (all.map fun q => q.edgeBw.getD e 0).foldl (· + ·) 0
    let nd := (all.map fun q => q.needle.getD e 0).foldl (· + ·) 0
    failIf (36 * 10 ^ 9 * 64 < bw * 10 ^ 9 + 128 * nd || 24 * 10 ^ 8 < nd) e)
def chkSeamBw (s : State) (b : Nat) (p : Pattern) : Chk :=
  let all := p :: s.otherPats b
  firstFail ((List.range 8).map fun k =>
    let bw := (all.map fun q => q.seamBw.getD k 0).foldl (· + ·) 0
    let lim := match s.r .rst (F.SEAM_STATUS_WIDTH (k / 2)) with
      | 2 => 1920
      | 1 => 960
      | _ => 0
    failIf (lim < bw) (k / 2))

/-- The trained widths of ports 0 to 11. -/
def State.widths (s : State) : List Nat := (List.range 12).map s.fabWidth

/-- 0x0D FABRIC. -/
def chkFabric (s : State) (b : Nat) (p : Pattern) : Chk :=
  let held := (s.otherPats b).map (·.ports)
  let (x, y, z) := s.coord
  let k := Blk.fab 0
  firstFail ((List.range 12).map (fun f => failIf (bit p.ports f && held.any fun m => bit m f) f) ++
    [failIf (p.fabric && (p.coord != x + y * 256 + z * 65536 ||
       p.dims != (s.r k F.FAB_COORD_DX_M1 + 1) + (s.r k F.FAB_COORD_DY_M1 + 1) * 256 + (s.r k F.FAB_COORD_DZ_M1 + 1) * 65536 ||
       !s.b k F.FAB_TOPO_VERIFIED)) 0,
     failIf ((p.fit s.widths).isNone) (((List.range 12).find? fun f => p.scheds.all fun q => decide (s.fabWidth f < q.minw.getD f 0)).getD 0)])

/-- The tack channel bound (R291); the depth of a fabric's tree is at least half of each dimension (DEDUCED, log entry 32). -/
def tackBound (p : Pattern) : Nat :=
  600 + 1200 * (if p.fabric then bits p.dims 0 8 / 2 + bits p.dims 8 8 / 2 + bits p.dims 16 8 / 2 else 0)

/-- 0x0E TACK. -/
def chkTack (p : Pattern) : Chk :=
  firstFail (failIf (p.tacks == 0 || 2 ^ 24 < p.tacks || 10000000 < p.maxInt || p.tackLat < tackBound p) 0 ::
    p.scheds.flatMap fun q => q.tacks.zipIdx.map fun (t, n) =>
      let prev := if n = 0 then 0 else ((q.tacks[n - 1]?).map (·.1)).getD 0
      failIf (t.1 ≤ prev || p.maxInt < t.1 - prev || t.1 - prev < 2 * p.tackLat) n)

/-- 0x0F REFRESH. -/
def chkRefresh (s : State) (p : Pattern) : Chk :=
  firstFail (failIf (decide (p.reserve < p.thermal)) 0 :: p.ranges.map fun r =>
    failIf ((List.range 12).any (fun o => s.patRuns o && (s.bolt o).pat.any fun q => q.ranges.any fun c => c.stack == r.stack)
      && s.edgeReserve r.stack < p.reserve) r.stack)

/-- 0x10 THERMAL (R411, Table 14.5): temperatures in sixteenths of a degree. -/
def chkThermal (s : State) (p : Pattern) : Chk :=
  let inlet := if (s.sensor 4768).bad then 0 else sext 16 (s.r .thm F.THM_COOLANT_INLET)
  let stks := (List.range 12).filter fun k => bit p.stkMask k
  let hot (lim : Int) : Chk := firstFail (stks.map fun k => failIf (decide (lim < sext 16 (s.r .thm (F.THM_STK_DRAM k)))) k)
  match p.thermal with
  | 0 => firstFail [failIf (decide (25 * 16 < inlet) || s.b .thm F.THM_STATUS_COOL_WARN
           || s.r .thm F.PWR_STATUS_IN_FORCE * 4 < s.r .id F.ID_W3_PWR_FUSED * 3) 0, hot (80 * 16)]
  | 1 => firstFail [failIf (decide (35 * 16 < inlet) || s.b .thm F.THM_STATUS_COOL_WARN) 0, hot (90 * 16)]
  | _ => failIf s.rst.heldShut 0

/-- 0x11 SCHEDULE: the section where the length is wrong, else the tack of the bad entry point. -/
def chkSched (i : Image) (p : Pattern) : Chk :=
  firstFail ((i.schedSects.map fun (k, l, _) => failIf (l != 16 + 12 * p.tacks) k) ++ p.scheds.flatMap fun q =>
    failIf (65536 ≤ q.start || q.start % 4 != 0) 0 :: q.tacks.zipIdx.map fun (t, n) => failIf (65536 ≤ t.2 || t.2 % 4 != 0) n)

/-- The checks of Table 9.4 in the order listed; the first failing one with its code. -/
def State.admitCheck (s : State) (b : Nat) (i : Image) : Option (Nat × Nat) :=
  let p := i.pattern
  let lay := firstFail [chkHeader i, chkSections i, chkRequired i]
  ([(0x01, chkFormat i), (0x02, if lay.isSome then lay else firstFail [chkClaims i, chkLayout i]), (0x03, chkBolt s b p), (0x04, chkTiles s p),
    (0x05, chkBobbin p), (0x06, chkPrivate p), (0x07, chkRanges s b p), (0x08, chkWindows s i p), (0x09, chkSwatch s b i p),
    (0x0A, chkNbu s b i p), (0x0B, chkEdgeBw s b p), (0x0C, chkSeamBw s b p), (0x0D, chkFabric s b p), (0x0E, chkTack p),
    (0x0F, chkRefresh s p), (0x10, chkThermal s p), (0x11, chkSched i p),
    (0x12, failIf (p.fabric && !s.b .tape F.TAPE_STATUS_ALIGNED) 0), (0x14, failIf (p.aclk != s.aclk) 0)] : List (Nat × Chk)).findSome?
      fun c => c.2.map fun d => (c.1, d)

/-! ### What an admitted load writes (R248, R155, R213, R218) -/

/-- The tile programs. -/
def State.writeProgs (s : State) (i : Image) : State :=
  i.progs.foldl (fun s p => match s.siteOf p.1 with
    | none => s
    | some g =>
      (((s.put (iramAt g 0) (s.mem.readN (i.base + p.2) 65536)).2.put (dsramAt g 0) (s.mem.readN (i.base + p.2 + 65536) 65536)).2).modTile g
        fun t => { t with iramHost := false, code := wholeCode }) s

/-- The stacks of a pattern. -/
def Pattern.stackList (p : Pattern) : List Nat := (List.range 12).filter fun k => bit p.stkMask k

/-- The window table, into every stack of the bolt. -/
def State.writeWins (s : State) (i : Image) (p : Pattern) : State :=
  p.stackList.foldl (fun s k => (List.range 64).foldl (fun s w => (List.range 4).foldl (fun s j =>
    let mask := [0xFFFFFFC0, 0xFFFF, 0xFFFFFFC0, 0x1F01FF].getD j 0
    s.setWord ((Blk.stk k).base + 0x4000 + 16 * w + 4 * j) (BitVec.ofNat 32 (Nat.land ((i.win w).getD j 0) mask))) s) s) s

/-- The swatch registers at 0x1000 to 0x10EF, into every stack; without the section the bolt uses no swatches. -/
def State.writeSwatch (s : State) (i : Image) (p : Pattern) : State :=
  p.stackList.foldl (fun s k => match i.sect 4 with
    | none => s.wb (.stk k) F.SWT_CFG_EN false
    | some (_, _, o) => (List.range 60).foldl (fun s j =>
        if j = 2 ∨ j = 3 then s else s.setWord ((Blk.stk k).base + 0x1000 + 4 * j) (BitVec.ofNat 32 (i.rd (o + 4 * j) 4))) s) s

/-- The NBU rings of the bolt. -/
def State.writeRings (s : State) (b : Nat) (p : Pattern) : State :=
  p.rings.foldl (fun s r =>
    let k := Blk.nbu (nbuNo r.1 r.2.1)
    let n := r.2.2.1
    let s := ((s.w k (F.NBU_RING_BASE_BASE n) r.2.2.2.1).w k (F.NBU_RING_CFG_SLOTS_M1 n) r.2.2.2.2).w k (F.NBU_RING_CFG_OWNER n) 0
    ((s.w k (F.NBU_RING_CFG_BOLT n) b).wb k (F.NBU_RING_CFG_EN n) true)) s

/-- A digest into sixteen words of registers. -/
def State.writeDigest (s : State) (k : Blk) (f : Nat → Fld) (d : BitVec 512) : State :=
  (List.range 16).foldl (fun s j => s.w k (f j) (bits d.toNat (32 * j) 32)) s

/-- The measurements of a whole image (R248). -/
def State.measure (s : State) (b : Nat) (i : Image) : State :=
  let l := s.mem.readN i.base i.len
  let s := s.writeDigest (.bolt b) F.PAT_MEAS_DIGEST (shake256 l)
  let l' := match i.sect 3 with
    | none => l
    | some (_, n, o) => l.zipIdx.map fun (x, k) => if o ≤ k ∧ k < o + n then 0 else x
  s.writeDigest (.bolt b) F.PAT_RMEAS_DIGEST (shake256 l')

/-! ### The commands -/

/-- The image's DPA (PAT_IMAGE). -/
def State.imageBase (s : State) (b : Nat) : Nat := s.r (.bolt b) F.PAT_IMAGE_LO_ADDR * 64 + s.r (.bolt b) F.PAT_IMAGE_HI_ADDR * 2 ^ 32

/-- PAT_CTRL.LOAD, applied: a bolt that is loading, admitted or running keeps its pattern (code 0x03), as does any bolt before step 11 of
bring-up (Table 12.1; log entry 51); otherwise the load begins. -/
def execPatLoad (b : Fin 12) (s : State) : Result :=
  .next (
    if !s.b (.bolt b) F.PAT_CTRL_LOAD then s
    else
      let s := s.wb (.bolt b) F.PAT_CTRL_LOAD false
      let st := s.patState b
      if !s.b .id F.ID_STATUS_READY ∨ st = 1 ∨ st = 2 ∨ s.patRuns b then s.patRefuse b 0x03 b
      else
        let stk := s.r (.bolt b) F.BOLT_STACKS_STACKS
        ({ s with therm := { s.therm with keepWarm := s.therm.keepWarm.filter fun k => !bit stk k } }).setPat b 1)

/-- A refused load. -/
def State.loadRefused (s : State) (b code detail : Nat) : State :=
  (((s.patRefuse b code detail).modBolt b fun x => { x with stopPend := false }).wb (.bolt b) F.PAT_CTRL_STOP false).setPat b 3

/-- A migration still copies on a stack of the bolt: the load waits for it (R422). -/
def State.migBusy (s : State) (b : Nat) : Bool :=
  (List.range 12).any fun k => bit (s.r (.bolt b) F.BOLT_STACKS_STACKS) k && s.r (.stk k) F.VC_MIG_STATUS_STATE == 1

/-- Sites whose retirement waited for the next load of the bolt are retired before the checks (R24, R380, R422). -/
def State.retirePending (s : State) (b : Nat) : State :=
  let s := (List.range 12).foldl (fun s k => if bit (s.r (.bolt b) F.BOLT_STACKS_STACKS) k then s.migFlush k 160 else s) s
  let l := (s.bolt b).retire
  (l.foldl (fun s g => s.retireSite g ((s.freeSpare (g / 160)).map fun i => g / 160 * 160 + i)) s).modBolt b fun x => { x with retire := [] }

/-- Spill stops on a tile whose private claim now reaches beyond the start of its ring (R454). -/
def State.stopSpill (s : State) (b : Nat) : State :=
  (s.patSites b).foldl (fun s g =>
    let h := (s.tile g).hem
    if h.hstate ≠ 0 ∧ h.mode = 3 ∧ s.r (.tile g) F.TRC_SPILL_BASE_BASE * 65536 < s.privClaim g then s.spillRefuse g else s) s

/-- The load ends: the image is read, measured and checked, and admitted or refused (R248). -/
def execPatternAdmit (b : Fin 12) (s : State) : Result :=
  .next (
    if s.patState b ≠ 1 ∨ s.migBusy b ∨ s.trace.stopped then s
    else
      let s := s.retirePending b
      let base := s.imageBase b
      match s.runOf base 0x100 with
      | none => s.loadRefused b 0x02 0
      | some _ =>
        let len := max 0x100 (s.mem.readLE (base + 8) 8)
        match (if base + len ≤ edgeEnd then s.fetch base len else s.fetch base 0x100) with
        | (.error cw, s) => s.loadRefused b 0x16 ((cw - base) / 64)
        | (.ok _, s) =>
          let i := s.imageAt base
          let s := if base + i.len ≤ edgeEnd then s.measure b i else s
          match s.admitCheck b i with
          | some (c, d) => s.loadRefused b c d
          | none =>
            let p := i.pattern
            let s := ((((s.writeProgs i).writeWins i p).writeSwatch i p).writeRings b p)
            let s := s.modBolt b fun x => { Bolt.reset with
              pat := some p, loadBy := x.loadBy, stitchAt := x.stitchAt, stopPend := x.stopPend, op := x.op, opBad := x.opBad,
              reports := x.reports }
            let s := (s.w (.bolt b) F.PAT_STATUS_SCHED ((p.fit s.widths).getD 0)).setPat b 2
            let s := s.stopSpill b
            if (s.bolt b).stopPend then (s.endPattern b).wb (.bolt b) F.PAT_CTRL_STOP false else s)

/-- PAT_CTRL.START, applied. -/
def execPatStart (b : Fin 12) (s : State) : Result :=
  .next (
    if !s.b (.bolt b) F.PAT_CTRL_START then s
    else
      let s := s.wb (.bolt b) F.PAT_CTRL_START false
      let t := s.r2 (.bolt b) F.PAT_START_LO_T0 F.PAT_START_HI_T0
      if s.patState b ≠ 2 ∨ (s.bolt b).t0.isSome then s.w (.bolt b) F.PAT_STATUS_CODE 0x15
      else if t < (s.bolt b).stitchAt + 100000 then s.w (.bolt b) F.PAT_STATUS_CODE 0x13
      else s.modBolt b fun x => { x with t0 := some t })

/-- A tile at the start of a pattern: its core runs from the start entry point; what an earlier, stopped run left in its queue is
discarded (DESIGN CHOICE, log entry 33). -/
def State.startTile (s : State) (entry : Nat) (g : Nat) : State :=
  (s.modTile g fun t => { t with queue := [], flight := [], recvs := [], pushing := none, waitSeq := none, pc := BitVec.ofNat 64 entry, nextTack := 0, altTack := none, atTack := none, reported := false, haltExec := false,
                                 easeUntil := 0, saved := false, lastEase := (0, 0) }).runCore g

/-- At tape T0 the schedule count is 0 and every tile runs (R251); a saved context of the bolt is no longer held (R235). -/
def execPatternT0 (b : Fin 12) (s : State) : Result :=
  .next (
    match (s.bolt b).t0, (s.bolt b).pat with
    | some t, some p =>
      if s.patState b ≠ 2 ∨ !s.live then s
      else
        let s := s.advanceTo t
        let s := s.modBolt b fun x => { x with base := 0, pausedAcc := 0, pause := .none, endAt := none, tack := 0, relAt := 0, arrived := [], sent := false, absent := [],
                                               silent := false, sent2 := false, reports := [], decision := none, release := none, slips := [], paces := [] }
        let s := (s.wb (.bolt b) F.PAT_TACK_ANY false).w (.bolt b) F.PAT_TACK_TACK 0
        let s := (s.setPat b 4).freshPorts b
        let s := p.stackList.foldl (fun s k => if s.r (.stk k) F.CTX_STATUS_STATE = 3 then s.w (.stk k) F.CTX_STATUS_STATE 0 else s) s
        let entry := ((s.schedOf b).map (·.start)).getD 0
        (s.boltTiles b).foldl (fun s g => s.startTile entry g) s
    | _, _ => s)

/-- PAT_CTRL.STOP, applied, by the bolt's state (R252). -/
def execPatStop (b : Fin 12) (s : State) : Result :=
  .next (
    if !s.b (.bolt b) F.PAT_CTRL_STOP then s
    else
      let st := s.patState b
      if s.patRuns b ∨ st = 1 then s.modBolt b fun x => { x with stopPend := true }
      else
        let s := s.wb (.bolt b) F.PAT_CTRL_STOP false
        if st = 2 then (s.modBolt b fun x => { x with t0 := none }).endPattern b else s)

/-- Every tile of the bolt has executed HALT: the pattern ends (R252). -/
def execPatternEnd (b : Fin 12) (s : State) : Result :=
  .next (if s.patLive b && (s.boltTiles b).all (fun g => (s.tile g).haltExec) then s.endPattern b else s)

end Sys2Proof.Machine
end

