-- ==== Sys2Proof/Machine/Vector.lean ====
section
/-! DEFINITION. VEC (chapter 4: R98 to R118): fields, issue checks, element-wise programs, reductions, top-k and sampling. -/
namespace Sys2Proof.Machine

/-! ### Fields -/

/-- A stream field (Table 4.2). -/
structure Stm where
  off : Nat
  fmt : Nat
  bs  : Bool
  en  : Bool
  str : Nat

/-- The body of VEC (Table 4.1). -/
structure VecD where
  kind : Nat
  rnd  : Nat
  nosat : Bool
  flush : Bool
  progOff : Nat
  progLen : Nat
  posOff : Nat
  cols : Nat
  rows : Nat
  k : Nat
  rop : Nat
  imm : BitVec 32
  st : Nat → Stm

def vecOf (d : BitVec 512) : VecD :=
  { kind := dget d 8 0 2, rnd := dget d 8 4 2, nosat := dbit d 8 6, flush := dbit d 8 7, progOff := dget d 8 8 24, progLen := dget d 8 32 8,
    posOff := dget d 8 40 24, cols := dget d 16 0 24, rows := dget d 16 24 16, k := dget d 16 40 8 + 1, rop := dget d 16 48 3,
    imm := BitVec.ofNat 32 (dget d 56 0 32),
    st := fun i => ⟨dget d (24 + 8 * i) 0 24, dget d (24 + 8 * i) 24 4, dbit d (24 + 8 * i) 28, dbit d (24 + 8 * i) 29,
      dget d (24 + 8 * i) 32 16⟩ }

/-- A micro-op (R104). -/
structure Uop where
  op : Nat
  vd : Nat
  va : Nat
  vb : Nat
  vc : Nat
  md : Nat
  imm : Nat

def uopOf (w : Nat) : Uop := ⟨bits w 0 8, bits w 8 4, bits w 12 4, bits w 16 4, bits w 20 4, bits w 24 8, bits w 32 32⟩

/-- Elements per row of a stream (Table 4.3). -/
def VecD.scols (x : VecD) (i : Nat) : Nat :=
  match x.kind, i with
  | 1, 1 => 1
  | 2, 1 => x.k
  | 2, 2 => x.k
  | 3, 2 => 1
  | _, _ => x.cols

/-- Where the block scales of a stream begin (R99). -/
def VecD.scBase (x : VecD) (i : Nat) : Nat := (x.st i).off + x.rows * ((x.st i).str * 64)
/-- The streams that a kind gives a role (Table 4.3). -/
def VecD.roles (x : VecD) : List Nat :=
  (match x.kind with
  | 0 => [0, 1, 2, 3]
  | 1 => [0, 1]
  | _ => [0, 1, 2]).filter fun i => (x.st i).en
/-- Where the scale of block j of row r stands: the pitch is that of COLS elements, whatever the stream's own row holds (R99). -/
def VecD.scAt (x : VecD) (i r j : Nat) : Nat := x.scBase i + r * ceilDiv x.cols 32 + j
/-- The regions of a stream: its rows, and its block scales. -/
def VecD.rgns (x : VecD) (i : Nat) : List Rgn :=
  let t := x.st i
  ⟨t.off, t.str * 64, x.rows, rowBytes t.fmt (x.scols i)⟩
    :: (if t.bs then [⟨x.scBase i, ceilDiv x.cols 32, x.rows, ceilDiv (x.scols i) 32⟩] else [])

/-! ### Issue checks (R101, R102, Table 4.4) -/

/-- The fields a micro-op does not use are zero, and its opcode exists (Table 4.5). -/
def Uop.ok (u : Uop) : Bool :=
  let z (d a b c : Bool) (md : Nat) (imm : Nat) : Bool :=
    (d || u.vd == 0) && (a || u.va == 0) && (b || u.vb == 0) && (c || u.vc == 0) && Nat.land u.md (255 - md) == 0
      && Nat.land u.imm (2 ^ 32 - 1 - imm) == 0
  match u.op with
  | 0x01 => z true false false false 3 0
  | 0x02 => z false true false false 3 0
  | 0x03 => z true false false false 0 (2 ^ 32 - 1)
  | 0x10 => z true true true false 0 0
  | 0x11 => z true true true false 0 0
  | 0x12 => z true true true true 0 0
  | 0x13 => z true true true false 0 0
  | 0x14 => z true true true false 0 0
  | 0x15 => z true true false false 0 0
  | 0x16 => z true true false false 0 0
  | 0x17 => z true true true false 0 0
  | 0x18 => z true true true true 0 0
  | 0x30 => z true false false false 0xF7 0
  | 0x31 => z true true false false 0xF1 (if bit u.md 0 then 0xFF else 0xFFFF)
  | n => if 0x20 ≤ n ∧ n ≤ 0x27 then z true true false false 0 0 else false

/-- R30: the formats that may carry block scales. -/
def mayScale (fmt : Nat) : Bool := 3 ≤ fmt && fmt ≤ 9

/-- Detail 0x03: streams missing or not permitted for their role. -/
def VecD.rolesBad (x : VecD) : Bool :=
  let t := x.st
  let scaleBad := x.roles.any fun i => (t i).bs && !mayScale (t i).fmt
  let out (i : Nat) : Bool := !(t i).en || 4 < (t i).fmt || ((t i).bs && (t i).fmt < 3)
  let idx (i : Nat) : Bool := (t i).fmt != 0 || (t i).bs
  scaleBad || (match x.kind with
    | 0 => false
    | 1 => !(t 0).en || out 1
    | 2 => !(t 0).en || out 1 || !(t 2).en || idx 2
    | _ => !(t 0).en || ((t 1).en && idx 1) || !(t 2).en || idx 2)

/-- The detail code of a body condition that fails, with the micro-op index (Table 4.4); where several fail, the lowest detail, and of the
micro-ops the first (DESIGN CHOICE, log entry 94). -/
def VecD.body (x : VecD) (ops : List Uop) : Option (Nat × Nat) :=
  let neg := x.imm.toNat / 2 ^ 31 == 1 && x.imm != 0x80000000
  if x.kind = 0 ∧ (x.progLen = 0 ∨ 64 < x.progLen) then some (1, 0)
  else match ops.findIdx? fun u => !u.ok with
  | some i => some (1, i)
  | none =>
    match ops.findIdx? fun u => (u.op == 1 || u.op == 2) && !(x.st (u.md % 4)).en with
    | some i => some (2, i)
    | none =>
      if x.rolesBad then some (3, 0)
      else if 4 < x.rop then some (4, 0)
      else if x.kind = 2 ∧ x.cols < x.k then some (5, 0)
      else if ops.any fun u => u.op == 0x30 && !(2 ≤ u.md % 8 && u.md % 8 ≤ 4) then some (6, 0)
      else if x.kind = 3 ∧ (neg || isInf32 x.imm || isNan32 x.imm) then some (7, 0)
      else none

/-- The command draws from the generator, so it uses the position descriptor. -/
def VecD.usesPos (x : VecD) (ops : List Uop) : Bool :=
  x.rnd == 2 || (x.kind == 3 && x.imm.toNat % 2 ^ 31 != 0) || ops.any fun u => u.op == 0x30 || u.op == 0x31

/-- The streams read and the streams written. -/
def VecD.ins (x : VecD) (ops : List Uop) : List Nat :=
  match x.kind with
  | 0 => (List.range 4).filter fun i => ops.any fun u => u.op == 1 && u.md % 4 == i
  | 3 => if (x.st 1).en then [0, 1] else [0]
  | _ => [0]
def VecD.outs (x : VecD) (ops : List Uop) : List Nat :=
  match x.kind with
  | 0 => (List.range 4).filter fun i => ops.any fun u => u.op == 2 && u.md % 4 == i
  | 1 => [1]
  | 2 => [1, 2]
  | _ => [2]

def VecD.rangeBad (x : VecD) (ops : List Uop) : Bool :=
  x.progOff % 8 != 0 || (x.kind == 0 && !(Rgn.flat x.progOff (8 * x.progLen)).fits)
  || (x.usesPos ops && (x.posOff % 32 != 0 || !(Rgn.flat x.posOff 32).fits))
  || x.roles.any fun i => (x.st i).off % 64 != 0 || (x.st i).str * 64 < rowBytes (x.st i).fmt (x.scols i) || !((x.rgns i).all fun r => r.fits)

/-- In-place operation of an element-wise command (R102). -/
def VecD.same (x : VecD) (i j : Nat) : Bool :=
  let a := x.st i
  let b := x.st j
  a.off == b.off && a.str == b.str && elemBits a.fmt == elemBits b.fmt && !a.bs && !b.bs

def VecD.overlapBad (x : VecD) (ops : List Uop) : Bool :=
  let meet (l m : List Rgn) : Bool := l.any fun r => m.any fun q => r.overlaps q
  let extra := (if x.kind = 0 then [Rgn.flat x.progOff (8 * x.progLen)] else []) ++ (if x.usesPos ops then [Rgn.flat x.posOff 32] else [])
  (x.outs ops).any fun o =>
    ((x.ins ops).any fun i => !(x.kind == 0 && x.same o i) && meet (x.rgns o) (x.rgns i))
    || ((x.outs ops).any fun p => o < p && meet (x.rgns o) (x.rgns p))
    || meet (x.rgns o) extra

/-- Reserved fields and encodings (step 1). -/
def VecD.reserved (x : VecD) (d : BitVec 512) : Bool :=
  !dzero d 8 2 2 || x.rnd == 3 || !dzero d 16 51 13 || !dzero d 56 32 32
  || (List.range 4).any fun i => !dzero d (24 + 8 * i) 30 2 || !dzero d (24 + 8 * i) 48 16 || ((x.st i).en && 9 < (x.st i).fmt)

/-- The program of an element-wise command, where it lies in the bobbin. -/
def progOps (l : List (BitVec 8)) (n : Nat) : List Uop := (wordsOf 8 n l).map uopOf

/-- The checks of R101, reading the program and the position descriptor. With ROWS or COLS 0 the position descriptor is neither read nor judged
(DESIGN CHOICE, log entry 104). -/
def State.vecCheck (s : State) (g : Nat) (d : BitVec 512) : Check × State :=
  let x := vecOf d
  if x.reserved d then (.refuse 0x02, s)
  else
    let prog := x.kind == 0 && (Rgn.flat x.progOff (8 * x.progLen)).fits && x.progLen ≤ 64
    match (if prog then s.fetchT (bobbinAt g x.progOff) (8 * x.progLen) else (.ok [], s)) with
    | (.error cw, s) => (.ue cw, s)
    | (.ok pb, s) =>
      let ops := if prog then progOps pb x.progLen else []
      let some_ := x.rows != 0 && x.cols != 0
      let pos := some_ && x.usesPos ops && x.posOff % 32 == 0 && (Rgn.flat x.posOff 32).fits
      match (if pos then s.fetchT (bobbinAt g x.posOff) 32 else (.ok [], s)) with
      | (.error cw, s) => (.ue cw, s)
      | (.ok p, s) =>
        if posReserved p then (.refuse 0x02, s)
        else match x.body ops with
          | some (dt, i) => (.refuse 0x0E, (s.w (.tile g) F.VEC_BODY_FAULT_DETAIL dt).w (.tile g) F.VEC_BODY_FAULT_OP_INDEX i)
          | none =>
            if !some_ then (.ok, s)
            else if x.rangeBad ops then (.refuse 0x05, s)
            else if x.overlapBad ops then (.refuse 0x06, s)
            else (.ok, s)

/-- Handed on: with no elements it completes in the next TCLK cycle; else it starts 4 TCLK cycles after issue (R105). -/
def State.vecGo (s : State) (g uid : Nat) (d : BitVec 512) : State :=
  let x := vecOf d
  if x.rows = 0 ∨ x.cols = 0 then
    let s := s.advanceTo (s.tape + s.tclkCycles 1)
    let s := if x.kind = 0 then s.w (.tile g) F.VEC_PROGRESS_GROUPS 0 else s
    (s.fly g ⟨uid, d, .running, s.tape, s.tape, 0, 0, 0, 0, []⟩).complete g uid
  else
    s.fly g ⟨uid, d, .waiting, s.tape + s.tclkCycles 4, 0, 0, s.seedOf g, 0, 0,
      s.mem.readN (bobbinAt g x.posOff) 32 ++ s.mem.readN (bobbinAt g x.progOff) (if x.kind = 0 then 8 * x.progLen else 0)⟩

/-- VEC at the head of the queue (R101). -/
def execVec (t : Site) (s : State) : Result := .next (s.issue t.g (isOp 0x05) (fun s d => s.vecCheck t.g d) (fun s u d => s.vecGo t.g u d))

/-! ### Loading and conversion -/

/-- An element loaded to FP32 with its block scale (R104). -/
def loadElem (fmt : Nat) (bs : Bool) (sc : Nat) (b : Nat) : BitVec 32 :=
  let v := elemVal fmt bs b
  if !bs then enc32 v
  else match scaleExp sc with
    | none => nan32
    | some e => enc32 (v.scale e)

/-- `n` elements of row `r` of a stream from column `lo` on (a multiple of 64, or 0). -/
def State.loadRow (s : State) (g : Nat) (x : VecD) (i r lo n : Nat) : Except Nat (List (BitVec 32)) × State :=
  let t := x.st i
  match s.fetchT (bobbinAt g (t.off + r * (t.str * 64) + lo * elemBits t.fmt / 8)) (rowBytes t.fmt n) with
  | (.error cw, s) => (.error cw, s)
  | (.ok bs, s) =>
    let scA := bobbinAt g (x.scAt i r (lo / 32))
    match (if t.bs then s.fetchT scA (ceilDiv n 32) else (.ok [], s)) with
    | (.error cw, s) => (.error cw, s)
    | (.ok sc, s) =>
      let w := leNat bs
      (.ok ((List.range n).map fun c => loadElem t.fmt t.bs (sc.getD (c / 32) 0).toNat (elemAt t.fmt w c)), s)

/-- The exponent of the largest normal of a scaled output format (R109). -/
def emaxOf (fmt : Nat) : Int :=
  match fmt with
  | 3 => 8
  | 4 => 15
  | 5 => 2
  | 6 => 4
  | 7 => 2
  | 8 => 0
  | _ => 2

/-- The new scale field of a block (R109). -/
def newScale (fmt : Nat) (l : List (BitVec 32)) : Nat :=
  if l.any fun v => isNan32 v || isInf32 v then 0xFF
  else
    let a := l.foldl (fun m v => max m (v.toNat % 2 ^ 31)) 0
    if a = 0 then 127
    else
      let (m, e) := Fmt.fp32.mag a
      (max 0 (min 254 ((Nat.log2 m : Int) + e - emaxOf fmt + 127))).toNat

/-- An element under a new block scale (R109). -/
def convScaled (fmt field : Nat) (r : Rnd) (v : BitVec 32) : Conv :=
  if field = 0xFF then { bits := 0, nan := isNan32 v, inf := isInf32 v }
  else
    let y := (dec32 v).scale (127 - field)
    if fmt ≤ 4 then convFloat fmt r true false y
    else if fmt ≤ 7 then convNarrow fmt r y
    else if fmt = 8 then convInt 8 (-127) 127 r (y.scale 6)
    else convInt 4 (-7) 7 r y

/-- Packed bytes of elements (R63). -/
def packElems (fmt : Nat) (l : List Nat) : List (BitVec 8) :=
  leBytes (rowBytes fmt l.length) (l.foldr (fun b acc => b + acc * 2 ^ elemBits fmt) 0)

/-- What a row, or a group of it, becomes under the command's output conversion (R108, R109): the data, the scales, the conversions. -/
def convRow (x : VecD) (i : Nat) (seed : BitVec 256) (p : Pos) (idx0 : Nat) (l : List (BitVec 32)) :
    List (BitVec 8) × List (BitVec 8) × List Conv :=
  let t := x.st i
  let scs := (List.range (ceilDiv l.length 32)).map fun j => newScale t.fmt ((l.drop (32 * j)).take 32)
  let cs := l.mapIdx fun c v =>
    let r := rndOf (if t.fmt = 0 then 0 else x.rnd) seed p.stream (idx0 + c)
    if t.bs then convScaled t.fmt (scs.getD (c / 32) 0) r v else convAny t.fmt r (!x.nosat) x.flush (dec32 v)
  (packElems t.fmt (cs.map (·.bits)), if t.bs then scs.map (BitVec.ofNat 8) else [], cs)

/-! ### Element-wise programs (R103 to R106) -/

/-- TCLK cycles of a micro-op per group (Table 4.5, R105). -/
def VecD.cost (x : VecD) (u : Uop) : Nat :=
  if u.op = 1 ∨ u.op = 2 then
    let t := x.st (u.md % 4)
    ceilDiv (64 * elemBits t.fmt / 8 + (if t.bs then 2 else 0)) 64
  else if u.op = 0x27 then 12
  else if 0x20 ≤ u.op ∧ u.op < 0x27 then 4
  else 1

def VecD.period (x : VecD) (ops : List Uop) : Nat := (ops.map x.cost).foldl (· + ·) 0
def VecD.groups (x : VecD) : Nat := x.rows * ceilDiv x.cols 64

/-- A group in progress: registers, stores to perform, conversions made, draws taken. -/
structure Group where
  v     : List (List (BitVec 32))
  puts  : List (Nat × List (BitVec 8))
  convs : List Conv
  draws : List Nat

/-- A draw's identity: purpose, stream, counter. -/
def drawKey (purpose stream ctr : Nat) : Nat := purpose + 8 * (stream + 2 ^ 32 * ctr)

/-- The lane operation of a micro-op that neither loads, stores nor draws. -/
def laneOp (u : Uop) (a b c : BitVec 32) : BitVec 32 :=
  match u.op with
  | 0x03 => BitVec.ofNat 32 u.imm
  | 0x10 => fadd a b
  | 0x11 => fmul a b
  | 0x12 => ffma a b c
  | 0x13 => fmax a b
  | 0x14 => fmin a b
  | 0x15 => fabs a
  | 0x16 => fneg a
  | 0x17 => if flt b a then one32 else 0
  | 0x18 => if a.toNat % 2 ^ 31 = 0 then c else b
  | n => sfApply (n - 0x20) a

/-- One micro-op on a group of `n` columns from column `lo` of row `r`. -/
def State.uop (x : VecD) (g r lo n : Nat) (seed : BitVec 256) (p : Pos) (acc : Option Nat × Group × State) (u : Uop) :
    Option Nat × Group × State :=
  match acc with
  | (some cw, q, s) => (some cw, q, s)
  | (none, q, s) =>
    let reg (i : Nat) : List (BitVec 32) := q.v.getD i []
    let put (q : Group) (l : List (BitVec 32)) : Group := { q with v := q.v.set u.vd l }
    let idx := p.base + r * p.rowP + lo
    let i := u.md % 4
    let t := x.st i
    let stream := (p.stream + u.md / 16) % 2 ^ 32
    let lanes (f : Nat → BitVec 32) : List (BitVec 32) := (List.range 64).map fun l => if l < n then f l else 0
    match u.op with
    | 0x01 =>
      match s.loadRow g x i r lo n with
      | (.error cw, s) => (some cw, q, s)
      | (.ok l, s) => (none, put q (l ++ List.replicate (64 - n) 0), s)
    | 0x02 =>
      let (data, sc, cs) := convRow x i seed p idx ((reg u.va).take n)
      let at_ := bobbinAt g (t.off + r * (t.str * 64) + lo * elemBits t.fmt / 8)
      let dr := if x.rnd = 2 ∧ t.fmt ≠ 0 then (List.range n).map fun l => drawKey 1 p.stream ((idx + l) / 32) else []
      (none, { q with puts := q.puts ++ [(at_, data)] ++ (if t.bs then [(bobbinAt g (x.scAt i r (lo / 32)), sc)] else []),
                      convs := q.convs ++ cs, draws := q.draws ++ dr }, s)
    | 0x30 =>
      let pu := u.md % 8
      let q := put q (lanes fun l => enc32 (.fin false (2 * share16 seed pu stream (idx + l) + 1) (-17)))
      (none, { q with draws := q.draws ++ (List.range n).map fun l => drawKey pu stream ((idx + l) / 32) }, s)
    | 0x31 =>
      let a := reg u.va
      let narrow := bit u.md 0
      let q := put q (lanes fun l =>
        let sh := if narrow then share8 seed 2 stream (idx + l) else share16 seed 2 stream (idx + l)
        if sh < u.imm then a.getD l 0 else 0)
      (none, { q with draws := q.draws ++ (List.range n).map fun l => drawKey 2 stream ((idx + l) / (if narrow then 64 else 32)) }, s)
    | _ =>
      let a := reg u.va
      let b := reg u.vb
      let c := reg u.vc
      (none, put q ((List.range 64).map fun l => laneOp u (a.getD l 0) (b.getD l 0) (c.getD l 0)), s)

/-- The vector registers as the tile holds them: entries that are not +0, by register * 64 + lane. -/
def vregsOf (v : List (List (BitVec 32))) : SMap (BitVec 32) :=
  (v.flatten.mapIdx fun i x => (i, x)).filter fun e => e.2 != 0

/-- The first command on the vector engine when it is a VEC that executes now (R105). -/
def Tile.vecNow (t : Tile) : Option Flight :=
  match t.first .vector with
  | some f => if f.op = 5 then some f else none
  | none => none

/-- One group of an element-wise program (R106): loads, lanes, then its stores. The end of group n is taken at TCLK cycle 12 + n × P. -/
def execVecGroup (t : Site) (s : State) : Result :=
  let g := t.g
  .next (match (s.tile g).vecNow with
  | none => s
  | some f =>
    let x := vecOf f.desc
    let ops := progOps (f.cap.drop 32) x.progLen
    if !s.live || x.kind != 0 || x.groups ≤ f.prog then s
    else
      let s := (s.advanceTo (f.start + s.tclkCycles (12 + (f.prog + 1) * x.period ops))).modFlight g f.uid fun f => { f with phase := .running }
      let per := ceilDiv x.cols 64
      let lo := f.prog % per * 64
      let p := posOf f.cap
      match ops.foldl (State.uop x g (f.prog / per) lo (min 64 (x.cols - lo)) f.seed p)
          (none, ⟨List.replicate 16 (List.replicate 64 0), [], [], []⟩, s) with
      | (some cw, _, s) => s.ueFault g f.uid cw f.prog 0
      | (none, q, s) =>
        let (ue, s) := q.puts.foldl (fun (acc : Option Nat × State) e => acc.2.putOn e.1 e.2 acc.1) (none, s)
        let s := q.convs.foldl (fun s c => s.vecFlags g f c) s
        let s := (s.modTile g fun t => { t with vregs := vregsOf q.v }).countDraws g f (distinct q.draws)
        let s := (s.modFlight g f.uid fun f => { f with prog := f.prog + 1 }).w (.tile g) F.VEC_PROGRESS_GROUPS (f.prog + 1)
        match ue with
        | some cw => s.ueFault g f.uid cw (f.prog + 1) 0
        | none => s)

/-! ### Reductions, top-k and sampling (R110 to R114) -/

/-- The order of R110 and R113 as an integer: NaN above +∞, +0 above −0. -/
def ordKey (v : BitVec 32) : Int :=
  if isNan32 v then 2 ^ 40 else if v.toNat < 2 ^ 31 then v.toNat else -((v.toNat % 2 ^ 31 : Nat) : Int) - 1

def redMax (l : List (BitVec 32)) : BitVec 32 := l.tail.foldl fmax (l.headD 0)

/-- A row reduced (R111). -/
def reduceRow (rop : Nat) (l : List (BitVec 32)) : BitVec 32 :=
  match rop with
  | 0 => canonSum l
  | 1 => redMax l
  | 2 => l.tail.foldl fmin (l.headD 0)
  | 3 => canonSum (l.map fun v => fmul v v)
  | _ => redMax (l.map fabs)

/-- Insertion into a list in descending order; an equal key stands behind those already there. -/
def insDesc (e : Int × Nat × BitVec 32) : List (Int × Nat × BitVec 32) → List (Int × Nat × BitVec 32)
  | [] => [e]
  | y :: ys => if y.1 < e.1 then e :: y :: ys else y :: insDesc e ys

/-- The k largest of a row with their columns (R113). -/
def topK (k : Nat) (l : List (BitVec 32)) : List (Nat × BitVec 32) :=
  (((l.mapIdx fun c v => (ordKey v, c, v)).foldl (fun a e => insDesc e a) []).take k).map fun e => (e.2.1, e.2.2)

/-- The perturbed logit of R114. -/
def gumbelY (seed : BitVec 256) (p : Pos) (imm : BitVec 32) (r v : Nat) (xv : BitVec 32) : BitVec 32 :=
  if imm.toNat % 2 ^ 31 = 0 then xv
  else
    let sh := share16 seed 3 p.stream (p.base + r * p.rowP + v)
    let u := enc32 (.fin false (2 * sh + 1) (-17))
    let b := fmul (sfLog2 u) 0xBF317218
    fadd (fmul xv imm) (fmul (sfLog2 b) 0xBF317218)

/-- The index of the largest y, ties to the smallest; none when every y is NaN. R114 does not order the zeros: +0 is above -0, as R110 has it (DESIGN
CHOICE, log entry 105). -/
def samplePick (l : List (Nat × BitVec 32)) : Option Nat :=
  (l.foldl (fun (best : Option (Int × Nat)) e =>
    if isNan32 e.2 then best
    else
      let k := ordKey e.2
      match best with
      | none => some (k, e.1)
      | some (bk, bv) => if bk < k || (bk == k && e.1 < bv) then some (k, e.1) else best) none).map (·.2)

/-- What a row of a reduction, top-k or sampling command writes. -/
def State.vecRow (x : VecD) (g : Nat) (seed : BitVec 256) (p : Pos) (acc : Option Nat × Group × Bool × State) (r : Nat) :
    Option Nat × Group × Bool × State :=
  match acc with
  | (some cw, q, nin, s) => (some cw, q, nin, s)
  | (none, q, nin, s) =>
    match s.loadRow g x 0 r 0 x.cols with
    | (.error cw, s) => (some cw, q, nin, s)
    | (.ok l, s) =>
      let at_ (i : Nat) : Nat := bobbinAt g ((x.st i).off + r * ((x.st i).str * 64))
      let idx := p.base + r * p.rowP
      let conv (q : Group) (vals : List (BitVec 32)) : Group :=
        let (data, sc, cs) := convRow x 1 seed p idx vals
        let dr := if x.rnd = 2 ∧ (x.st 1).fmt ≠ 0 then (List.range vals.length).map fun c => drawKey 1 p.stream ((idx + c) / 32) else []
        { q with
          puts := q.puts ++ [(at_ 1, data)] ++ (if (x.st 1).bs then [(bobbinAt g (x.scAt 1 r 0), sc)] else []),
          convs := q.convs ++ cs, draws := q.draws ++ dr }
      match x.kind with
      | 1 => (none, conv q [reduceRow x.rop l], nin, s)
      | 2 =>
        let tk := topK x.k l
        let q := conv q (tk.map (·.2))
        (none, { q with puts := q.puts ++ [(at_ 2, (tk.map fun e => leBytes 4 e.1).flatten)] }, nin, s)
      | _ =>
        match (if (x.st 1).en then s.fetchT (at_ 1) (4 * x.cols) else (.ok [], s)) with
        | (.error cw, s) => (some cw, q, nin, s)
        | (.ok ib, s) =>
          let vs := if (x.st 1).en then wordsOf 4 x.cols ib else List.range x.cols
          let ys := List.zipWith (fun v xv => (v, gumbelY seed p x.imm r v xv)) vs l
          let pick := samplePick ys
          let dr := if x.imm.toNat % 2 ^ 31 = 0 then [] else vs.map fun v => drawKey 3 p.stream ((idx + v) / 32)
          (none, { q with puts := q.puts ++ [(at_ 2, leBytes 4 (pick.getD 0xFFFFFFFF))], draws := q.draws ++ dr }, nin || pick.isNone, s)

/-- A VEC command completes: element-wise at TCLK cycle 12 + G × P + 8 (R105); the other kinds when the engine has worked through the rows,
a time the spec does not state (log entry 16). -/
def execVecComplete (t : Site) (s : State) : Result :=
  let g := t.g
  .next (match (s.tile g).vecNow with
  | none => s
  | some f =>
    let x := vecOf f.desc
    let fin (s : State) : State :=
      let s := s.complete g f.uid
      s.bump g .vector s.tape
    if !s.live then s
    else if x.kind = 0 then
      if f.prog < x.groups then s
      else fin (s.advanceTo (f.start + s.tclkCycles (12 + x.groups * x.period (progOps (f.cap.drop 32) x.progLen) + 8)))
    else
      let s := s.advanceTo f.start
      match (List.range x.rows).foldl (State.vecRow x g f.seed (posOf f.cap)) (none, ⟨[], [], [], []⟩, false, s) with
      | (some cw, _, _, s) => s.ueFault g f.uid cw 0 0
      | (none, q, nin, s) =>
        let (ue, s) := q.puts.foldl (fun (acc : Option Nat × State) e => acc.2.putOn e.1 e.2 acc.1) (none, s)
        let s := q.convs.foldl (fun s c => s.vecFlags g f c) s
        let s := if nin then s.wb (.tile g) F.VEC_FLAGS_NAN_IN true else s
        let s := s.countDraws g f (distinct q.draws)
        match ue with
        | some cw => s.ueFault g f.uid cw 0 0
        | none => fin s)

end Sys2Proof.Machine
end

