-- ==== Sys2Proof/Machine/Preempt.lean ====
section
/-! DEFINITION. Pre-emption and restore (R93, R96, R232 to R239, Tables 8.7 to 8.9). What Tables 8.7 and 8.8 leave without a bit layout is laid
out here (DESIGN CHOICE, log entry 27). -/
namespace Sys2Proof.Machine

/-- The stacks of a bolt. -/
def State.boltStacks (s : State) (b : Nat) : List Nat := (List.range 12).filter fun k => bit (s.r (.bolt b) F.BOLT_STACKS_STACKS) k

/-- The DPA of a stack's image part (CTX_BASE), and its length. -/
def State.ctxBase (s : State) (k : Nat) : Nat := s.r (.stk k) F.CTX_BASE_LO_ADDR * 65536 + s.r (.stk k) F.CTX_BASE_HI_ADDR * 2 ^ 32
abbrev ctxLen : Nat := 0x12010000

/-- CTX_STATUS of every stack of a bolt. -/
def State.setCtxState (s : State) (b st : Nat) : State := (s.boltStacks b).foldl (fun s k => s.w (.stk k) F.CTX_STATUS_STATE st) s
def State.setCtxCode (s : State) (b code : Nat) : State := (s.boltStacks b).foldl (fun s k => s.w (.stk k) F.CTX_STATUS_CODE code) s

/-! ### The request (R232, R233) -/

/-- CTX_CTRL.SAVE, applied in every stack of a bolt: the pre-emption is pending; one whose pattern has ended or whose tack has been released
since the stitch lapses. -/
def execCtxSave (b : Fin 12) (s : State) : Result :=
  .next (
    let ks := s.boltStacks b
    if ks = [] ∨ !ks.all (fun k => s.b (.stk k) F.CTX_CTRL_SAVE) ∨ (s.bolt b).preempt.isSome then s
    else
      let k0 := Blk.stk (ks.headD 0)
      let n := s.r k0 F.CTX_TACK_TACK_NO
      let at_ := s.b k0 F.CTX_CTRL_AT_TACK
      let lapse (s : State) (code : Nat) : State :=
        (ks.foldl (fun s k => s.wb (.stk k) F.CTX_CTRL_SAVE false) s).setCtxState b 0 |>.setCtxCode b code
      if !s.patRuns b then lapse s 0x0C
      else if at_ && decide (n < (s.bolt b).tack) then lapse s 0x0A
      else
        let s := (s.modBolt b fun x => { x with preempt := some (if at_ then some n else none) }).setCtxState b 1
        (s.boltSites b).foldl (fun s g => s.wb (.tile g) F.TILE_STATUS_PREEMPT_PENDING true) s)

/-! ### Writing and reading an image -/

/-- Bytes of a tile's memory copied into the image: a line of the image that would hold uncorrectable bytes is written as the marker
codeword (DESIGN CHOICE, log entry 29). -/
def State.saveMem (s : State) (src dst n : Nat) : State :=
  let bad := (s.errs.filter fun e => decide (src ≤ e.1 ∧ e.1 < src + n) && (match s.verdict e.1 with
    | .ue => true
    | .beyond => true
    | _ => false)).map fun e => cwAt (dst + (e.1 - src))
  let errs := s.errs.filter fun e => !decide (dst ≤ e.1 ∧ e.1 < dst + n)
  ({ s with mem := s.mem.copy src dst n, errs := bad.foldl (fun m a => m.set a ⟨[], true⟩) errs } : State).sealRun dst n |>.edgeSeen dst n

/-- A block of the image, zero where no bytes are given. -/
def State.saveBytes (s : State) (a n : Nat) (l : List (BitVec 8)) : State :=
  ({ s with mem := (s.mem.clear a n).writeN a (l.take n),
            errs := s.errs.filter fun e => !decide (a ≤ e.1 ∧ e.1 < a + n) } : State).sealRun a n |>.edgeSeen a n

/-- An image's bytes copied into a tile's memory. -/
def State.loadMem (s : State) (src dst n : Nat) : State :=
  ({ s with mem := s.mem.copy src dst n, errs := s.errs.filter fun e => !decide (dst ≤ e.1 ∧ e.1 < dst + n) } : State).sealRun dst n

def descBytes (d : BitVec 512) : List (BitVec 8) := leBytes 64 d.toNat
/-- The words of a tile's registers at window offsets. -/
def State.tileWords (s : State) (g : Nat) (offs : List Nat) : List (BitVec 8) :=
  offs.flatMap fun o => leBytes 4 (s.word ((Blk.tile g).base + o)).toNat

/-- The offsets of the ring and walk registers (Table 8.8); ATT_PROGRESS is the fifth. -/
def ringOffs : List Nat := [0x610, 0x614, 0x618, 0x61C, 0x604, 0x62C, 0x630, 0x624, 0x620, 0x628]

/-! #### Where the commands in flight stand in a record -/

def inChan (f : Flight) : Bool := f.op == 6 || f.op == 7 || f.op == 8
/-- A CHK that has begun and not completed: the first has a block of its own. -/
def begunChk (f : Flight) : Bool := f.op == 0x0C && f.phase != .done && f.chan == 1
def Tile.chkOf (t : Tile) : Option Flight := t.flight.find? begunChk
/-- The NOP, TACK, WAIT or FENCE that has not completed; it keeps later commands from issue, so a tile has one at most. -/
def Tile.syncOf (t : Tile) : Option Flight := t.flight.find? fun f => f.phase != .done && f.uses .sync

/-- The part of a record that holds a command in flight. -/
inductive Part where | area | chan | chk | sync | word
  deriving DecidableEq, Repr

/-- Shuttle commands stand in channels, the stopped CHK in its block, an open NOP, TACK, WAIT or FENCE behind the ring registers, and of a command
that only waits to retire the first word; the others stand in the queue area, an RNGK among them, since it is issued again with what follows
it (R94). -/
def Tile.partOf (t : Tile) (f : Flight) : Part :=
  if f.phase == .done then (if f.op == 0x0B then .area else .word)
  else if inChan f then .chan
  else if t.chkOf.any fun x => x.uid == f.uid then .chk
  else if t.syncOf.any fun x => x.uid == f.uid then .sync
  else .area

/-- The commands in flight that a record keeps, with their order; of those that only wait to retire twelve, the ones with NOTIFY first. -/
def Tile.kept (t : Tile) : List (Flight × Nat) :=
  let waits := t.flight.filter fun f => t.partOf f == .word
  let some_ := (((waits.filter fun f => notifyOf f.desc) ++ waits.filter fun f => !notifyOf f.desc).take 12).map (·.uid)
  (t.flight.filter fun f => t.partOf f != .word || some_.contains f.uid).zipIdx

/-- The kept commands of one part. -/
def Tile.keptIn (t : Tile) (p : Part) : List (Flight × Nat) := t.kept.filter fun x => t.partOf x.1 == p

/-- The flights of the queue area, the faulted command first (R90). -/
def Tile.areaFlights (t : Tile) : List (Flight × Nat) :=
  let isF (x : Flight × Nat) : Bool := x.1.phase == .stopped && t.fault == some x.1.desc
  (t.keptIn .area).filter isF ++ (t.keptIn .area).filter fun x => !isF x

/-- The faulted command where it stands in another part: its descriptor stands in the queue area as well (R90). -/
def Tile.faultSlot (t : Tile) : List (BitVec 512) :=
  match t.fault with
  | some d => if t.areaFlights.any (fun x => x.1.phase == .stopped && x.1.desc == d) then [] else [d]
  | none => []

/-- The descriptors of the queue area: 64 stand in it, the rest in idle channels and in the block of the stopped CHK. -/
def Tile.areaDescs (t : Tile) : List (BitVec 512) := t.faultSlot ++ t.areaFlights.map (·.1.desc) ++ t.queue
/-- The channels that hold no command. -/
def Tile.idleChans (t : Tile) : List Nat := (List.range 4).filter fun c => !(t.keptIn .chan).any fun x => x.1.chan == c

/-- The stopped CHK (offset 0x1A_2440). -/
def chkBlock (t : Tile) : List (BitVec 8) :=
  match t.keptIn .chk with
  | (f, i) :: _ =>
    let d := f.desc.toNat
    leBytes 8 (bits d 0 64) ++ leBytes 6 (bits d 64 48) ++ leBytes 1 1 ++ leBytes 1 i ++ leBytes 8 (bits d 192 64) ++ leBytes 8 (bits d 256 64)
      ++ leBytes 8 f.aux ++ leBytes 8 f.prog ++ leBytes 8 (bits d 128 40)
  | [] => match (t.areaDescs.drop 64)[t.idleChans.length]? with
    | some d => descBytes d
    | none => []

/-- A shuttle channel (offset 0x1A_2200 + 128 c): descriptor, busy (2: a descriptor of the queue area), order of issue, progress; then three commands
that wait to retire with their orders, and the order (with bit 7), running value and byte count of a further begun CHK. -/
def chanBlock (t : Tile) (c : Nat) : List (BitVec 8) :=
  let head := match (t.keptIn .chan).find? fun x => x.1.chan == c with
    | some (f, i) => descBytes f.desc ++ leBytes 1 1 ++ leBytes 1 i ++ leBytes 6 0 ++ leBytes 8 f.prog
    | none => match (t.idleChans.zip (t.areaDescs.drop 64)).find? fun x => x.1 == c with
      | some (_, d) => descBytes d ++ leBytes 1 2 ++ leBytes 15 0
      | none => leBytes 80 0
  let ws := ((t.keptIn .word).drop (3 * c)).take 3
  let tail := match ((t.keptIn .area).filter fun x => begunChk x.1)[c]? with
    | some (f, i) => leBytes 1 (i + 128) ++ leBytes 8 f.aux ++ leBytes 8 f.prog
    | none => leBytes 17 0
  head ++ (List.range 3).flatMap (fun i => leBytes 8 ((ws[i]?.map fun x => bits x.1.desc.toNat 0 64).getD 0))
    ++ (List.range 3).flatMap (fun i => leBytes 1 ((ws[i]?.map (·.2)).getD 0)) ++ tail ++ leBytes 4 0

/-- The seed register where the flights' restart begins: as it stood before the first RNGK that has not retired, which is issued again (R94,
R119, Table 3.12). -/
def Tile.seedAtRestart (t : Tile) (now : BitVec 256) : BitVec 256 := ((t.flight.find? fun f => f.op == 0x0B).map (·.seed)).getD now

/-- The block of the core's state (offset 0x1A_2100): PC, RUN with HALT, CQ count, descriptors ahead of the unissued entries (the faulted command, and
those in flight), CQ_DONE, CQ_ISSUED, STATE, arrival, the order of the command behind the ring registers (with bit 7), the commands that wait to
retire, the orders of those in the queue area, and whether the block of the stopped CHK holds a descriptor of it. -/
def State.coreBlock (s : State) (b g : Nat) (run : Bool) : List (BitVec 8) :=
  let t := s.tile g
  let orders := (t.areaFlights.take 39).map fun x => BitVec.ofNat 8 x.2
  leBytes 8 t.pc.toNat ++ leBytes 1 (b2n run + 2 * b2n t.haltExec) ++ leBytes 1 t.queue.length ++ leBytes 1 t.faultSlot.length
    ++ leBytes 1 t.areaFlights.length ++ s.tileWords g [0x24] ++ s.tileWords g [0x28] ++ leBytes 1 t.mode.n
    ++ leBytes 1 (b2n (t.atTack.any fun x => x.1 == (s.bolt b).tack)) ++ leBytes 1 (((t.keptIn .sync).head?.map fun x => x.2 + 128).getD 0)
    ++ leBytes 1 (t.keptIn .word).length ++ orders ++ leBytes (39 - orders.length) 0
    ++ leBytes 1 (b2n ((t.keptIn .chk).isEmpty && decide (64 + t.idleChans.length < t.areaDescs.length)))

/-- One tile's record (Table 8.8); `run` is its RUN state at the stop. -/
def State.saveTile (s : State) (b g a : Nat) (run : Bool) : State :=
  let t := s.tile g
  let word (o : Nat) : List (BitVec 8) := s.tileWords g [o]
  let progOf (op off : Nat) : List (BitVec 8) := match t.flight.find? fun f => f.op == op && f.phase != .done with
    | some f => leBytes 4 f.prog
    | none => word off
  let vec := progOf 5 0x10C
  let sync := ((t.keptIn .sync).head?.map fun x => leBytes 24 (bits x.1.desc.toNat 0 192)).getD []
  let posted := ((List.range 16).map fun c => if (t.recvs.get none c).isSome then 2 ^ c else 0).foldl (· + ·) 0
  let s := ((s.saveMem (bobbinAt g 0) a bobbinBytes).saveMem (iramAt g 0) (a + 0x180000) 65536).saveMem (dsramAt g 0) (a + 0x190000) 65536
  let s := s.saveBytes (a + 0x1A0000) 0x1000 ((t.areaDescs.take 64).flatMap descBytes)
  let s := s.saveBytes (a + 0x1A1000) 0x1000 ((List.range 1024).flatMap fun i => leBytes 4 (t.vregs.get 0 i).toNat)
  let s := s.saveBytes (a + 0x1A2000) 0x100 ((List.range 32).flatMap fun i => leBytes 8 (t.gr (BitVec.ofNat 5 i)).toNat)
  let s := s.saveBytes (a + 0x1A2100) 0x40 (s.coreBlock b g run)
  let s := s.saveBytes (a + 0x1A2140) 0x40 (leBytes 32 (t.seedAtRestart (s.seedOf g)).toNat ++ leBytes 32 0)
  let s := s.saveBytes (a + 0x1A2180) 0x80 (s.tileWords g faultOffs)
  let s := s.saveBytes (a + 0x1A2200) 0x200 ((List.range 4).flatMap (chanBlock t))
  let s := s.saveBytes (a + 0x1A2400) 0x40 ((ringOffs.flatMap fun o => if o = 0x604 then progOf 3 o else word o) ++ sync)
  let s := s.saveBytes (a + 0x1A2440) 0x40 (chkBlock t)
  s.saveBytes (a + 0x1A2480) (0x200000 - 0x1A2480) (vec ++ leBytes 2 posted)

/-- The local logical tiles of a stack that are present, with their sites (R236). -/
def State.stackTiles (s : State) (k : Nat) : List (Nat × Nat) :=
  (List.range 144).filterMap fun n => (s.siteOf (k * 144 + n)).map fun g => (n, g)

/-- A stack's header (Table 8.7) at an address, with its format word; of a stack in no bolt (b = 12) the bolt number reads 0. -/
def State.saveHead (s : State) (fmt a b k n tape : Nat) (ts : List (Nat × Nat)) : State :=
  let meas := (List.range 16).flatMap fun j => leBytes 4 (s.r (.bolt b) (F.PAT_RMEAS_DIGEST j))
  let bm := (ts.map fun t => 2 ^ t.1).foldl (· + ·) 0
  let states := (List.range 144).map fun i => match ts.find? fun t => t.1 == i with
    | some (_, g) => BitVec.ofNat 8 (s.tile g).mode.n
    | none => 0
  s.saveBytes a 0x10000 (leBytes 4 fmt ++ leBytes 4 1 ++ leBytes 8 (k + 16 * (b % 12)) ++ meas ++ leBytes 8 (n % 2 ^ 24) ++ leBytes 8 tape
    ++ leBytes 8 (s.r (.bolt b) F.PAT_STATUS_SCHED) ++ s.widths.map (fun w => BitVec.ofNat 8 w) ++ leBytes 12 0 ++ leBytes 18 bm ++ leBytes 110 0
    ++ states)
def State.saveHeader (s : State) (b k n tape : Nat) (ts : List (Nat × Nat)) : State := s.saveHead 0x51544358 (s.ctxBase k) b k n tape ts

/-! ### At the tack (R96, R232, R234) -/

/-- A RECV or a SEND over the fabric that a hold lets nothing complete: its data, or its answer, were lost (R231, R289), and a FENCE behind it. -/
def State.cutTransfer (s : State) (g : Nat) (f : Flight) : Bool :=
  (f.op == 0x08 && !s.mesh.any fun m => m.dst == g) || (f.op == 0x07 && sendRoute f.desc == 1) || f.op == 0x0D

/-- A tile can be saved: faulted and drained, or with nothing open but SHUT and one CHK, which may stop (R96), a TACK or WAIT that no hold lets
complete (R263), and in a hold the transfers that cannot complete (DEDUCED, log entry 28). -/
def State.savable (s : State) (g : Nat) (hold : Bool) : Bool :=
  let t := s.tile g
  if t.faulted then t.drainSet || t.flight.all fun f => !f.open_ || f.uses .sync || (hold && s.cutTransfer g f)
  else
    (t.flight.all fun f => !f.open_ || stoppable f || f.op == 0x09 || f.op == 0x0A || (hold && s.cutTransfer g f))
      && decide ((t.flight.filter fun f => f.open_ && f.op == 0x0C).length ≤ 1)

/-- Completed commands at the head of the order retire (R73). -/
def State.retireDone (s : State) (g : Nat) : Nat → State
  | 0 => s
  | fuel + 1 => match (s.tile g).flight with
    | f :: _ => if f.phase = .done then (s.retire g).retireDone g fuel else s
    | [] => s

/-- One tile, whose work has stopped, writes its record and halts; `run` is its RUN state before. -/
def State.preemptTile (s : State) (b g a : Nat) (run : Bool) : State :=
  let s := s.saveTile b g a run
  (s.haltAll g).modTile g fun t => ({ t with saved := true, recvs := [] } : Tile).gap s.tape

/-- The tape of the header (Table 8.7): when the tack was reached, R_N of the tack or the start of its hold. -/
def Bolt.reachedAt (x : Bolt) (r : Nat) : Nat := if x.pause = .hold then x.holdFrom else x.tapeOf r

/-- At R_N, or in a hold at N, of the tack of pre-emption: every tile stops its work, writes its record and halts (row PREEMPT_AT_TACK). -/
def execPreemptAtTack (b : Fin 12) (s : State) : Result :=
  .next (
    let x := s.bolt b
    let n := x.tack
    match x.pat, s.releaseOf b n with
    | some _, some r =>
      let ts := s.boltTiles b
      if !s.preemptsAt b n || !s.patRuns b || x.saving || !s.live || !ts.all (fun g => s.savable g (x.pause == .hold))
        || !(x.pause == .hold || (x.pause == .none && !x.pauseBefore r)) then s
      else
        let s0 := s
        let s := if x.pause = .none then s.advanceTo (x.tapeOf r) else s
        let runs := ts.map fun g => (g, (s.tile g).run)
        let s := ts.foldl State.stopWork s
        if ts.any s.midAccess then s0
        else
          let s := (s.setCtxState b 2).modBolt b fun x => { x with saving := true }
          let s := { s with mesh := s.mesh.filter fun m => !ts.contains m.src && !ts.contains m.dst }
          (s.boltStacks b).foldl (fun s k =>
            let l := (s.stackTiles k).filter fun t => ts.contains t.2
            let s := (s.w (.stk k) F.CTX_SAVED_TACK_TACK n).saveHeader b k n (x.reachedAt r) l
            l.foldl (fun s t =>
              let s := s.retireDone t.2 (s.tile t.2).flight.length
              s.preemptTile b t.2 (s.ctxBase k + 0x10000 + t.1 * 0x200000) ((runs.find? fun j => j.1 == t.2).any (·.2))) s) s
    | _, _ => s)

/-- Every stack has written its part: the pattern ends, the state is saved (R234, R235). -/
def execCtxSaved (b : Fin 12) (s : State) : Result :=
  .next (
    if !(s.bolt b).saving then s
    else
      let s := s.modBolt b fun x => { x with saving := false, preempt := none }
      let s := (s.boltStacks b).foldl (fun s k => s.wb (.stk k) F.CTX_CTRL_SAVE false) s
      let s := (s.boltSites b).foldl (fun s g => s.wb (.tile g) F.TILE_STATUS_PREEMPT_PENDING false) s
      (s.setCtxState b 3).endPattern b)

/-! ### Restore (R238, R239, Table 8.9) -/

/-- A little-endian field of a stack's image part. -/
def State.ctxRd (s : State) (k off n : Nat) : Nat := s.mem.readLE (s.ctxBase k + off) n

/-- The tiles of a stack's saved bitmap with the sites they stand on now. -/
def State.savedTiles (s : State) (k : Nat) : List (Nat × Option Nat) :=
  ((List.range 144).filter fun n => bit (s.ctxRd k 0x80 18) n).map fun n => (n, s.siteOf (k * 144 + n))

/-- The lines of a part that a restore reads: the header and the records of the bitmap. -/
def State.ctxLines (s : State) (k : Nat) : List (Nat × Nat) :=
  (s.ctxBase k, 0x10000) :: (s.savedTiles k).map fun t => (s.ctxBase k + 0x10000 + t.1 * 0x200000, 0x1A2490)

/-- The first line of the parts that reads uncorrectable, which is recorded. -/
def State.ctxUe (s : State) (b : Nat) : Option State :=
  let runs := (s.boltStacks b).flatMap fun k => s.ctxLines k
  runs.findSome? fun r => match s.fetch r.1 r.2 with
    | (.error _, s) => some s
    | (.ok _, _) => none

/-- The widths that a restore goes by: those the header records (R289), and no more than the ports have now (R239; DEDUCED, log entry 81). -/
def State.restoreWidths (s : State) (k : Nat) : List Nat := (List.range 12).map fun f => min (s.ctxRd k (0x68 + f) 1) (s.fabWidth f)

/-- The refusal code of a restore: the first of Table 8.9 that applies. A part that is not populated, or whose header reads uncorrectable, is judged
by 0x06 and 0x07 alone. -/
def State.restoreCode (s : State) (b : Nat) : Nat × State :=
  let ks := s.boltStacks b
  match (s.bolt b).pat with
  | none => (0x02, s)
  | some p =>
    let there (k : Nat) : Bool := (s.runOf (s.ctxBase k) ctxLen).isSome && decide (s.ctxBase k < edgeEnd)
    let rs := ks.filter fun k => there k && !s.hasUe (s.ctxBase k) 0x190
    let k0 := rs.headD 0
    let sel := p.fit (s.restoreWidths k0)
    if !rs.all (fun k => s.ctxRd k 0 4 == 0x51544358 && s.ctxRd k 4 2 == 1 && s.ctxRd k 8 1 == k + 16 * b) then (0x01, s)
    else if !rs.all (fun k => (List.range 16).all fun j => s.ctxRd k (0x10 + 4 * j) 4 == s.r (.bolt b) (F.PAT_RMEAS_DIGEST j)) then (0x02, s)
    else if rs.any (fun k => (s.savedTiles k).any fun t => t.2.isNone) then (0x03, s)
    else if rs.any (fun k => s.ctxRd k 0x50 4 != s.ctxRd k0 0x50 4 || s.ctxRd k 0x60 1 != s.ctxRd k0 0x60 1) then (0x04, s)
    else if !rs.isEmpty && (sel.isNone || p.tacks ≤ s.ctxRd k0 0x50 4) then (0x05, s)
    else if !ks.all there then (0x06, s)
    else match s.ctxUe b with
      | some s => (0x07, s)
      | none =>
        let changed := sel != some (s.ctxRd k0 0x60 1)
        if changed && ks.any (fun k => (s.savedTiles k).any fun t => s.ctxRd k (0x100 + t.1) 1 == 3) then (0x08, s) else (0, s)

/-- CTX_CTRL.RESTORE, applied in every stack of a bolt. A bolt whose pattern is not admitted has no loaded measurement (code 0x02; DEDUCED, log
entry 34). -/
def execCtxRestore (b : Fin 12) (s : State) : Result :=
  .next (
    let ks := s.boltStacks b
    if ks = [] ∨ !ks.all (fun k => s.b (.stk k) F.CTX_CTRL_RESTORE && s.r (.stk k) F.CTX_STATUS_STATE != 4) then s
    else
      let (code, s) := if s.patState b = 2 then s.restoreCode b else (0x02, s)
      if code = 0 then s.setCtxState b 4
      else ((ks.foldl (fun s k => s.wb (.stk k) F.CTX_CTRL_RESTORE false) s).setCtxState b 6).setCtxCode b code)

/-- A command in flight restarts at its restart point (R94, R230, R231). `prog` is the saved progress of a shuttle command, of the first VEC that
has not completed or of the first ATTN; a walk clears STOPPED as at its issue (R223); `chk` is the running value and byte count of a CHK that had
begun (R441, R444). -/
def State.restart (s : State) (g : Nat) (d : BitVec 512) (chan prog : Nat) (chk : Option (Nat × Nat) := none) : State :=
  let uid := (s.tile g).nextUid
  let s := s.modTile g fun t => { t with nextUid := uid + 1 }
  let at_ (s : State) : State := s.modFlight g uid fun f => { f with prog := prog }
  match opcodeOf d with
  | 0x01 => s.mmGo g uid d
  | 0x02 => s.mmGo g uid d
  | 0x03 => at_ (s.attGo g uid d)
  | 0x04 => s.attGo g uid d
  | 0x05 => at_ (s.vecGo g uid d)
  | 0x06 =>
    let s := (s.shutStartAt g uid d chan).modFlight g uid fun f => { f with aux := if isWalk d then prog / (walkOf d).ss else 0 }
    let s := if isWalk d then s.wb (.tile g) F.ATT_RING_FMT_STOPPED false else s
    match (s.tile g).flightOf uid with
    | some f => s.shutProg g f prog
    | none => s
  | 0x07 => s.shutStartAt g uid d chan
  | 0x08 => (s.shutStartAt g uid d chan).postRecv g uid d
  | 0x0B =>
    let old := s.seedOf g
    ((s.loadSeed g d).fly g ⟨uid, d, .done, s.tape, s.tape, 0, old, 0, 0, []⟩)
  | 0x0C => s.chkGoFrom g uid d chk
  | 0x09 => s.fly g ⟨uid, d, .running, s.tape, s.tape, 0, 0, 0, tackNo d, []⟩
  | 0x00 => s.fly g ⟨uid, d, .running, s.tape, s.tape + s.tclkCycles (max 1 (dget d 8 0 32)), 0, 0, 0, 0, []⟩
  | _ => s.fly g ⟨uid, d, .running, s.tape, s.tape, 0, 0, 0, 0, []⟩

/-- A command that had completed waits again to retire. -/
def State.waitsAgain (s : State) (g : Nat) (d : BitVec 512) : State :=
  let uid := (s.tile g).nextUid
  (s.modTile g fun t => { t with nextUid := uid + 1 }).fly g ⟨uid, d, .done, s.tape, s.tape, 0, 0, 0, 0, []⟩

/-- A field of the record at an address. -/
def State.rec_ (s : State) (a off n : Nat) : Nat := s.mem.readLE (a + off) n

/-- The descriptor of the stopped CHK's block. -/
def State.chkDesc (s : State) (a : Nat) : BitVec 512 :=
  let rd := s.rec_ (a + 0x1A2440)
  BitVec.ofNat 512 (rd 0 8 + rd 8 6 * 2 ^ 64 + rd 48 8 * 2 ^ 128 + rd 16 8 * 2 ^ 192 + rd 24 8 * 2 ^ 256)

/-- The descriptor at a place of the queue area. -/
def State.areaDesc (s : State) (a i : Nat) : BitVec 512 :=
  BitVec.ofNat 512 (
    if i < 64 then s.rec_ a (0x1A0000 + 64 * i) 64
    else match ((List.range 4).filter fun c => s.rec_ a (0x1A2240 + 128 * c) 1 == 2)[i - 64]? with
      | some c => s.rec_ a (0x1A2200 + 128 * c) 64
      | none => if s.rec_ a 0x1A213F 1 = 1 then s.rec_ a 0x1A2440 64 else 0)

/-- The commands in flight of a record, in their order of issue; the saved progress of VEC and ATTN goes to the first that has not completed. -/
def State.restoreFlights (s : State) (g a : Nat) : State :=
  let rd := s.rec_ a
  let nf := rd 0x1A210A 1
  ((List.range 128).foldl (fun acc o =>
    let (s, vp, ap) := acc
    match (List.range (min 39 (rd 0x1A210B 1))).find? fun i => rd (0x1A2118 + i) 1 == o with
    | some i =>
      let d := s.areaDesc a (nf + i)
      let chk := ((List.range 4).find? fun c => rd (0x1A226B + 128 * c) 1 == o + 128).map fun c =>
        (rd (0x1A226C + 128 * c) 8, rd (0x1A2274 + 128 * c) 8)
      if opcodeOf d = 5 then (s.restart g d 0 vp, 0, ap)
      else if opcodeOf d = 3 then (s.restart g d 0 ap, vp, 0)
      else (s.restart g d 0 0 chk, vp, ap)
    | none =>
      (match (List.range (min 12 (rd 0x1A2117 1))).find? fun i => rd (0x1A2268 + 128 * (i / 3) + i % 3) 1 == o with
      | some i => s.waitsAgain g (BitVec.ofNat 512 (rd (0x1A2250 + 128 * (i / 3) + 8 * (i % 3)) 8))
      | none =>
        match (List.range 4).find? fun c => rd (0x1A2240 + 128 * c) 1 == 1 && rd (0x1A2241 + 128 * c) 1 == o with
        | some c => s.restart g (BitVec.ofNat 512 (rd (0x1A2200 + 128 * c) 64)) c (rd (0x1A2248 + 128 * c) 8)
        | none =>
          if rd 0x1A213F 1 = 0 ∧ rd 0x1A244E 1 = 1 ∧ rd 0x1A244F 1 = o then s.restart g (s.chkDesc a) 0 0 (some (rd 0x1A2460 8, rd 0x1A2468 8))
          else if rd 0x1A2116 1 = o + 128 then s.restart g (BitVec.ofNat 512 (rd 0x1A2428 24)) 0 0
          else s, vp, ap))
    (s, rd 0x1A2480 4, rd 0x1A2410 4)).1

/-- The unissued entries are written into the queue's SRAM (R174, R177). -/
def State.restoreQueue (s : State) (g : Nat) (l : List (BitVec 512)) : State :=
  let s := s.modTile g fun t => { t with queue := l }
  let base := (s.tile g).nextUid
  (List.range (8 * l.length)).foldl (fun s i => s.sealCw (cqAt g ((base + i / 8) % 64) + 8 * (i % 8))) s

/-- One tile rebuilt from its record; with another schedule its unissued entries are discarded and its core goes on at `entry` (R239). -/
def State.restoreTile (s : State) (g a n : Nat) (entry : Option Nat) : State :=
  let rd := s.rec_ a
  let s := ((s.loadMem a (bobbinAt g 0) bobbinBytes).loadMem (a + 0x180000) (iramAt g 0) 65536).loadMem (a + 0x190000) (dsramAt g 0) 65536
  let put (s : State) (base : Nat) (offs : List Nat) : State :=
    offs.zipIdx.foldl (fun s x => s.setWord ((Blk.tile g).base + x.1) (BitVec.ofNat 32 (rd (base + 4 * x.2) 4))) s
  let s := ((put s 0x1A2180 faultOffs).setWord ((Blk.tile g).base + 0x24) (BitVec.ofNat 32 (rd 0x1A210C 4))).setWord ((Blk.tile g).base + 0x28)
    (BitVec.ofNat 32 (rd 0x1A2110 4))
  let s := (List.range 8).foldl (fun s i => s.w (.tile g) (F.RNG_SEED_SEED i) (rd (0x1A2140 + 4 * i) 4)) s
  let nq := rd 0x1A210A 1 + rd 0x1A210B 1
  let queue := if entry.isSome then [] else (List.range (min 64 (rd 0x1A2109 1))).map fun i => s.areaDesc a (nq + i)
  let s := (s.clkSettle g).modTile g fun t =>
    { t with g := ((List.range 31).map fun i => (i + 1, BitVec.ofNat 64 (rd (0x1A2008 + 8 * i) 8))), pc := BitVec.ofNat 64 (entry.getD (rd 0x1A2100 8)),
             run := t.codeAt (entry.getD (rd 0x1A2100 8)) && (entry.isSome || bit (rd 0x1A2108 1) 0), haltExec := entry.isNone && bit (rd 0x1A2108 1) 1, faulted := false, fault := none,
             readyAt := s.tape, waitSeq := none, pushing := none, queue := [], flight := [], recvs := [],
             vregs := ((List.range 1024).map fun i => (i, BitVec.ofNat 32 (rd (0x1A1000 + 4 * i) 4))).filter fun e => e.2 != 0,
             nextTack := n, altTack := some (n + 1), atTack := if bit (rd 0x1A2115 1) 0 then some (n, 0, 0) else none, reported := false,
             lastEase := (0, 0), easeUntil := s.tape, saved := false, drainSet := false, headAt := s.tape, waited := [], faultAt := none, faultLate := none, fired := none }
  let s := (put s 0x1A2400 ringOffs).w (.tile g) F.VEC_PROGRESS_GROUPS (rd 0x1A2480 4)
  ((s.restoreFlights g a).restoreQueue g queue).hemResume g

/-- Every image part has been read: the tiles are rebuilt, and the bolt stands in the hold at the saved tack, reports its arrival and goes on at
schedule count R_N (R238, R239, R259; log entry 31). -/
def execCtxRestoreDone (b : Fin 12) (s : State) : Result :=
  .next (
    let ks := s.boltStacks b
    let k0 := ks.headD 0
    match (s.bolt b).pat with
    | none => s
    | some p =>
      if ks = [] ∨ s.patState b ≠ 2 ∨ !ks.all (fun k => s.r (.stk k) F.CTX_STATUS_STATE == 4) ∨ !s.live then s
      else
        let n := s.ctxRd k0 0x50 4
        let old := s.ctxRd k0 0x60 1
        let sel := (p.fit (s.restoreWidths k0)).getD old
        let entry := if sel = old then none else (p.scheds[sel]?).bind fun x => x.tacks[n]?.map (·.2)
        let s := s.w (.bolt b) F.PAT_STATUS_SCHED sel
        let s := ks.foldl (fun s k => (s.savedTiles k).foldl (fun s t => match t.2 with
          | none => s
          | some g => s.restoreTile g (s.ctxBase k + 0x10000 + t.1 * 0x200000) n entry) s) s
        let held := ks.flatMap fun k => (s.savedTiles k).map fun t => k * 144 + t.1
        let s := s.modBolt b fun x => { x with absent := (ks.flatMap fun k => (List.range 144).map fun i => k * 144 + i).filter fun m => !held.contains m }
        let arr := (s.boltTiles b).filter fun g => (s.tile g).atTack.isSome
        let s := s.modBolt b fun x =>
          { x with t0 := some s.tape, base := (s.releaseOf b n).getD 0, endAt := none, pausedAcc := 0, pause := .hold, pauseFrom := s.tape,
                   holdFrom := s.tape, holdFlag := false, slips := [], paces := [], tack := n, relAt := 0, arrived := arr, sent := true, sent2 := !p.fabric,
                   reports := x.reports.filter fun r => decide (n ≤ r.tack), decision := none, silent := false,
                   release := if p.fabric then none else some (s.tape + p.tackLat), restoreTack := some n }
        let s := if n = 0 then s else (s.wb (.bolt b) F.PAT_TACK_ANY true).w (.bolt b) F.PAT_TACK_TACK (n - 1)
        let s := (s.w (.bolt b) F.PAT_HOLD_INFO_TACK n).setPat b 5
        let s := (ks.foldl (fun s k => s.wb (.stk k) F.CTX_CTRL_RESTORE false) s).setCtxState b 5
        s.ownReports b p { s.ownMsg b p with late := false, lateXyz := none, second := true })

end Sys2Proof.Machine
end

