-- ==== Sys2Proof/WellFormed.lean ====
section
/-! DEFINITION. Which commands are well formed: those whose operands exist on the part (a line of 64 bytes at a multiple of 64 inside its
memory, a flit of 256 bytes, a segment of 4,096 bytes). The others run too: what the spec does not state of them is free (log entry 6). -/
namespace Sys2Proof
open Sys2Proof.Machine

/-- A line of DRAM that exists: exposed or held-back slice lines (Table 6.2), edge lines (R160). -/
def LineRef.wf : LineRef → Bool
  | .slice _ off => off % 64 == 0 && decide (off + 64 ≤ sliceAll)
  | .edge _ off => off % 64 == 0 && decide (off + 64 ≤ edgeBytes)

def LineRef.addr : LineRef → Nat
  | .slice t off => sliceAt t.g off
  | .edge e off => e.val * edgeBytes + off

def ChanRef.num : ChanRef → Nat
  | .slice t c => t.g * 2 + c.val
  | .edge e p => 10000 + e.val * 32 + p.val

/-- Whether a command's operands exist. -/
def Instr.wf : Instr → Bool
  | .privateRead _ off => off % 64 == 0 && decide (off < sliceBytes)
  | .privateWrite _ off data => off % 64 == 0 && decide (off < sliceBytes) && data.length == 64
  | .edgeLineRequest _ off wr _ =>
    off % 64 == 0 && decide (off < edgeBytes) && (match wr with | some d => d.length == 64 | none => true)
  | .needleRead _ off _ => off % 16 == 0 && decide (off < edgeBytes)
  | .bar2Read _ h len => decide (len ≤ 4096) && decide (h + len ≤ 0x20000000000)
  | .bar2Write _ h data _ => decide (data.length ≤ 512) && decide (h + data.length ≤ 0x20000000000)
  | .scrubRead l => l.wf
  | .claimedLineRead _ off => off % 64 == 0 && decide (off < edgeBytes)
  | .claimedLineWrite _ off data => off % 64 == 0 && decide (off < edgeBytes) && data.length == 64
  | .flitReceive _ raw _ _ _ => raw.length == 256
  | .seamFlitReceive _ _ flit _ => flit.length == 64
  | .fwSegment _ _ _ _ data => data.length == 4096
  | .hostToDevice _ _ _ data _ => data.length % 64 == 0 && decide (data.length ≤ 4096)
  | .mbxReservedCmd _ cmd => !(([0x01, 0x02, 0x03] : List Byte).contains cmd)
  | .rwtLoneWrite _ off _ => off % 4 == 0
  | .txnStageWrite _ off _ => off % 4 == 0
  | _ => true

end Sys2Proof
end

