-- ==== Sys2Proof/Machine/Fabric.lean ====
section
/-! DEFINITION. The rows of fabric ports (chapter 10: R267 to R297): training, slots, flits, acknowledgements, lane status, management frames
and their routes. -/
namespace Sys2Proof.Machine

/-! ### Training (R269, R271 to R273, Table 10.3) -/

/-- The size of a port's axis (R268). -/
def State.axisSize (s : State) (f : Nat) : Nat :=
  match portAxis f with
  | 0 => s.dims.1
  | 1 => s.dims.2.1
  | _ => s.dims.2.2

/-- FAB_TOPO.VERIFIED: every port of an axis whose dimension is above 1 has trained or failed for a reason other than CABLING. -/
def State.verifyTopo (s : State) : State :=
  if (List.range 12).all fun f => decide (s.axisSize f ≤ 1) || (s.fport f).settled then s.wb (.fab 0) F.FAB_TOPO_VERIFIED true else s

def State.portState (s : State) (f : Nat) : Nat := s.r (.fab f) F.FAB_PORT_STATUS_STATE

/-- The lanes that the alteration record masks (R347). -/
def State.maskedLanes (s : State) (f : Nat) : BitVec 4 :=
  BitVec.ofNat 4 (((List.range 4).map fun l =>
    if s.skipped 5 (ixOf f l) then 2 ^ l else 0).foldl (· + ·) 0)

/-- A training attempt begins: no lane has passed. The first one takes FAB_COORD as it stands then (R340). -/
def State.trainStart (s : State) (f n : Nat) : State :=
  let s := ((s.w (.fab f) F.FAB_PORT_STATUS_STATE 1).w (.fab f) F.FAB_PORT_STATUS_ATTEMPTS n).setWidth f 0
  let s := (List.range 4).foldl (fun s l => s.wb (.fab f) (F.FAB_LANE_PASSED l) false) s
  s.modFport f fun p => { p with attempts := n, settled := false, both := 0, failing := 0, told := 0, geo := if n = 1 then (s.coord, s.dims) else p.geo }

/-- The lanes of a port that take part in training. -/
def State.ownLanes (s : State) (f : Nat) : List Nat := (List.range 4).filter fun l => !bit (s.maskedLanes f).toNat l

/-- Lanes that failed an attempt of the port's training: their entries are updated (R346, R348), with the mask of the lanes that passed. -/
def State.lanesRecord (s : State) (f code : Nat) (l : List Nat) : State :=
  let passed := ((List.range 4).filter fun i => s.b (.fab f) (F.FAB_LANE_PASSED i)).foldl (fun m i => m + 2 ^ i) 0
  l.foldl (fun s i => s.altAdd 7 5 (ixOf f i) code passed) s

/-- Lanes that have failed for good: failed items of the step that trains them, while it runs (R331). -/
def State.lanesOut (s : State) (f code : Nat) (l : List Nat) : State :=
  let s := s.lanesRecord f code l
  if s.r .mbx F.MBX_STATUS_STEP = 7 then { s with hkc := { s.hkc with laneCodes := s.hkc.laneCodes ++ l.map fun _ => code } } else s

/-- The port stays down after its training, the lanes' failure recorded. -/
def State.trainOut (s : State) (f code : Nat) : State :=
  let s := (s.w (.fab f) F.FAB_PORT_STATUS_STATE 0).modFport f fun p => { p with settled := true }
  (s.lanesOut f code (s.ownLanes f)).verifyTopo.retime

/-- An attempt fails: it is repeated, up to three in all, each failure recorded against the port's lanes (R272, R348): 0x20 where a limit expired,
0x21 where no lane was good enough at both ends (DEDUCED, log entry 98). -/
def State.trainFail (s : State) (f code : Nat) : State :=
  let n := (s.fport f).attempts
  if n < 3 then (s.lanesRecord f code (s.ownLanes f)).trainStart f (n + 1) else s.trainOut f code

/-- EXCHANGE ends: the neighbour is known; a mismatch with the coordinate the port trains with leaves it down with CABLING set (R269, R340). -/
def State.exchangeDone (s : State) (f : Nat) (i : TrainInfo) : State :=
  let k := Blk.fab f
  let s := ((s.w k F.FAB_PORT_NBR_COORD (i.farX + 16 * i.farY + 256 * i.farZ)).w k F.FAB_PORT_NBR_NPORT i.farPort).wb k F.FAB_PORT_NBR_VALID true
  let (c, d) := (s.fport f).geo
  if (i.farX, i.farY, i.farZ) ≠ neighbourOf c d f ∨ i.farPort ≠ partnerPort f ∨ (i.farDX, i.farDY, i.farDZ) ≠ d then
    (s.w k F.FAB_PORT_STATUS_STATE 0).wb k F.FAB_PORT_STATUS_CABLING true
  else
    let m := (List.range 4).foldl (fun m l => if s.b k (F.FAB_LANE_PASSED l) then m ||| BitVec.ofNat 4 (2 ^ l) else m) (0 : BitVec 4) &&& i.farMask
    if m = 0 then s.trainFail f 0x21
    else (s.modFport f fun p => { p with both := m }).w k F.FAB_PORT_STATUS_STATE 6

/-- What the alteration record takes from a port that comes up: a lane that did not pass is recorded, one that passed with its alternate keeps it
(R346, R347). -/
def State.lanesSettle (s : State) (f : Nat) : State :=
  let bad := (s.ownLanes f).filter fun l => !s.b (.fab f) (F.FAB_LANE_PASSED l)
  let good := (List.range 4).filter fun l => s.b (.fab f) (F.FAB_LANE_PASSED l)
  let s := s.lanesOut f 0x20 bad
  s.altResolve 7 5 (fun item => good.any fun l => ixOf f l == item) []

/-- The port is up: flits flow in the new sequence space. A port that a pattern has come to claim does not widen: it waits (R273). -/
def State.portGoesUp (s : State) (f : Nat) (i : TrainInfo) : State :=
  if (s.portBolt f).isSome then s
  else
    let k := Blk.fab f
    let s := ((s.lanesSettle f).w k F.FAB_LAT_NOM_CYCLES i.latNom).setWidth f (s.fport f).both.toNat
    let s := s.modFport f fun p => { FabPort.reset with attempts := p.attempts, both := p.both, settled := true, nextSlot := p.nextSlot, geo := p.geo }
    let s := (List.range 4).foldl (fun s l => s.wb k (F.FAB_LANE_FAILING l) false) (s.w k F.FAB_PORT_STATUS_STATE 7)
    ((s.setUp f true).verifyTopo).retime

/-- A training state ends and the next begins. -/
def execTrainStateComplete (f : Fin 12) (i : TrainInfo) (s : State) : Result :=
  .next (
    let k := Blk.fab f
    match s.portState f with
    | 1 => s.w k F.FAB_PORT_STATUS_STATE 2
    | 2 => (List.range 4).foldl (fun s l => s.wb k (F.FAB_LANE_PRECODE l) (bit i.precode.toNat l)) (s.w k F.FAB_PORT_STATUS_STATE 3)
    | 3 =>
      let m := i.laneMask &&& ~~~(s.maskedLanes f)
      let s := (List.range 4).foldl (fun s l => s.wb k (F.FAB_LANE_PASSED l) (bit m.toNat l)) s
      if m = 0 then s.trainFail f 0x21 else s.w k F.FAB_PORT_STATUS_STATE 4
    | 4 => s.w k F.FAB_PORT_STATUS_STATE 5
    | 5 => s.exchangeDone f i
    | 6 => s.portGoesUp f i
    | _ => s)

def execTrainLimitExpire (f : Fin 12) (s : State) : Result :=
  .next (if 1 ≤ s.portState f ∧ s.portState f ≤ 6 then s.trainFail f 0x20 else s)

/-- The effect of FAB_PORT_CTRL.RETRAIN (R273). A disabled port does not train, and one of an axis of dimension 1 stays down (R268). -/
def State.retrainPort (s : State) (f : Nat) : State :=
  if (s.portBolt f).isSome then s.wb (.fab f) F.FAB_PORT_STATUS_REFUSED true
  else if !s.b (.fab f) F.FAB_PORT_CTRL_EN || s.axisSize f ≤ 1 then s
  else
    let s := s.modFport f fun p => { p with replay := [], backlog := [], resv := [], slots := [], nakOut := false, nakDue := false }
    ((s.setUp f false).trainStart f 1).retime

/-! ### Transmission and reception (R274 to R285) -/

/-- The next scheduled slot that holds a flit starts, and its flit goes out. -/
def execSlotStart (f : Fin 12) (s : State) : Result :=
  .next (
    match (s.fport f).slots, s.portBolt f with
    | (q, x) :: rest, some b =>
      let c := slotCount (s.fabWidth f) q
      if !s.patRuns b || !s.live || !s.portUp f || !(decide (c ≤ s.countOf b) || s.canReach b c) then s
      else
        let t := (s.bolt b).tapeOf c
        (((s.advanceTo t).modFport f fun p => { p with slots := rest, nextSlot := q + 1 }).slotGo f x.flit t x.at_)
    | _, _ => s)

/-- The port of the next hop of a frame or an acknowledgement, in dimension order: the direction with fewer hops, − on a tie; plane a, or b when a
is down (DEDUCED, log entry 35). -/
def State.frameHop (s : State) (d : Nat × Nat × Nat) : Option Nat :=
  let (x, y, z) := s.coord
  let (dx, dy, dz) := s.dims
  let go (axis c t n : Nat) : Option Nat := s.upPort axis (decide ((t + n - c) % n < (c + n - t) % n))
  if x ≠ d.1 then go 0 x d.1 dx else if y ≠ d.2.1 then go 1 y d.2.1 dy else if z ≠ d.2.2 then go 2 z d.2.2 dz else none

/-- A flit of reserved traffic waits at the port toward a coordinate. -/
def State.toward (s : State) (d : Nat × Nat × Nat) (prec : Nat) (fl : Flit) : State :=
  match s.frameHop d with
  | some f => s.enqueue f prec fl
  | none => s

/-- A delivery acknowledgement for the sender of a flit (R281; its bytes are of log entry 80): coordinate, tile, channel, negative. -/
def ackFlit (fl : Flit) (negative : Bool) : Flit :=
  plainFlit 4 (leBytes 2 (xyz12 (fl.srcX, fl.srcY, fl.srcZ)) ++ leBytes 2 fl.stile ++ leBytes 1 fl.chan ++ leBytes 1 (b2n negative))

def State.sendAck (s : State) (fl : Flit) (negative : Bool) : State :=
  s.toward (fl.srcX, fl.srcY, fl.srcZ) Prec.ack (ackFlit fl negative)

/-- The bytes of a data flit that belong to its SEND: the last one's, as far as the RECV still takes them (log entry 26). -/
def State.flitBytesOf (s : State) (g : Nat) (fl : Flit) : List (BitVec 8) :=
  match fl.last, (s.tile g).recvs.get none fl.chan with
  | true, some p => fl.payload.take (p.len - p.got)
  | _, _ => fl.payload

/-- A data flit in order: delivered here where no hop remains (R281), forwarded otherwise, due at a schedule count (R279); in a core reset it is
discarded (R398). -/
def State.dataFlit (s : State) (inPort : Nat) (fl : Flit) (due : Nat) : State :=
  if s.rst.level ≠ 0 then s
  else match nextPort fl.hx fl.hy fl.hz fl.plane with
  | none =>
    match s.siteOf fl.ftile with
    | none => if fl.last then s.sendAck fl true else s
    | some g =>
      let s := s.recvData g fl.chan (s.flitBytesOf g fl)
      if fl.last then s.sendAck fl false else s
  | some f =>
    match s.portBolt f with
    | some b => if s.portUp f ∧ s.patRuns b then s.placeForward f b due inPort (hopFlit fl) else s
    | none => s

/-- A data flit that arrives after a global stop is held up to 2 µs after it, and discarded later (R462, R463). -/
def State.holdFlit (s : State) (f : Nat) (fl : Flit) : State :=
  if s.trace.stopTape + 2000 < s.tape then s
  else s.hold 4 f s.tape (flitBytes fl)

/-- A timing request is answered with the tape of its arrival (R294). -/
def State.timeReply (s : State) (f : Nat) : State :=
  s.enqueue f Prec.timing (plainFlit 2 (leBytes 2 7 ++ leBytes 8 s.tape))

/-- What a flit in order brings about. Tack-channel messages, acknowledgements for this module and management frames have rows of their own; an
acknowledgement for another module goes on (R281). -/
def State.flitIn (s : State) (f : Nat) (fl : Flit) (due : Nat) : State :=
  match fl.type with
  | 1 => if s.trace.stopped then s.holdFlit f fl else s.dataFlit f fl due
  | 2 => if fl.payload.headD 0 = 6 then s.timeReply f else s
  | 4 =>
    let d := leNat (fl.payload.take 2)
    if d = xyz12 s.coord then s else s.toward (bits d 0 4, bits d 4 4, bits d 8 4) Prec.ack fl
  | _ => s

/-- What a received flit's header brings about for the reverse direction (R283). -/
def State.takeAck (s : State) (f : Nat) (fl : Flit) : State :=
  let s := s.ackTo f fl.ack
  let s := if fl.nak then s.replayAll f else s
  s.pumpAll f

/-- A flit whose CRC is right (R283): one in order is taken; a missing sequence brings a NAK; one that was taken before is acknowledged again. -/
def State.takeFlit (s : State) (f : Nat) (fl : Flit) (due : Nat) : State :=
  let s := s.takeAck f fl
  let p := s.fport f
  let ahead := (fl.seq + 8192 - p.rxSeq) % 8192
  if !s.portUp f then s
  else if fl.type = 0 then (if ahead = 0 ∨ 4096 < ahead ∨ p.nakOut then s else s.sendNak f)
  else if ahead = 1 then (s.setFport f { p with rxSeq := fl.seq, nakOut := false, nakDue := false }).flitIn f fl due
  else if ahead = 0 ∨ 4096 < ahead then s.setFport f { p with ackSent := 8192 }
  else if p.nakOut then s
  else s.sendNak f

/-- A flit is received, 256 bytes, due at a schedule count that its header does not carry (log entry 24): its lanes' errors are counted (R286), one
that fails its CRC is discarded and brings a NAK (R274, R283). -/
def execFlitReceive (f : Fin 12) (raw : List Byte) (due : Nat) (uncorr : List (Fin 4)) (corr : List (Fin 4 × Nat)) (s : State) : Result :=
  .next (
    if !s.portUp f then s
    else
      let k := Blk.fab f
      let s := corr.foldl (fun s c => s.inc k (F.FAB_LANE_CORR c.1) c.2) s
      let s := (List.range 4).foldl (fun s l => s.laneUnc f l ((uncorr.filter fun u => u.val == l).length)) s
      if !s.portUp f then s
      else if !flitOk raw then (s.inc k F.FAB_CRC_ERR_COUNT_COUNT).sendNak f
      else s.takeFlit f (readFlit raw) due)

/-- The oldest unacknowledged flit has stood for 2 µs: the port replays from it (R283). -/
def execReplayTimeout (f : Fin 12) (s : State) : Result :=
  .next (match (s.fport f).replay with
  | [] => s
  | (_, _, t) :: _ => if s.portUp f then (s.advanceTo (t + 2000)).replayAll f else s)

/-! ### The link while no command waits (R276, R294) -/

/-- Every 100 µs a module asks its timing parent for the time (R294). -/
def State.timeAsk (s : State) : State :=
  match s.parentPort with
  | some f =>
    if s.tape < s.timingAt then s
    else { s.enqueue f Prec.timing (plainFlit 2 (leBytes 2 6)) with timingAt := s.tape + 100000 }
  | none => s

/-- Tiles with a counter trigger that has not fired count their clock as it goes (R456, R459). -/
def State.watchCounters (s : State) : State :=
  s.tiles.foldl (fun s t =>
    if (List.range 4).any (fun u => s.r (.tile t.1) (F.TRC_TRIG_CFG_KIND u) == 5 && !s.b (.tile t.1) (F.TRC_TRIG_CFG_FIRED u)) then s.clkSettle t.1 else s) s

/-- A tape cycle with no command waiting: the tape advances and the links go on (log entry 2). -/
def State.idle (s : State) : State := ((List.range 12).foldl (fun s f => s.pumpAll f) s.tick.timeAsk).watchCounters

/-- The acknowledgement of the SEND in a channel arrives (R281). -/
def execDeliveryAck (t : Site) (c : Fin 4) (negative : Bool) (s : State) : Result :=
  .next (match (s.tile t.g).chanCmd c.val with
  | none => s
  | some f =>
    if f.op ≠ 7 ∨ sendRoute f.desc ≠ 1 then s
    else if s.trace.stopped then
      if s.trace.stopTape + 2000 < s.tape then s else s.hold 1 t.g s.tape (leBytes 1 c.val ++ leBytes 1 (b2n negative))
    else if negative then s.shutFault t.g f 0x0C 0 (sendAddr f.desc) 7 true (sendAddr f.desc)
    else if f.prog = sendLen f.desc then s.complete t.g f.uid
    else s)

/-! ### Lanes and cables (R285 to R287, R484) -/

/-- The far end's failing lanes. -/
def execLaneStatus (f : Fin 12) (mask : BitVec 4) (s : State) : Result := .next (s.lanesFail f mask false)

/-- A LEAVING frame takes the port down and sets LEFT. -/
def execLeaving (f : Fin 12) (s : State) : Result := .next ((s.portDown f).wb (.fab f) F.FAB_PORT_STATUS_LEFT true)

/-- A lane that has lost lock for LOCK_LOSS_US microseconds is failing. -/
def execLossOfLock (f : Fin 12) (lane : Fin 4) (us : Nat) (s : State) : Result :=
  .next (if s.r (.fab f) F.FAB_LANE_FAIL_CFG_LOCK_LOSS_US ≤ us then s.lanesFail f (BitVec.ofNat 4 (2 ^ lane.val)) true else s)

def execCableRemoved (f : Fin 12) (s : State) : Result := .next (s.portDown f)

/-! ### Management frames (R295, Table 10.8) -/

/-- The destination of a frame in 12 bits. -/
def frameTarget (d : MgmtDest) : Nat := if d.broadcast then 0xFFF else xyz12 (d.x, d.y, d.z)

/-- A frame at this module: whether it is for it, and the frame sent on with one hop less. One whose hop limit is 0 goes no further; a broadcast goes
along the timing tree, not back where it came from (log entry 35). -/
def State.route (s : State) (d : MgmtDest) (type : Nat) (payload : List (BitVec 8)) : Bool × State :=
  let l := frameFlits type (frameTarget d) (xyz12 d.src) (d.hops - 1) payload
  if d.broadcast then
    (true, if d.hops = 0 then s
      else (s.treeLinks.filter fun f => f != d.inPort.val && f != twinPort d.inPort).foldl (fun s f => s.frameTo f l) s)
  else if (d.x, d.y, d.z) = s.coord then (true, s)
  else if d.hops = 0 then (false, s)
  else match s.frameHop (d.x, d.y, d.z) with
    | some f => (false, s.frameTo f l)
    | none => (false, s)

/-- A frame of an unknown type is discarded at its destination and counted as a protocol-class error. -/
def execUnknownFrame (dest : MgmtDest) (type : Byte) (payload : List Byte) (s : State) : Result :=
  .next (
    if [1, 2, 3, 4, 5].contains type.toNat then s
    else match s.route dest type.toNat payload with
      | (true, s) => s.logEv { cls := .protocol, source := Src.fabric, index := ixOf dest.inPort.val 0, code := type.toNat }
      | (false, s) => s)

end Sys2Proof.Machine
end

