-- ==== Sys2Proof/Machine/Xmss.lean ====
section
/-! DEFINITION. Verifying a signature of XMSS-SHAKE256_20_256 (R336): RFC 8391 with the functions of NIST SP 800-208, n = 32, w = 16, tree height
20. Strings of bytes are lists, first byte first; numbers in them have their most significant byte first. -/
namespace Sys2Proof.Machine.Xmss

abbrev Bytes := List (BitVec 8)

/-- `n` bytes of a number, the most significant first. -/
def toByte (v n : Nat) : Bytes := (List.range n).map fun i => BitVec.ofNat 8 (v / 256 ^ (n - 1 - i))
/-- The number that bytes spell, the most significant first. -/
def number (l : Bytes) : Nat := l.foldl (fun v b => v * 256 + b.toNat) 0

/-- A keyed hash (SP 800-208): the 32-byte SHAKE256 output over a 32-byte code, a 32-byte key and a message. -/
def hash (code : Nat) (key m : Bytes) : Bytes :=
  let d := shake256 (toByte code 32 ++ key ++ m)
  (List.range 32).map fun i => d.extractLsb' (8 * i) 8

def xorBytes (a b : Bytes) : Bytes := (a.zip b).map fun (x, y) => x ^^^ y

/-- An address: type 0 OTS, 1 L-tree, 2 hash tree; OTS or L-tree number (0 in a hash tree); chain or tree height; hash or tree index. -/
structure Adrs where
  type  : Nat
  owner : Nat
  row   : Nat
  col   : Nat

/-- The pseudorandom value of an address for the use `mask` (keyAndMask); layer and tree are 0 in a single tree. -/
def prf (seed : Bytes) (a : Adrs) (mask : Nat) : Bytes :=
  hash 3 seed (toByte 0 12 ++ toByte a.type 4 ++ toByte a.owner 4 ++ toByte a.row 4 ++ toByte a.col 4 ++ toByte mask 4)

/-- `n` steps of chain `i` of leaf `idx` from step `s`. -/
def chain (seed : Bytes) (idx i : Nat) : Nat → Nat → Bytes → Bytes
  | 0, _, x => x
  | n + 1, s, x =>
    let a : Adrs := ⟨0, idx, i, s⟩
    chain seed idx i n (s + 1) (hash 0 (prf seed a 0) (xorBytes x (prf seed a 1)))

/-- Two nodes hashed to their parent (RAND_HASH). -/
def pair (seed : Bytes) (a : Adrs) (l r : Bytes) : Bytes :=
  hash 1 (prf seed a 0) (xorBytes l (prf seed a 1) ++ xorBytes r (prf seed a 2))

/-- The 67 digits that a digest of 32 bytes is signed by: its 64 nibbles, the high one of a byte first, and 3 of their checksum. -/
def digits (m : Bytes) : List Nat :=
  let d := m.flatMap fun b => [b.toNat / 16, b.toNat % 16]
  let c := (d.map fun x => 15 - x).sum
  d ++ [c / 256 % 16, c / 16 % 16, c % 16]

/-- The `i`th string of 32 bytes. -/
def part (l : Bytes) (i : Nat) : Bytes := (l.drop (32 * i)).take 32

/-- The one-time public key that a signature and a digest give. -/
def otsKey (seed : Bytes) (idx : Nat) (sig m : Bytes) : List Bytes :=
  (digits m).zipIdx.map fun (d, i) => chain seed idx i (15 - d) d (part sig i)

/-- One level of an L-tree: neighbours paired, an odd one carried. -/
def level (seed : Bytes) (idx h : Nat) : Nat → List Bytes → List Bytes
  | i, l :: r :: rest => pair seed ⟨1, idx, h, i⟩ l r :: level seed idx h (i + 1) rest
  | _, l => l

/-- An L-tree's root after at most `n` levels. -/
def ltree (seed : Bytes) (idx : Nat) : Nat → Nat → List Bytes → Bytes
  | 0, _, l => l.headD []
  | n + 1, h, l => if l.length ≤ 1 then l.headD [] else ltree seed idx n (h + 1) (level seed idx h 0 l)

/-- The root over a leaf, from the authentication path. -/
def climb (seed : Bytes) (idx : Nat) (leaf : Bytes) (auth : Bytes) : Bytes :=
  (List.range 20).foldl (fun x k =>
    let a : Adrs := ⟨2, 0, k, idx / 2 ^ (k + 1)⟩
    if idx / 2 ^ k % 2 = 0 then pair seed a x (part auth k) else pair seed a (part auth k) x) leaf

/-- A signature of 2,820 bytes verifies over a message: public key of 68 bytes (OID, root, SEED). -/
def verify (pk m sig : Bytes) : Bool :=
  let root := (pk.drop 4).take 32
  let seed := (pk.drop 36).take 32
  let idx := number (sig.take 4)
  let m' := hash 2 ((sig.drop 4).take 32 ++ root ++ toByte idx 32) m
  let leaf := ltree seed idx 7 0 (otsKey seed idx (sig.drop 36) m')
  climb seed idx leaf (sig.drop 2180) == root

end Sys2Proof.Machine.Xmss
end

