-- ==== Sys2Proof/Machine/Bringup.lean ====
section
/-! DEFINITION. Bring-up, firmware and identity (R330 to R352): the steps of Table 12.1, segments and verification, tile firmware, fitting runs,
the capability list (R327, R328), attestation and the mailbox commands. -/
namespace Sys2Proof.Machine

/-! ### Steps (R331, R345) -/

def State.stepNo (s : State) : Nat := s.r .mbx F.MBX_STATUS_STEP

/-- The start under way follows a core reset (Table 12.5). -/
def State.coreStart (s : State) : Bool := s.r .rst F.RST_CAUSE_LEVEL == 3

/-- MBX_STATUS.STATE in a step that runs: steps 3 and 9 wait for the host's images. -/
def State.stepState (s : State) (n : Nat) : Nat := if n = 3 ∨ (n = 9 ∧ !s.hkc.verified2 ∧ !s.coreStart) then 1 else 0

/-- The fabric ports begin to train (R268, R340): those that are enabled, of an axis whose dimension is above 1. -/
def State.trainPorts (s : State) : State :=
  (List.range 12).foldl (fun s f => if 1 < s.axisSize f ∧ s.b (.fab f) F.FAB_PORT_CTRL_EN then s.trainStart f 1 else s) s

/-- What begins with a step: in step 7 the fabric ports train, but after a core reset (R340, Table 12.5). -/
def State.beginStep (s : State) : State :=
  let s : State := { s with hkc := { s.hkc with laneCodes := [] } }
  if s.stepNo = 7 ∧ s.r .mbx F.MBX_STATUS_STATE ≤ 1 ∧ !s.coreStart then s.trainPorts else s

/-- A step begins, or the sequence halts before it (STOP_BEFORE). -/
def State.enterStep (s : State) (n : Nat) : State :=
  let st := if s.r .mbx F.MBX_BOOT_CFG_STOP_BEFORE = n then 4 else s.stepState n
  let s := (s.w .mbx F.MBX_STATUS_STEP n).w .mbx F.MBX_STATUS_STATE st
  ({ s with hkc := { s.hkc with stepAt := s.tape } } : State).beginStep

/-- The module is in a step and not halted, stopped or in reset. -/
def State.onStep (s : State) (n : Nat) : Bool :=
  s.rst.level == 0 && s.rst.want == 0 && s.stepNo == n && s.r .mbx F.MBX_STATUS_STATE ≤ 1

/-- A step has ended, with the codes of its failed items in order: MBX_STEP_n. -/
def State.stepDone (s : State) (n : Nat) (codes : List Nat) : State :=
  let s := (s.w .mbx (F.MBX_STEP_RESULT n) (if codes = [] then 1 else 2)).w .mbx (F.MBX_STEP_CODE n) (codes.headD 0)
  s.w .mbx (F.MBX_STEP_TIME_MS n) (min 0xFFFF ((s.tape - s.hkc.stepAt) / 1000000))

/-- Bring-up stops in a step. -/
def State.stopStep (s : State) (n code : Nat) : State :=
  let s := (s.stepDone n [code]).w .mbx (F.MBX_STEP_RESULT n) 3
  (s.w .mbx F.MBX_STATUS_STATE 2).w .mbx F.MBX_STATUS_CODE code

/-- Codes of failed items. -/
def codesOf (l : List ItemFail) : List Nat := l.map (·.code)
def ofKind (k : Nat) (l : List ItemFail) : List ItemFail := l.filter fun f => f.kind == k

/-- Failures recorded against a step (R346). -/
def State.record (s : State) (step : Nat) (l : List ItemFail) : State := l.foldl (fun s f => s.altAdd step f.kind f.item f.code f.detail) s

/-- A compute stack is unavailable for this start: identity word 7. -/
def State.stackDown (s : State) (k : Nat) : State :=
  let m := s.r .id F.ID_W7_STACKS
  let s := s.w .id F.ID_W7_STACKS (if bit m k then m - 2 ^ k else m)
  if s.hkc.stackFail.contains k then s else { s with hkc := { s.hkc with stackFail := s.hkc.stackFail ++ [k] } }

/-- ITEM of a die's fuses, KIND 9: base die, compute stack or edge stack in [15:12], which of the three in [11:0] (DESIGN CHOICE, log entry 86). -/
def dieItem (d : Nat) : Nat := if d < 4 then ixOf d 0 else if d < 16 then ixOf (d - 4) 1 else ixOf (d - 16) 2
/-- A die whose fuse word is invalid now, or was when the record was written. -/
def State.fuseBad (s : State) (d : Nat) : Bool := s.fuses.bad d || s.skipped 9 (dieItem d)
/-- The same for a base die, for a compute stack and for an edge stack: a base die's stacks go with it. -/
def State.dieBad (s : State) (d : Nat) : Bool := s.fuseBad d
def State.stackBad (s : State) (k : Nat) : Bool := s.dieBad (dieOf k) || s.fuseBad (4 + k)
def State.edgeBad (s : State) (e : Nat) : Bool := s.dieBad (dieOf e) || s.fuseBad (16 + e)

/-! ### Segments (R332 to R334) -/

def State.staged (s : State) (ty : Nat) : List Nat := if ty = 1 then s.hkc.staged1 else s.hkc.staged2
def State.setStaged (s : State) (ty : Nat) (l : List Nat) : State :=
  { s with hkc := if ty = 1 then { s.hkc with staged1 := l } else { s.hkc with staged2 := l } }

/-- Body segments that the staged manifest names. -/
def State.bodySegs (s : State) (ty : Nat) : Nat := s.mem.readLE (stageAt ty 0 + 0xC) 4 / 4096

/-- The manifest and every body segment are staged. -/
def State.imageFull (s : State) (ty : Nat) : Bool :=
  let l := s.staged ty
  let n := s.bodySegs ty
  l.contains 0 && decide (n ≤ 511) && (List.range n).all fun i => l.contains (i + 1)

/-- The refusals of R333 that hold, each with its flag set; `false` where none does. -/
def State.segRefused (s : State) (ty seq crc : Nat) (data : List (BitVec 8)) : Bool × State :=
  let bad := crc32c 0 data != crc
  let ref := !(ty == 1 || ty == 2) || (ty == 1 && s.hkc.imageRuns) || (ty == 2 && s.hkc.verified2 && (s.stepNo == 9 || s.stepNo == 10))
  let out := decide ((if (s.staged ty).contains 0 then s.bodySegs ty else 256) < seq)
  let s' := if bad then s.wb .mbx F.MBX_SEG_STAT_BAD_CRC true else s
  let s' := if ref then s'.wb .mbx F.MBX_SEG_STAT_REFUSED true else s'
  let s' := if out then s'.wb .mbx F.MBX_SEG_STAT_RANGE true else s'
  (bad || ref || out, s')

/-- Step 3 ends once the HKC image is staged whole (R334). -/
def State.downloaded (s : State) : State := if s.onStep 3 && s.imageFull 1 then (s.stepDone 3 []).enterStep 4 else s

/-- Row BRINGUP_POWER. -/
def execBringupPower (s : State) : Result :=
  .next (if s.hkc.powered || !s.pins.v48 || s.rst.level != 0 || s.stepNo != 0 then s
    else (({ s with hkc := { s.hkc with powered := true } }).stepDone 1 []).enterStep 2)

/-- Row BRINGUP_PCIE: the links that trained; with neither up the ROM keeps trying. A port whose PERSTn_N is low stays
down. A port that stays down is a failed item of the step. An HKC image staged whole by then is verified next (R334). -/
def execBringupPcie (up0 up1 : Option PcieLink) (s : State) : Result :=
  let u0 := up0.isSome && !s.pins.low.contains .perst0
  let u1 := up1.isSome && !s.pins.low.contains .perst1
  let up (s : State) (p : Nat) (u : Bool) (l : Option PcieLink) : State :=
    match u, l with
    | true, some l => s.setHport p { s.hport p with linkUp := true, width := 2 ^ l.width.val, rate := l.rate.val }
    | _, _ => s
  .next (if !s.onStep 2 || !(u0 || u1) then s
    else
      (((up (up s 0 u0 up0) 1 u1 up1).stepDone 2 (if u0 && u1 then [] else [0x20])).enterStep 3).downloaded)

/-- STOP_BEFORE written as 0 lets a halted sequence go on. -/
def State.bootContinue (s : State) : State :=
  if s.r .mbx F.MBX_STATUS_STATE = 4 ∧ s.r .mbx F.MBX_BOOT_CFG_STOP_BEFORE = 0 then
    (s.w .mbx F.MBX_STATUS_STATE (s.stepState s.stepNo)).beginStep.downloaded
  else s

/-- A segment enters its staging area; a manifest clears the segments of its type first. A new tile firmware segment ends the verified
state of the image (log entry 52). -/
def State.stage (s : State) (ty seq : Nat) (data : List (BitVec 8)) : State :=
  let s := { s with mem := s.mem.writeN (stageAt ty seq) data }
  let l := if seq = 0 then [] else s.staged ty
  let s := s.setStaged ty (if l.contains seq then l else l ++ [seq])
  if ty = 2 then ({ s with hkc := { s.hkc with verified2 := false } }).w .mbx F.MBX_VERIFY_TILE_RESULT 0
  else s.downloaded

/-- MBX_SEG_CTRL.POST written as 1 (R332, R333). -/
def State.postSegment (s : State) : State :=
  if s.b .mbx F.MBX_STATUS_SEG_BUSY then s.wb .mbx F.MBX_SEG_STAT_OVERRUN true
  else
    let ty := s.r .mbx F.MBX_SEG_CTRL_TYPE
    let seq := s.r .mbx F.MBX_SEG_CTRL_SEQ
    match s.segRefused ty seq (s.r .mbx F.MBX_SEG_CRC_CRC) (s.mem.readN (segWinAt 0) 4096) with
    | (true, s) => s
    | (false, s) => ({ s with hkc := { s.hkc with staging := some (ty, seq) } }).wb .mbx F.MBX_STATUS_SEG_BUSY true

/-- A write of the segment window (R332, R333). -/
def State.windowWrite (s : State) (off : Nat) (v : BitVec 32) : State :=
  if s.b .mbx F.MBX_STATUS_SEG_BUSY then s.wb .mbx F.MBX_SEG_STAT_OVERRUN true
  else { s with mem := s.mem.writeLE (segWinAt off) 4 v.toNat }

/-- The posted segment that waits is staged. -/
def State.stagePosted (s : State) : State :=
  match s.hkc.staging with
  | none => s
  | some (ty, seq) =>
    (({ s with hkc := { s.hkc with staging := none } }).wb .mbx F.MBX_STATUS_SEG_BUSY false).stage ty seq (s.mem.readN (segWinAt 0) 4096)

/-- Row SEGMENT_STAGED. -/
def execSegmentStaged (s : State) : Result := .next s.stagePosted

/-- Row FW_SEGMENT: a frame for this module stages its segment under the rules of a posted one, after a posted one that arrived before it; type 1
is discarded (R297, R334). -/
def execFwSegment (dest : MgmtDest) (type seq : Nat) (crc : Word) (data : List Byte) (s : State) : Result :=
  let (data, s) := if data.length = 4096 then (data, s) else s.fill 4096 data
  .next (
    match s.route dest 0x05 (leBytes 2 type ++ leBytes 2 seq ++ leBytes 4 crc.toNat ++ data) with
    | (false, s) => s
    | (true, s) =>
      if !s.b (.fab 0) F.FAB_MGMT_CFG_FW_EN || type == 1 then s
      else match s.stagePosted.segRefused type seq crc.toNat data with
        | (true, s) => s
        | (false, s) => s.stage type seq data)

/-! ### Verification (R335 to R337, Tables 12.2, 12.3) -/

/-- The first failing check of a staged image: its code, 0 where it passes. -/
def State.verifyCode (s : State) (ty : Nat) : Nat :=
  let m := s.mem.readN (stageAt ty 0) 4096
  let f (o n : Nat) : List (BitVec 8) := (m.drop o).take n
  let v (o n : Nat) : Nat := leNat (f o n)
  let len := v 0xC 4
  let lenOk := if ty = 1 then decide (len % 4096 = 0 ∧ 4096 ≤ len ∧ len ≤ 2 ^ 20) else decide (len = 131072)
  let zero := (f 7 1 ++ f 0x94 0x6C ++ f 0xC04 1020).all (· == 0)
  if !(v 0 4 == 0x5154464D && v 4 2 == 1 && v 6 1 == ty && lenOk && zero) then 0x01
  else if (shake256 (f 0x50 68)).toNat % 2 ^ 256 != s.fuses.keyHash.toNat then 0x02
  else if f 0x50 4 != [0, 0, 0, 0x12] || !Xmss.verify (f 0x50 68) (f 0 0x100) (f 0x100 2820) then 0x03
  else if (shake256 (s.mem.readN (stageAt ty 1) len)).toNat != v 0x10 64 then 0x04
  else 0

/-- The measurement of a staged image (R336): manifest and body. -/
def State.imageMeas (s : State) (ty : Nat) : BitVec 512 := shake256 (s.mem.readN (stageAt ty 0) (4096 + 4096 * s.bodySegs ty))

/-- A failed verification (R337): no part of the image is kept. -/
def State.verifyFail (s : State) (ty code : Nat) : State :=
  let s := { s with mem := s.mem.clear (stageAt ty 0) (512 * 4096) }
  let s := (s.setStaged ty []).inc .mbx F.MBX_VERIFY_FAILS
  let s := (s.w .mbx (if ty = 1 then F.MBX_VERIFY_HKC_RESULT else F.MBX_VERIFY_TILE_RESULT) 2).w .mbx F.MBX_STATUS_CODE code
  if ty = 1 then (s.w .mbx (F.MBX_STEP_CODE 4) code).enterStep 3 else s

/-- The verified HKC image starts: FATAL is cleared and FAULT_N released (R432), and the HKC drives the other status outputs anew. -/
def State.hkcStarts (s : State) : State :=
  let m := s.imageMeas 1
  let s := { s with hkc := { s.hkc with imageRuns := true, hkcMeas := m },
                    pins := { s.pins with fault := false, thermtrip := false, thermalert := false } }
  ((((s.wb .err F.ERR_STATUS_FATAL false).w .mbx F.MBX_VERIFY_HKC_RESULT 1).wb .mbx F.MBX_STATUS_ROM false).stepDone 4 []).enterStep 5

/-- Row IMAGE_VERIFY: the HKC image in step 4, tile firmware whenever it is staged whole once the HKC runs. -/
def execImageVerify (s : State) : Result :=
  .next (if s.onStep 4 && s.imageFull 1 && !s.hkc.imageRuns then
      match s.verifyCode 1 with
      | 0 => s.hkcStarts
      | c => s.verifyFail 1 c
    else if s.rst.level == 0 && s.hkc.imageRuns && !s.hkc.verified2 && s.imageFull 2 then
      match s.verifyCode 2 with
      | 0 =>
        let m := s.imageMeas 2
        let s := ({ s with hkc := { s.hkc with verified2 := true, fwMeas := m,
                                               fwDigest := BitVec.ofNat 512 (s.mem.readLE (stageAt 2 0 + 0x10) 64) } }).w .mbx F.MBX_VERIFY_TILE_RESULT 1
        if s.onStep 9 then s.w .mbx F.MBX_STATUS_STATE 0 else s
      | c => s.verifyFail 2 c
    else s)

/-! ### Fuses, clocks, training, memory test (R338 to R341, R347) -/

/-- The alteration record read before step 5 (R347). -/
def State.readRecord (s : State) : State :=
  let ign := s.b .mbx F.MBX_BOOT_CFG_ALT_IGNORE
  { s with hkc := { s.hkc with altIgnore := ign,
                               skip := if ign then [] else (s.store.alts.filter fun e => e.action == 2).map fun e => (e.kind, e.item) } }

/-- The fields derived from fuses (R338), and the limit in force, which starts at the fused limit (R339). -/
def State.setFused (s : State) : State :=
  let (amax, pmax) := Config.variantLimits s.fuses.variant
  let s := ((s.w .id F.ID_PART_VARIANT s.fuses.variant).w2 .id F.ID_SERIAL_LO_SERIAL F.ID_SERIAL_HI_SERIAL s.fuses.serial).w .id F.ID_W2_ACLK_MAX amax
  let s := ((s.w .id F.ID_W3_PWR_FUSED pmax).w .id F.ID_W3_PWR_LIMIT pmax).w .thm F.PWR_STATUS_IN_FORCE pmax
  let s := s.w .id F.ID_W7_STACKS 0xFFF
  (List.range 12).foldl (fun s k =>
    if s.stackBad k then s.stackDown k
    else
      let n := (s.fuses.die (4 + k)).value.getD 0 - 4
      ((s.w (.stk k) F.STK_INFO_STACK n).w (.stk k) F.STK_INFO_BASE_DIE (n / 3)).w (.stk k) F.STK_INFO_SLOT (n % 3)) s

/-- Row BRINGUP_FUSES. -/
def execBringupFuses (s : State) : Result :=
  .next (if !s.onStep 5 then s
    else
      let s := s.readRecord
      let s := ({ s with store := { s.store with starts := s.store.starts + 1 } }).pulse
      let s := s.record 5 (s.fuses.badDie.map fun d => ⟨9, dieItem d, 0x10, 0⟩)
      if s.fuses.badDie.contains 0 then s.stopStep 5 0x10
      else ((s.setFused.wb .id F.ID_STATUS_FUSES true).stepDone 5 (s.fuses.badDie.map fun _ => 0x10)).enterStep 6)

/-- ACLK of R339: the request or the fused maximum, clamped, in multiples of 100 MHz, at least 1,000 MHz. -/
def aclkOf (req fused : Nat) : Nat := max 1000 ((if req = 0 then fused else min req fused) / 100 * 100)

/-- Row BRINGUP_CLOCKS; after a core reset the stack PLLs only (Table 12.5). -/
def execBringupClocks (fabref : Bool) (stackFail : List (Fin 12)) (s : State) : Result :=
  .next (if !s.onStep 6 then s
    else
      let s := { s with pins := { s.pins with fabref := fabref } }
      let s := s.wb .rst F.RST_CLK_STATUS_FABREF fabref
      if !fabref then s.stopStep 6 0x11
      else
        let items := (stackFail.map fun k => ixOf k.val 0).filter fun i => !s.skipped 8 i
        let out := s.hkc.stackFail
        let s := (items.foldl (fun s i => s.altAdd 6 8 i 0x12 0) s).altResolve 6 8 (fun i => !out.contains (i / 4096) && !s.skipped 8 i) items
        let bad (k : Nat) : Bool := s.hkc.stackFail.contains k || s.skipped 8 (ixOf k 0) || stackFail.any (fun f => f.val == k)
        let s := (List.range 12).foldl (fun s k => if bad k then s.stackDown k else s) s
        let locks := ((List.range 12).map fun k => if bad k then 0 else 2 ^ k).foldl (· + ·) 0
        let s := (s.w .rst F.RST_CLK_STATUS_STACK_LOCK locks).wb .rst F.RST_CLK_STATUS_HOLDOVER false
        let s := if s.coreStart then s else (s.w .rst F.RST_CLK_STATUS_DIE_LOCK 0xF).wb .tape F.TAPE_STATUS_LOCKED true
        let s := s.w .id F.ID_W2_ACLK_SET (aclkOf (s.r .mbx F.MBX_BOOT_CFG_ACLK_REQ) (s.r .id F.ID_W2_ACLK_MAX))
        ((s.retime).stepDone 6 (items.map fun _ => 0x12)).enterStep 7)

/-- The set bits of a mask of 72. -/
def maskBits (m : Nat) : List Nat := (List.range 72).filter fun i => bit m i

/-- Spares that the fuses assign, and the spares and erasures of the record store, applied before training (R338, R417). -/
def State.applyStored (s : State) : State :=
  let s := s.fuses.conns.foldl (fun s x =>
    let c := s.chan x.1
    if c.spares.contains x.2 then s else (s.setChan x.1 { c with spares := c.spares ++ [x.2] }).showChan x.1) s
  s.store.chans.foldl (fun s x => (s.setChan x.1 { s.chan x.1 with spares := x.2.1, erasures := x.2.2 }).showChan x.1) s

/-- A seam trained: groups of direction 0 (0-127) and direction 1 (128-255) that use their spare, and those that fail (R424, R425). -/
def State.trainSeam (s : State) (n : Nat) (spared bad : List Nat) : State :=
  let half (lo : Nat) : Bool := bad.all fun g => g % 128 / 64 != lo
  let a := half 0
  let b := half 1
  let s := (s.w .rst (F.SEAM_STATUS_WIDTH n) (b2n a + b2n b)).wb .rst (F.SEAM_STATUS_HALF_A n) a
  let s := (s.wb .rst (F.SEAM_STATUS_HALF_B n) b).w .rst (F.SEAM_STATUS_SPARES n) (satAdd 8 0 spared.length)
  let dir (d : Nat) : Seam := { Seam.reset with spared := (spared.filter fun g => g / 128 == d).map (· % 128) }
  (s.setSeam (n * 2) (dir 0)).setSeam (n * 2 + 1) (dir 1)

/-- The seams train with the lane masks found: one lane is spared, more fail their group; a group of ACTION 2, or that the fuses spare, is spared from the
start. -/
def State.trainSeams (s : State) (l : List ItemFail) : State :=
  (List.range 4).foldl (fun s n =>
    let mine := l.filter fun f => f.item / 4096 == n
    let bad := (mine.filter fun f => 1 < (maskBits f.detail).length).map fun f => f.item % 4096
    let one := (mine.filter fun f => (maskBits f.detail).length ≤ 1).map fun f => f.item % 4096
    let old := (List.range 256).filter fun g => (s.skipped 4 (ixOf n g) || s.fuses.lanes.contains (n, g)) && !one.contains g
    s.trainSeam n (one ++ old) bad) s

/-- The pins of a pseudo-channel that are dead: an eye narrower than 12 steps of 1/64 UI or lower than 24 mV (R187). -/
def deadPins (eyes : List PinEye) (e p : Nat) : List Nat :=
  ((eyes.filter fun x => x.e.val == e && x.pc.val == p && (decide (x.width < 12) || decide (x.height < 24))).map fun x => x.pin.val).eraseDups

/-- The pseudo-channels with more than 4 dead pins fail (R187): code 0x21, with the mask of the pins. -/
def eyeFails (eyes : List PinEye) : List ItemFail :=
  ((eyes.map fun x => (x.e.val, x.pc.val)).eraseDups.filter fun x => decide (4 < (deadPins eyes x.1 x.2).length)).map fun x =>
    ⟨3, ixOf x.1 x.2, 0x21, ((deadPins eyes x.1 x.2).map fun i => 2 ^ i).sum⟩

/-- The training of an edge stack is skipped: its dies' fuses are bad, or a pseudo-channel has ACTION 2 (R347). -/
def State.edgeSkip (s : State) (e : Nat) : Bool := s.edgeBad e || (List.range 32).any fun p => s.skipped 3 (ixOf e p)

/-- The edge PHYs train: dead pins of a pseudo-channel become erasures; a pseudo-channel that fails makes its stack unavailable (R187). -/
def State.trainEdges (s : State) (eyes : List PinEye) (bad : List ItemFail) : State :=
  (List.range 12).foldl (fun s e =>
    let skip := s.edgeSkip e
    let s := (List.range 32).foldl (fun s p =>
      match deadPins eyes e p with
      | [] => s
      | l => (s.setChan (edgeChan e p) { s.chan (edgeChan e p) with erasures := l }).w (.edge e) (F.EDGE_PC_ERASURES p) l.length) s
    s.wb (.edge e) F.EDGE_STATUS_TRAINED (!skip && !bad.any fun f => f.item / 4096 == e)) s

/-- Sites that fail a step are left out of the rest of the start. -/
def State.failSites (s : State) (l : List Nat) : State := { s with hkc := { s.hkc with siteFail := s.hkc.siteFail ++ l } }
/-- The site that an item of KIND 1 or 2 names; channel n is channel n mod 2 of site n div 2. -/
def itemSite (f : ItemFail) : Nat := f.item / 4096 * 160 + (if f.kind = 2 then f.item % 4096 / 2 else f.item % 4096)

/-- A site that no earlier step of this start, and no entry of ACTION 2, has taken out; after a core reset, a site not retired. -/
def State.siteLeft (s : State) (g : Nat) : Bool :=
  !s.hkc.stackFail.contains (g / 160) && !s.hkc.siteFail.contains g && !s.skipped 1 (ixTile g)
    && !s.skipped 2 (ixOf (g / 160) (2 * (g % 160))) && !s.skipped 2 (ixOf (g / 160) (2 * (g % 160) + 1))
    && !(s.coreStart && s.ltile g == 0xFE)

/-- The items of step 7 that trained, by kind: a slice channel of a site left, a pseudo-channel of a stack not skipped, a lane group not spared. -/
def State.trains (s : State) (kind item : Nat) : Bool :=
  match kind with
  | 2 => s.siteLeft (itemSite ⟨2, item, 0, 0⟩)
  | 3 => !s.edgeSkip (item / 4096)
  | _ => !s.skipped kind item

/-- The limit of step 7 expires for the ports that still train: they fail and stay down (R331, Table 12.1). -/
def State.trainExpire (s : State) : State :=
  let l := (List.range 12).filter fun f => decide (1 ≤ s.portState f ∧ s.portState f ≤ 6)
  if l = [] then s else l.foldl (fun s f => s.trainOut f 0x20) (s.advanceTo (s.hkc.stepAt + 200000000))

/-- Row BRINGUP_TRAIN, the end of step 7 (R340): after a core reset only slice channels and seams train (Table 12.5). Fabric ports train by rows of their
own since the step began; those that still do have run into its limit. -/
def execBringupTrain (eyes : List PinEye) (fails : List ItemFail) (s : State) : Result :=
  .next (if !s.onStep 7 then s
    else
      let core := s.coreStart
      let edge := if core then [] else ofKind 3 fails ++ eyeFails eyes
      let seam := (ofKind 4 fails).filter fun f => decide (1 < (maskBits f.detail).length)
      let real := ofKind 2 fails ++ edge ++ seam
      let s := (if core then [2, 4] else [2, 3, 4]).foldl (fun t k => t.altResolve 7 k (s.trains k) ((ofKind k real).map (·.item))) s
      let s := s.applyStored
      let s := (s.failSites ((ofKind 2 fails).map itemSite)).trainSeams (ofKind 4 fails)
      let s := if core then s else s.trainEdges eyes edge
      let s := s.record 7 real
      let s := if core then s else s.trainExpire
      let s := { s with rst := { s.rst with steps := false }, therm := { s.therm with selfRefresh := false } }
      (s.stepDone 7 (codesOf real ++ s.hkc.laneCodes)).enterStep (if core then 9 else 8))

/-- Every exposed line zero with valid check bytes (R341): the lines of [0, edge end) and of each slice's exposed part. -/
def exposedAt (a : Nat) : Bool :=
  match placeOf a with
  | .edge _ _ => true
  | .slice _ o => decide (o < sliceBytes)
  | _ => false

/-- Rows of a slice bank replaced by the fuses count with those of the store. -/
def State.rowsUsed (s : State) (p : Nat × Nat → Bool) : Nat := ((s.fuses.rows ++ s.store.spareRows).filter p).length

/-- The bank of a row: its channel and the bank in it (Table 6.1, R160). -/
def rowBank (q : Nat × Nat) : Nat × Nat := (q.1, q.2 % (if q.1 < 10000 then 64 else 32))
/-- The slice, or the edge stack, that shares its spare banks with a channel. -/
def spareSet (c : Nat) : Nat := if c < 10000 then c / 2 else c / 32

/-- A spare bank for a bank, where one is free (R185): in a slice one for every 16 banks of a layer, in an edge stack as many as it has (log entry 117). -/
def State.darnBank (s : State) (q : Nat × Nat) : Option Store :=
  let st := s.store
  let used := (st.spareBanks ++ s.fuses.banks).filter fun x => spareSet x.1 == spareSet q.1 && (10000 ≤ q.1 || x.2 % 8 == q.2 % 8)
  if used.length < (if q.1 < 10000 then 1 else Config.edgeSpareBanks) then
    some { st with spareBanks := st.spareBanks ++ [q], spareRows := st.spareRows.filter fun r => rowBank r != q }
  else none

/-- A row's replacement (R185): a spare row of its bank (96 of them in a slice), then a spare bank for its bank, then in a slice a row of its darning
pool (8,192 of them); none where all are used. -/
def State.darnRow (s : State) (r : Nat × Nat) : Option Store :=
  let st := s.store
  if st.spareRows.contains r || s.fuses.rows.contains r || st.poolRows.contains r || (st.spareBanks ++ s.fuses.banks).contains (rowBank r) then some st
  else if s.rowsUsed (fun q => rowBank q == rowBank r) < (if r.1 < 10000 then 96 else Config.edgeSpareRows) then some { st with spareRows := st.spareRows ++ [r] }
  else match s.darnBank (rowBank r) with
    | some st => some st
    | none =>
      if r.1 < 10000 ∧ (st.poolRows.filter fun q => spareSet q.1 == spareSet r.1).length < 8192 then some { st with poolRows := st.poolRows ++ [r] } else none

/-- Rows darned in order; those that find no replacement. -/
def State.darnAll (s : State) (l : List (Nat × Nat)) : List (Nat × Nat) × State :=
  l.foldl (fun (out, s) r => match s.darnRow r with
    | some st => (out, { s with store := st })
    | none => (out ++ [r], s)) ([], s)

/-- The rows marked for darning that satisfy `p` are darned (R186); one without a replacement stays marked. -/
def State.darnMarked (s : State) (p : Nat × Nat → Bool) : State :=
  let mine := s.store.rows.filter p
  if mine = [] then s
  else
    let (out, s) := s.darnAll mine
    ({ s with store := { s.store with rows := s.store.rows.filter fun r => !p r || out.contains r } } : State).pulse

/-- No pattern claims the range of an edge row: the 2 MiB of the stack in which it lies (R160, R186). -/
def State.rowFree (s : State) (r : Nat × Nat) : Bool :=
  let e := (r.1 - 10000) / 32
  (List.range 12).all fun b => !s.patHolds b || !((s.bolt b).pat.any fun p => p.ranges.any fun x => x.stack == e && meet x.off x.len (r.2 / 32 * 2 ^ 21) (2 ^ 21))

/-- A failing bank takes a spare bank, or its rows one by one what rows take (R185); those that find nothing. -/
def State.darnBanks (s : State) (l : List (Nat × Nat)) : List (Nat × Nat) × State :=
  l.foldl (fun (out, s) q =>
    if (s.store.spareBanks ++ s.fuses.banks).contains q then (out, s)
    else match s.darnBank q with
    | some st => (out, { s with store := st })
    | none =>
      let rows := if q.1 < 10000 then (List.range (ceilDiv sliceAll 0x40000)).map fun i => q.2 + 64 * i else (List.range (edgeBytes / 0x200000)).map fun i => q.2 + 32 * i
      let (bad, s) := s.darnAll (rows.map fun r => (q.1, r))
      (out ++ bad, s)) ([], s)

/-- A failing pin (R185): in a slice its connection takes a spare or makes an erasure, in an edge stack the pin is an erasure. -/
def State.darnPin (s : State) (c pos conn : Nat) : State :=
  if c < 10000 then (s.deadConn c pos conn).putSpares c
  else
    let l := if (s.chan c).erasures.contains pos then (s.chan c).erasures else (s.chan c).erasures ++ [pos]
    (s.setChan c { s.chan c with erasures := l }).w (.edge ((c - 10000) / 32)) (F.EDGE_PC_ERASURES ((c - 10000) % 32)) (erasField l.length)

/-- The lines that may take an armed flip mask when the whole of DRAM is written (R177): of each armed slice and edge stack its first line and that of
the mask's address. -/
def State.flipLines (s : State) : List Nat :=
  (List.range 12).flatMap fun k =>
    let p := Blk.stk k
    let g := k * 160 + s.r p F.PMEM_FLIP_CTRL_SITE
    let e := Blk.edge k
    (if s.b p F.PMEM_FLIP_CTRL_ARM then (s.addrOf (s.r2 p F.PMEM_FLIP_ADDR_LO_ADDR F.PMEM_FLIP_ADDR_HI_ADDR)).toList ++ [sliceAt g 0] else [])
      ++ (if s.b e F.EDGE_FLIP_CTRL_ARM then [s.r2 e F.EDGE_FLIP_ADDR_LO_DPA F.EDGE_FLIP_ADDR_HI_DPA, k * edgeBytes] else [])

/-- Every exposed line zero with valid check bytes, but for an armed flip mask (R177, R341). -/
def State.zeroAll (s : State) : State :=
  let l := s.flipLines
  l.foldl (fun s a => s.sealRun (cwAt a) 64) { s with mem := s.mem.filter fun c => !exposedAt c.1, errs := s.errs.filter fun c => !exposedAt c.1 }

/-- ITEM of a channel: a slice channel (KIND 2) or a pseudo-channel (KIND 3) whose failures go beyond its spares (code 0x22). -/
def beyondItem (c : Nat) : ItemFail :=
  if c < 10000 then ⟨2, ixOf (c / 320) (c % 320), 0x22, 0⟩ else ⟨3, ixOf ((c - 10000) / 32) ((c - 10000) % 32), 0x22, 0⟩

/-- Row BRINGUP_MEMTEST: the failing rows, banks and pins found by the test, and the marked rows, are darned (R185, R186); a slice that needs more than
its spares and pool fails (code 0x22, its channel the item), and so does an edge stack. A start after a core reset runs no memory test (Table 12.5): it
darns no marked row (DESIGN CHOICE, log entry 111). A channel with more than 4 dead pins fails as in training (DESIGN CHOICE, log entry 117). -/
def execBringupMemtest (rows banks : List (ChanRef × Nat)) (pins : List (ChanRef × Fin 72 × Fin 8)) (fails : List ItemFail) (s : State) : Result :=
  .next (if !s.onStep 8 then s
    else
      let s := s.zeroAll
      let (out, s) := (s.darnMarked fun _ => true).darnBanks (banks.map fun x => rowBank (x.1.num, x.2))
      let (out', s) := s.darnAll (rows.map fun x => (x.1.num, x.2))
      let s := pins.foldl (fun s x => s.darnPin x.1.num x.2.1.val x.2.2.val) s
      let dead := (pins.map (·.1.num)).filter fun c => decide (4 < (s.chan c).erasures.length)
      let more := (((out ++ out').map (·.1) ++ dead).eraseDups).map beyondItem
      let s := s.record 8 (fails ++ more)
      let s := s.failSites (((ofKind 1 fails) ++ (ofKind 2 (fails ++ more))).map itemSite)
      let s := (ofKind 3 (fails ++ more)).foldl (fun s f => s.wb (.edge (f.item / 4096 % 12)) F.EDGE_STATUS_TRAINED false) s
      let s := { s with hkc := { s.hkc with memtested := true } }
      (s.stepDone 8 (codesOf (fails ++ more))).enterStep 9)

/-! ### Tile firmware (R342, R343, R345) -/

/-- A tile's SRAMs written whole from a body (R342): segments 1 to 16 instruction SRAM, 17 to 32 data SRAM; valid codewords, but for an armed flip
mask (R177). -/
def State.loadFw (s : State) (g src : Nat) : State :=
  let m := (s.mem.copy src (iramAt g 0) 65536).copy (src + 65536) (dsramAt g 0) 65536
  let in_ (a : Nat) : Bool := (iramAt g 0 ≤ a && a < iramAt g 65536) || (dsramAt g 0 ≤ a && a < dsramAt g 65536)
  ((({ s with mem := m, errs := s.errs.filter fun c => !in_ c.1 } : State).sealRun (iramAt g 0) 65536).sealRun (dsramAt g 0) 65536).modTile g
    fun t => { t with iramHost := false, code := if t.fwMatch then wholeCode else [] }

/-- Body segment i + 1 of the staged image into a tile's SRAM. -/
def State.loadSeg (s : State) (g i : Nat) : State :=
  let dst := if i < 16 then iramAt g (4096 * i) else dsramAt g (4096 * (i - 16))
  ({ s with mem := s.mem.copy (stageAt 2 (i + 1)) dst 4096, errs := s.errs.filter fun c => !(dst ≤ c.1 && c.1 < dst + 4096) } : State).sealRun dst 4096

/-- Segments of a bitmap into a tile. -/
def State.loadSegs (s : State) (g : Nat) (m : BitVec 32) : State :=
  if m = 0xFFFFFFFF then s.loadFw g (stageAt 2 1)
  else ((List.range 32).filter fun i => m.getLsbD i).foldl (fun s i => s.loadSeg g i) s

/-- What a tile reports: its bitmap, and whether its digest matches. A tile that matches copies the body into its slice's firmware area; of one that
does not the segments written are not executed (R330). -/
def State.tileHas (s : State) (g : Nat) (m : BitVec 32) (ok : Bool) (keep : Bool) : State :=
  let rest (l : List (Nat × Nat)) : List (Nat × Nat) := (List.range 16).foldl (fun l i => if m.getLsbD i then runsSub l (4096 * i) (4096 * i + 4096) else l) l
  let s := s.modTile g fun t => { t with fwBitmap := m, fwMatch := ok, code := if ok then wholeCode else rest t.code }
  if ok && keep then
    ({ s with mem := s.mem.copy (stageAt 2 1) (fwCopyAt g) 131072, hkc := { s.hkc with copies := s.hkc.copies.set g s.hkc.fwDigest } } : State).sealRun (fwCopyAt g) 131072
  else s

def bitmapOf (short : List (Site × BitVec 32)) (g : Nat) : BitVec 32 := ((short.find? fun x => x.1.g == g).map (·.2)).getD 0xFFFFFFFF

/-- Step 9 ends: sites that have not matched are darned for this start (R343); a stack without a site left runs no tile firmware (R351). -/
def State.fwDone (s : State) : State :=
  let left := (List.range 1920).filter s.siteLeft
  let bad := s.hkc.shortFw
  let code (m : BitVec 32) : Nat := if m = 0xFFFFFFFF then 0x24 else 0x23
  let s := bad.foldl (fun s x => s.altAdd 9 1 (ixTile x.1) (code x.2) (~~~x.2).toNat) s
  let s := (s.failSites (bad.map (·.1))).altResolve 9 1 (fun i => left.contains (itemSite ⟨1, i, 0, 0⟩)) (bad.map fun x => ixTile x.1)
  let m := s.hkc.fwMeas
  let s := { s with hkc := { s.hkc with stackMeas := ((List.range 12).filter fun k => (List.range 160).any fun i => s.siteLeft (k * 160 + i)).map fun k => (k, m), shortFw := [] } }
  (s.stepDone 9 (bad.map fun x => code x.2)).enterStep 10

/-- One pass or round over sites: what each has now and whether it matched; those that did not. A tile that loads its `own` slice copy matches where
that is the body of the image last verified (R345). -/
def State.fwPass (s : State) (l : List Nat) (short : List (Site × BitVec 32)) (differ : List Site) (own : Bool) : State :=
  let ok (g : Nat) : Bool := bitmapOf short g == 0xFFFFFFFF && !differ.any (fun t => t.g == g) && (!own || s.hkc.copies.find g == some s.hkc.fwDigest)
  let s := l.foldl (fun s g =>
    let s := if own then s.loadFw g (fwCopyAt g) else s.loadSegs g (bitmapOf short g)
    s.tileHas g (bitmapOf short g) (ok g) (!own)) s
  { s with hkc := { s.hkc with shortFw := (l.filter fun g => !ok g).map fun g => (g, bitmapOf short g) } }

/-- Row BRINGUP_TILEFW: the broadcast pass over the sites left, once the image has been verified; after a core reset each tile reloads its
slice's copy. `short` lists the tiles that lack segments with their bitmaps, `differ` those whose digest differs. -/
def execBringupTilefw (short : List (Site × BitVec 32)) (differ : List Site) (s : State) : Result :=
  .next (if !s.onStep 9 || s.hkc.shortFw != [] || !(s.coreStart || s.hkc.verified2) then s
    else
      let s := ({ s with hkc := { s.hkc with rounds := 0 } }).fwPass ((List.range 1920).filter s.siteLeft) short differ s.coreStart
      if s.hkc.shortFw = [] then s.fwDone
      else if s.hkc.verified2 then s else s.w .mbx F.MBX_STATUS_STATE 1)

/-- Row TILEFW_UNICAST_ROUND: up to three rounds over the tiles that have not matched, of a verified image: without one the device waits for it. -/
def execTilefwUnicastRound (short : List (Site × BitVec 32)) (differ : List Site) (s : State) : Result :=
  .next (if !s.onStep 9 || s.hkc.shortFw == [] || !s.hkc.verified2 then s
    else
      let n := s.hkc.rounds + 1
      let l := s.hkc.shortFw.map (·.1)
      let s : State := ({ s with hkc := { s.hkc with rounds := n } } : State).fwPass l short differ false
      if s.hkc.shortFw = [] ∨ 3 ≤ n then s.fwDone else s)

/-! ### Fitting runs (R344, R58) -/

/-- Array substitution of a site from its failed arrays (R58): answers whether the site passes. -/
def State.fitArrays (s : State) (g : Nat) (l : List Nat) : Bool × State :=
  let k := Blk.tile g
  let put (s : State) (sp f : Nat) (multi : Bool) : State :=
    ((s.w k F.ARR_SUBST_SPARE_FOR sp).w k F.ARR_SUBST_FAILED f).wb k F.ARR_SUBST_MULTI_FAIL multi
  match l with
  | [] => (true, put s 0x1F 0x1F false)
  | [a] => (true, put s (if a < 16 then a else 0x1F) a false)
  | a :: _ => (false, put s 0x1F a true)  -- the first of them in FAILED, no array in SPARE_FOR: DESIGN CHOICE, log entry 89

def arraysOf (arrays : List (Site × Fin 17)) (g : Nat) : List Nat := ((arrays.filter fun x => x.1.g == g).map fun x => x.2.val).eraseDups

/-- The arrays of the sites left are fitted; the sites that fail. -/
def State.fitSites (s : State) (l : List Nat) (arrays : List (Site × Fin 17)) : List Nat × State :=
  l.foldl (fun (bad, s) g => match s.fitArrays g (arraysOf arrays g) with
    | (true, s) => (bad, s)
    | (false, s) => (bad ++ [g], s)) ([], s)

/-- The record holds ACTION 2 against a site: after a core reset it fails the fitting run and is retired (R353; log entry 56). -/
def State.sitePending (s : State) (g : Nat) : Bool :=
  s.store.alts.any fun e => (e.kind == 1 || e.kind == 2) && itemSite ⟨e.kind, e.item, 0, 0⟩ == g && e.action == 2

/-- Row BRINGUP_FITTING. -/
def execBringupFitting (arrays : List (Site × Fin 17)) (fails : List ItemFail) (s : State) : Result :=
  .next (if !s.onStep 10 then s
    else
      let core := s.coreStart
      let left := (List.range 1920).filter s.siteLeft
      let (bad, s) := s.fitSites left arrays
      let recs := bad.map fun g => (⟨1, ixTile g, 0x25, (arraysOf arrays g).headD 0⟩ : ItemFail)
      let lost (e : Nat) : Bool := s.edgeBad e || !s.b (.edge e) F.EDGE_STATUS_TRAINED
      let real := fails.filter fun f => (match f.kind with
        | 1 => left.contains (itemSite f) && !bad.contains (itemSite f)
        | 6 => !lost (f.item / 4096)
        | 7 => true
        | _ => false) && !s.skipped f.kind f.item
      let s := (s.record 10 (recs ++ real)).failSites (bad ++ (ofKind 1 real).map itemSite)
      let out (kind item : Nat) : Bool := s.skipped kind item || real.any fun f => f.kind == kind && f.item == item
      let s := (List.range 384).foldl (fun s u => s.setNbu u { s.nbu u with failed := lost (u / 32) || out 6 (ixOf (u / 32) (u % 32)) }) s
      let s := (List.range 4).foldl (fun s d => s.wb (.chk d) F.CHK_STATUS_AVAILABLE (!(s.dieBad d || out 7 (ixOf d 0)))) s
      let s := if core then
          (((List.range 1920).filter fun g => s.ltile g != 0xFE && (s.hkc.siteFail.contains g || s.sitePending g)).foldl
            (fun s g => s.retireSite g ((s.freeSpare (g / 160)).map fun i => g / 160 * 160 + i)) s)
        else s
      let some_ := (List.range 12).any fun k => (List.range 160).any fun i => s.siteLeft (k * 160 + i)
      if !some_ then s.stopStep 10 0x30
      else (s.stepDone 10 (codesOf (recs ++ real))).enterStep 11)

/-! ### Ready (R16, R24, R327, R328) -/

/-- Logical numbers in ascending site order: 144 at most; the rest are spares; sites that failed are darned. -/
def State.assignStack (s : State) (k : Nat) : State :=
  let pass := (List.range 160).filter fun i => s.siteLeft (k * 160 + i)
  let s := (List.range 160).foldl (fun s i => s.w (.stk k) (F.STK_SMAP_LTILE i)
    (match pass.idxOf? i with
     | some n => if n < 144 then n else 0xFF
     | none => 0xFE)) s
  let s := (List.range 144).foldl (fun s n => match pass[n]? with
    | some i => (s.w (.stk k) (F.STK_LMAP_SITE n) i).wb (.stk k) (F.STK_LMAP_VALID n) true
    | none => (s.w (.stk k) (F.STK_LMAP_SITE n) 0).wb (.stk k) (F.STK_LMAP_VALID n) false) s
  s.mapChanged k

/-- Identity word 7: nothing before the fuses are read; the edge stacks and ports as they stand until READY; then what the list keeps (R328). -/
def State.w7Now (s : State) : BitVec 32 :=
  let w := s.word (Blk.id.base + F.ID_W7_EDGES.off)
  let edges := ((List.range 12).map fun e => b2n (s.b (.edge e) F.EDGE_STATUS_TRAINED) * 2 ^ e).sum
  if !s.b .id F.ID_STATUS_FUSES then 0
  else if s.b .id F.ID_STATUS_READY then w
  else fput F.ID_W7_PORTS (fput F.ID_W7_EDGES w edges) (b2n (s.hport 0).linkUp + 2 * b2n (s.hport 1).linkUp)

/-- The instances of a capability's kind that passed (R328), as one number: a bit per tile site, compute stack, edge stack, near-bank unit,
check unit or fabric port; patterns, thermal control, power control and bolts are one of their kind. -/
def State.capPassed (s : State) (id : Nat) : Nat :=
  let mask (n : Nat) (p : Nat → Bool) : Nat := ((List.range n).map fun i => b2n (p i) * 2 ^ i).sum
  match id with
  | 0x21 => mask 12 fun k => (List.range 160).any fun i => s.siteLeft (k * 160 + i)
  | 0x30 => mask 12 (fun e => s.b (.edge e) F.EDGE_STATUS_TRAINED) + 2 ^ 12 * mask 1920 s.siteLeft
  | 0x31 => mask 384 fun u => !(s.nbu u).failed
  | 0x40 => 1
  | 0x41 => mask 12 s.portUp
  | 0x50 => 1
  | 0x51 => 1
  | 0x70 => mask 4 fun d => s.b (.chk d) F.CHK_STATUS_AVAILABLE
  | 0x80 => 1
  | _ => mask 1920 s.siteLeft

/-- The entries beside the identity entry: VERSION, LENGTH and body words. A body that the spec does not lay out is a free function of the
instances that passed (log entry 57). -/
def State.capEntry (s : State) (id : Nat) : List Nat :=
  let entry (version : Nat) (body : List Nat) : List Nat := [id + version * 2 ^ 16 + (body.length + 2) * 2 ^ 24, 0] ++ body
  match id with
  | 0x50 => entry 1 [115 + 110 * 2 ^ 8 + 105 * 2 ^ 16 + 10 * 2 ^ 24, 4770 + 7172 * 2 ^ 16]
  | 0x51 => entry 1 [s.r .id F.ID_W3_PWR_FUSED + 1000 * 2 ^ 16, 10 + 40 * 2 ^ 8 + 110 * 2 ^ 16]
  | 0x60 => entry 1 [16 + 4 * 2 ^ 8 + 1024 * 2 ^ 16, 4096]
  | 0x70 => entry 1 [s.capPassed id + 16 * 2 ^ 8 + 7 * 2 ^ 16]
  | 0x80 => entry 1 [12 + 7 * 2 ^ 8 + 2 ^ 16]
  | _ => entry (Config.capVersion id).toNat ((List.range (Config.capWords id).toNat).map fun i => (Config.capBody id (s.capPassed id) i).toNat)

/-- The kinds of engine that have an instance that passed. -/
def State.capIds (s : State) : List Nat :=
  [0x10, 0x11, 0x12, 0x13, 0x20, 0x21, 0x30, 0x31, 0x40, 0x41, 0x50, 0x51, 0x60, 0x70, 0x80].filter fun id => s.capPassed id != 0

/-- The list built from the fitting results: entries 64 bytes apart, each naming the next; identity word 7 keeps the edge stacks and ports of this
moment, since the list stays fixed until the next start but for the tile counts. -/
def State.buildCaps (s : State) : State :=
  let ids := s.capIds
  let s := (s.w .id F.ID_W1_NEXT 0x140).setWord (Blk.id.base + F.ID_W7_EDGES.off) s.w7Now
  ids.zipIdx.foldl (fun s x =>
    let l := s.capEntry x.1
    let at_ := 0x140 + 64 * x.2
    let s := l.zipIdx.foldl (fun s w => s.setWord (at_ + 4 * w.2) (BitVec.ofNat 32 w.1)) s
    s.setWord (at_ + 4) (BitVec.ofNat 32 (if x.2 + 1 < ids.length then at_ + 64 else 0))) s

/-- Row BRINGUP_READY: after a core reset the sites keep their numbers (R353). -/
def execBringupReady (s : State) : Result :=
  .next (if !s.onStep 11 then s
    else
      let s := (List.range 12).foldl (fun s k => if s.coreStart then s.countMap k else s.assignStack k) s
      let s := (s.buildCaps.wb .id F.ID_STATUS_READY true).stepDone 11 []
      ({ s with rst := { s.rst with wasReady := true } }).w .mbx F.MBX_STATUS_STATE 3)

/-! ### Mailbox commands (R348, R350 to R352) -/

/-- A command's completion. -/
def State.cmdDone (s : State) (status : Nat) : State := (s.w .mbx F.MBX_CMD_STAT_STATUS status).wb .mbx F.MBX_CMD_STAT_DONE true

/-- A little-endian value in the response window. -/
def State.putResp (s : State) (off n v : Nat) : State := { s with mem := s.mem.writeLE (respAt off) n v }
def State.clearResp (s : State) : State := { s with mem := s.mem.clear (respAt 0) 8192 }

/-- The current leaf slot (R350): whether it is slot A, its index and sequence. -/
def Store.leaf (st : Store) : Option (Bool × Nat × Nat) :=
  match st.leafA, st.leafB with
  | none, none => none
  | some (i, q), none => some (true, i, q)
  | none, some (i, q) => some (false, i, q)
  | some (i, q), some (j, r) => if q < r then some (false, j, r) else some (true, i, q)

/-- The next leaf index is written to the other slot before any signature with leaf i is released. -/
def State.advanceLeaf (s : State) (a : Bool) (i q : Nat) : State :=
  ({ s with store := if a then { s.store with leafB := some (i + 1, q + 1) } else { s.store with leafA := some (i + 1, q + 1) } }).pulse

/-- The tile firmware measurement of a set of stacks: that of the first (log entry 58). -/
def State.measOf (s : State) (ks : List Nat) : Nat :=
  match ks with
  | [] => 0
  | k :: _ => (s.hkc.stackMeas.get (0 : BitVec 512) k).toNat

/-- Bolts, and in bit 12 the stacks in no bolt, with instruction SRAM that the host has written (R351). -/
def State.hostBits (s : State) : Nat :=
  let touched := (s.tiles.filter fun t => t.2.iramHost).map fun t => t.1 / 160
  (((List.range 12).map fun b => b2n (touched.any fun k => s.boltOf k == some b) * 2 ^ b) ++ [b2n (touched.any fun k => s.boltOf k == none) * 2 ^ 12]).foldl
    (· + ·) 0

/-- The quote of Table 12.9 in the response window, signed with leaf i. -/
def State.quote (s : State) (i : Nat) : State :=
  let free := (List.range 12).filter fun k => (s.boltOf k).isNone
  let nonce := ((List.range 8).map fun j => s.r .mbx (F.MBX_ARG_ARG j) * 2 ^ (32 * j)).foldl (· + ·) 0
  let pat (b : Nat) : Nat := if s.patHolds b then ((List.range 16).map fun j => s.r (.bolt b) (F.PAT_MEAS_DIGEST j) * 2 ^ (32 * j)).foldl (· + ·) 0 else 0
  let acts := (s.store.alts.filter fun e => e.action == 1 || e.action == 2).length
  let word (o : Nat) : Nat := (s.word o).toNat
  let w7 := s.w7Now.toNat
  let host := s.hostBits
  let ms := (List.range 12).map fun b => (s.measOf ((List.range 12).filter fun k => s.boltOf k == some b), pat b)
  let s := ((s.clearResp.putResp 0 4 0x51545155).putResp 4 2 1).putResp 8 8 s.fuses.serial
  let s := ((s.putResp 0x10 4 s.store.starts).putResp 0x14 4 i).putResp 0x18 8 s.tape
  let s := ((s.putResp 0x20 32 nonce).putResp 0x40 64 s.hkc.hkcMeas.toNat).putResp 0x80 64 (s.measOf free)
  let s := ms.zipIdx.foldl (fun s x => (s.putResp (0xC0 + 64 * x.2) 64 x.1.1).putResp (0x3C0 + 64 * x.2) 64 x.1.2) s
  let s := ((s.putResp 0x6C0 4 (word 4)).putResp 0x6C4 4 (word 0x108)).putResp 0x6C8 4 (word 0x10C)
  let s := ((s.putResp 0x6CC 4 w7).putResp 0x6D0 4 acts).putResp 0x6D4 2 host
  let msg := s.mem.readN (respAt 0) 0x6E0
  { s with mem := s.mem.writeN (respAt 0x6E0) ((List.range 2692).map (Config.xmssSign i msg)) }

/-- ATTEST (R350, R351). -/
def State.attest (s : State) : State :=
  match s.store.leaf with
  | none => (s.logEv { cls := .fatal, source := Src.hkc }).cmdDone 3
  | some (a, i, q) => if 65536 ≤ i then s.cmdDone 3 else ((s.advanceLeaf a i q).quote i).cmdDone 0

/-- The alteration record's bytes (Table 12.6). -/
def AltEntry.toNat (e : AltEntry) : Nat :=
  let body := e.step + e.kind * 2 ^ 8 + e.item * 2 ^ 16 + e.code * 2 ^ 32 + e.action * 2 ^ 40 + e.fails * 2 ^ 48 + 2 ^ 56 + e.first * 2 ^ 64
    + e.last * 2 ^ 96 + e.detail % 2 ^ 64 * 2 ^ 128
  body + crc32c 0 (leBytes 28 body) * 2 ^ 224

/-- A leaf-index slot: index, sequence, CRC-32C (R350); one that is not valid holds zeros, whose CRC does not match. -/
def leafBytes (l : Option (Nat × Nat)) : List (BitVec 8) :=
  match l with
  | none => []
  | some (i, q) => let b := leBytes 4 i ++ leBytes 4 q; b ++ leBytes 4 (crc32c 0 b)

/-- A shutdown record's bytes (Table 14.4). -/
def ShutRec.bytes (r : ShutRec) : List (BitVec 8) :=
  let body := leBytes 4 0x51545344 ++ leBytes 1 r.causes ++ leBytes 1 (r.unit + 16 * r.domain) ++ leBytes 2 r.seq ++ leBytes 4 r.starts ++ leBytes 4 0
    ++ leBytes 8 r.tape ++ (List.range 12).map (fun k => BitVec.ofNat 8 (r.hottest.getD k 0)) ++ leBytes 2 (r.inlet % 65536).toNat
    ++ leBytes 2 (r.outlet % 65536).toNat ++ leBytes 2 r.flow ++ leBytes 2 r.power ++ leBytes 2 r.bolts ++ leBytes 14 0
  body ++ leBytes 4 (crc32c 0 body)

/-- The record store's bytes (Table 12.8): the header with the start count, the alteration record, the leaf slots, the public key with its endorsement,
marked rows, fatal records, shutdown records and life counts. The spec places areas and what it gives a layout of; the rest (the header's words after
its format word, the leaf slots side by side, a marked row in 8 bytes) is a DESIGN CHOICE, log entry 118. -/
def Store.bytes (st : Store) (off : Nat) : BitVec 8 :=
  let of (l : List (BitVec 8)) (o : Nat) : BitVec 8 := l.getD (off - o) 0
  let area := off / 0x1000
  if area = 0 then
    let h := leBytes 4 0x51545253 ++ leBytes 4 st.starts
    of (h ++ leBytes 4 (crc32c 0 h)) 0
  else if area < 5 then
    match st.alts[(off - 0x1000) / 32]? with
    | some e => BitVec.ofNat 8 (e.toNat / 2 ^ (8 * ((off - 0x1000) % 32)))
    | none => 0
  else if area = 5 then of (leafBytes st.leafA ++ List.replicate (12 - (leafBytes st.leafA).length) 0 ++ leafBytes st.leafB) 0x5000
  else if area < 8 then (if off - 0x6000 < 2888 then Config.identityKey (off - 0x6000) else 0)
  else if area < 0x10 then 0
  else if area < 0x30 then
    match st.rows[(off - 0x10000) / 8]? with
    | some r => BitVec.ofNat 8 ((r.1 + r.2 * 2 ^ 32) / 2 ^ (8 * (off % 8)))
    | none => 0
  else if area < 0x50 then
    match st.fatals.find ((off - 0x30000) / 32) with
    | some r => BitVec.ofNat 8 (r.toNat / 2 ^ (8 * (off % 32)))
    | none => 0
  else if area < 0x54 then
    match st.shuts.find ((off - 0x50000) / 64) with
    | some r => r.bytes.getD (off % 64) 0
    | none => 0
  else if area = 0x54 then BitVec.ofNat 8 (st.cycles.get 0 ((off - 0x54000) / 4) / 2 ^ (8 * (off % 4)))
  else 0

/-- Bytes of the record store. -/
def Store.readN (st : Store) (off n : Nat) : List (BitVec 8) := (List.range n).map fun i => st.bytes (off + i)

/-- READ_IDKEY: 68 bytes of public key and 2,820 of endorsement, from the record store. -/
def State.readIdkey (s : State) : State :=
  let s := s.clearResp
  ({ s with mem := s.mem.writeN (respAt 0) (s.store.readN 0x6000 2888) }).cmdDone 0

def clearedAlt (e : AltEntry) : AltEntry := { e with action := 4 }

/-- CLEAR_ALT (R348): ACTION 4 on an entry, or on all. -/
def State.clearAlt (s : State) : State :=
  let n := s.r .mbx (F.MBX_ARG_ARG 0) % 2 ^ 16
  if n = 0xFFFF then
    (({ s with store := { s.store with alts := s.store.alts.map clearedAlt } }).pulse).cmdDone 0
  else if 512 ≤ n then s.cmdDone 2
  else (({ s with store := { s.store with alts := s.store.alts.modify n clearedAlt } }).pulse).cmdDone 0

/-- MBX_CMD written (Table 12.10): the command runs, and one that comes while CMD_BUSY is set is ignored (R352); the HKC performs the commands, so the
boot ROM leaves them (log entry 53). -/
def State.mbxCmd (s : State) (cmd : Nat) : State :=
  if !s.hkc.imageRuns then s
  else if s.b .mbx F.MBX_STATUS_CMD_BUSY then s.wb .mbx F.MBX_CMD_STAT_OVERRUN true
  else ({ s with hkc := { s.hkc with cmd := some cmd } } : State).wb .mbx F.MBX_STATUS_CMD_BUSY true

/-- The mailbox command that runs completes. -/
def State.mbxRun (s : State) : State :=
  match s.hkc.cmd with
  | none => s
  | some c =>
    let s := ({ s with hkc := { s.hkc with cmd := none } } : State).wb .mbx F.MBX_STATUS_CMD_BUSY false
    match c with
    | 1 => s.attest
    | 2 => s.readIdkey
    | 3 => s.clearAlt
    | _ => s.cmdDone 1

/-- A row that gives a mailbox command: its write, and the command's completion where the write began it (log entry 53). -/
def State.mbxRow (s t : State) : State := if s.hkc.cmd = none then t.mbxRun else t

/-- Word j of the alteration record in the record store, as MBX_ALT shows it (Table 12.6). -/
def State.altWord (s : State) (j : Nat) : Nat := if s.store.alts.length ≤ j / 8 then 0 else leNat (s.store.readN (0x1000 + 4 * j) 4)

/-- A step on an empty queue: the link and the tape go on (Machine/Fabric.lean), and a mailbox command that runs completes (log entries 2, 53). -/
def State.idleStep (s : State) : State := s.idle.mbxRun

end Sys2Proof.Machine
end

