-- ==== Sys2Proof/Machine/Memory.lean ====
section
/-! DEFINITION. Private memory and edge stacks (chapter 6: R156 to R190): line requests, needle reads, host access through BAR2, patrol
scrub, refresh windows and margin scans. -/
namespace Sys2Proof.Machine

/-! ### Private lines (R158, R159) -/

/-- A line's data go to its requester at tape `t`, or the refusal of uncorrectable data (R173). -/
def State.answerLine (s : State) (l : LineRef) (t : Nat) : State :=
  match s.fetch l.addr 64 with
  | (.ok d, s) => s.send (.line l t d)
  | (.error _, s) => s.send (.lineUe l)

/-- A line is written, and its requester is answered at tape `t` where the write has been performed. -/
def State.writeLine (s : State) (l : LineRef) (t : Nat) (data : List (BitVec 8)) : State :=
  match s.storeCw l.addr data with
  | (true, s) => s.send (.lineDone l t)
  | (false, s) => s

/-- A read at an address that is no line of the part is answered with free bytes (DESIGN CHOICE, log entry 6). -/
def State.answerFree (s : State) (l : LineRef) (n : Nat) : State :=
  let (d, s) := s.fill n []
  s.send (.line l s.tape d)

/-- The DRAM controllers serve the scheduled domain: no device-level reset, no self-refresh, no global stop (R357, R398, R462). -/
def State.memLive (s : State) : Bool := !s.trace.stopped && s.rst.level == 0 && !s.therm.selfRefresh

/-- The bank takes the request after its wait, and answers 16 tape cycles later. -/
def execPrivateRead (t : Site) (off : Nat) (s : State) : Result :=
  if !(Instr.privateRead t off).wf then .next (s.answerFree (.slice t off) 64)
  else
    let turn := s.bankTurn (sliceAt t.g off) s.tape
    .next (if !s.memLive || s.tileHeld t.g then s
      else (s.bankTake (sliceAt t.g off) turn).answerLine (.slice t off) (turn + 16))

/-- A write at an address that is no line writes nothing; a line of fewer than 64 bytes is completed with free ones (log entry 6). -/
def execPrivateWrite (t : Site) (off : Nat) (data : List Byte) (s : State) : Result :=
  let (data, s) := if data.length = 64 then (data, s) else s.fill 64 data
  if !(Instr.privateWrite t off data).wf then .next s
  else
    let turn := s.bankTurn (sliceAt t.g off) s.tape
    .next (if !s.memLive || s.tileHeld t.g then s
      else (s.bankTake (sliceAt t.g off) turn).writeLine (.slice t off) (turn + 16) data)

/-! ### Edge lines (R161 to R163, R203) -/

/-- The tile whose scheduled request comes late waits for it: none of its open shuttle commands completes before tape `t` (R162). -/
def State.tileWaits (s : State) (g t : Nat) : State :=
  s.modTile g fun x => { x with flight := x.flight.map fun f => if f.open_ && f.uses .shuttle then { f with due := max f.due t } else f }

/-- The scheduled request of a site to an edge stack, `wait` cycles beyond its latency: the tape at which it is complete, and the state in which
a request that misses its latency has been counted, unless it was when it began to wait for a claim, and its tile waits (R161, R162, R203). -/
def State.scheduled (s : State) (e : Nat) (a : Nat) (needle wr counted : Bool) (by_ : Option (Site × Nat)) : Nat × State :=
  match by_ with
  | none =>
    let (t, s) := s.unschedTurn needle e (chanOf a) s.tape
    if needle then s.needleTurn false e a t else (t, s)
  | some (t, wait) =>
    let (at_, late, s) := s.served t.g true needle wr a s.tape
    if wait = 0 ∧ !late ∧ !counted then (at_, s)
    else (at_ + wait, (if counted then s else s.inc (.edge e) F.EDGE_LATE_COUNT_COUNT).tileWaits t.g (at_ + wait))

/-- A request by itself to bytes of a line: it waits for an operation of its tile's bolt (R203), or goes as `k` says, told whether it has waited;
`kind` is 0 for a line read, 1 for a write, 2 for a needle read. -/
def State.edgeAsk (s : State) (e off kind : Nat) (by_ : Option (Site × Nat)) (k : Bool → State → State) : State :=
  match by_ with
  | none => k false s
  | some (t, _) =>
    let w := s.waitOf t.g none off kind e
    if s.bellClaims w.bells (off / 64 * 64) 64 then s.keepWait t.g w true
    else k ((s.tile t.g).waited.contains w) (s.modTile t.g fun x => { x with waited := x.waited.filter (· != w) })

/-- The edge controller serves a line request: the scheduled request of a tile, which may come late because of conflicts among the pattern's own
requests (the cycles it waits), or a request of another kind. -/
def execEdgeLineRequest (e : Fin 12) (off : Nat) (wr : Option (List Byte)) (by_ : Option (Site × Nat)) (s : State) : Result :=
  let (wr, s) := match wr with
    | none => (none, s)
    | some d => if d.length = 64 then (some d, s) else ((fun x => (some x.1, x.2)) (s.fill 64 d))
  if !(Instr.edgeLineRequest e off wr by_).wf then .next (if wr.isSome then s else s.answerFree (.edge e off) 64)
  else .next (if s.dieHeld (e.val / 3) || !s.memLive then s
    else s.edgeAsk e.val off (if wr.isSome then 1 else 0) by_ fun counted s =>
      let (t, s) := s.scheduled e.val (e.val * edgeBytes + off) false wr.isSome counted by_
      match wr with
      | none => s.answerLine (.edge e off) t
      | some d => s.writeLine (.edge e off) t d)

def execNeedleRead (e : Fin 12) (off : Nat) (by_ : Option (Site × Nat)) (s : State) : Result :=
  if !(Instr.needleRead e off by_).wf then .next (s.answerFree (.edge e off) 16)
  else .next (if s.dieHeld (e.val / 3) || !s.memLive then s
    else s.edgeAsk e.val off 2 by_ fun counted s =>
      let (t, s) := s.scheduled e.val (e.val * edgeBytes + off / 64 * 64) true false counted by_
      match s.fetch (e.val * edgeBytes + off / 64 * 64) 64 with
      | (.ok d, s) => s.send (.needle e off t ((d.drop (off % 64)).take 16))
      | (.error _, s) => s.send (.lineUe (.edge e (off / 64 * 64))))

/-! ### BAR2 (R165 to R169, R304, R307, R362) -/

/-- The DPA of a host offset, where the access reaches memory. -/
def State.bar2Dpa (s : State) (h : Nat) : Option Nat :=
  let w := h / 2 ^ 37
  if s.r (.edge 0) (F.EDGE_BAR2_WIN_LO_MODE w) = 0 then
    if h < 0x12000000000 then
      let st := h / 4096
      some (st % 12 * edgeBytes + st / 12 * 4096 + h % 4096)
    else none
  else
    let d := s.r (.edge 0) (F.EDGE_BAR2_WIN_LO_BASE w) * 4096 + s.r (.edge 0) (F.EDGE_BAR2_WIN_HI_BASE w) * 2 ^ 32 + (h - w * 2 ^ 37)
    if d < edgeEnd then some d else none

/-- A stack that is trained and available (EDGE_STATUS.TRAINED). -/
def State.edgeUp (s : State) (e : Nat) : Bool := s.b (.edge e) F.EDGE_STATUS_TRAINED

/-- The pieces, each within one line, of the host offsets [h, h + n): their addresses and lengths; none where any of it does not reach memory. -/
def State.bar2Pieces (s : State) : Nat → Nat → Nat → Option (List (Nat × Nat))
  | 0, _, _ => some []
  | k + 1, h, n =>
    if n = 0 then some []
    else
      let m := min n (64 - h % 64)
      match s.bar2Dpa h with
      | none => none
      | some d => if s.edgeUp (d / edgeBytes) then (s.bar2Pieces k (h + m) (n - m)).map fun l => (d, m) :: l else none

/-- An access that does not reach memory (R167). -/
def State.bar2Unsupported (s : State) (p : Port) (h : Nat) : State :=
  (s.logEv { cls := .protocol, source := Src.port, index := ixOf p.n 0, detail := h }).sendUr p h

/-- Reads pieces in order, each in its turn (R396), up to the first uncorrectable line. -/
def State.readPieces (s : State) : List (Nat × Nat) → Option (List (BitVec 8)) × State
  | [] => (some [], s)
  | (a, n) :: rest =>
    match (s.unschedPass false a n).fetch a n with
    | (.error _, s) => (none, s)
    | (.ok d, s) =>
      match s.readPieces rest with
      | (some l, s) => (some (d ++ l), s)
      | (none, s) => (none, s)

/-- BAR2 requests reach memory once step 8 of bring-up has ended (Table 12.1), and not during a core reset up to the end of step 7 (R362). -/
def State.bar2Open (s : State) : Bool := s.hkc.memtested && s.rst.level == 0 && !s.rst.steps

/-- The pieces of a request; one of no bytes is mapped by its address (R307: a read or write of zero length
touches no line). In D3hot a port answers none (PRESUMED from the PCIe specification, log entry 13). -/
def State.bar2Req (s : State) (p h n : Nat) : Option (List (Nat × Nat)) :=
  if !s.bar2Open ∨ (s.hport p).d3hot ∨ 2 ^ 41 < h + n then none
  else if n = 0 then (s.bar2Pieces 2 h 1).map fun _ => []
  else s.bar2Pieces (n + 1) h n

/-- Row BAR2_READ. A read of zero length answers one free DW (PRESUMED from the PCIe specification, log entry 13). -/
def execBar2Read (p : Port) (h len : Nat) (s : State) : Result :=
  .next (if !s.portOn p.n then s else match s.bar2Req p.n h len with
    | none => s.bar2Unsupported p h
    | some [] => let (d, s) := s.fill 4 []
      s.send (.bar2Data p h d)
    | some l =>
      if l.any fun x => s.cutOff p.n x.1 then s.sendCa p h
      else match s.readPieces l with
      | (some d, s) => s.send (.bar2Data p h d)
      | (none, s) => s.sendCa p h)

/-- Pieces written in order; a piece that cannot be merged is dropped and logged (R169). -/
def State.writePieces (s : State) : List (Nat × Nat) → List (BitVec 8) → State
  | [], _ => s
  | (a, n) :: rest, d => ((s.unschedPass false a n).storeEach a (d.take n)).writePieces rest (d.drop n)

/-- Row BAR2_WRITE: a bad TLP is discarded before anything else is looked at (R304). -/
def execBar2Write (p : Port) (h : Nat) (data : List Byte) (tlp : Tlp) (s : State) : Result :=
  .next (if !s.portOn p.n then s else match s.tlpCheck p tlp h ((s.bar2Dpa h).getD 0) with
  | (false, s) => s
  | (true, s) => match s.bar2Req p.n h data.length with
    | none => s.bar2Unsupported p h
    | some l =>
      if l.any fun x => s.cutOff p.n x.1 then s
      else s.writePieces l data)

/-! ### Patrol scrub (R175, R176, R186) -/

/-- The channels of the stack that holds a line. -/
def lineChans : LineRef → List Nat
  | .slice t _ => (List.range 320).map fun c => t.stack.val * 320 + c
  | .edge e _ => (List.range 32).map (edgeChan e.val)
def State.scrubOn (s : State) : LineRef → Bool
  | .slice t _ => s.b (.stk t.stack.val) F.PMEM_CFG_SCRUB_EN
  | .edge e _ => s.b (.edge e.val) F.EDGE_CFG_SCRUB_EN

/-- The number of a line's stack: compute stacks from 0, edge stacks from 12. -/
def scrubNo : LineRef → Nat
  | .slice t _ => t.stack.val
  | .edge e _ => 12 + e.val

/-- The lines in use of a stack, as runs: the exposed lines of the slices that hold a logical tile and the held-back lines of every slice that is not
darned, or the lines of the edge stack (a row or bank held in a spare one is read at its own lines; R175, R186). -/
def State.linesInUse (s : State) (n : Nat) : List (Nat × Nat) :=
  if n < 12 then
    (List.range 160).filterMap fun i =>
      let g := n * 160 + i
      if s.ltile g = 0xFE then none else some (sliceAt g (if s.ltile g < 144 then 0 else sliceBytes), sliceAt g (sliceAll / 64 * 64))
  else [((n - 12) * edgeBytes, (n - 11) * edgeBytes)]

/-- SCRUB_PERIOD of a line's stack in tape cycles, from hours. -/
def State.scrubPeriod (s : State) (l : LineRef) : Nat :=
  3600000000000 * (match l with
    | .slice t _ => s.r (.stk t.stack.val) F.PMEM_CFG_SCRUB_PERIOD
    | .edge e _ => s.r (.edge e.val) F.EDGE_CFG_SCRUB_PERIOD)

/-- A pass has ended: it is counted, and late if it took longer than its period (R176); rows count corrected lines anew (R186). -/
def State.passEnd (s : State) (l : LineRef) (start : Nat) : State :=
  let late := decide (start + s.scrubPeriod l < s.tape)
  let s := match l with
    | .slice t _ =>
      let s := s.inc (.stk t.stack.val) F.PMEM_SCRUB_PASSES_COUNT
      if late then s.wb (.stk t.stack.val) F.PMEM_STATUS_SCRUB_LATE true else s
    | .edge e _ =>
      let s := s.inc (.edge e.val) F.EDGE_SCRUB_PASSES_COUNT
      if late then s.wb (.edge e.val) F.EDGE_STATUS_SCRUB_LATE true else s
  { s with
    chans := s.chans.map fun p => if (lineChans l).contains p.1 then (p.1, { p.2 with rowHits := [] }) else p
    scrubs := s.scrubs.set (scrubNo l) ⟨some s.tape, []⟩ }

/-- The line has been read in the stack's pass, which ends when every line in use has been (R175); the first pass begins with its first read. -/
def State.scrubSeen (s : State) (l : LineRef) : State :=
  let p := s.scrubs.get Scrub.reset (scrubNo l)
  let seen := runsAdd p.seen l.addr (l.addr + 64)
  let start := p.start.getD s.tape
  let use := s.linesInUse (scrubNo l)
  if use != [] && (use.all fun r => seen.any fun x => decide (x.1 ≤ r.1 ∧ r.2 ≤ x.2)) then s.passEnd l start
  else { s with scrubs := s.scrubs.set (scrubNo l) ⟨some start, seen⟩ }

/-- A scrub read takes no slot of a scheduled request: it waits for an idle one (R176). -/
def execScrubRead (l : LineRef) (s : State) : Result :=
  .next (if !l.wf || !s.scrubOn l || !s.memLive || !s.idleSlot l.addr then s
    else
      let s := match (s.idleTake l.addr).readCw l.addr with
        | (true, s) => s
        | (false, s) => s.noteUe l.addr
      s.scrubSeen l)

/-! ### Refresh (R179 to R184, R250) -/

/-- The band of a channel's stack, and whether it refreshes by bands (REFRESH_MODE; R5, R179). -/
def State.chanBand (s : State) : ChanRef → Nat
  | .slice t _ => s.r (.stk t.stack.val) F.PMEM_STATUS_BAND
  | .edge e _ => s.r (.edge e.val) F.EDGE_STATUS_BAND
def State.bandMode (s : State) : ChanRef → Bool
  | .slice t _ => s.b (.stk t.stack.val) F.PMEM_CFG_REFRESH_MODE
  | .edge e _ => s.b (.edge e.val) F.EDGE_CFG_REFRESH_MODE

/-- The first window at or after tape `t`: its number and its start. -/
def nextWindow (w : Nat × Nat × Nat) (t : Nat) : Nat × Nat :=
  let i := if t ≤ w.2.1 then 0 else ceilDiv (t - w.2.1) w.1
  (i, w.2.1 + i * w.1)

/-- The refreshes that the rate of a band puts into window `i` of a reserve class: one in each 2^(class - band) windows, the first of them (DESIGN
CHOICE, log entry 42), or several in every window beyond the class (R179, R182, R183). -/
def bandDue (cls band i : Nat) : Nat := if band ≤ cls then (if i % 2 ^ (cls - band) = 0 then 1 else 0) else 2 ^ (band - cls)

/-- The next refresh window of a channel that has not been taken, with the refreshes due in it: in band mode those of the band's rate, in native
mode what the oscillator asks for, which never exceeds it (R180). A window with none due goes to scrub or stays idle (R182). What exceeds the
window is refreshed anyway, with OVERRUN (R183). -/
def execRefreshWindow (c : ChanRef) (need : Nat) (s : State) : Result :=
  .next (if s.therm.selfRefresh || (match c with | .edge e _ => s.dieHeld (e.val / 3) | _ => false) then s
    else
      let x := s.chan c.num
      let cls := s.chanClass c.num
      let w := winOf c.num cls
      let (i, start) := nextWindow w (max s.tape x.winNext)
      let rate := bandDue cls (s.chanBand c) i
      let due := if s.bandMode c then rate else min need rate
      let s := (s.setChan c.num { x with winNext := start + 1, winBusy := if due = 0 then x.winBusy else start + w.2.2 }).advanceTo start
      if due ≤ 1 then s
      else match c with
        | .slice t _ => (s.wb (.stk t.stack.val) F.PMEM_STATUS_OVERRUN true).inc (.stk t.stack.val) F.PMEM_OVERRUN_COUNT_COUNT (due - 1)
        | .edge e _ => s.wb (.edge e.val) F.EDGE_STATUS_OVERRUN true)

/-! ### Margining (R188) -/

/-- A running bolt claims a range in the edge stack. -/
def State.edgeClaimed (s : State) (e : Nat) : Bool :=
  (List.range 12).any fun b => s.patRuns b && (s.bolt b).pat.any fun p => p.ranges.any fun r => r.stack == e

/-- EDGE_MARGIN_CTRL.START written as 1. -/
def State.marginStart (s : State) (e : Nat) : State :=
  if s.edgeClaimed e || s.b (.edge e) F.EDGE_MARGIN_STAT_BUSY then s.wb (.edge e) F.EDGE_MARGIN_STAT_REFUSED true
  else s.wb (.edge e) F.EDGE_MARGIN_STAT_BUSY true

def execMarginScanDone (e : Fin 12) (left right low high : Byte) (s : State) : Result :=
  let k := Blk.edge e.val
  .next (if !s.b k F.EDGE_MARGIN_STAT_BUSY then s
    else
      let s := ((s.w k F.EDGE_MARGIN_RESULT_LEFT left.toNat).w k F.EDGE_MARGIN_RESULT_RIGHT right.toNat).w k F.EDGE_MARGIN_RESULT_LOW low.toNat
      ((s.w k F.EDGE_MARGIN_RESULT_HIGH high.toNat).wb k F.EDGE_MARGIN_STAT_BUSY false).wb k F.EDGE_MARGIN_STAT_DONE true)

end Sys2Proof.Machine
end

