-- ==== Sys2Proof/Machine/RegOps.lean ====
section
/-! DEFINITION. What register writes are made of (R8 to R13, R311) and the configuration transactions (R369 to R378): scope, merging of fields,
staging, the checks of a stitch, application. -/
namespace Sys2Proof.Machine

/-! ### Fields of a register as data -/

def FieldSpec.fld (f : FieldSpec) : Fld := ⟨0, f.lo, f.w⟩
def FieldSpec.get (f : FieldSpec) (w : BitVec 32) : Nat := fget f.fld w

/-- A value that the field takes: no reserved encoding (R12, R178). -/
def FieldSpec.takes (f : FieldSpec) (w : BitVec 32) : Bool :=
  match f.valid with
  | .flipPos => (List.range 4).all fun i => let p := bits w.toNat (8 * i) 7; p < 72 || p == 0x7F
  | v => v.ok (f.get w)

def RegSpec.isRwt (r : RegSpec) : Bool := r.fields.any fun f => f.acc == .rwt
def RegSpec.writable (r : RegSpec) : Bool := r.fields.any fun f => f.acc != .ro

/-- A word after a write of `v`: RW fields take it unless it is a reserved encoding there, RW1C bits written as 1 clear, the rest stays
(R10, R11, R12). -/
def RegSpec.write (r : RegSpec) (old v : BitVec 32) : BitVec 32 :=
  r.fields.foldl (fun w f =>
    match f.acc with
    | .rw => if f.takes v then fput f.fld w (f.get v) else w
    | .rw1c => fput f.fld w (Nat.land (f.get w) (2 ^ f.w - 1 - f.get v))
    | _ => w) old

/-- Some RW or WO field is written with a reserved encoding (R12). -/
def RegSpec.badWrite (r : RegSpec) (v : BitVec 32) : Bool := r.fields.any fun f => (f.acc == .rw || f.acc == .wo) && !f.takes v

/-- The value that WO fields act on: reserved encodings and other fields read as 0. -/
def RegSpec.acts (r : RegSpec) (v : BitVec 32) : BitVec 32 :=
  r.fields.foldl (fun w f => if f.acc == .wo && f.takes v then fput f.fld w (f.get v) else w) 0

/-- RWT fields at their staged value (R372). -/
def RegSpec.commit (r : RegSpec) (old v : BitVec 32) : BitVec 32 :=
  r.fields.foldl (fun w f => if f.acc == .rwt then fput f.fld w (f.get v) else w) old
def RegSpec.badCommit (r : RegSpec) (v : BitVec 32) : Bool := r.fields.any fun f => f.acc == .rwt && !f.takes v

/-! ### Scope (R311) -/

/-- Who may write a register: any port, the control port, the owner of a bolt, one port. -/
inductive Scope where
  | any
  | device
  | bolt (b : Nat)
  | port (p : Nat)
  deriving DecidableEq, Repr

def State.stackScope (s : State) (k : Nat) : Scope :=
  match s.boltOf k with
  | some b => .bolt b
  | none => .device

def State.scopeOf (s : State) (k : Blk) (rel : Nat) : Scope :=
  match k with
  | .bolt b => if rel = F.BOLT_STACKS_STACKS.off then .device else .bolt b
  | .stk n => if rel = F.SWT_TABLE_BASE_LO_ADDR.off ∨ rel = F.SWT_TABLE_BASE_HI_ADDR.off then .device else s.stackScope n
  | .tile g => s.stackScope (g / 160)
  | .nbu u =>
    if rel < 0x10 then .device
    else
      let r := (rel - 0x10) / 16
      match s.r (.nbu u) (F.NBU_RING_CFG_OWNER r) with
      | 0 => .bolt (s.r (.nbu u) (F.NBU_RING_CFG_BOLT r))
      | o => .port (o - 1)
  | .cfg => .any
  | .err => if rel = F.ERR_LOG_SEL_SLOT.off then .any else .device
  | _ => .device

/-- Whether a requester holds the scope; the HKC writes its own registers. -/
def State.mayWrite (s : State) (q : Req) (c : Scope) : Bool :=
  match q with
  | .hkc => true
  | _ => match c with
    | .any => true
    | .device => q.n == s.ctrlPort
    | .bolt b => s.owner b == some q.n
    | .port p => q.n == p

/-- The block is in reset: of the blocks of BAR0 only those of R362 stay accessible through a core reset and its steps up to step 7; the tiles,
edge stacks, units and check unit of a base die in reset (R428), and a block in its own reset (R363). -/
def State.inReset (s : State) (k : Blk) : Bool :=
  let open_ : Bool := match k with
    | .id => true
    | .mbx => true
    | .rst => true
    | .cfg => true
    | .thm => true
    | .err => true
    | .fab _ => true
    | _ => false
  let held : Bool := match k with
    | .stk n => s.dieHeld (dieOf n)
    | .tile g => s.tileHeld g
    | .edge e => s.dieHeld (dieOf e)
    | .nbu u => s.nbuHeld u
    | .chk d => s.chkHeld d
    | _ => false
  (!open_ && (s.rst.level != 0 || s.rst.steps)) || held

/-- A host write to a ring that a running pattern's bolt owns (R213). -/
def State.ringBarred (s : State) (q : Req) (u rel : Nat) : Bool :=
  let r := (rel - 0x10) / 16
  q != .hkc && decide (0x10 ≤ rel) && s.r (.nbu u) (F.NBU_RING_CFG_OWNER r) == 0 && s.patRuns (s.r (.nbu u) (F.NBU_RING_CFG_BOLT r))

/-! ### Transactions: opening, staging, discarding (R369, R370, R374, R376) -/

def Txn.setErr (t : Txn) (i : Nat) : Txn := { t with err := t.err ||| BitVec.ofNat 3 (2 ^ i) }

/-- A transaction still open 10,000,000 tape cycles after its baste is unpicked (R374). -/
def State.txnExpire (s : State) (q : Nat) : State :=
  let t := s.txn q
  if t.isOpen ∧ t.baste + 10000000 ≤ s.tape then s.setTxn q { t with isOpen := false, staged := [], full := false, result := 4 } else s

/-- CFG_TXN_BEGIN.BASTE. -/
def State.baste (s : State) (q : Nat) : State :=
  let s := s.txnExpire q
  let t := s.txn q
  if t.isOpen then s.setTxn q (t.setErr 0) else s.setTxn q { t with isOpen := true, baste := s.tape, staged := [], full := false }

/-- CFG_TXN_ROLLBACK.UNPICK. -/
def State.unpick (s : State) (q : Nat) : State :=
  let s := s.txnExpire q
  let t := s.txn q
  if t.isOpen then s.setTxn q { t with isOpen := false, staged := [], full := false, result := 3 } else s.setTxn q (t.setErr 1)

/-- A port reset unpicks its port's transaction (R322, R376). -/
def State.unpickPort (s : State) (q : Nat) : State :=
  let t := s.txn q
  if t.isOpen then s.setTxn q { t with isOpen := false, staged := [], full := false, result := 3 } else s

/-- A write staged: in the place of an earlier one to the register, else as a further entry while there is room. -/
def Txn.stage (t : Txn) (off : Nat) (v : BitVec 32) : Txn :=
  if t.staged.any fun w => w.1 == off then { t with staged := t.staged.map fun w => if w.1 == off then (off, v) else w }
  else if t.staged.length < Config.stageDepth then { t with staged := t.staged ++ [(off, v)] }
  else { t with full := true }

/-- Every device-level reset discards what is open or waits (R376). -/
def State.txnReset (s : State) : State :=
  let had (q : Nat) : Bool := let t := (s.txnExpire q).txn q; t.isOpen || t.waiting || s.stitched.any fun x => x.req.n == q
  let s' := (List.range 3).foldl (fun (st : State) q => st.setTxn q { Txn.reset with result := if had q then 5 else 0 }) s
  { s' with stitched := [] }

/-! ### The checks of a stitch (R371) -/

/-- The registers with a transaction's writes applied. -/
def State.withWrites (s : State) (ws : List (Nat × BitVec 32)) : State :=
  ws.foldl (fun st w => match regAt w.1 with
    | some (_, r, _) => st.setWord w.1 (r.commit (st.word w.1) w.2)
    | none => st) s

/-- The registers with every accepted transaction applied. -/
def State.accepted (s : State) : State := s.stitched.foldl (fun st x => st.withWrites x.writes) s

/-- BOLT_STACKS (R245): no stack in two bolts, those of transactions that wait counted, and no change while the pattern state is not empty or
ended. -/
def badStacks (s after : State) (b : Nat) : Bool :=
  let m (x : State) (i : Nat) : Nat := x.r (.bolt i) F.BOLT_STACKS_STACKS
  m s b != m after b && (!(s.patState b == 0 || s.patState b == 7)
    || (List.range 12).any fun i => i != b && Nat.land (m after i) (m after b) != 0)

/-- SWT_TABLE_BASE (R155): no change while a bolt with swatches has a pattern loading to paused. -/
def badTable (s after : State) : Bool :=
  s.tableBase != after.tableBase && (List.range 12).any fun b => s.patBusy b && (s.boltStacks b).any fun k => s.b (.stk k) F.SWT_CFG_EN

/-- FAB_COORD (R269): no change while a bolt has an admitted or running fabric pattern. -/
def badCoord (s after : State) : Bool :=
  s.word ((Blk.fab 0).base + F.FAB_COORD_X.off) != after.word ((Blk.fab 0).base + F.FAB_COORD_X.off)
    && (List.range 12).any fun b => s.patHolds b && (s.bolt b).pat.any fun p => p.fabric

/-- Pre-emption (R232, R233): the code of Table 8.9 where the stitch is refused. -/
def ctxRefusal (s after : State) (b : Nat) : Option Nat :=
  let ks := s.boltStacks b
  let k0 := Blk.stk (ks.headD 0)
  let same (f : Fld) : Bool := ks.all fun k => after.r (.stk k) f == after.r k0 f
  let save := after.b k0 F.CTX_CTRL_SAVE
  let at_ := after.b k0 F.CTX_CTRL_AT_TACK
  let n := after.r k0 F.CTX_TACK_TACK_NO
  if !(same F.CTX_CTRL_SAVE && same F.CTX_CTRL_RESTORE && (!save || (same F.CTX_CTRL_AT_TACK && same F.CTX_TACK_TACK_NO))) then some 0x04
  else if !save then none
  else if at_ && (s.bolt b).pat.any (fun p => p.tacks ≤ n) then some 0x09
  else if at_ && s.b (.bolt b) F.PAT_TACK_ANY && n ≤ s.r (.bolt b) F.PAT_TACK_TACK then some 0x0A
  else if !s.patRuns b || (s.bolt b).preempt.isSome then some 0x0B
  else none

/-- An operation runs on the bolt: applied and not yet done. -/
def State.opRuns (s : State) (b : Nat) : Bool :=
  (s.bolt b).op != 0 || (s.boltStacks b).any fun k => s.r (.stk k) F.STK_BOLT_OP_OP != 0

/-- A bolt operation (R378): the code of Table 13.7 where the stitch is refused. -/
def opRefusal (s after : State) (b : Nat) (named : List Nat) : Option Nat :=
  let ks := s.boltStacks b
  let op := after.r (.stk (ks.headD 0)) F.STK_BOLT_OP_OP
  if !(ks.all fun k => after.r (.stk k) F.STK_BOLT_OP_OP == op) || named.any (fun k => !ks.contains k) then some 0x01
  else if s.opRuns b then some 0x02
  else if 2 ≤ op && !([0, 3, 7].contains (s.patState b)) || (op == 3 && s.r .mbx F.MBX_VERIFY_TILE_RESULT != 1) then some 0x03
  else none

/-- The stacks whose STK_BOLT_OP a transaction writes. -/
def opStacks (ws : List (Nat × BitVec 32)) : List Nat :=
  ws.filterMap fun w => match locate w.1 with
    | some (.stk k) => if w.1 - (Blk.stk k).base = F.STK_BOLT_OP_OP.off then some k else none
    | _ => none

/-- The bolt whose TAPE, CTX or STK_BOLT_OP registers a write names (R378). -/
def State.opBolt (s : State) (off : Nat) : Option Nat :=
  match locate off with
  | some (.bolt b) => some b
  | some (.stk k) =>
    let rel := off - (Blk.stk k).base
    if (0x5000 ≤ rel ∧ rel < 0x5018) ∨ rel = F.STK_BOLT_OP_OP.off then s.boltOf k else none
  | _ => none

/-- STK_BOLT_OP_STAT of a refused operation (R378). -/
def State.opRefused (s : State) (b code : Nat) : State :=
  (s.boltStacks b).foldl (fun st i => (st.w (.stk i) F.STK_BOLT_OP_STAT_CODE code).w (.stk i) F.STK_BOLT_OP_STAT_STATE 4) s

/-- The first refusing check of one staged write: CODE, and the state with a block's own code (R371, Table 13.6). -/
def State.writeCheck (s after : State) (q : Req) (apply : Nat) (ws : List (Nat × BitVec 32)) (w : Nat × BitVec 32) : Option (Nat × State) :=
  match regAt w.1 with
  | none => none
  | some (k, r, _) =>
    let rel := w.1 - k.base
    let bad (c : Bool) : Option (Nat × State) := if c then some (0x03, s) else none
    let logged (c : Bool) : Option (Nat × State) := if c then some (0x03, s.logReg q.n w.1) else none
    if !s.mayWrite q (s.scopeOf k rel) then some (0x02, s)
    else if (s.opBolt w.1).any s.opRuns then
      some (0x05, match k with
        | .stk n => if rel = F.STK_BOLT_OP_OP.off then ((s.boltOf n).map fun b => s.opRefused b 0x02).getD s else s
        | _ => s)
    else if r.badCommit w.2 then logged true
    else match k with
      | .bolt b => if rel = F.BOLT_STACKS_STACKS.off then logged (badStacks s.accepted (s.accepted.withWrites ws) b) else none
      | .fab _ => if rel = F.FAB_COORD_X.off then logged (badCoord s after) else none
      | .trc => bad (rel = F.TRC_STOP_CTRL_ARM.off && after.b .trc F.TRC_STOP_CTRL_ARM
          && decide (after.r2 .trc F.TRC_STOP_TAPE_LO_TAPE F.TRC_STOP_TAPE_HI_TAPE < apply + 10000))
      | .stk n =>
        if rel = F.SWT_TABLE_BASE_LO_ADDR.off ∨ rel = F.SWT_TABLE_BASE_HI_ADDR.off then bad (badTable s after)
        else if 0x5000 ≤ rel ∧ rel < 0x5010 then
          (s.boltOf n).bind fun b => (ctxRefusal s after b).map fun c => (0x03, s.setCtxCode b c)
        else if rel = F.STK_BOLT_OP_OP.off then
          match s.boltOf n with
          | none => bad (after.r k F.STK_BOLT_OP_OP != 0)
          | some b => (opRefusal s after b (opStacks ws)).map fun c => (0x03, s.opRefused b c)
        else none
      | _ => none

/-- The bolts whose next tack release applies a transaction (R184, R372): those that hold a stack whose REFRESH_MODE it changes. -/
def State.tackBolts (s after : State) (ws : List (Nat × BitVec 32)) : List Nat :=
  (ws.flatMap fun w => match locate w.1 with
    | some (.stk k) =>
      if w.1 - (Blk.stk k).base = F.PMEM_CFG_REFRESH_MODE.off ∧ s.r (.stk k) F.PMEM_CFG_REFRESH_MODE ≠ after.r (.stk k) F.PMEM_CFG_REFRESH_MODE
      then (List.range 12).filter fun b => s.boltOf k == some b && s.patRuns b else []
    | some (.edge e) =>
      if w.1 - (Blk.edge e).base = F.EDGE_CFG_REFRESH_MODE.off ∧ s.r (.edge e) F.EDGE_CFG_REFRESH_MODE ≠ after.r (.edge e) F.EDGE_CFG_REFRESH_MODE
      then (List.range 12).filter fun b => s.patRuns b && (s.bolt b).pat.any fun p => p.ranges.any fun r => r.stack == e else []
    | _ => []).eraseDups

/-- T of a transaction stitched at a tape (R372). -/
def applyAt (t : Nat) : Nat := ceilDiv (t + 1000) 256 * 256

/-- Accepts a list of writes, or refuses it whole: the refusing CODE and register, or what waits for T. -/
def State.txnCheck (s : State) (q : Req) (lone : Bool) (ws : List (Nat × BitVec 32)) : Except (Nat × Nat × State) Stitched :=
  let after := s.withWrites ws
  let t := applyAt s.tape
  match ws.findSome? fun w => (s.writeCheck after q t ws w).map fun c => (c.1, w.1, c.2) with
  | some c => .error c
  | none =>
    match s.tackBolts after ws with
    | [] => .ok ⟨q, ws, t, none, lone, s.tape⟩
    | [b] => .ok ⟨q, ws, (s.bolt b).tack, some b, lone, s.tape⟩
    | _ => .error (0x04, (ws.headD (0, 0)).1, s)

/-- The outcome of a stitch or of a lone write in the requester's status. -/
def State.txnEnd (s : State) (q : Req) (lone : Bool) (c : Except (Nat × Nat × State) Stitched) : State :=
  match c with
  | .error (code, off, s) =>
    let t := s.txn q.n
    s.setTxn q.n { (if lone then t else { t with isOpen := false, staged := [], full := false }) with result := 2, code := code, refuse := off }
  | .ok x =>
    let t := s.txn q.n
    let s := if lone then s else s.setTxn q.n { t with isOpen := false, full := false, waiting := true }
    { s with stitched := s.stitched ++ [x] }

/-- CFG_TXN_COMMIT.STITCH (R371). -/
def State.stitch (s : State) (q : Req) : State :=
  let s := s.txnExpire q.n
  let t := s.txn q.n
  if !t.isOpen then s.setTxn q.n (t.setErr 1)
  else if t.full then s.txnEnd q false (.error (0x01, (t.staged.headD (0, 0)).1, s))
  else s.txnEnd q false (s.txnCheck q false t.staged)

/-- A write to an RWT register (R10, R13, R370, R373): staged, applied as a transaction of one write, or refused for a paired field. -/
def State.rwtWrite (s : State) (q : Req) (r : RegSpec) (off : Nat) (v : BitVec 32) : State :=
  let s := s.txnExpire q.n
  let t := s.txn q.n
  if t.isOpen then s.setTxn q.n (t.stage off v)
  else if r.paired then (s.setTxn q.n (t.setErr 2)).logReg q.n off
  else s.txnEnd q true (s.txnCheck q true [(off, v)])

/-! ### Application (R206, R372, R375) -/

/-- A tagged region that overlaps another, or whose tags do, is disabled with REFUSED set (R206). -/
def State.tagCheck (s : State) (e n : Nat) : State :=
  let k := Blk.edge e
  let at_ (i : Nat) : Nat × Nat := (s.r k (F.EDGE_TAG_BASE_BASE i) * 512, s.r k (F.EDGE_TAG_LEN_LEN i) * 512)
  let tags (i : Nat) : Nat × Nat := (s.r k (F.EDGE_TAG_TAGS_TAGS i) * 64, s.r k (F.EDGE_TAG_LEN_LEN i) * 8)
  let on (i : Nat) : Bool := s.b k (F.EDGE_TAG_LEN_EN i)
  let m (a b : Nat × Nat) : Bool := meet a.1 a.2 b.1 b.2
  if on n && ((List.range 8).any fun i => on i && ((i != n && m (at_ n) (at_ i)) || m (tags n) (at_ i) || (i != n && m (tags i) (at_ n)))) then
    (s.wb k (F.EDGE_TAG_LEN_EN n) false).wb k F.NBU_TAG_STAT_REFUSED true
  else s

/-- What a block does when a transaction changes one of its registers, beside taking the value. The operations that PAT_CTRL, CTX_CTRL,
STK_BOLT_OP and TRC_STOP_CTRL ask for are commands of their own (log entry 43). -/
def State.applied (s : State) (x : Stitched) (off : Nat) (v : BitVec 32) : State :=
  match locate off with
  | some (.bolt b) =>
    if off - (Blk.bolt b).base = F.PAT_CTRL_LOAD.off then
      if fget F.PAT_CTRL_LOAD v = 1 then s.modBolt b fun y => { y with loadBy := x.req.n, stitchAt := x.tape }
      else s.modBolt b fun y => { y with stitchAt := x.tape }
    else s
  | some (.fab _) => if off = (Blk.fab 0).base + F.FAB_COORD_X.off then s.retime else s
  | some (.edge e) =>
    let rel := off - (Blk.edge e).base
    if 0x400 ≤ rel ∧ rel < 0x480 then s.tagCheck e ((rel - 0x400) / 16) else s
  | _ => s

/-- A write of an accepted transaction that a pattern started since then bars (R213). -/
def State.nowBarred (s : State) (q : Req) (off : Nat) : Bool :=
  match locate off with
  | some (.nbu u) => s.ringBarred q u (off - (Blk.nbu u).base)
  | _ => false

/-- A stitched transaction of the requester waits for its T. -/
def State.stillWaits (s : State) (q : Nat) : Bool := s.stitched.any fun x => x.req.n == q && !x.lone

/-- A requester's transaction has come to its T: a lone write leaves the one that baste opens as it is (R373). -/
def Txn.applied (t : Txn) (lone still : Bool) : Txn :=
  if lone then t else { t with waiting := still, staged := if t.isOpen || still then t.staged else [] }

/-- Applies an accepted transaction on the present tape cycle: refused with code 0x06 where a block is in reset, else whole, but for writes to
rings of a running bolt, which are ignored and logged (R213). -/
def State.txnApply (s : State) (x : Stitched) (t : Nat) : State :=
  let q := x.req.n
  let out := x.writes.filter fun w => s.nowBarred x.req w.1
  let s := out.foldl (fun s w => s.logReg q w.1) s
  let x := { x with writes := x.writes.filter fun w => !out.contains w }
  match x.writes.find? fun w => (locate w.1).any s.inReset with
  | some w => s.setTxn q { (s.txn q).applied x.lone (s.stillWaits q) with result := 2, code := 0x06, refuse := w.1 }
  | none =>
    let s := s.withWrites x.writes
    let s := x.writes.foldl (fun st w => st.applied x w.1 w.2) s
    s.setTxn q { (s.txn q).applied x.lone (s.stillWaits q) with result := 1, apply := t }

/-- Whether a transaction that waits for a tack can apply, and its T: the bolt has passed a later release, or its pattern has ended. -/
def State.tackApply (s : State) (x : Stitched) : Option Nat :=
  x.bolt.bind fun b =>
    let y := s.bolt b
    if !s.patRuns b then some (y.endAt.getD s.tape) else if x.at_ < y.tack then some (min s.tape (y.tapeOf y.relAt)) else none

/-- The transaction that applies next, with its T: the earliest T first, then the order of the stitches, of those in one tape
cycle P0 before P1 before the HKC (R375). -/
def State.nextApply (s : State) : Option (Stitched × Nat) :=
  (s.stitched.filterMap fun x => match x.bolt with
    | none => some (x, x.at_)
    | some _ => (s.tackApply x).map fun t => (x, t)).foldl
    (fun best p => match best with
      | none => some p
      | some b =>
        let sooner : Bool := decide (p.2 < b.2) || (p.2 == b.2 && p.1.tape == b.1.tape && decide (p.1.req.n < b.1.req.n))
        if sooner then some p else some b) none

/-- Row TXN_APPLY. -/
def execTxnApply (s : State) : Result :=
  .next (match s.nextApply with
    | none => s
    | some (x, t) =>
      let s := { s.advanceTo t with stitched := s.stitched.erase x }
      s.txnApply x t)

/-- Row TXN_TIMEOUT: the tape reaches 10 ms after the baste. -/
def execTxnTimeout (q : Req) (s : State) : Result :=
  .next (let t := s.txn q.n
    if t.isOpen then (s.advanceTo (t.baste + 10000000)).txnExpire q.n else s)

end Sys2Proof.Machine
end

