-- ==== Sys2Proof/Machine/Host.lean ====
section
/-! DEFINITION. The host ports (chapter 11: R302 to R329): queue pairs, the DMA engine and the base-die shuttles, ownership, interrupts, port
resets, the management endpoint. -/
namespace Sys2Proof.Machine

/-! ### Queue pairs (R315 to R318) -/

def State.sqSize (s : State) (p n : Nat) : Nat := s.r4 p (F.HST_Q_CFG_SQ_SIZE_M1 n) + 1
def State.qOn (s : State) (p n : Nat) : Bool := s.r4 p (F.HST_Q_CTRL_EN n) == 1

/-- HST_SQ_n_TAIL written: the entries up to the tail are handed over, or ERR (R315, R316). -/
def State.sqBell (s : State) (p n tail : Nat) : State :=
  if !s.qOn p n || s.sqSize p n ≤ tail then s.w4 p (F.HST_Q_STAT_ERR n) 1 else s.setQp p n { s.qp p n with sqTail := tail }

/-- HST_CQ_n_HEAD written: the records before it have been consumed (R315, R317; log entry 47). -/
def State.cqBell (s : State) (p n head : Nat) : State :=
  if !s.qOn p n || s.cqSize p n ≤ head then s.w4 p (F.HST_Q_STAT_ERR n) 1
  else
    let q := s.qp p n
    s.setQp p n { q with cqHead := head, used := (q.cqPos + s.cqSize p n - head) % s.cqSize p n }

/-- HST_Q_n_CTRL.EN from 0 to 1: the state of a pair enabled for the first time (R316). -/
def State.qEnable (s : State) (p n : Nat) : State := s.setQp p n QPair.reset

/-- Commands of a port in progress (R318). -/
def State.dmaBusy (s : State) (p : Nat) : Nat := ((List.range 64).map fun n => (s.qp p n).doneQ.length + (s.qp p n).moving.length).sum

/-- An SQ whose next command may start (R317): enabled, not empty, its CQ not full. -/
def State.sqReady (s : State) (p n : Nat) : Bool := let q := s.qp p n; s.qOn p n && q.sqHead != q.sqTail && !s.cqFull p n

/-- The SQ whose turn it is: ascending order of n, one command from each in turn (R318). -/
def State.sqTurn (s : State) (p : Nat) : Option Nat :=
  let r := (s.hport p).rr
  ((List.range 64).map fun i => (r + i) % 64).find? (s.sqReady p)

/-! ### Host queue entries (Table 11.3) -/

def hOp (d : BitVec 512) : Nat := dget d 0 0 8
def hFence (d : BitVec 512) : Bool := dbit d 0 8
def hCid (d : BitVec 512) : Nat := dget d 0 16 16
def hDie (d : BitVec 512) : Nat := dget d 0 32 2
def hAddr (d : BitVec 512) : Nat := dget d 8 0 64
def hDpa (d : BitVec 512) : Nat := dget d 16 0 48
def hLen (d : BitVec 512) : Nat := dget d 24 0 40

/-- Reserved fields: those of word 0, and for OP 0x01 and 0x02 those of the rest. -/
def hReserved (d : BitVec 512) : Bool :=
  !dzero d 0 9 7 || !dzero d 0 34 30 || !(1 ≤ hOp d && hOp d ≤ 4)
    || (hOp d ≤ 2 && (!dzero d 0 32 2 || !dzero d 16 48 16 || !dzero d 24 40 24 || !dzero d 32 0 256))

/-- What a command ends with: STATUS, DETAIL and progress (Table 11.4). -/
abbrev HostEnd := Nat × Nat × Nat

/-- The SQ cannot start its next command now (R317, R318). -/
def State.hostWaits (s : State) (p : Port) (n : Nat) (d : BitVec 512) : Bool :=
  s.rst.level != 0 || s.rst.steps || !s.portAvail p.n || s.sqTurn p.n != some n || 8 ≤ s.dmaBusy p.n
    || (hFence d && ((s.qp p.n n).doneQ != [] || (s.qp p.n n).moving != []))

/-- The entry is fetched: the head moves on, and the turn passes to the next SQ. -/
def State.hostStart (s : State) (p : Port) (n : Nat) : State :=
  (s.setQp p.n n { s.qp p.n n with sqHead := ((s.qp p.n n).sqHead + 1) % s.sqSize p.n n }).setHport p.n { s.hport p.n with rr := (n + 1) % 64 }

/-- A command has ended: its record, with the head after it, waits to be written. -/
def State.hostEnd (s : State) (p : Port) (n : Nat) (d : BitVec 512) (head : Nat) (e : HostEnd) : State :=
  s.setQp p.n n { s.qp p.n n with doneQ := (s.qp p.n n).doneQ ++ [(hCid d, e.1, e.2.1, e.2.2, head)] }

/-! ### The DMA engine (R319, R320) -/

/-- Why a line at a DPA is no edge memory: the address detail of Table 8.5. -/
def State.notEdge (s : State) (a : Nat) : Option Nat :=
  match s.runOf a 64 with
  | none => some 0x1
  | some m => if m < edgeEnd then none else some 0x5

/-- Writes data line by line in ascending order: why it ended, and the bytes done. -/
def State.dmaIn (s : State) (die dpa : Nat) : Nat → Nat → List (BitVec 8) → HostEnd × State
  | 0, done, _ => ((0, 0, done), s)
  | k + 1, done, bs =>
    match s.notEdge (dpa + done) with
    | some e => ((0x02, e, done), s)
    | none =>
      if s.cutOff die (dpa + done) then ((0x05, 0, done), s)
      else ((s.storeCw (dpa + done) (bs.take 64)).2).dmaIn die dpa k (done + 64) (bs.drop 64)

/-- Reads line by line in ascending order. -/
def State.dmaOut (s : State) (die dpa : Nat) : Nat → Nat → HostEnd × List (BitVec 8) × State
  | 0, done => ((0, 0, done), [], s)
  | k + 1, done =>
    match s.notEdge (dpa + done) with
    | some e => ((0x02, e, done), [], s)
    | none =>
      if s.cutOff die (dpa + done) then ((0x05, 0, done), [], s)
      else match s.fetch (dpa + done) 64 with
      | (.error _, s) => ((0x04, 0, done), [], s)
      | (.ok l, s) =>
        match s.dmaOut die dpa k (done + 64) with
        | (e, l', s) => (e, l ++ l', s)

def hMisaligned (d : BitVec 512) : Bool := hAddr d % 64 != 0 || hDpa d % 64 != 0 || hLen d % 64 != 0

/-- The lines of a request of `n` bytes from `done` on: no more than the command has left and the negotiated size allows. -/
def reqLines (d : BitVec 512) (done n size : Nat) : Nat := min n (min (hLen d - done) size) / 64

/-- One request of a command that moves data (R319): of one in progress with this entry, else of the SQ's next command, which starts with it.
The command ends with the request that fails or reaches LEN; else it stays in progress, and a reset of the port leaves what it has moved, at a
64-byte boundary (R322, R323; log entry 46). -/
def State.dmaCmd (s : State) (p : Port) (n op : Nat) (d : BitVec 512) (hostOk : Bool) (run : Nat → State → HostEnd × State) : State :=
  let go (s : State) (head done : Nat) : State :=
    let (e, s) : HostEnd × State :=
      if hReserved d then ((0x01, 0, 0), s)
      else if hMisaligned d then ((0x07, 0, 0), s)
      else if hLen d = 0 then ((0, 0, 0), s)
      else if !hostOk then ((0x03, 0, done), s)
      else run done s
    let q := s.qp p.n n
    let s := s.setQp p.n n { q with moving := q.moving.filter fun x => x.1 != d }
    if e.1 = 0 ∧ e.2.2 < hLen d then s.setQp p.n n { s.qp p.n n with moving := (s.qp p.n n).moving ++ [(d, e.2.2, head)] }
    else s.hostEnd p n d head e
  match (s.qp p.n n).moving.find? fun x => x.1 == d with
  | some (_, done, head) => if hOp d != op || s.rst.level != 0 || s.rst.steps || !s.portAvail p.n then s else go s head done
  | none =>
    if s.hostWaits p n d || (1 ≤ hOp d && hOp d ≤ 4 && hOp d != op) then s
    else
      let s := s.hostStart p n
      go s (s.qp p.n n).sqHead 0

def execHostToDevice (p : Port) (n : Fin 64) (entry : Desc) (data : List Byte) (hostOk : Bool) (s : State) : Result :=
  .next (s.dmaCmd p n.val 1 entry hostOk fun done s =>
    s.dmaIn p.n (hDpa entry) (reqLines entry done data.length (s.hport p.n).readSize) done data)

def execDeviceToHost (p : Port) (n : Fin 64) (entry : Desc) (len : Nat) (hostOk : Bool) (s : State) : Result :=
  .next (s.dmaCmd p n.val 2 entry hostOk fun done s =>
    match s.dmaOut p.n (hDpa entry) (reqLines entry done len (s.hport p.n).payload) done with
    | (e, l, s) => (e, if l = [] then s else s.send (.hostWrite p (hAddr entry + done) l)))

/-! ### The base-die shuttles (R216) -/

/-- A base-die shuttle's access: DPAs only, and not the bobbin or slice of a tile whose bolt has a running pattern. -/
def State.bTranslate (s : State) (a n : Nat) : Tr :=
  if bit a 47 then .bad 5
  else match s.runOf a n with
    | none => .bad 1
    | some m =>
      match placeOf m with
      | .edge _ _ => .at_ m
      | .slice g _ => if s.stackRuns (g / 160) then .bad 5 else .at_ m
      | .bobbin g _ => if s.stackRuns (g / 160) then .bad 5 else .at_ m
      | _ => .bad 5

/-- One access pair: an error, or the state after it. -/
def State.bMove (s : State) (die : Nat) (needle : Bool) (src dst n : Nat) : Option (Nat × Nat) × State :=
  match s.bTranslate src n with
  | .bad e => (some (0x02, e), s)
  | .at_ a =>
    if s.cutOff die a then (some (0x05, 0), s)
    else match (s.unschedPass needle a n).fetch a n with
    | (.error _, s) => (some (0x04, 0), s)
    | (.ok l, s) =>
      match s.bTranslate dst n with
      | .bad e => (some (0x02, e), s)
      | .at_ b =>
        if s.cutOff die b then (some (0x05, 0), s)
        else match (s.unschedPass false b n).put b l with
        | (some cw, s) => (some (0x04, 0), s.logUe cw)
        | (none, s) => (none, s)

/-- A copy from transfer-order position `p` up to position `stop`. -/
def State.bCopy (s : State) (die : Nat) (c : CopyD) (stop : Nat) : Nat → Nat → HostEnd × State
  | 0, p => ((0, 0, p), s)
  | k + 1, p =>
    if stop ≤ p then ((0, 0, p), s)
    else
      let (src, dst, left) := c.place p
      let n := min (min left (stop - p)) (min (lineLeft src) (lineLeft dst))
      match s.bMove die false src dst n with
      | (some (st, e), s) => ((st, e, p), s)
      | (none, s) => s.bCopy die c stop k (p + n)

/-- A gather from transfer-order position `p` up to position `stop`. -/
def State.bGather (s : State) (die : Nat) (x : GatherD) (stop : Nat) : Nat → Nat → HostEnd × State
  | 0, p => ((0, 0, p), s)
  | k + 1, p =>
    if stop ≤ p then ((0, 0, p), s)
    else match s.bTranslate (x.idx + 4 * (p / x.esz)) 4 with
      | .bad e => ((0x02, e, p), s)
      | .at_ a =>
        if s.cutOff die a then ((0x05, 0, p), s)
        else match (s.unschedPass false a 4).fetch a 4 with
        | (.error _, s) => ((0x04, 0, p), s)
        | (.ok l, s) =>
          let src := (x.src + leNat l * x.esz + p % x.esz) % 2 ^ 48
          let dst := x.dst + p
          let n := min (min (x.esz - p % x.esz) (stop - p)) (min (lineLeft src) (lineLeft dst))
          match s.bMove die (x.esz == 16) src dst n with
          | (some (st, e), s) => ((st, e, p), s)
          | (none, s) => s.bGather die x stop k (p + n)

/-- The transfer-order position at which a copy or gather of `total` bytes that stands at `p` next reaches a 64-byte boundary or its end. -/
def nextStop (total p : Nat) : Nat := min total ((p / 64 + 1) * 64)

/-- Bytes of the index list from its address stay within reach. -/
def State.bReach (s : State) (a n : Nat) : Bool := (s.bTranslate a (max n 1)).addr?.isSome

/-- A device copy as it starts: the checks of R224 with the answers of R216. -/
def State.bCopyCheck (s : State) (d : BitVec 512) : HostEnd :=
  let c := copyOf d
  let ts := s.bTranslate c.src 16
  let td := s.bTranslate c.dst 16
  if shutKind d = 2 ∧ !walkRes d then (0x06, 0x06, 0)
  else if shutKind d ≠ 0 ∨ copyRes d then (0x01, 0, 0)
  else if unreach ts || unreach td then (0x06, 0x06, 0)
  else if c.total = 0 then (0, 0, 0)
  else if copyMisaligned c then (0x07, 0, 0)
  else if copySelf c || runsMeet (s.trDpa td) (c.hull c.ds2 c.ds1) (s.trDpa ts) (c.hull c.ss2 c.ss1) then (0x08, 0, 0)
  else (0, 0, 0)

/-- A device gather as it starts: pattern-relative addresses are refused before the other body conditions (R216). -/
def State.bGatherCheck (s : State) (d : BitVec 512) : HostEnd :=
  let x := gatherOf true d
  let ts := s.bTranslate x.src (min (max x.esz 16) 64)
  let td := s.bTranslate x.dst 16
  let isEdge : Bool := match ts with
    | .at_ a => decide (a < edgeEnd)
    | .bad e => e != 5
  if shutKind d = 2 ∧ !walkRes d then (0x06, 0x06, 0)
  else if shutKind d ≠ 1 ∨ gatherRes true d then (0x01, 0, 0)
  else if bit x.src 47 || bit x.dst 47 || bit x.idx 47 then (0x06, 0x06, 0)
  else if !x.eszOk then (0x06, 0x01, 0)
  else if x.esz = 16 ∧ !isEdge then (0x06, 0x02, 0)
  else if unreach ts || unreach td then (0x06, 0x06, 0)
  else if x.count = 0 then (0, 0, 0)
  else if x.src % (if x.esz = 16 then 16 else 64) ≠ 0 ∨ x.dst % 16 ≠ 0 ∨ x.idx % 4 ≠ 0 ∨ !s.bReach x.idx (4 * x.count) then (0x07, 0, 0)
  else if runsMeet (s.trDpa td) (x.count * x.esz) (s.trDpa (s.bTranslate x.idx 4)) (4 * x.count) then (0x08, 0, 0)
  else (0, 0, 0)

/-- The bytes of a device copy or gather from `done` up to the next stop; the command stays in progress or ends with its record. -/
def State.devMove (s : State) (p : Port) (n : Nat) (d : BitVec 512) (total head : Nat) (run : State → Nat → Nat → HostEnd × State) (done : Nat) : State :=
  let (e, s) := run s (nextStop total done) done
  let q := s.qp p.n n
  let rest := q.moving.filter fun x => x.1 != d
  if e.1 = 0 ∧ e.2.2 < total then s.setQp p.n n { q with moving := rest ++ [(d, e.2.2, head)] }
  else (s.setQp p.n n { q with moving := rest }).hostEnd p n d head e

/-- One transfer of a device copy or gather of `total` bytes (R216, R319): of one in progress with this entry, else of the SQ's next command, which starts
with its checks. It goes on up to the next 64-byte boundary of its transfer order, where a reset of the port stops it (R322, R323; log entry 46). -/
def State.devCmd (s : State) (p : Port) (n op : Nat) (d : BitVec 512) (total : Nat) (chk : State → HostEnd) (run : State → Nat → Nat → HostEnd × State) : State :=
  if s.shutHeld (hDie d) then s
  else match (s.qp p.n n).moving.find? fun x => x.1 == d with
  | some (_, done, head) => if hOp d != op || s.rst.level != 0 || s.rst.steps || !s.portAvail p.n then s else s.devMove p n d total head run done
  | none =>
    if s.hostWaits p n d || (1 ≤ hOp d && hOp d ≤ 4 && hOp d != op) then s
    else
      let s := s.hostStart p n
      let head := (s.qp p.n n).sqHead
      let e := if hReserved d then (0x01, 0, 0) else chk s
      if e.1 ≠ 0 ∨ total = 0 then s.hostEnd p n d head e else s.devMove p n d total head run 0

def execDeviceCopy (p : Port) (n : Fin 64) (entry : Desc) (s : State) : Result :=
  .next (s.devCmd p n.val 3 entry (copyOf entry).total (·.bCopyCheck entry) fun s stop done => s.bCopy (hDie entry) (copyOf entry) stop 64 done)

def execDeviceGather (p : Port) (n : Fin 64) (entry : Desc) (s : State) : Result :=
  let x := gatherOf true entry
  .next (s.devCmd p n.val 4 entry (x.count * x.esz) (·.bGatherCheck entry) fun s stop done => s.bGather (hDie entry) x stop 64 done)

/-- The record of the pair's command completed first is written once the CQ has room (R317, R318). -/
def execHqCompletion (p : Port) (n : Fin 64) (s : State) : Result :=
  let q := s.qp p.n n.val
  .next (match q.doneQ with
    | [] => s
    | (cid, st, det, prog, head) :: rest =>
      if s.cqFull p.n n.val || !s.portAvail p.n then s
      else
        let s := s.setQp p.n n.val { q with doneQ := rest }
        s.cqWrite p.n n.val (cid + n.val * 2 ^ 16 + st * 2 ^ 32 + det * 2 ^ 40 + head * 2 ^ 48) prog)

/-! ### Control port and bolts (R310, R313, R314) -/

/-- HST_CTRL.CTRL_PORT written: only the control port names the control port. -/
def State.nameCtrl (s : State) (p dst : Nat) : State := if p = s.ctrlPort then s.w4 0 F.HST_CTRL_CTRL_PORT dst else s.logBar4 p F.HST_CTRL_CTRL_PORT.off

/-- HST_CTRL.TAKE_CTRL written. -/
def State.takeCtrl (s : State) (p : Nat) : State :=
  if p ≠ s.ctrlPort ∧ !s.portAvail s.ctrlPort then s.w4 0 F.HST_CTRL_CTRL_PORT p else s.w4 0 F.HST_CTRL_TAKE_REFUSED 1

/-- A change of owner: its interrupt goes to the owner up to then, where IEN is set; CQ and IEN to 0 (R314, R321; DESIGN CHOICE, log entry
48). -/
def State.setOwner (s : State) (b owner : Nat) : State :=
  ((((s.boltIrq b).w4 0 (F.HST_BOLT_OWNER b) owner).w4 0 (F.HST_BOLT_CQ b) 0).w4 0 (F.HST_BOLT_IEN b) 0).w4 0 (F.HST_BOLT_LAST b) 1

/-- HST_BOLT_b.CMD written (R313). -/
def State.boltCmd (s : State) (p b cmd : Nat) : State :=
  let own := s.owner b
  let ok : Option Nat := match cmd with
    | 1 => if own = none then some (p + 1) else none
    | 2 => if own = some p then some 0 else none
    | 3 => if own = some (1 - p) ∧ !s.portAvail (1 - p) then some (p + 1) else none
    | _ => none
  if cmd = 0 then s
  else match ok with
    | some o => s.setOwner b o
    | none => s.w4 0 (F.HST_BOLT_LAST b) 2

/-! ### MSI-X pending messages (R321; PRESUMED, log entries 13, 50) -/

/-- Messages pending on vectors that are no longer masked go out once the port can send. -/
def State.flushMsix (s : State) (p : Nat) : State :=
  if !s.msixReady p then s
  else (List.range 256).foldl (fun s v =>
    let off := 0x801000 + v / 32 * 4
    if (s.word4 p off).getLsbD (v % 32) && !(s.word4 p (0x80000C + 16 * v)).getLsbD 0 then
      (s.setWord4 p off (s.word4 p off &&& ~~~(BitVec.ofNat 32 (2 ^ (v % 32))))).send (.msix (if p = 0 then .p0 else .p1) v)
    else s) s

/-! ### Device copies and gathers under way (R322, R364, R365) -/

/-- A device copy or gather in progress that the shuttle of base die `d` performs. -/
def onShuttle (d : Nat) (x : BitVec 512 × Nat × Nat) : Bool := (hOp x.1 == 3 || hOp x.1 == 4) && hDie x.1 == d
def State.shutBusy (s : State) (d : Nat) : Bool := s.qps.any fun q => q.2.moving.any (onShuttle d)

/-- They are abandoned: each ends with STATUS 0x05 at the 64-byte boundary where it stands; how many. -/
def State.shutDrop (s : State) (d : Nat) : Nat × State :=
  ((s.qps.map fun q => (q.2.moving.filter (onShuttle d)).length).sum,
   { s with qps := s.qps.map fun q => (q.1, { q.2 with
      moving := q.2.moving.filter fun x => !onShuttle d x,
      doneQ := q.2.doneQ ++ (q.2.moving.filter (onShuttle d)).map fun x => (hCid x.1, 0x05, 0, x.2.1, x.2.2) }) })

/-! ### Port resets (R322, R323) -/

/-- What a port reset clears: BAR4 registers outside the shared range, MSI-X, queue pairs; the port's transaction is unpicked. -/
def State.portClear (s : State) (p : Nat) : State :=
  let own (k : Nat) : Bool := k / 0x1000000 == p && !(0x10000 ≤ k && k < 0x10100)
  let s := { s with bar4 := s.bar4.filter (fun w => !own w.1), qps := s.qps.filter (fun q => q.1 / 64 != p) }
  s.unpickPort p

/-- The reset pin of a port, and its bit of RST_CAUSE (Table 13.2: the source of every reset of the port). -/
def portPin (p : Port) : ResetPin :=
  match p with
  | .p0 => .perst0
  | .p1 => .perst1
def State.portCause (s : State) (p : Port) : State :=
  match p with
  | .p0 => s.wb .rst F.RST_CAUSE_PERST0 true
  | .p1 => s.wb .rst F.RST_CAUSE_PERST1 true

def execPortReset (p : Port) (c : PortResetCause) (s : State) : Result :=
  let s := (s.portClear p.n).portCause p
  let low := if c = .perst then portPin p :: s.pins.low.filter (· != portPin p) else s.pins.low
  .next (({ s with pins := { s.pins with low := low } }).setHport p.n { HostPort.reset with perst := c == PortResetCause.perst || (s.hport p.n).perst })

def execFlr (p : Port) (s : State) : Result :=
  let h := s.hport p.n
  .next (if !h.linkUp then s
    else ((s.portClear p.n).portCause p).setHport p.n { HostPort.reset with linkUp := true, width := h.width, rate := h.rate, flr := true })

def execFlrComplete (p : Port) (s : State) : Result :=
  let h := s.hport p.n
  .next (if h.flr then s.setHport p.n { h with flr := false } else s)

/-- PERSTn_N is high again, or the link returns: the port trains to a width and rate of Table 11.1. -/
def execPortLinkUp (p : Port) (link : PcieLink) (s : State) : Result :=
  .next (if !s.romRuns then s
    else ({ s with pins := { s.pins with low := s.pins.low.filter (· != portPin p) } }).setHport p.n
      { s.hport p.n with linkUp := true, perst := false, width := 2 ^ link.width.val, rate := link.rate.val })

/-- A configuration write: power state and Bus Master Enable (R313), and the options of Table 11.1: payload and read request sizes, ECRC, MSI-X
Enable and Function Mask, AER severities and masks, AER status bits written as 1 (PRESUMED from the PCIe specification, log entry 13). -/
def execConfigSpaceWrite (p : Port) (d3hot busMaster : Bool) (c : PcieConfig) (s : State) : Result :=
  let h := s.hport p.n
  .next (if !h.linkUp then s
    else (s.setHport p.n { h with d3hot := d3hot, busMaster := busMaster, payload := 128 * 2 ^ c.payload.val, readSize := 128 * 2 ^ c.readSize.val,
                                  ecrcGen := c.ecrcGen, ecrcCheck := c.ecrcCheck, msixOn := c.msixOn, msixMask := c.msixMask, severity := c.severity, aerMask := c.aerMask,
                                  aer := h.aer &&& ~~~c.aerClear }).flushMsix p.n)

/-- What the configuration space of a port reports beside its state (R303): Vendor ID, Device ID, class code, Device Serial Number. -/
def State.pcieIds (s : State) : Nat × Nat × Nat × Nat := (s.r .id F.ID_DEVICE_VENDOR, s.r .id F.ID_DEVICE_DEVICE, 0x120000, s.r2 .id F.ID_SERIAL_LO_SERIAL F.ID_SERIAL_HI_SERIAL)

/-! ### Management endpoint (R325, R326) -/

/-- A free answer to a message, by the values of the sensors (log entry 12). -/
def State.answerMgmt (s : State) (msg : List (BitVec 8)) (sensors : List Nat) : State :=
  s.send (.mgmtAnswer ((List.range (Config.mgmtAnswerLen msg sensors)).map (Config.mgmtAnswer msg sensors)))

/-- The higher of two temperatures in their registers, which hold signed numbers of 16 bits (R413). -/
def maxTemp (a b : Nat) : Nat := if sext 16 a < sext 16 b then b else a

/-- The sensors of R326 as the last round left them: the highest temperature of each compute stack and edge stack, coolant at inlet and
outlet, input voltage, current and power, the limit in force; then the pins THERMTRIP_N, THERMALERT_N and FAULT_N, driven or not. -/
def State.sensors (s : State) : List Nat :=
  [s.r .thm F.THM_MAX_ARRAY, s.r .thm F.THM_MAX_DRAM, s.r .thm F.THM_MAX_EDGE_EDGE]
    ++ ((List.range 12).map fun k => maxTemp (s.r .thm (F.THM_STK_ARRAY k)) (s.r .thm (F.THM_STK_DRAM k)))
    ++ ((List.range 12).map fun e => s.r .thm (F.THM_EDGE_MAX e))
    ++ [s.r .thm F.THM_COOLANT_INLET, s.r .thm F.THM_COOLANT_OUTLET, s.r .thm F.PWR_V48_VOLT, s.r .thm F.PWR_V48_CURR, s.r .thm F.PWR_INPUT_POWER,
        s.r .thm F.PWR_STATUS_IN_FORCE, b2n s.pins.thermtrip, b2n s.pins.thermalert, b2n s.pins.fault]

/-- MCTP control messages are answered from power good on. -/
def execMctpControl (msg : List Byte) (s : State) : Result := .next (if !s.romRuns then s else s.answerMgmt msg [])

/-- A PLDM request: ERROR_NOT_READY from the boot ROM (a response header with completion code 0x04; PRESUMED from DSP0240, log entry 49), the HKC's
answer once its image runs. -/
def execPldmRequest (msg : List Byte) (s : State) : Result :=
  .next (if !s.romRuns then s
    else if s.hkc.imageRuns then s.answerMgmt msg s.sensors
    else s.send (.mgmtAnswer [msg.getD 0 0 &&& 0x1F, msg.getD 1 0, msg.getD 2 0, 0x04]))

/-- ENTDAA or SETDASA: I3C mode at the address until power-on reset. -/
def execDynamicAddressAssign (addr : BitVec 7) (s : State) : Result :=
  .next (if !s.romRuns then s else { s with mgmt := { s.mgmt with i3c := some addr } })

/-- SMBus Address Resolution Protocol, in SMBus mode. -/
def execAddressResolution (addr : BitVec 7) (s : State) : Result :=
  .next (if !s.romRuns || s.mgmt.i3c.isSome then s else { s with mgmt := { s.mgmt with smbus := addr } })

end Sys2Proof.Machine
end

