-- ==== Sys2Proof/Machine/NbuOps.lean ====
section
/-! DEFINITION. What the near-bank units are built from (chapter 7): reads and writes, host tags, completion, swatch-table and prefix-tree
steps. -/
namespace Sys2Proof.Machine

/-! ### Reads and writes of a unit -/

/-- The record of uncorrectable data that a unit's request met (Table 16.2: SOURCE 3, CODE the status). -/
def State.logNbuUe (s : State) (k cw : Nat) : State :=
  s.logEv { cls := .ue, source := Src.nbu, index := ixOf (k / 32) (k % 32), code := 6, detail := s.detailAddr cw }

/-- `n` bytes at an in-stack offset, or the offset of the first uncorrectable line; each line takes its turn at throttle (R396). -/
def State.nbuRead (s : State) (k off n : Nat) : Except Nat (List (BitVec 8)) × State :=
  match (s.unschedPass false (k / 32 * edgeBytes + off) n).fetchT (k / 32 * edgeBytes + off) n with
  | (.ok d, s) => (.ok d, s)
  | (.error cw, s) => (.error (cw % edgeBytes), s.logNbuUe k cw)

/-- Bytes written line by line for ring r of a unit, up to the first partial line that cannot be merged. -/
def State.nbuPutN (s : State) (k r : Nat) : Nat → Nat → List (BitVec 8) → Option Nat × State
  | 0, _, _ => (none, s)
  | n + 1, off, bs =>
    if bs = [] then (none, s)
    else
      let a := k / 32 * edgeBytes + off
      let m := 64 - off % 64
      match (s.unschedPass false a 1).storeRaw a (bs.take m) with
      | (false, s) => (some (off / 64 * 64), s.logNbuUe k (cwAt a))
      | (true, s) => (s.markConflict (k / 32) off 1 (some (k, r))).nbuPutN k r n (off + m) (bs.drop m)
def State.nbuPut (s : State) (k r off : Nat) (bs : List (BitVec 8)) : Option Nat × State := s.nbuPutN k r bs.length off bs

/-! ### Host tags (R206 to R208) -/

/-- The tags of every block in which a step wrote, in the regions as the operation was fetched (R208): the first uncorrectable line, whether a tag
was written. The unit has them computed within the step (DEDUCED from R208, log entry 112). -/
def State.retag (s : State) (k r : Nat) (tags : List (ERange × Nat)) (runs : List (Nat × Nat)) : Option Nat × Bool × State :=
  let todo := tags.flatMap fun x => (regionBlocks x.1 runs).map fun b => (x.1.off + 512 * b, x.2 + 8 * b)
  todo.foldl (fun acc t =>
    match acc with
    | (some e, w, s) => (some e, w, s)
    | (none, w, s) =>
      match s.nbuRead k t.1 512 with
      | (.error e, s) => (some e, w, s)
      | (.ok d, s) =>
        match s.nbuPut k r t.2 (leBytes 8 (crcTag 0 d)) with
        | (some e, s) => (some e, w, s)
        | (none, s) => (none, true, s)) (none, false, s)

/-! ### Completion (R194, R196, R199) -/

/-- The interrupt of a completion: to the port that owns the ring, or the port that owns the ring's bolt (R196, R314, R321). -/
def State.nbuIrq (s : State) (k r : Nat) : State :=
  let tell (s : State) (p : Nat) : State := if s.r4 p F.HST_INTR_EN = 1 then s.msix p (s.r4 p F.HST_INTR_NBU_VEC) else s
  match s.r (.nbu k) (F.NBU_RING_CFG_OWNER r) with
  | 1 => tell s 0
  | 2 => tell s 1
  | _ =>
    let b := s.r (.nbu k) (F.NBU_RING_CFG_BOLT r)
    match s.owner b with
    | some p => if s.r4 0 (F.HST_BOLT_IEN b) = 1 ∧ s.portAvail p then tell s p else s
    | none => s

/-- The operation of a ring has ended: record, CONS in the header and the register, counts, interrupt; the claim is released. A ring that a stitch has
meanwhile moved beyond the stack takes neither record nor header (R191; DESIGN CHOICE, log entry 78). -/
def State.nbuEnd (s : State) (k : Nat) (o : NbuOp) (status fail : Nat) : State :=
  let b := Blk.nbu k
  let r := o.ring
  let slots := s.r b (F.NBU_RING_CFG_SLOTS_M1 r) + 1
  let base := s.r b (F.NBU_RING_BASE_BASE r) * 64
  let cons := s.r b (F.NBU_RING_PTR_CONS r)
  let rec_ := leBytes 8 (status + b2n o.conflict * 2 ^ 8 + b2n o.retagged * 2 ^ 9 + nCookie o.desc * 2 ^ 32) ++ leBytes 8 o.result
    ++ leBytes 8 o.prog ++ leBytes 8 fail
  let put (s : State) (a : Nat) (l : List (BitVec 8)) : State := if s.ringFits k r then (s.nbuPut k r a l).2 else s
  let s := put s (base + 64 * (1 + slots) + 32 * (cons % slots)) rec_
  let s := put s (base + 4) (leBytes 4 ((cons + 1) % 2 ^ 16))
  let s := (s.w b (F.NBU_RING_PTR_CONS r) (cons + 1)).inc b F.NBU_OPS_DONE_COUNT
  let s := if o.conflict then s.wb b F.NBU_STATUS_CONFLICT true else s
  let s := if status = 0x0E then s.wb b F.NBU_STATUS_ABORTED true else s
  let u := s.nbu k
  let s := s.setNbu k { u with ops := u.ops.set r none }
  if nIrq o.desc then s.nbuIrq k r else s

/-- The ring's operation as it now stands. -/
def State.nbuKeep (s : State) (k : Nat) (o : NbuOp) : State :=
  let u := s.nbu k
  let c := ((u.ops.get none o.ring).map (·.conflict)).getD false
  s.setNbu k { u with ops := u.ops.set o.ring (some { o with conflict := o.conflict || c }) }

/-- A forced reset ends every running operation of a unit (R205, R364). -/
def State.nbuAbort (s : State) (k : Nat) : State :=
  (List.range 4).foldl (fun s r =>
    match (s.nbu k).ops.get none r with
    | some o => s.nbuEnd k o 0x0E 0
    | none => s) s

/-! ### The swatch table (R143, R147, R148, R209, R210) -/

/-- The entry of a swatch, by unit 0 of the table stack. -/
def State.swRead (s : State) (w : Nat) : Except Nat Nat × State :=
  match s.nbuRead s.tableUnit (s.tableBase % edgeBytes + 8 * w) 8 with
  | (.ok d, s) => (.ok (leNat d), s)
  | (.error e, s) => (.error e, s)
def State.swWrite (s : State) (w v : Nat) : State := (s.nbuPut s.tableUnit msgRing (s.tableBase % edgeBytes + 8 * w) (leBytes 8 v)).2

/-- The free-list head of segment n, kept current in every stack of the bolt (R155). -/
def State.setHead (s : State) (b n w : Nat) (empty : Bool) : State :=
  (List.range 12).foldl (fun s k =>
    if bit (s.r (.bolt b) F.BOLT_STACKS_STACKS) k then (s.w (.stk k) (F.SWT_SEG_FREE_HEAD n) w).wb (.stk k) (F.SWT_SEG_FREE_EMPTY n) empty else s) s

/-- Pops the head of segment n's free list, which takes STATE `st`, REFS 1 and FILL 0: the status and the swatch. The list ends at an entry
whose LINK names itself, no free entry or no entry of the segment (DESIGN CHOICE, log entry 36). -/
def State.popFree (s : State) (b n st : Nat) : Nat × Nat × State :=
  match s.swtStk b with
  | none => (0x09, 0, s)
  | some k =>
    let first := s.r k (F.SWT_SEG_FIRST_FIRST n)
    let count := s.r k (F.SWT_SEG_COUNT_COUNT n)
    if s.b k (F.SWT_SEG_FREE_EMPTY n) || count = 0 then (0x09, 0, s)
    else
      let w := s.r k (F.SWT_SEG_FREE_HEAD n)
      match s.swRead w with
      | (.error e, s) => (0x06, e, s)
      | (.ok v, s) =>
        let s := s.swWrite w (swSet v st 1 0)
        let l := bits v 37 23
        let at_ := s.tableBase + 8 * l
        let more := decide (first ≤ l ∧ l < first + count) && bits (s.mem.readLE at_ 8) 0 2 == 0 && !s.hasUe at_ 8
        (0, w, s.setHead b n (if more then l else w) (!more))

/-- Links a swatch whose REFS fell to 0 at the head of its segment's free list (R148); the last entry of a list links to itself (DESIGN CHOICE, log
entry 36). -/
def State.pushFree (s : State) (w v : Nat) : State :=
  let b := bits v 32 4
  match s.swtStk b with
  | none => s.swWrite w (swSet v 0 0 (swFill v))
  | some k =>
    match s.segOf k w with
    | none => s.swWrite w (swSet v 0 0 (swFill v))
    | some n =>
      let l := if s.b k (F.SWT_SEG_FREE_EMPTY n) then w else s.r k (F.SWT_SEG_FREE_HEAD n)
      let v := swSet v 0 0 (swFill v)
      (s.swWrite w (v % 2 ^ 37 + l * 2 ^ 37 + v / 2 ^ 60 * 2 ^ 60)).setHead b n w false

/-- A table message as one indivisible step (R147, R210, R211): status and result. -/
def State.tableMsg (s : State) (b : Nat) (m : TableMsg) : Nat × Nat × State :=
  let edit (s : State) (w : Nat) (f : Nat → Nat) : Nat × Nat × State :=
    match s.swRead w with
    | (.error e, s) => (0x06, e, s)
    | (.ok v, s) => (0, w, s.swWrite w (f v))
  match m with
  | .take n => s.popFree b n.val 1
  | .cow n w =>
    (match s.swRead w with
    | (.error e, s) => (0x06, e, s)
    | (.ok v, s) =>
      if swRefs v ≤ 1 then (0, w, s)
      else match s.popFree b n.val 2 with
        | (0, w', s) => (0, w', s.swWrite w (swSet v (swState v) (swRefs v - 1) (swFill v)))
        | r => r)
  | .cowDone w fill => edit s w fun v => swSet v 1 1 fill
  | .fill w fill => edit s w fun v => swSet v (swState v) (swRefs v) fill

/-- TABLE sub-operations (Table 7.4): status and RESULT. A release of an entry in use whose REFS is already 0 frees its swatch, as one that reaches 0 does
(DESIGN CHOICE, log entry 109). -/
def State.tableOp (s : State) (sub a : Nat) : Nat × Nat × State :=
  if sub = 0 then s.popFree (bits a 4 4) (bits a 0 4) 1
  else match s.swRead a with
    | (.error e, s) => (0x06, e, s)
    | (.ok v, s) =>
      if swState v ≠ 1 then (0x0C, 0, s)
      else if sub = 1 then
        if swRefs v = 65535 then (0x0B, 0, s) else (0, swRefs v + 1, s.swWrite a (swSet v 1 (swRefs v + 1) (swFill v)))
      else
        let r := swRefs v - 1
        if r = 0 then (0, 0, s.pushFree a v) else (0, r, s.swWrite a (swSet v 1 r (swFill v)))

/-! ### The prefix tree (R149 to R151, R209, R212) -/

def ndTag (v : Nat) : Nat := bits v 0 45
def ndState (v : Nat) : Nat := bits v 45 2
def ndRefs (v : Nat) : Nat := bits v 47 16
def ndSet (v st refs : Nat) : Nat := v / 2 ^ 63 * 2 ^ 63 + ndTag v + st * 2 ^ 45 + refs * 2 ^ 47

/-- PROBE and INSERT on the nodes of a bucket (R151): the answer, and the slot claimed. -/
def hashFind (nodes : List Nat) (bucket tag : Nat) (ins : Bool) : Nat × Option Nat :=
  let hit (p : Nat → Bool) : Option Nat := nodes.findIdx? fun v => ndTag v == tag && p (ndState v)
  if ins then
    match hit (fun st => st != 0) with
    | some i => (bucket * 8 + i, none)
    | none => match nodes.findIdx? fun v => ndState v == 0 with
      | some i => (bucket * 8 + i, some i)
      | none => (0xFFFFFFFE, none)
  else match hit (fun st => st == 2) with
    | some i => (bucket * 8 + i, none)
    | none => if (hit fun st => st == 1).isSome then (0xFFFFFFFD, none) else (0xFFFFFFFF, none)

/-- PUBLISH, REF_INC, REF_DEC and EVICT on a node (Table 7.4): status, RESULT, the node's new value. -/
def nodeOp (sub x v : Nat) : Nat × Nat × Nat :=
  match sub with
  | 2 => if ndState v = 1 then (0, x, ndSet v 2 (ndRefs v)) else (0x0C, 0, v)
  | 3 => if ndState v ≠ 2 then (0x0C, 0, v) else if ndRefs v = 65535 then (0x0B, 0, v) else (0, ndRefs v + 1, ndSet v 2 (ndRefs v + 1))
  | 4 => if ndState v = 2 ∧ 0 < ndRefs v then (0, ndRefs v - 1, ndSet v 2 (ndRefs v - 1)) else (0x0C, 0, v)
  | _ => if ndState v = 2 ∧ ndRefs v = 0 then (0, x, ndSet v 0 0) else (0x0C, 0, v)

/-- A HASH operation as one step on its bucket line: status, RESULT (or the failing line). -/
def State.hashOp (s : State) (k r b : Nat) (d : BitVec 512) : Nat × Nat × State :=
  match s.swtStk b with
  | none => (0x0D, 0, s)
  | some q =>
    let base := s.treeBase q % edgeBytes
    let sub := nSub d % 128
    if sub ≤ 1 then
      let salt := leBytes 8 (s.r2 q F.SWT_SALT_LO_SALT F.SWT_SALT_HI_SALT)
      match (if keyed d then (match s.nbuRead k (nSrc d) (nLen d) with
        | (.ok l, s) => (Except.ok (fnv (salt ++ l)), s)
        | (.error e, s) => (.error e, s)) else (Except.ok (nArg3 d), s)) with
      | (.error e, s) => (0x06, e, s)
      | (.ok h, s) =>
        let bucket := h % 2 ^ 19
        match s.nbuRead k (base + 64 * bucket) 64 with
        | (.error e, s) => (0x06, e, s)
        | (.ok l, s) =>
          let nodes := (List.range 8).map fun i => leNat ((l.drop (8 * i)).take 8)
          match hashFind nodes bucket (h / 2 ^ 19) (sub == 1) with
          | (res, none) => (0, res, s)
          | (res, some i) => (0, res, (s.nbuPut k r (base + 64 * bucket + 8 * i) (leBytes 8 (h / 2 ^ 19 + 2 ^ 45))).2)
    else
      let x := nArg1 d
      match s.nbuRead k (base + 8 * x) 8 with
      | (.error e, s) => (0x06, e, s)
      | (.ok l, s) =>
        match nodeOp sub x (leNat l) with
        | (0, res, v) => (0, res, (s.nbuPut k r (base + 8 * x) (leBytes 8 v)).2)
        | (st, _, _) => (st, 0, s)

end Sys2Proof.Machine
end

