-- ==== Sys2Proof/Machine/Nbu.lean ====
section
/-! DEFINITION. The near-bank units' commands (chapter 7): doorbells, the fetch of each operation, table messages, steps, and accesses that meet
a claim. -/
namespace Sys2Proof.Machine

/-- The units run: no device-level reset, no global stop (R462). -/
def State.nbuLive (s : State) (k : Nat) : Bool := s.rst.level == 0 && !s.trace.stopped && !(s.nbu k).failed && !s.nbuHeld k

/-! ### Doorbells (R193) -/

/-- A write of bytes 0 to 3 of a ring's header line. -/
def execNbuDoorbell (e : Fin 12) (u : Fin 32) (r : Fin 4) (val : Word) (s : State) : Result :=
  let off := s.r (.nbu (nbuNo e.val u.val)) (F.NBU_RING_BASE_BASE r.val) * 64
  .next (if edgeBytes < off + 64 then s else s.storeEach (e.val * edgeBytes + off) (leBytes 4 val.toNat))

/-! ### Swatch lists in an append (R144, R211) -/

/-- The list entry as read: its swatch, when it is valid under R144 and lies in this stack's segment (R211). -/
def State.apEntry (s : State) (k : Nat) (q' : Blk) (d : BitVec 512) (e : Nat) : Option (Nat × Nat) × State :=
  match s.nbuRead k (nAux d + 4 * e) 4 with
  | (.error _, s) => (none, s)
  | (.ok l, s) =>
    let v := leNat l
    let w := bits v 0 23
    if !bit v 31 || bits v 23 8 != 0 || s.segOf q' w != some (k / 32) then (none, s)
    else match s.swRead w with
      | (.error _, s) => (none, s)
      | (.ok x, s) => if swState x = 1 then (some (w, x), s) else (none, s)

/-! ### Starting an operation (R194, R198, R200, R207) -/

/-- The first list line that reads uncorrectable, or the first index out of range: status and failing line. -/
def State.gsCheck (s : State) (k : Nat) (d : BitVec 512) : Option (Nat × Nat) × State :=
  match s.nbuRead k (nAux d) (4 * nArg0 d) with
  | (.error e, s) => (some (0x06, e), s)
  | (.ok _, s) =>
    let base := if nOp d = 6 then nSrc d else nDst d
    match (s.gsIdx k d).findSome? fun i =>
      if 2 ^ 37 / gsElem d < i + 1 then some 0x07 else if edgeBytes < base + (i + 1) * gsElem d then some 0x03 else none with
    | some st => (some (st, 0), s)
    | none => (none, s)

/-- Which status the checks of a fetched descriptor end with (R198, R207, R209), in the order of Table 7.3 (DEDUCED, log entry 38). -/
def State.nbuCheck (s : State) (k r : Nat) (d : BitVec 512) : Nat × Nat × State :=
  if nReserved d then (0x01, 0, s)
  else if nBadFormat d then (0x02, 0, s)
  else if nMisaligned d then (0x03, 0, s)
  else if nOverlap d then (0x04, 0, s)
  else
    let gs := nOp d = 6 ∨ nOp d = 7
    match (if gs then s.gsCheck k d else (none, s)) with
    | (some (st, f), s) => (st, f, s)
    | (none, s) =>
      let claims := s.nbuClaims k r d
      if (claims ++ if nOp d = 1 then s.apList d else []).any fun w => edgeBytes < w.1 + w.2 then (0x03, 0, s)
      else if !nRetag d && tagMet (s.tagTable (k / 32)) claims then (0x05, 0, s)
      else if nOp d = 0x0A ∧ nSub d ≠ 0 ∧ 8388607 < nArg1 d then (0x07, 0, s)
      else if nOp d = 0x0A ∧ k ≠ s.tableUnit then (0x0D, 0, s)
      else if nOp d = 8 ∧ (k % 32 ≠ 1 ∨ (s.treeBolt k r d).isNone) then (0x0D, 0, s)
      else (0, 0, s)

/-- An operation done in one step (TABLE, HASH) ends, after the tags of the lines it may have written where it has RETAG (R208). -/
def State.nbuOnce (s : State) (k : Nat) (o : NbuOp) (claims : List (Nat × Nat)) (a : Nat × Nat × State) : State :=
  match a with
  | (0x06, e, s) => s.nbuEnd k o 0x06 e
  | (st, v, s') =>
    let o := { o with result := v }
    if nRetag o.desc ∧ st = 0 then
      match s'.retag k o.ring o.tags (claims.filter fun r => s.mem.readN (k / 32 * edgeBytes + r.1) r.2 != s'.mem.readN (k / 32 * edgeBytes + r.1) r.2) with
      | (some f, tagged, s') => s'.nbuEnd k { o with retagged := tagged } 0x06 f
      | (none, tagged, s') => s'.nbuEnd k { o with retagged := tagged } st 0
    else s'.nbuEnd k o st 0

/-- An operation of ring r as its descriptor is fetched (R194, R206): it has done nothing yet. -/
def State.nbuOp (s : State) (k r : Nat) (d : BitVec 512) : NbuOp :=
  ⟨r, d, 0, 0, 0, [], false, false, [], [], [], s.tagTable (k / 32), [], [], none⟩

/-- The destination line of line l of a SCATTER, where its indices are `idx` (R197). -/
def scatterDst (d : BitVec 512) (idx : List Nat) (l : Nat) : Nat :=
  let e := gsElem d
  nDst d + idx.getD (64 * l / e) 0 * e + 64 * l % e

/-- A line placed behind the lines whose destination is not after its own. -/
def putOrder (f : Nat → Nat) (l : Nat) : List Nat → List Nat
  | [] => [l]
  | x :: xs => if f x ≤ f l then x :: putOrder f l xs else l :: x :: xs

/-- Lines of a copying operation's destination. -/
def nLines (d : BitVec 512) : Nat := (if nOp d = 6 ∨ nOp d = 7 then nArg0 d * gsElem d else nLen d) / 64

/-- The order in which a SCATTER with RETAG goes through its lines: by destination, so that one step can write the whole of a tag line (R201, R208;
DESIGN CHOICE, log entry 122). Every other operation goes from its first line to its last. -/
def scatterOrder (d : BitVec 512) (idx : List Nat) : List Nat :=
  if nOp d = 7 ∧ nRetag d then (List.range (nLines d)).foldl (fun l x => putOrder (scatterDst d idx) x l) [] else []

/-- The operation that starts: its claim, what it reads, and the indices as its fetch has read them (R200, R202; the indices of a list that changes
later count as they were: DESIGN CHOICE, log entry 122). -/
def State.nbuBegin (s : State) (k r : Nat) (d : BitVec 512) : NbuOp :=
  let idx := if nOp d = 6 ∨ nOp d = 7 then s.gsIdx k d else []
  { s.nbuOp k r d with
      claims := s.nbuClaims k r d, reads := s.nbuReads k r d, tbl := if nOp d = 1 then s.apTable k d else [],
      idx := idx, order := scatterOrder d idx, result := if nOp d = 9 ∧ nSub d ≤ 1 then nArg3 d else 0 }

/-- Fetches the ring's next descriptor where it is of the row, and starts it: refused with its status, performed at once as one step (TABLE,
HASH; R210, R212), or running with its claim. Not while a request that came before its doorbell waits (R203). -/
def State.nbuFetch (s : State) (k r row : Nat) : State :=
  let b := Blk.nbu k
  let cons := s.r b (F.NBU_RING_PTR_CONS r)
  if !s.nbuLive k || !s.b b (F.NBU_RING_CFG_EN r) || !s.ringFits k r || s.r b (F.NBU_RING_PTR_PROD r) == cons
      || ((s.nbu k).ops.get none r).isSome || s.barredBy k r then s
  else
    let slots := s.r b (F.NBU_RING_CFG_SLOTS_M1 r) + 1
    let off := s.r b (F.NBU_RING_BASE_BASE r) * 64 + 64 * (1 + cons % slots)
    match s.nbuRead k off 64 with
    | (.error e, s) => s.nbuEnd k (s.nbuOp k r 0) 0x06 e
    | (.ok l, s') =>
      let d := BitVec.ofNat 512 (leNat l)
      if nRow d ≠ none ∧ nRow d ≠ some row then s
      else
        let s := s'.w b F.NBU_STATUS_RING r
        match s.nbuCheck k r d with
        | (st + 1, f, s) => s.nbuEnd k (s.nbuOp k r d) (st + 1) f
        | (0, _, s) =>
          if nOp d = 0x0A then s.nbuOnce k (s.nbuOp k r d) (s.lineWrites k r d) (s.tableOp (nSub d) (nArg1 d))
          else if nOp d = 8 then s.nbuOnce k (s.nbuOp k r d) (s.lineWrites k r d) (s.hashOp k r ((s.treeBolt k r d).getD 0) d)
          else s.nbuKeep k (s.nbuBegin k r d)

def execNbuAppend (e : Fin 12) (u : Fin 32) (r : Fin 4) (s : State) : Result := .next (s.nbuFetch (nbuNo e.val u.val) r.val 0x10)
def execNbuCopy (e : Fin 12) (u : Fin 32) (r : Fin 4) (s : State) : Result := .next (s.nbuFetch (nbuNo e.val u.val) r.val 0x20)
def execNbuFill (e : Fin 12) (u : Fin 32) (r : Fin 4) (s : State) : Result := .next (s.nbuFetch (nbuNo e.val u.val) r.val 0x30)
def execNbuAxpy (e : Fin 12) (u : Fin 32) (r : Fin 4) (s : State) : Result := .next (s.nbuFetch (nbuNo e.val u.val) r.val 0x40)
def execNbuReduce (e : Fin 12) (u : Fin 32) (r : Fin 4) (s : State) : Result := .next (s.nbuFetch (nbuNo e.val u.val) r.val 0x50)
def execNbuGather (e : Fin 12) (u : Fin 32) (r : Fin 4) (s : State) : Result := .next (s.nbuFetch (nbuNo e.val u.val) r.val 0x60)
def execNbuScatter (e : Fin 12) (u : Fin 32) (r : Fin 4) (s : State) : Result := .next (s.nbuFetch (nbuNo e.val u.val) r.val 0x70)
def execProbe (e : Fin 12) (u : Fin 32) (r : Fin 4) (s : State) : Result := .next (s.nbuFetch (nbuNo e.val u.val) r.val 0x80)
def execInsert (e : Fin 12) (u : Fin 32) (r : Fin 4) (s : State) : Result := .next (s.nbuFetch (nbuNo e.val u.val) r.val 0x81)
def execPublish (e : Fin 12) (u : Fin 32) (r : Fin 4) (s : State) : Result := .next (s.nbuFetch (nbuNo e.val u.val) r.val 0x82)
def execHashRefInc (e : Fin 12) (u : Fin 32) (r : Fin 4) (s : State) : Result := .next (s.nbuFetch (nbuNo e.val u.val) r.val 0x83)
def execRefDec (e : Fin 12) (u : Fin 32) (r : Fin 4) (s : State) : Result := .next (s.nbuFetch (nbuNo e.val u.val) r.val 0x84)
def execEvict (e : Fin 12) (u : Fin 32) (r : Fin 4) (s : State) : Result := .next (s.nbuFetch (nbuNo e.val u.val) r.val 0x85)
def execNbuCheckCrc32c (e : Fin 12) (u : Fin 32) (r : Fin 4) (s : State) : Result := .next (s.nbuFetch (nbuNo e.val u.val) r.val 0x90)
def execNbuCheckCrc64 (e : Fin 12) (u : Fin 32) (r : Fin 4) (s : State) : Result := .next (s.nbuFetch (nbuNo e.val u.val) r.val 0x91)
def execNbuCheckHostTag (e : Fin 12) (u : Fin 32) (r : Fin 4) (s : State) : Result := .next (s.nbuFetch (nbuNo e.val u.val) r.val 0x92)
def execTake (e : Fin 12) (u : Fin 32) (r : Fin 4) (s : State) : Result := .next (s.nbuFetch (nbuNo e.val u.val) r.val 0xA0)
def execTableRefInc (e : Fin 12) (u : Fin 32) (r : Fin 4) (s : State) : Result := .next (s.nbuFetch (nbuNo e.val u.val) r.val 0xA1)
def execRelease (e : Fin 12) (u : Fin 32) (r : Fin 4) (s : State) : Result := .next (s.nbuFetch (nbuNo e.val u.val) r.val 0xA2)

/-- Unit 0 of the table stack performs a message and replies (R210). -/
def execTableMessage (b : Fin 12) (m : TableMsg) (s : State) : Result :=
  .next (if !s.nbuLive s.tableUnit then s
    else match s.tableMsg b.val m with
      | (st, v, s) => s.send (.tableReply st v))

/-! ### Steps (R195, R208) -/

/-- What a step of an operation leaves: the operation, the runs it wrote, and the status and failing line when it has ended. -/
structure StepOut where
  op   : NbuOp
  runs : List (Nat × Nat)
  done : Option (Nat × Nat)

/-- The line to read and the line to write for the l-th line that a copying operation goes through (R197). -/
def NbuOp.line (o : NbuOp) (l : Nat) : Option Nat × Nat :=
  let d := o.desc
  let e := gsElem d
  match nOp d with
  | 2 => (some (nSrc d + 64 * l), nDst d + 64 * l)
  | 4 => (some (nSrc d + 64 * l), nDst d + 64 * l)
  | 6 => (some (nSrc d + o.idx.getD (64 * l / e) 0 * e + 64 * l % e), nDst d + 64 * l)
  | 7 => let l := o.order.getD l l
    (some (nSrc d + 64 * l), scatterDst d o.idx l)
  | _ => (none, nDst d + 64 * l)

/-- y := convert(round_rne(α x + y)), element by element of a line (Table 7.2). -/
def axpyLine (d : BitVec 512) (x y : List (BitVec 8)) : List (BitVec 8) :=
  let f := nSfmt d
  let val (l : List (BitVec 8)) (i : Nat) : BitVec 32 := enc32 (elemVal f false (elemAt f (leNat l) i))
  packElems f ((List.range (512 / elemBits f)).map fun i =>
    (convAny f .rne true false (dec32 (ffma (BitVec.ofNat 32 (nArg0 d)) (val x i) (val y i)))).bits)

/-- A later element of a SCATTER has the index of the element of the l-th line it goes through, whose line is the one that prevails and the only one
written (R197, R201). -/
def NbuOp.laterIndex (o : NbuOp) (l : Nat) : Bool :=
  nOp o.desc == 7 && (match o.idx.drop (64 * o.order.getD l l / gsElem o.desc) with
    | [] => false
    | i :: rest => rest.contains i)

/-- `n` further lines of COPY, FILL, AXPY, GATHER or SCATTER. -/
def State.lineSteps (s : State) (k : Nat) : Nat → StepOut → StepOut × State
  | 0, o => (o, s)
  | n + 1, o =>
    let d := o.op.desc
    if o.done.isSome then (o, s)
    else if o.op.taken = nLines d then ({ o with done := some (0, 0) }, s)
    else
      let (src, dst) := o.op.line o.op.taken
      let got := match src with
        | none => (Except.ok (List.replicate 8 (leBytes 8 (nArg3 d))).flatten, s)
        | some a => s.nbuRead k a 64
      match got with
      | (.error e, s) => ({ o with done := some (0x06, e) }, s)
      | (.ok x, s) =>
        let got := if nOp d = 4 then (match s.nbuRead k dst 64 with
            | (.ok y, s) => (Except.ok (axpyLine d x y), s)
            | (.error e, s) => (.error e, s)) else (Except.ok x, s)
        match got with
        | (.error e, s) => ({ o with done := some (0x06, e) }, s)
        | (.ok v, s) =>
          let s := if o.op.laterIndex o.op.taken then s else (s.nbuPut k o.op.ring dst v).2
          let op := { o.op with taken := o.op.taken + 1, prog := o.op.prog + 64 }
          s.lineSteps k n { op := op, runs := (dst, 64) :: o.runs, done := if op.taken = nLines d then some (0, 0) else none }

/-- `n` further lines of a REDUCE: the canonical tree over element indices (R42). -/
def State.reduceSteps (s : State) (k : Nat) : Nat → StepOut → StepOut × State
  | 0, o => (o, s)
  | n + 1, o =>
    let d := o.op.desc
    if o.done.isSome then (o, s)
    else if o.op.taken * 64 = nLen d then
      ({ o with op := { o.op with result := (treeFold o.op.stk).toNat }, done := some (0, 0) }, s)
    else match s.nbuRead k (nSrc d + 64 * o.op.taken) 64 with
      | (.error e, s) => ({ o with done := some (0x06, e) }, s)
      | (.ok l, s) =>
        let f := nSfmt d
        let st := (List.range (512 / elemBits f)).foldl (fun st i => treePush st (enc32 (elemVal f false (elemAt f (leNat l) i))) 0) o.op.stk
        let op := { o.op with taken := o.op.taken + 1, stk := st }
        if op.taken * 64 = nLen d then ({ o with op := { op with result := (treeFold st).toNat }, done := some (0, 0) }, s)
        else s.reduceSteps k n { o with op := op }

/-- `n` further lines of CHECK 0 and 1, or blocks of CHECK 2. -/
def State.checkSteps (s : State) (k : Nat) : Nat → StepOut → StepOut × State
  | 0, o => (o, s)
  | n + 1, o =>
    let d := o.op.desc
    if o.done.isSome then (o, s)
    else if o.op.taken = nLen d then ({ o with done := some (0, 0) }, s)
    else
      let a := nSrc d + o.op.taken
      let m := if nSub d = 2 then 512 else min (64 - a % 64) (nLen d - o.op.taken)
      match s.nbuRead k a m with
      | (.error e, s) => ({ o with done := some (0x06, e) }, s)
      | (.ok l, s) =>
        let fin (op : NbuOp) : Option (Nat × Nat) := if op.taken = nLen d then some (0, 0) else none
        if nSub d = 2 then
          let dst := nDst d + o.op.taken / 512 * 8
          match s.nbuPut k o.op.ring dst (leBytes 8 (crcTag 0 l)) with
          | (some e, s) => ({ o with done := some (0x06, e) }, s)
          | (none, s) =>
            let op := { o.op with taken := o.op.taken + 512, prog := o.op.prog + 8 }
            s.checkSteps k n { op := op, runs := (dst, 8) :: o.runs, done := fin op }
        else
          let op := { o.op with taken := o.op.taken + m, result := crcAlg (nSub d) o.op.result l }
          s.checkSteps k n { o with op := op, done := fin op }

/-! ### Steps of an APPEND (R146, R147, R211) -/

/-- The quantised bytes and scales of a source row (R109, R146). -/
def apQuant (d : BitVec 512) (row : List (BitVec 8)) : List (BitVec 8) × List (BitVec 8) :=
  let vs := (List.range (apDim d)).map fun i => enc32 (elemVal (nSfmt d) false (elemAt (nSfmt d) (leNat row) i))
  let scs := (List.range (apSc d)).map fun j => newScale (nDfmt d) ((vs.drop (32 * j)).take 32)
  (packElems (nDfmt d) (vs.mapIdx fun c v => (convScaled (nDfmt d) (scs.getD (c / 32) 0) .rne v).bits), scs.map (BitVec.ofNat 8))

/-- The quantised rows of up to `m` positions from source position `i` on: keys, values and their scales; the failing line. -/
def State.apRead (s : State) (k : Nat) (d : BitVec 512) : Nat → Nat → List (List (List (BitVec 8))) × Option Nat × State
  | 0, _ => ([], none, s)
  | m + 1, i =>
    let rb := apRowBytes d
    match s.nbuRead k (nSrc d + i * rb) rb with
    | (.error e, s) => ([], some e, s)
    | (.ok kr, s) =>
      match s.nbuRead k (nSrc d + (apCount d + i) * rb) rb with
      | (.error e, s) => ([], some e, s)
      | (.ok vr, s) =>
        let (kq, ks) := apQuant d kr
        let (vq, vs) := apQuant d vr
        match s.apRead k d m (i + 1) with
        | (rows, e, s) => ([kq, vq, ks, vs] :: rows, e, s)

/-- The line in which a run begins or ends, where only a part of it is the run's and it reads uncorrectable. -/
def State.endUe (s : State) (k off n : Nat) : Option Nat :=
  let bad (o : Nat) : Option Nat := if s.verdict (k / 32 * edgeBytes + o / 64 * 64) == .ue then some (o / 64 * 64) else none
  if off % 64 ≠ 0 ∧ (bad off).isSome then bad off
  else if (off + n) % 64 ≠ 0 then bad (off + n - 1) else none

/-- The most positions, at most `c` from `q` on, whose runs neither begin nor end in a line that cannot be merged, and that line where there are
fewer: whole lines are replaced, so that no other line matters (R204). A copied swatch's runs begin with position 0. -/
def State.apFit (s : State) (k : Nat) (q' : Blk) (d : BitVec 512) (w tps q : Nat) (copy : Bool) : Nat → Nat × Option Nat
  | 0 => (0, none)
  | c + 1 =>
    match (s.apRuns q' d (k / 32) w tps (if copy then 0 else q) (if copy then q + (c + 1) else c + 1)).findSome? fun x => s.endUe k x.1 x.2 with
    | none => (c + 1, none)
    | some f => ((s.apFit k q' d w tps q copy c).1, some f)

/-- The pieces, one a line, of a run of `c` units of `u` bytes from unit q on whose unit 0 lies at `dst`: units before q are copied from the run at
`old`, where there is one; the rest are `new`. -/
def runPieces (dst : Nat) (old : Option Nat) (u q c : Nat) (new : List (BitVec 8)) : List Piece :=
  let b0 := if old.isSome then 0 else q * u
  let b1 := (q + c) * u
  if b1 ≤ b0 then []
  else (List.range ((b1 - 1) / 64 + 1 - b0 / 64)).map fun i =>
    let lo := max b0 (64 * (b0 / 64 + i))
    let hi := min b1 (64 * (b0 / 64 + i) + 64)
    ⟨dst + lo, old.getD 0 + lo, min hi (q * u) - lo, (new.drop (max lo (q * u) - q * u)).take (hi - max lo (q * u))⟩

/-- The pieces of swatch w with the given rows from position q on, and with the positions before it from swatch `old` (R141, R147). -/
def State.swPieces (s : State) (k : Nat) (q' : Blk) (d : BitVec 512) (tps w : Nat) (old : Option Nat) (q : Nat)
    (rows : List (List (List (BitVec 8)))) : List Piece :=
  let at_ (w : Nat) : List Nat := (s.apRuns q' d (k / 32) w tps 0 0).map (·.1)
  ((at_ w).zipIdx).flatMap fun (a, j) =>
    runPieces a (old.map fun w => (at_ w).getD j 0) (if j < 2 then apRb d else apSc d) q rows.length (rows.flatMap fun x => x.getD j [])

/-- Positions whose scales fill a line: a part of an append ends where such a group ends, so that no line is written in two parts (R201). -/
def apPer (d : BitVec 512) : Nat := 64 / apSc d

/-- An operation that claims further runs (R200). -/
def NbuOp.claimMore (o : NbuOp) (runs : List (Nat × Nat)) : NbuOp :=
  { o with claims := o.claims ++ (runs ++ if nRetag o.desc then tagRuns o.tags runs else []).filter fun r => !o.claims.contains r }

/-- Why an operation may not write runs that it finds only as it goes: they meet a tagged region without RETAG (R207), or their tags would lie beyond
the stack (R191, R198). -/
def State.apBar (s : State) (k : Nat) (o : NbuOp) (runs : List (Nat × Nat)) : Option Nat :=
  if !nRetag o.desc && tagMet (s.tagTable (k / 32)) runs then some 0x05
  else if nRetag o.desc && (tagRuns o.tags runs).any fun r => edgeBytes < r.1 + r.2 then some 0x03
  else none

/-- A new swatch for entry e of an append, for `m` positions: its number, or the status and failing line; `shared` is the swatch to be copied, if it is
for one (R147, R211). The operation claims it. -/
def State.apNew (s : State) (k : Nat) (q' : Blk) (o : NbuOp) (tps e m : Nat) (shared : Option Nat) : Except (Nat × Nat) (Nat × NbuOp) × State :=
  let runs (w : Nat) : List (Nat × Nat) := (nAux o.desc + 4 * e, 4) :: s.apRuns q' o.desc (k / 32) w tps 0 m
  match ((s.freeHeads q' (k / 32) 1).head?).bind fun w => s.apBar k o (runs w) with
  | some st => (.error (st, 0), s)
  | none =>
    match s.tableMsg (apBolt o.desc) (shared.elim (.take (Fin.ofNat 12 (k / 32))) (.cow (Fin.ofNat 12 (k / 32)))) with
    | (0, w, s) => (.ok (w, { o.claimMore (runs w) with tbl := o.tbl ++ [s.tableBase + 8 * w] }), s)
    | (st, f, s) => (.error (st, if st = 0x06 then f else 0), s)

/-- The list entry of an append written: VALID with its swatch. -/
def State.apName (s : State) (k r : Nat) (d : BitVec 512) (l : List (Nat × Nat)) : Option Nat × State :=
  match l with
  | [] => (none, s)
  | x :: _ => s.nbuPut k r (nAux d + 4 * x.1) (l.flatMap fun y => leBytes 4 (y.2 + 2 ^ 31))

/-- The swatch with which an append goes on at position q of entry e, and the one it has to copy into it; or why it stops (R147, R211). -/
def State.apSwatch (s : State) (k : Nat) (q' : Blk) (o : NbuOp) (tps e q left : Nat) : Except (Nat × Nat) (Nat × Option Nat × NbuOp) × State :=
  if q = 0 then
    match s.apNew k q' o tps e (min left tps) none with
    | (.ok (w, o), s) => (.ok (w, none, o), s)
    | (.error x, s) => (.error x, s)
  else
    match s.apEntry k q' o.desc e with
    | (none, s) => (.error (0x0A, 0), s)
    | (some (w, x), s) =>
      if swFill x ≠ q then (.error (0x08, 0), s)
      else
        let o := { o with tbl := o.tbl ++ [s.tableBase + 8 * w] }
        let here := s.apRuns q' o.desc (k / 32) w tps q (min left (tps - q))
        if s.apShared q' w then
          let o := { o with reads := o.reads ++ s.apRuns q' o.desc (k / 32) w tps 0 q }
          match s.apNew k q' o tps e (min (q + left) tps) (some w) with
          | (.ok (w', o), s) => (.ok (w', if w' = w then none else some w, o), s)
          | (.error x, s) => (.error x, s)
        else match s.apBar k o here with
          | some st => (.error (st, 0), s)
          | none => (.ok (w, none, o.claimMore here), s)

/-- An append begins its next part: the positions of one group; or, where lines or tags would otherwise be written twice, all that are left: with
RETAG, and where it copies one swatch and goes on in another, whose list entries can lie in one line (R201, R208; DEDUCED, log entry 123). It reads
the rows, as far as they can be read, takes the swatches and names those it has only to fill. Answers the runs written. -/
def State.apBegin (s : State) (k : Nat) (q' : Blk) (o : NbuOp) : Except (Nat × Nat) (NbuOp × List (Nat × Nat)) × State :=
  let d := o.desc
  let tps := s.apTps d
  let (e, q) := apPlace tps (nArg1 d + o.taken)
  let left := apCount d - o.taken
  match s.apSwatch k q' o tps e q left with
  | (.error x, s) => (.error x, s)
  | (.ok (w, old, o), s) =>
    let all := nRetag d || (old.isSome && decide (tps - q < left))
    let m := min left (if all then tps - q else min (apPer d - q % apPer d) (tps - q))
    let (rows, ue, s) := s.apRead k d m o.taken
    let (c, f) := s.apFit k q' d w tps q old.isSome rows.length
    let stop := (f.or ue).map fun f => (0x06, f)
    let p1 := s.swPieces k q' d tps w old q (rows.take c)
    let one : ApPart := ⟨[(e, w, q, c)], old.isSome, if old.isSome ∨ q = 0 then [(e, w)] else [], p1, stop⟩
    let (part, o, s) :=
      if !all || stop.isSome || left ≤ m then (one, o, s)
      else match s.apNew k q' o tps (e + 1) (left - m) none with
        | (.error x, s) => ({ one with stop := some x }, o, s)
        | (.ok (w2, o), s) =>
          let (rows2, ue2, s) := s.apRead k d (left - m) (o.taken + m)
          let (c2, f2) := s.apFit k q' d w2 tps 0 false rows2.length
          ({ one with swts := one.swts ++ [(e + 1, w2, 0, c2)], names := one.names ++ [(e + 1, w2)],
                      pieces := p1 ++ s.swPieces k q' d tps w2 none 0 (rows2.take c2), stop := (f2.or ue2).map fun f => (0x06, f) }, o, s)
    if part.cow then (.ok ({ o with part := some part }, []), s)
    else match s.apName k o.ring d part.names with
      | (some f, s) => (.error (0x06, f), s)
      | (none, s) => (.ok ({ o with part := some { part with names := [] } }, part.names.map fun x => (nAux d + 4 * x.1, 4)), s)

/-- Up to `n` pieces written: those left, the runs written, the failing line. -/
def State.putPieces (s : State) (k r : Nat) : Nat → List Piece → List (Nat × Nat) → List Piece × List (Nat × Nat) × Option Nat × State
  | 0, l, runs => (l, runs, none, s)
  | _, [], runs => ([], runs, none, s)
  | n + 1, x :: l, runs =>
    match (if x.copy = 0 then (Except.ok [], s) else s.nbuRead k x.src x.copy) with
    | (.error e, s) => (x :: l, runs, some e, s)
    | (.ok old, s) =>
      match s.nbuPut k r x.dst (old ++ x.data) with
      | (some e, s) => (x :: l, runs, some e, s)
      | (none, s) => s.putPieces k r n l ((x.dst, x.copy + x.data.length) :: runs)

/-- FILL of each swatch of a part raised to the positions it now holds (R211 step 5): the status and the failing line. -/
def State.apFill (s : State) (b : Nat) (l : List (Nat × Nat × Nat × Nat)) : Nat × Nat × State :=
  l.foldl (fun acc x =>
    match acc with
    | (0, f, s) => if x.2.2.2 = 0 then (0, f, s) else s.tableMsg b (.fill x.2.1 (x.2.2.1 + x.2.2.2))
    | a => a) (0, 0, s)

/-- A part is written: the table ends a copy, the list names what it has not named, and FILL follows (R147, R211). -/
def State.apEnd (s : State) (k : Nat) (o : NbuOp) (p : ApPart) (runs : List (Nat × Nat)) : StepOut × State :=
  let d := o.desc
  let quit (s : State) (runs : List (Nat × Nat)) (st f : Nat) : StepOut × State := (⟨o, runs, some (st, if st = 0x06 then f else 0)⟩, s)
  match (if p.cow then p.swts.head?.elim (0, 0, s) fun x => s.tableMsg (apBolt d) (.cowDone x.2.1 x.2.2.1) else (0, 0, s)) with
  | (0, _, s) =>
    (match s.apName k o.ring d p.names with
    | (some f, s) => quit s runs 0x06 f
    | (none, s) =>
      let runs := p.names.map (fun x => (nAux d + 4 * x.1, 4)) ++ runs
      match s.apFill (apBolt d) p.swts with
      | (0, _, s) =>
        let c := (p.swts.map fun x => x.2.2.2).sum
        let o := { o with taken := o.taken + c, result := o.taken + c, part := none, prog := o.prog + c * 2 * (apRb d + apSc d) }
        (⟨o, runs, if p.stop.isSome then p.stop else if o.taken = apCount d then some (0, 0) else none⟩, s)
      | (st, f, s) => quit s runs st f)
  | (st, f, s) => quit s runs st f

/-- With RETAG, a step that works on `n` lines, the i-th at `at_ i`, goes on to the end of the tag line that the last of them belongs to (R201, R208). -/
def tagCut (tags : List (ERange × Nat)) (at_ : Nat → Option Nat) : Nat → Nat → Nat
  | 0, n => n
  | fuel + 1, n =>
    let t (i : Nat) : Option Nat := (at_ i).bind (tagLine tags)
    if (t (n - 1)).isSome && t (n - 1) == t n then tagCut tags at_ fuel (n + 1) else n

/-- A step of an APPEND (R211): up to `n` lines of the part under way, or of the next. -/
def State.apStep (s : State) (k n : Nat) (op : NbuOp) : StepOut × State :=
  match s.swtStk (apBolt op.desc) with
  | none => (⟨op, [], some (0x0A, 0)⟩, s)
  | some q' =>
    match (if op.part.isSome then (Except.ok (op, []), s) else s.apBegin k q' op) with
    | (.error x, s) => (⟨op, [], some x⟩, s)
    | (.ok (op, runs), s) =>
      match op.part with
      | none => (⟨op, runs, none⟩, s)
      | some p =>
        let n := if nRetag op.desc then tagCut op.tags (fun i => p.pieces[i]?.map (·.dst)) p.pieces.length n else n
        match s.putPieces k op.ring n p.pieces runs with
        | (l, runs, some f, s) => (⟨{ op with part := some { p with pieces := l } }, runs, some (0x06, f)⟩, s)
        | ([], runs, none, s) => s.apEnd k op { p with pieces := [] } runs
        | (l, runs, none, s) => (⟨{ op with part := some { p with pieces := l } }, runs, none⟩, s)

/-! ### Choosing a step (R195) -/

/-- An operation that can step: an APPEND waits for the replies of the table unit while that unit is not running (R205, R210). -/
def State.nbuReady (s : State) (o : NbuOp) : Bool := nOp o.desc != 1 || s.nbuLive s.tableUnit

/-- The ring whose operation steps next: rings owned by bolts before rings owned by ports, the lowest number first. -/
def State.nbuNext (s : State) (k : Nat) : Option NbuOp :=
  let l := ((List.range 4).filterMap fun r => (s.nbu k).ops.get none r).filter s.nbuReady
  match l.find? fun o => s.r (.nbu k) (F.NBU_RING_CFG_OWNER o.ring) == 0 with
  | some o => some o
  | none => l.head?

/-- The destination line that lies i lines from where a linear operation or a SCATTER has come to. -/
def NbuOp.lineAt (o : NbuOp) (i : Nat) : Option Nat :=
  if nOp o.desc = 9 then some ((nDst o.desc + o.taken / 512 * 8) / 64 * 64 + 64 * i)
  else if o.taken + i < nLines o.desc then some (o.line (o.taken + i)).2 else none

/-- Lines of the next step: 1 to 256, a free choice of the part (log entry 39). With RETAG few enough that the rest of the last tag line, and the tag
lines themselves, are among the 256 (R195, R201, R208): a step of a linear operation or a SCATTER goes on to the end of the tag line. -/
def State.stepLines (s : State) (o : NbuOp) : Nat × State :=
  let (v, s) := s.draw
  if !nRetag o.desc then (1 + v.toNat % (if nOp o.desc = 1 then 252 else 256), s)
  else
    let n := 1 + v.toNat % 92
    (if nOp o.desc = 1 then n else tagCut o.tags o.lineAt (if nOp o.desc = 7 then nLines o.desc else 64) n, s)

/-- The work of one step. -/
def State.nbuWork (s : State) (k n : Nat) (o : NbuOp) : StepOut × State :=
  let o' : StepOut := ⟨o, [], none⟩
  match nOp o.desc with
  | 1 => s.apStep k n o
  | 5 => s.reduceSteps k (n + 1) o'
  | 9 => s.checkSteps k (if nSub o.desc = 2 then 8 * n - (nDst o.desc / 8 + o.taken / 512) % 8 else n + 1) o'
  | _ => s.lineSteps k n o'

/-- One step of the unit's next operation, with its tags, and its completion when the step was the last. -/
def execNbuStep (e : Fin 12) (u : Fin 32) (s : State) : Result :=
  let k := nbuNo e.val u.val
  .next (if !s.nbuLive k then s
    else match s.nbuNext k with
      | none => s
      | some o =>
        let s := s.w (.nbu k) F.NBU_STATUS_RING o.ring
        let (n, s) := s.stepLines o
        let (out, s) := s.nbuWork k n o
        let (ue, tagged, s) := if nRetag o.desc then s.retag k o.ring o.tags out.runs else (none, false, s)
        let op := { out.op with retagged := out.op.retagged || tagged }
        match ue with
        | some f => s.nbuEnd k op 0x06 f
        | none =>
          match out.done with
          | some (st, f) => s.nbuEnd k op st f
          | none => s.nbuKeep k op)

/-! ### Accesses that met a claim (R201, R202) -/

/-- At the end of a step the line is read as it stands. -/
def execClaimedLineRead (e : Fin 12) (off : Nat) (s : State) : Result :=
  if !(Instr.claimedLineRead e off).wf then .next (s.answerFree (.edge e off) 64)
  else .next (s.answerLine (.edge e off) s.tape)

/-- At the end of a step the write is performed, and every operation that claims or reads the line ends with CONFLICT. -/
def execClaimedLineWrite (e : Fin 12) (off : Nat) (data : List Byte) (s : State) : Result :=
  let (data, s) := if data.length = 64 then (data, s) else s.fill 64 data
  if !(Instr.claimedLineWrite e off data).wf then .next s
  else .next (s.storeCw (e.val * edgeBytes + off) data).2

end Sys2Proof.Machine
end

