-- ==== Sys2Proof/Machine/Reset.lean ====
section
/-! DEFINITION. Resets (chapter 13 and the reset pins, GPIO and V48 of chapter 18): requests, what each level keeps, release, block resets with
epochs, PLL and reference losses, and the live operations on one bolt. -/
namespace Sys2Proof.Machine

/-! ### Requests (R354 to R356, R359) -/

/-- Bits of RST_CAUSE. -/
abbrev causePower : Nat := 0
abbrev causeSysrst : Nat := 1
abbrev causeCmd : Nat := 4
abbrev causeWatchdog : Nat := 5
abbrev causeThermal : Nat := 6
abbrev causeFabric : Nat := 7
abbrev causeDebug : Nat := 8
abbrev causeEscalated : Nat := 9
abbrev causeDeferred : Nat := 10

/-- A bit of RST_CAUSE set, at once and for the reset in progress or asked for. -/
def State.cause (s : State) (c : Nat) : State :=
  ({ s with rst := { s.rst with causes := Nat.lor s.rst.causes (2 ^ c) } }).wb .rst ⟨F.RST_CAUSE_POWER.off, c, 1⟩ true

/-- A request of a level, with its source bit where it has one: merged with a reset in progress that is as deep, escalating one that is
not; a core reset before the first READY is performed as a system reset (R359). -/
def State.askReset (s : State) (n : Nat) (c : Option Nat) : State :=
  let s := match c with
    | some c => s.cause c
    | none => s
  let early := n == 3 && !s.rst.wasReady
  let n := if early then 2 else n
  let s := if early then s.cause causeEscalated else s
  if s.rst.level ≠ 0 ∧ s.rst.level ≤ n then s
  else { s with rst := { s.rst with want := if s.rst.want = 0 then n else min s.rst.want n } }

/-- RST_CMD written: the key word of a level, or a protocol-class event (R355). -/
def State.rstCmd (s : State) (q v : Nat) : State :=
  if v = 0x5EA30001 then s.askReset 1 (some causeCmd)
  else if v = 0x5EA30002 then s.askReset 2 (some causeCmd)
  else if v = 0x5EA30003 then s.askReset 3 (some causeCmd)
  else s.logReg q (Blk.rst.base + F.RST_CMD_KEY.off)

/-- Row RESET_FRAME (R296, R355). -/
def execResetFrame (dest : MgmtDest) (key : Word) (s : State) : Result :=
  .next (match s.route dest 0x03 (leBytes 4 key.toNat) with
    | (false, s) => s
    | (true, s) =>
      if !s.b (.fab 0) F.FAB_MGMT_CFG_RESET_EN || !(key == 0x5EA30002 || key == 0x5EA30003) then s.wb (.fab 0) F.FAB_MGMT_STAT_BAD_RESET true
      else (s.wb (.fab 0) F.FAB_MGMT_STAT_RESET_RCVD true).askReset (key.toNat - 0x5EA30000) (some causeFabric))

/-- Row HKC_WATCHDOG: only the HKC image services the watchdog. -/
def execHkcWatchdog (s : State) : Result := .next (if s.hkc.imageRuns then s.askReset 2 (some causeWatchdog) else s)

/-! ### What a level keeps (R353, R361, Table 13.1) -/

/-- The bits of a BAR0 register that a system reset keeps: RST_CAUSE, RST_GLITCH, the output pin latches, the debug logic, FATAL until the
HKC image starts (R432), and TAPE_SYNC_CFG while reset is asserted (Table 18.2). -/
def keepSystem (off : Nat) : BitVec 32 :=
  match locate off with
  | some .rst => if [0x4, 0x10, 0x300, 0x304].contains (off - Blk.rst.base) then 0xFFFFFFFF else 0
  | some .trc => 0xFFFFFFFF
  | some .err => if off = Blk.err.base + F.ERR_STATUS_FATAL.off then BitVec.ofNat 32 (2 ^ F.ERR_STATUS_FATAL.lo) else 0
  | some .tape => if off = Blk.tape.base + F.TAPE_SYNC_CFG_OUT_EN.off then 0xFFFFFFFF else 0
  | _ => 0

/-- The bits that a core reset keeps: beside those, what Table 13.1 names, with the numbers of the sites (R353) and the state of the PLLs that
it leaves alone. -/
def keepCore (off : Nat) : BitVec 32 :=
  match locate off with
  | some .id =>
    if off = F.ID_STATUS_FUSES.off then BitVec.ofNat 32 (2 ^ F.ID_STATUS_FUSES.lo)
    else if off = F.ID_W1_NEXT.off ∨ (0x110 ≤ off ∧ off < 0x11C) ∨ 0x130 ≤ off then 0 else 0xFFFFFFFF
  | some .mbx => 0xFFFFFFFF
  | some .thm => if off = Blk.thm.base + F.THM_SENSOR_BAD_COUNT.off then 0 else 0xFFFFFFFF
  | some .err => 0xFFFFFFFF
  | some (.fab _) => 0xFFFFFFFF
  | some .rst => if off = Blk.rst.base + F.RST_CLK_STATUS_FABREF.off then 0x3F000 else keepSystem off
  | some .tape =>
    if [F.TAPE_STATUS_LOCKED.off, F.TAPE_SYNC_CFG_OUT_EN.off, F.TAPE_SYNC_VAL_LO_VALUE.off, F.TAPE_SYNC_VAL_HI_VALUE.off].contains
      (off - Blk.tape.base) then 0xFFFFFFFF else 0
  | some (.bolt b) => if off = (Blk.bolt b).base + F.BOLT_STACKS_STACKS.off then 0xFFFFFFFF else 0
  | some (.stk k) => if off - (Blk.stk k).base < 0xC00 then 0xFFFFFFFF else 0
  | some (.edge e) =>
    let rel := off - (Blk.edge e).base
    if rel = F.EDGE_STATUS_TRAINED.off then BitVec.ofNat 32 (2 ^ F.EDGE_STATUS_TRAINED.lo)
    else if 0x40 ≤ rel ∧ rel < 0xC0 then BitVec.ofNat 32 (2 ^ 4 - 1)
    else if (0x200 ≤ rel ∧ rel < 0x300) ∨ (0x400 ≤ rel ∧ rel < 0x480) then 0xFFFFFFFF else 0
  | _ => keepSystem off

/-- Registers with the bits of a mask kept and the others at their Reset column. -/
def keepRegs (keep : Nat → BitVec 32) (m : SMap (BitVec 32)) : SMap (BitVec 32) :=
  m.filterMap fun w =>
    let k := keep w.1
    let v := (w.2 &&& k) ||| (regReset w.1 &&& ~~~k)
    if v = regReset w.1 then none else some (w.1, v)

/-- Power-on reset: the record store, what was in its path, and what stands outside the module remain. -/
def State.clearPower (s : State) : State :=
  { State.reset with
    pending := s.pending, out := s.out, free := s.free, store := { s.store with pulse := 0 }, fuses := s.fuses,
    pins := { Pins.reset with low := s.pins.low, gpio := s.pins.gpio, v48 := s.pins.v48, fabref := s.pins.fabref },
    therm := { Thermal.reset with cyc := s.store.cycles } }

/-- System reset. -/
def State.clearSystem (s : State) : State :=
  { State.reset with
    pending := s.pending, out := s.out, free := s.free, tape := s.tape, regs := keepRegs keepSystem s.regs, store := s.store,
    fuses := s.fuses, pins := s.pins, jtag := s.jtag, trace := s.trace, mgmt := s.mgmt, rst := s.rst,
    hkc := { Hkc.reset with powered := true }, therm := { Thermal.reset with nextRound := s.tape + 1000000, cyc := s.store.cycles } }

def Sensor.unflag (x : Sensor) : Sensor := { x with bad := false, same := 0, hits := 0 }

/-- What a core reset does to thermal management: broken sensors and lost domains are flagged anew (R386, R388), throttling ends. -/
def Thermal.unflag (t : Thermal) : Thermal :=
  { t with selfRefresh := true, thr := [], lost := [], sensors := t.sensors.map fun x => (x.1, x.2.unflag) }

/-- Core reset: DRAM in self-refresh, with the staged images of the HKC, keeps its contents; every flit of a pattern is gone, and a device copy or gather
in progress ends as abandoned (R365). -/
def State.clearCore (s : State) : State :=
  let s := (List.range 4).foldl (fun s d => (s.shutDrop d).2) s
  let kept (a : Nat) : Bool := a < 0x200000000000 || (0x500000000000 ≤ a && a < 0x600000000000)
  let t : State := { State.reset with
    pending := s.pending, out := s.out, free := s.free, tape := s.tape, regs := keepRegs keepCore s.regs, bar4 := s.bar4,
    mem := s.mem.filter (fun c => kept c.1), errs := s.errs.filter (fun c => c.1 < 0x200000000000), chans := s.chans,
    log := s.log, logSel := s.logSel, qps := s.qps, hports := s.hports,
    fab := s.fab.map (fun f => (f.1, { f.2 with slots := [], backlog := [], slipAsked := false, slipMarks := [], nextSlot := 0, resvNext := 0 })),
    hkc := s.hkc, store := s.store, fuses := s.fuses, therm := s.therm.unflag, pins := s.pins, jtag := s.jtag,
    trace := s.trace, mgmt := s.mgmt, rst := s.rst }
  t.narrowAll ((List.range 12).filter fun f => (t.fport f).both &&& ~~~(t.fport f).failing != 0)

/-- A stop that a reset ends (R465): TRC_STOP_STATUS.STATE is idle. -/
def State.endStop (s : State) : State :=
  if s.trace.stopped then
    (({ s with trace := { s.trace with stopped := false, armed := none, held := [] } }).w .trc F.TRC_STOP_STATUS_STATE 0).wb .trc F.TRC_STOP_STATUS_TRIGGERED
      false
  else s

/-- A LEAVING frame on every port that is up, at its next flit boundary, ahead of what waits there (Table 10.8). -/
def State.sendLeaving (s : State) : State :=
  ((List.range 12).filter s.portUp).foldl (fun s f =>
    (frameFlits 0x02 (xyz12 (s.neighbour f)) (xyz12 s.coord) 1 []).foldl (fun s fl =>
      let at_ := (s.fport f).free (flitTime (s.fabWidth f)) s.tape
      s.emit f fl (at_ / 100) at_) s) s

/-- The tack trees of the fabric patterns that run. -/
def State.tackTrees (s : State) : SMap (Nat × Nat) :=
  (List.range 12).filterMap fun b => ((s.bolt b).pat.filter fun p => p.fabric && s.patRuns b).map fun p => (b, p.parent, p.children)

/-- Reset of a level is asserted (R357): what it does not keep is cleared, RST_CAUSE tells its sources and its level. -/
def State.performReset (s : State) (n : Nat) (held : Bool) : State :=
  let causes := s.rst.causes
  let s' := s.txnReset
  let s' := if n = 1 then { s'.clearPower with txns := s'.txns } else if n = 2 then { s'.clearSystem with txns := s'.txns }
    else { s'.clearCore with txns := s'.txns }
  let s' := { s' with rst := { ResetSt.reset with level := n, since := s'.tape, want := if s.rst.want < n then s.rst.want else 0, heldShut := held, wasReady := n == 3 && s.rst.wasReady,
                                                  trees := if held then s.tackTrees else [] } }
  let s' := if n = 1 then s' else s'.endStop
  let at_ := Blk.rst.base + F.RST_CAUSE_POWER.off
  (s'.setWord at_ (s'.word at_ ||| BitVec.ofNat 32 causes)).w .rst F.RST_CAUSE_LEVEL n

/-- Levels 1 and 2 send LEAVING, once (R357). -/
def State.leave (s : State) (n : Nat) : State :=
  if n = 3 ∨ s.rst.left then s else { s.sendLeaving with rst := { s.sendLeaving.rst with left := true } }

/-- The row of a level: performed when it is the level asked for; a record-store pulse in progress defers it (R358). -/
def State.goReset (s : State) (n : Nat) : State :=
  if s.rst.want ≠ n then s
  else
    let s := s.leave n
    if s.tape < s.store.pulse then { s.cause causeDeferred with rst := { (s.cause causeDeferred).rst with waits := true } }
    else s.performReset n false

def execPowerOnReset (s : State) : Result := .next (s.goReset 1)
def execSystemReset (s : State) : Result := .next (s.goReset 2)
def execCoreReset (s : State) : Result := .next (s.goReset 3)

/-- Row RESET_DEFERRED: the pulse ends. -/
def execResetDeferred (s : State) : Result :=
  .next (if s.rst.waits && s.rst.want != 0 then
    let s := (s.leave s.rst.want).advanceTo s.store.pulse
    s.performReset s.rst.want false
  else s)

/-! ### Release (R345, R357, R360, R480) -/

/-- What holds a reset: a shutdown, a pin held low, absent supply, a request not yet performed. -/
def State.mayRelease (s : State) : Bool :=
  s.rst.level != 0 && s.rst.want == 0 && !s.rst.heldShut && s.pins.v48 && !s.pins.low.contains .por && !s.pins.low.contains .sysrst

/-- The steps of Table 12.5 begin. -/
def State.release (s : State) : State :=
  let n := s.rst.level
  let s := if n = 1 then s else s.advanceTo (s.rst.since + 10000)
  let s := s.w2 .rst F.RST_LAST_TAPE_LO_TAPE F.RST_LAST_TAPE_HI_TAPE s.tape
  let s := { s with rst := { s.rst with level := 0, steps := n == 3, trees := [] }, therm := { s.therm with aclkGated := false } }
  if n = 1 then s
  else if n = 2 then (s.setWord (Blk.tape.base + F.TAPE_SYNC_CFG_OUT_EN.off) 0).enterStep 2
  else s.enterStep 6

/-- Row RESET_RELEASE. -/
def execResetRelease (s : State) : Result := .next (if s.mayRelease then s.release else s)

/-! ### Reset pins and V48 (R360, R476, R477, R480) -/

def glitchOf : ResetPin → Fld
  | .por => F.RST_GLITCH_POR
  | .sysrst => F.RST_GLITCH_SYS
  | .perst0 => F.RST_GLITCH_PERST0
  | .perst1 => F.RST_GLITCH_PERST1

/-- A low level of a length in ns on POR_N or SYSRST_N: below 1 µs it is ignored and counted, from 1.2 µs on taken, between either. -/
def State.pinLow (s : State) (p : ResetPin) (ns : Nat) (taken : Bool) (n c : Nat) : State :=
  if 1200 ≤ ns ∨ (1000 ≤ ns ∧ taken) then
    ({ s with pins := { s.pins with low := p :: s.pins.low.filter (· != p) } }).askReset n (some c)
  else s.inc .rst (glitchOf p)

def execPorNLow (ns : Nat) (taken : Bool) (s : State) : Result := .next (s.pinLow .por ns taken 1 causePower)
def execSysrstNLow (ns : Nat) (taken : Bool) (s : State) : Result := .next (s.pinLow .sysrst ns taken 2 causeSysrst)

/-- Row RESET_PIN_HIGH: a pin held low is released; on a PERST pin that was not taken as low it ends an ignored pulse. -/
def execResetPinHigh (pin : ResetPin) (s : State) : Result :=
  .next (
    if s.pins.low.contains pin then
      let s := { s with pins := { s.pins with low := s.pins.low.filter (· != pin) } }
      match pin with
      | .perst0 => s.setHport 0 { s.hport 0 with perst := false }
      | .perst1 => s.setHport 1 { s.hport 1 with perst := false }
      | _ => s
    else match pin with
      | .perst0 => s.inc .rst F.RST_GLITCH_PERST0
      | .perst1 => s.inc .rst F.RST_GLITCH_PERST1
      | _ => s)

/-- Power loss: no LEAVING frame; a pulse in progress completes on the hold-up time first (R358). -/
def State.powerLoss (s : State) : State :=
  if !s.pins.v48 then s
  else
    let s := s.cause causePower
    let s := if s.tape < s.store.pulse then s.cause causeDeferred else s
    ({ s with pins := { s.pins with v48 := false } }).performReset 1 false

def execV48Loss (s : State) : Result := .next s.powerLoss
def execV48Overvoltage (s : State) : Result := .next s.powerLoss

/-- Row V48_RETURN: at least 20 ms after the start of the drop the module starts from step 1, unless a pin holds its reset. -/
def execV48Return (s : State) : Result :=
  .next (if s.pins.v48 then s
    else
      let s := { s with pins := { s.pins with v48 := true } }
      if s.mayRelease then s.release else s)

/-! ### GPIO (R474) -/

/-- RST_GPIO_IN: an output shows the level it drives. -/
def State.gpioIn (s : State) : BitVec 8 :=
  let dir := BitVec.ofNat 8 (s.r .rst F.RST_GPIO_DIR_DIR)
  (BitVec.ofNat 8 (s.r .rst F.RST_GPIO_OUT_LEVEL) &&& dir) ||| (s.pins.gpio &&& ~~~dir)

/-- The edge bits of a change from the levels sampled before. -/
def State.gpioEdges (s : State) (old : BitVec 8) : State :=
  let v := s.gpioIn
  let s := s.w .rst F.RST_GPIO_EDGE_RISE (BitVec.ofNat 8 (s.r .rst F.RST_GPIO_EDGE_RISE) ||| (v &&& ~~~old)).toNat
  s.w .rst F.RST_GPIO_EDGE_FALL (BitVec.ofNat 8 (s.r .rst F.RST_GPIO_EDGE_FALL) ||| (old &&& ~~~v)).toNat

/-- The HKC's cycles go on: V48 is present and neither power-on nor system reset is asserted. -/
def State.hkcCycles (s : State) : Bool := s.pins.v48 && s.rst.level != 1 && s.rst.level != 2

/-- Row GPIO_INPUT_CHANGE: the levels that the board drives. -/
def execGpioInputChange (levels : Byte) (s : State) : Result :=
  let p := { s with pins := { s.pins with gpio := levels } }
  .next (if s.hkcCycles then p.gpioEdges s.gpioIn else p)

/-! ### Block resets (R363 to R366) -/

/-- The block that RST_BLK_SEL selects, none for a reserved selection. -/
def State.blkSel (s : State) : Option BlockRef :=
  let i := s.r .rst F.RST_BLK_SEL_INDEX
  let u := s.r .rst F.RST_BLK_SEL_UNIT
  match s.r .rst F.RST_BLK_SEL_TYPE with
  | 1 => if h : i < 12 ∧ u < 160 then some (.tile ⟨⟨i, h.1⟩, ⟨u, h.2⟩⟩) else none
  | 2 => if h : i < 12 ∧ u < 32 then some (.nbu ⟨i, h.1⟩ ⟨u, h.2⟩) else none
  | 3 => if h : i < 4 then some (.shuttle ⟨i, h⟩) else none
  | 4 => if h : i < 4 then some (.check ⟨i, h⟩) else none
  | _ => none

/-- The number of a unit. -/
def unitOf (e : Fin 12) (u : Fin 32) : Nat := e.val * 32 + u.val

/-- The reset epoch of a block. -/
def State.epochOf (s : State) : BlockRef → Nat
  | .tile t => (s.tile t.g).epoch
  | .nbu e u => (s.nbu (unitOf e u)).epoch
  | .shuttle d => s.rst.shutEpoch.get 0 d.val
  | .check d => (s.chkU d.val).epoch

/-- The block is unavailable: its stack or unit failed at the start, or its base die is in reset (log entry 61). -/
def State.blkUnavailable (s : State) : BlockRef → Bool
  | .tile t => s.hkc.stackFail.contains t.stack.val || s.dieHeld (t.stack.val / 3)
  | .nbu e u => (s.nbu (unitOf e u)).failed || s.dieHeld (e.val / 3)
  | .shuttle d => s.dieHeld d.val
  | .check d => !s.b (.chk d.val) F.CHK_STATUS_AVAILABLE || s.dieHeld d.val

/-- Drained (Table 13.3): a base-die shuttle has no copy or gather in progress. -/
def State.blkDrained (s : State) : BlockRef → Bool
  | .tile t => (s.tile t.g).drained
  | .nbu e u => (List.range 4).all fun r => ((s.nbu (unitOf e u)).ops.get none r).isNone
  | .shuttle d => !s.shutBusy d.val
  | .check d => !(s.chkU d.val).jobs.any (·.begun)

/-- A tile site in its reset state: halted, its queue empty, what it had under way gone; its window's registers return to their Reset
column but for the trace registers and ARR_SUBST (log entry 61); SRAMs, bobbin, hem and attribution stay. -/
def State.resetTile (s : State) (g : Nat) : State :=
  let s := s.clkSettle g
  let base := (Blk.tile g).base
  let mine (a : Nat) : Bool := base ≤ a && a < base + 0x1000 && !(base + 0x400 ≤ a && a < base + 0x600) && a != base + F.ARR_SUBST_SPARE_FOR.off
  let t := s.tile g
  let t' : Tile :=
    { Tile.reset with epoch := (t.epoch + 1) % 256, hem := t.hem, attr := t.attr, fwBitmap := t.fwBitmap, fwMatch := t.fwMatch,
                      iramHost := t.iramHost, code := t.code, headAt := s.tape, clkFrom := t.clkFrom }
  let n := dieChk g
  let u := s.chkU n
  let s := { s with regs := s.regs.filter (fun w => !mine w.1), mesh := s.mesh.filter (fun m => m.src != g && m.dst != g) }
  (s.setTile g (t'.gap s.tape)).setChkU n { u with jobs := u.jobs.filter fun j => !(j.tile.any fun x => x.1 == g) }

/-- What a tile has open stops at its restart point with code 0x10 (R90, R365): the first open command faults. -/
def State.abortTile (s : State) (g : Nat) : State :=
  match (s.tile g).flight.find? (·.open_) with
  | some f => s.abortFlight g f.uid f.prog 0
  | none => s.commandFault g { desc := none, code := 0x10 }

/-- Tiles outside a set that have a SEND to a tile of it under way over the mesh. -/
def State.sendersTo (s : State) (set : Nat → Bool) : List (Nat × Nat × Nat) :=
  s.tiles.flatMap fun t =>
    if set t.1 then []
    else (t.2.flight.filter fun f => f.open_ && f.op == 7 && sendRoute f.desc == 0 && (s.siteOf (sendTile f.desc)).any set).map
      fun f => (t.1, f.uid, f.prog)

/-- Abort completions to the senders: how many, and the state after. -/
def State.abortSenders (s : State) (set : Nat → Bool) : Nat × State :=
  let l := s.sendersTo set
  (l.length, l.foldl (fun s x => s.abortFlight x.1 x.2.1 x.2.2 0) s)

/-- Tile sites reset by force (R364, R365): how many requests were aborted. -/
def State.forceTiles (s : State) (l : List Nat) : Nat × State :=
  let own := (l.map fun g => ((s.tile g).flight.filter (·.open_)).length).sum
  let (n, s) := s.abortSenders l.contains
  (own + n, l.foldl (fun s g => s.resetTile g) s)

/-- A check unit idle, its contexts' running values kept; tiles whose descriptors it held receive aborts. -/
def State.forceCheck (s : State) (d : Nat) : Nat × State :=
  let u := s.chkU d
  let s := s.setChkU d { u with jobs := [], epoch := (u.epoch + 1) % 256 }
  (u.jobs.length, u.jobs.foldl (fun s j => match j.tile with
    | some (g, uid) => s.abortFlight g uid ((((s.tile g).flightOf uid).map (·.prog)).getD 0) 0
    | none => s) s)

/-- A unit reset: every operation it runs ends (R205); its rings are kept. -/
def State.forceNbu (s : State) (k : Nat) : Nat × State :=
  let n := ((List.range 4).filter fun r => ((s.nbu k).ops.get none r).isSome).length
  let s := s.nbuAbort k
  (n, s.setNbu k { s.nbu k with epoch := ((s.nbu k).epoch + 1) % 256 })

/-- The base-die shuttle reset: what it has in progress is abandoned. -/
def State.forceShuttle (s : State) (d : Nat) : Nat × State :=
  let (n, s) := s.shutDrop d
  (n, { s with rst := { s.rst with shutEpoch := s.rst.shutEpoch.set d ((s.rst.shutEpoch.get 0 d + 1) % 256) } })

/-- The reset of one block: the requests aborted. -/
def State.resetBlock (s : State) : BlockRef → Nat × State
  | .tile t => s.forceTiles [t.g]
  | .nbu e u => s.forceNbu (unitOf e u)
  | .shuttle d => s.forceShuttle d.val
  | .check d => s.forceCheck d.val

def State.blkRefuse (s : State) (reason : Nat) : State :=
  (s.wb .rst F.RST_BLK_STAT_REFUSED true).w .rst F.RST_BLK_STAT_REASON reason

/-- RST_BLK_CTRL.RESET written as 1, with FORCE or without. A request while a block reset is in progress is ignored (log entry 61). -/
def State.askBlock (s : State) (force : Bool) : State :=
  if s.rst.blk.isSome then s
  else match s.blkSel with
    | none => s.blkRefuse 3
    | some b =>
      let runs : Bool := match b with
        | .tile t => s.stackRuns t.stack.val
        | _ => false
      if s.blkUnavailable b then s.blkRefuse 4
      else if runs then s.blkRefuse 2
      else if !force && !s.blkDrained b then s.blkRefuse 1
      else
        let (n, s) := s.resetBlock b
        let s := (s.wb .rst F.RST_BLK_STAT_BUSY true).w .rst F.RST_BLK_STAT_REASON 0
        let s := (s.wb .rst F.RST_BLK_STAT_FORCED force).w .rst F.RST_BLK_STAT_ABORTS (if force then min n 0xFFFF else s.r .rst F.RST_BLK_STAT_ABORTS)
        { s with rst := { s.rst with blk := some (b, s.tape) } }

/-- Row BLOCK_RESET_DONE: a block reset lasts at least 1 µs. -/
def execBlockResetDone (s : State) : Result :=
  .next (match s.rst.blk with
    | none => s
    | some (_, t) =>
      let s := s.advanceTo (t + 1000)
      (({ s with rst := { s.rst with blk := none } }).wb .rst F.RST_BLK_STAT_BUSY false).wb .rst F.RST_BLK_STAT_DONE true)

/-- Row STALE_REPLY (R366). -/
def execStaleReply (b : BlockRef) (epoch : Byte) (s : State) : Result :=
  .next (if epoch.toNat = s.epochOf b then s else s.inc .rst F.RST_STALE_COUNT_COUNT)

/-! ### PLLs and the fabric reference (R367, R368) -/

/-- A fatal record of clocks and reset (Table 16.2, SOURCE 11). -/
def State.fatalClock (s : State) (ix : Nat) : State := s.logEv { cls := .fatal, source := Src.clocks, index := ix }

/-- Row STACK_PLL_LOCK_LOSS: the stack's clocks are gated until a core reset or a repair, its tiles fault with code 0x10. -/
def execStackPllLockLoss (s : Fin 12) (sc : State) : Result :=
  let k := s.val
  .next (if !bit (sc.r .rst F.RST_CLK_STATUS_STACK_LOCK) k then sc
    else
      let st := (sc.w .rst F.RST_CLK_STATUS_STACK_LOCK (sc.r .rst F.RST_CLK_STATUS_STACK_LOCK - 2 ^ k)).wb .rst F.RST_CLK_STATUS_LOCK_LOST true
      let st := ({ st with rst := { st.rst with gated := Nat.lor st.rst.gated (2 ^ k) } } : State).fatalClock (ixOf k 0)
      (((List.range 160).map (k * 160 + ·)).filter fun g => (st.mtile g).isSome).foldl (fun st g => st.abortTile g) st)

/-- Row BASE_PLL_LOCK_LOSS: fatal for the module; the HKC requests a system reset. -/
def execBasePllLockLoss (d : Fin 4) (s : State) : Result :=
  .next (if !bit (s.r .rst F.RST_CLK_STATUS_DIE_LOCK) d.val then s
    else
      let s := (s.w .rst F.RST_CLK_STATUS_DIE_LOCK (s.r .rst F.RST_CLK_STATUS_DIE_LOCK - 2 ^ d.val)).wb .rst F.RST_CLK_STATUS_LOCK_LOST true
      (s.fatalClock (ixOf d.val 0)).askReset 2 none)

/-- Row FABREF_LOSS: once the PLLs have locked to it, they enter holdover. -/
def execFabrefLoss (s : State) : Result :=
  .next (
    let p := { s with pins := { s.pins with fabref := false } }
    if !s.b .rst F.RST_CLK_STATUS_FABREF then p
    else ((p.wb .rst F.RST_CLK_STATUS_FABREF false).wb .rst F.RST_CLK_STATUS_HOLDOVER true).fatalClock 0)

/-- Row FABREF_RETURN: the PLLs lock to the reference again and leave holdover (log entry 60). -/
def execFabrefReturn (s : State) : Result :=
  .next (if s.pins.fabref then s
    else
      let p := { s with pins := { s.pins with fabref := true } }
      if s.b .rst F.RST_CLK_STATUS_HOLDOVER then (p.wb .rst F.RST_CLK_STATUS_FABREF true).wb .rst F.RST_CLK_STATUS_HOLDOVER false else p)

/-! ### Live operations on one bolt (R378 to R382) -/

/-- The bolt's STK_BOLT_OP asks for an operation that has not begun. -/
def State.opAsked (s : State) (b op : Nat) : Bool :=
  (s.bolt b).op == 0 && s.rst.level == 0 && (s.boltStacks b) != [] && (s.boltStacks b).all fun k => s.r (.stk k) F.STK_BOLT_OP_OP == op

/-- STK_BOLT_OP_STAT of the bolt's stacks. -/
def State.opStat (s : State) (b st code failed : Nat) : State :=
  (s.boltStacks b).foldl (fun s k =>
    ((s.w (.stk k) F.STK_BOLT_OP_STAT_STATE st).w (.stk k) F.STK_BOLT_OP_STAT_CODE code).w (.stk k) F.STK_BOLT_OP_STAT_FAILED failed) s

/-- The unscheduled and scheduled flits of a bolt's ports are discarded. -/
def State.dropFlits (s : State) (b : Nat) : State :=
  (s.boltPorts b).foldl (fun s f => s.modFport f fun p => { p with slots := [], backlog := [], slipAsked := false }) s

/-- Operations on rings that the bolt owns end (R379). -/
def State.abortRings (s : State) (b : Nat) : State :=
  (List.range 384).foldl (fun s k => (List.range 4).foldl (fun s r =>
    if s.r (.nbu k) (F.NBU_RING_CFG_OWNER r) = 0 ∧ s.r (.nbu k) (F.NBU_RING_CFG_BOLT r) = b then
      match (s.nbu k).ops.get none r with
      | some o => s.nbuEnd k o 0x0E 0
      | none => s
    else s) s) s

/-- A bobbin written as zero with valid check bits. -/
def State.zeroBobbin (s : State) (g : Nat) : State :=
  ({ s with mem := s.mem.clear (bobbinAt g 0) bobbinBytes,
            errs := s.errs.filter fun c => !(bobbinAt g 0 ≤ c.1 && c.1 < bobbinAt g bobbinBytes) } : State).sealRun (bobbinAt g 0) bobbinBytes

/-- Row BOLT_RESET (R379). -/
def execBoltReset (b : Fin 12) (s : State) : Result :=
  .next (if !s.opAsked b.val 1 then s
    else
      let n := b.val
      let l := s.boltSites n
      let s := ((s.dropFlits n).preemptLapse n).abortRings n
      let ports := s.boltPorts n
      let s := ((s.disable n).freshPorts n).setPat n 0
      let s := (s.setBolt n { Bolt.reset with op := 1, retire := (s.bolt n).retire }).narrowAll ports
      let (k, s) := s.forceTiles l
      let s := (s.wb .rst F.RST_BLK_STAT_FORCED true).w .rst F.RST_BLK_STAT_ABORTS (min k 0xFFFF)
      let s := (s.boltStacks n).foldl (fun s k => if s.r (.stk k) F.CTX_STATUS_STATE = 3 then s.w (.stk k) F.CTX_STATUS_STATE 0 else s) s
      let s := l.foldl (fun s g => (s.loadFw g (fwCopyAt g)).zeroBobbin g) s
      s.opStat n 1 0 0)

/-- Row BOLT_REPAIR (R380): the outcome of the fitting runs is given: sites that fail otherwise than by arrays, and arrays that fail. -/
def execBoltRepair (b : Fin 12) (failed : List Site) (arrays : List (Site × Fin 17)) (s : State) : Result :=
  .next (if !s.opAsked b.val 2 then s
    else
      let n := b.val
      let ks := s.boltStacks n
      let l := (s.boltSites n).filter fun g => s.ltile g != 0xFE
      let s := ks.foldl (fun s k =>
        let m := s.r .rst F.RST_CLK_STATUS_STACK_LOCK
        let s := s.w .rst F.RST_CLK_STATUS_STACK_LOCK (if bit m k then m else m + 2 ^ k)
        { s with rst := { s.rst with gated := if bit s.rst.gated k then s.rst.gated - 2 ^ k else s.rst.gated } }) s
      let s := s.applyStored.darnMarked fun r => if r.1 < 3840 then ks.contains (r.1 / 320) else s.rowFree r
      let s := l.foldl (fun s g => (s.resetTile g).loadFw g (fwCopyAt g)) s
      let (bad, s) := s.fitSites l arrays
      let out := (bad ++ ((failed.map (·.g)).filter fun g => l.contains g)).eraseDups
      let s := out.foldl (fun s g => s.altAdd 10 1 (ixTile g) 0x25 ((arraysOf arrays g).headD 0)) s
      let s := s.modBolt n fun x => { x with op := 2, opBad := false, retire := (x.retire ++ out).eraseDups }
      s.opStat n 1 0 (min out.length 0xFF))

/-- Row BOLT_REPLACE_FW (R381): the sites that have not matched after the third round are given; what such a site's SRAMs then hold is left as it was. -/
def execBoltReplaceFw (b : Fin 12) (unmatched : List Site) (s : State) : Result :=
  .next (if !s.opAsked b.val 3 then s
    else
      let n := b.val
      let l := (s.boltSites n).filter fun g => s.ltile g != 0xFE
      let out := l.filter fun g => unmatched.any fun t => t.g == g
      let s := l.foldl (fun s g =>
        let s := s.haltTile g
        if out.contains g then s.modTile g fun t => { t with fwMatch := false, code := [] }
        else (s.loadFw g (stageAt 2 1)).tileHas g 0xFFFFFFFF true true) s
      let m := s.hkc.fwMeas
      let s := { s with hkc := { s.hkc with stackMeas := (s.boltStacks n).foldl (fun l k => l.set k m) s.hkc.stackMeas } }
      let s := s.modBolt n fun x => { x with op := 3, opBad := !out.isEmpty, retire := (x.retire ++ out).eraseDups }
      s.opStat n 1 0 (min out.length 0xFF))

/-- Row BOLT_OP_DONE: STK_BOLT_OP is cleared, STATE is done or failed. -/
def execBoltOpDone (b : Fin 12) (s : State) : Result :=
  let n := b.val
  .next (if (s.bolt n).op = 0 then s
    else
      let bad := (s.bolt n).opBad
      let s := (s.boltStacks n).foldl (fun s k =>
        ((s.w (.stk k) F.STK_BOLT_OP_OP 0).w (.stk k) F.STK_BOLT_OP_STAT_STATE (if bad then 3 else 2)).w (.stk k) F.STK_BOLT_OP_STAT_CODE
          (if bad then 4 else 0)) s
      s.modBolt n fun x => { x with op := 0, opBad := false })

end Sys2Proof.Machine
end

