-- ==== Sys2Proof/Machine/Thermal.lean ====
section
/-! DEFINITION. Thermal management, power and cooling (chapter 14): the housekeeping round with its decisions, the hardware comparators, coolant
flow, shutdowns and life counts. Temperatures are in sixteenths of a degree (R413). -/
namespace Sys2Proof.Machine

/-- Degrees in sixteenths. -/
def deg (n : Int) : Int := n * 16
/-- A signed number as a register field of 16 bits. -/
def w16 (v : Int) : Nat := (BitVec.ofInt 16 v).toNat

/-! ### Sensors (R384 to R388, Table 14.1) -/

/-- Temperature channels with a partner: pairs are 2i and 2i + 1. -/
abbrev pairedChans : Nat := 4768
abbrev tempChans : Nat := 4770
abbrev chInlet : Nat := 4768
abbrev chOutlet : Nat := 4769
abbrev chVolt : Nat := 7200
abbrev chCurr : Nat := 7201
def partner (c : Nat) : Nat := if c % 2 = 0 then c + 1 else c - 1

/-- The value of a channel in this round: a channel that the round does not list keeps its last value (log entry 62). -/
def State.roundValue (s : State) (rd : List (Nat × Int)) (c : Nat) : Int := ((rd.find? fun x => x.1 == c).map (·.2)).getD (s.sensor c).value

/-- A sensor after a round (R386): whether it now is broken is in `bad`. -/
def State.sensorRound (s : State) (rd : List (Nat × Int)) (c : Nat) : Sensor :=
  let o := s.sensor c
  let known := (s.therm.sensors.find c).isSome
  let v := s.roundValue rd c
  let pv := s.roundValue rd (partner c)
  let same := known && v == o.value
  let run := if same then o.same + 1 else 1
  let at_ := if same then o.partnerAt else pv
  let paired := decide (c < pairedChans)
  let stuck := paired && decide (1000 ≤ run ∧ 64 < (pv - at_).natAbs)
  let jump := paired && known && decide (320 < (v - o.value).natAbs ∧ (pv - (s.sensor (partner c)).value).natAbs < 80)
  { o with value := v, same := run, partnerAt := at_, bad := o.bad || decide (v < deg (-40) ∨ deg 160 < v) || stuck || jump }

/-- Both sensors of the pair of an even channel are valid and differ by more than 6 °C (R387). -/
def pairDiffers (m : SMap Sensor) (c : Nat) : Bool :=
  match m.find c, m.find (c + 1) with
  | some x, some y => !x.bad && !y.bad && decide (96 < (x.value - y.value).natAbs)
  | _, _ => false

/-- The thermal-class record of this chapter; the spec gives its events no code (log entry 62). -/
def State.logThermal (s : State) (ix : Nat) : State := s.logEv { cls := .thermal, source := Src.thermal, index := ix }

/-- The channels of a round: temperatures with the flags, the others as values. -/
def State.readChannels (s : State) (rd : List (Nat × Int)) : State :=
  let keys := (((rd.map (·.1)).filter (· < tempChans)) ++ s.therm.sensors.map (·.1)).eraseDups
  let m := keys.foldl (fun m c => m.set c (s.sensorRound rd c)) s.therm.sensors
  let fresh := (keys.filter fun c => (m.get Sensor.reset c).bad && !(s.sensor c).bad).length
  let m' : SMap Sensor := m.map fun x => (x.1, { x.2 with dis := if x.1 % 2 = 0 ∧ x.1 < pairedChans ∧ pairDiffers m x.1 then x.2.dis + 1 else 0 })
  let long := m'.any fun x => x.2.dis == 1001
  let ch := (rd.filter fun x => tempChans ≤ x.1).foldl (fun l x => l.set x.1 x.2) s.therm.chan
  let s := { s with therm := { s.therm with sensors := m', chan := ch } }
  let s := s.w .thm F.THM_SENSOR_BAD_COUNT (m'.filter fun x => x.2.bad).length
  let s := if fresh = 0 then s else s.wb .thm F.THM_SENSOR_BAD_NEW true
  let s := s.w .thm F.THM_PAIR_DIS_COUNT (m'.filter fun x => x.2.dis != 0).length
  if long then (s.wb .thm F.THM_STATUS_PAIR_WARN true).logThermal 0 else s

/-! ### Domains (R385, R388 to R391, Table 14.2): 0-11 array dies, 12-23 DRAM layers, 24-35 edge stacks, 36-39 base dies -/

/-- First channel and number of channels of a domain. -/
def domChans (d : Nat) : Nat × Nat :=
  if d < 12 then (d * 320, 320)
  else if d < 24 then (3840 + (d - 12) * 64, 64)
  else if d < 36 then (4656 + (d - 24) * 4, 4)
  else (4704 + (d - 36) * 16, 16)
/-- The domain's code in a shutdown record. -/
def domKind (d : Nat) : Nat := if d < 12 then 0 else if d < 24 then 1 else if d < 36 then 2 else 3
def domUnit (d : Nat) : Nat := if d < 36 then d % 12 else d - 36

def warnAt (d : Nat) : Int := deg ([95, 95, 90, 100].getD (domKind d) 0)
def tripAt (d : Nat) : Int := deg ([115, 110, 105, 115].getD (domKind d) 0)
/-- The DRAM throttle threshold of a stack in degrees (R391). -/
def State.bandEdge (s : State) (k : Nat) : Int :=
  match (s.boltOf k).filter s.patRuns with
  | none => 100
  | some b => ((s.bolt b).pat.map fun p => if p.thermal = 0 then (85 : Int) else if p.thermal = 1 then 95 else 100).getD 100
def State.throttleAt (s : State) (d : Nat) : Int :=
  deg (if d < 12 then 100 else if d < 24 then s.bandEdge (d - 12) else 95)

/-- The highest valid reading among channels from `a` on. -/
def State.maxOf (s : State) (a n : Nat) : Option Int :=
  (s.therm.sensors.filter fun x => a ≤ x.1 && x.1 < a + n && !x.2.bad).foldl (fun m x => match m with
    | none => some x.2.value
    | some v => some (max v x.2.value)) none

/-- Every sensor of a domain is broken. -/
def State.domLost (s : State) (d : Nat) : Bool :=
  let (a, n) := domChans d
  d < 36 && (s.therm.sensors.filter fun x => a ≤ x.1 && x.1 < a + n && x.2.bad).length == n

/-- A domain's reading: its highest valid temperature, the throttle threshold when none is valid. -/
def State.domRead (s : State) (d : Nat) : Int :=
  if s.domLost d then s.throttleAt d else (s.maxOf (domChans d).1 (domChans d).2).getD 0

/-- In a level from its threshold up, until 3 °C below it. -/
def holds (was : Bool) (v lim : Int) : Bool := decide (lim ≤ v) || (was && decide (lim - deg 3 < v))

/-- A refresh band by its lower edges, each left 2 °C below (R179). -/
def bandOf (cur : Nat) (v : Int) (top : Nat) : Nat :=
  let in_ (b : Nat) : Bool := decide (deg ([0, 85, 95, 105].getD b 0) < v) || (b ≤ cur && decide (deg ([0, 85, 95, 105].getD b 0) - deg 2 < v))
  if in_ 3 && 3 ≤ top then 3 else if in_ 2 then 2 else if in_ 1 then 1 else 0

/-- What the round reports (R385), refresh bands, warn and lost domains; a broken thermistor is ignored, its register as it stood (R386). -/
def State.domains (s : State) : State :=
  let v := (List.range 40).map s.domRead
  let at_ (d : Nat) : Int := v.getD d 0
  let top (a n : Nat) : Int := ((List.range n).map fun i => at_ (a + i)).foldl max (at_ a)
  let s := (List.range 12).foldl (fun s k =>
    let s := (s.w .thm (F.THM_STK_ARRAY k) (w16 (at_ k))).w .thm (F.THM_STK_DRAM k) (w16 (at_ (12 + k)))
    let s := if s.rst.level ≠ 0 then s
      else (s.w (.stk k) F.PMEM_STATUS_BAND (bandOf (s.r (.stk k) F.PMEM_STATUS_BAND) (at_ (12 + k)) 3)).w (.edge k) F.EDGE_STATUS_BAND
        (bandOf (s.r (.edge k) F.EDGE_STATUS_BAND) (at_ (24 + k)) 2)
    (s.w .thm (F.THM_STK_LEVEL_BAND_EDGE k) (s.bandEdge k).toNat).w .thm (F.THM_EDGE_MAX k) (w16 (at_ (24 + k)))) s
  let s := ((s.w .thm F.THM_MAX_ARRAY (w16 (top 0 12))).w .thm F.THM_MAX_DRAM (w16 (top 12 12))).w .thm F.THM_MAX_EDGE_EDGE (w16 (top 24 12))
  let cool (s : State) (c : Nat) (f : Fld) : State := if (s.sensor c).bad then s else s.w .thm f (w16 (s.sensor c).value)
  let s := cool (cool s chInlet F.THM_COOLANT_INLET) chOutlet F.THM_COOLANT_OUTLET
  let lost := (List.range 36).filter s.domLost
  let warn := (List.range 40).filter fun d => holds (s.therm.warn.contains d) (at_ d) (warnAt d)
  let hot := (List.range 36).filter fun d => holds (s.therm.hot.contains d) (at_ d) (s.throttleAt d)
  let newLost := lost.filter fun d => !s.therm.lost.contains d
  let newWarn := warn.filter fun d => !s.therm.warn.contains d
  let s := if newLost = [] then s else s.wb .thm F.THM_STATUS_DOMAIN_LOST true
  let s := (newLost ++ newWarn).foldl (fun s d => s.logThermal (ixOf (domUnit d) 0)) s
  { s with therm := { s.therm with lost := lost, warn := warn, hot := hot } }

/-! ### Power and coolant (R399, R400, R407 to R409, R476) -/

/-- The fused limit. -/
def State.fused (s : State) : Nat := s.r .id F.ID_W3_PWR_FUSED

/-- V48 in mV and input current in 10 mA, once the channels have been read. -/
def State.volt (s : State) : Option Nat := (s.therm.chan.find chVolt).map (·.toNat)
def State.amp (s : State) : Nat := (s.therm.chan.get 0 chCurr).toNat

/-- Input power, energy and V48 of a round; a V48 below 40 V is logged in every round (R476). The sums of PWR_STK and PWR_EDGE come from
telemetry that no channel carries: free values (log entry 62). -/
def State.readPower (s : State) : State :=
  let p := min 0xFFFF (s.volt.getD 0 * s.amp / 100000)
  let s := ((s.w .thm F.PWR_INPUT_POWER p).w .thm F.PWR_V48_VOLT (s.volt.getD 0)).w .thm F.PWR_V48_CURR s.amp
  let s := s.w2 .thm F.PWR_ENERGY_LO_MJ F.PWR_ENERGY_HI_MJ (satAdd 64 (s.r2 .thm F.PWR_ENERGY_LO_MJ F.PWR_ENERGY_HI_MJ) p)
  let s := (List.range 12).foldl (fun s k =>
    let (x, s) := s.draw
    let (y, s) := s.draw
    (s.w .thm (F.PWR_STK_POWER k) x.toNat).w .thm (F.PWR_EDGE_POWER k) y.toNat) s
  if s.volt.any (· < 40000) then s.logThermal 0 else s

/-- ΔT per kilowatt of a round, in 2^-16 of a sixteenth of a degree per kilowatt (log entry 62); none from a broken thermistor (R386). -/
def State.dtPerKw (s : State) : Option Int :=
  let p := s.r .thm F.PWR_INPUT_POWER
  if p = 0 ∨ (s.sensor chOutlet).bad ∨ (s.sensor chInlet).bad then none else some (((s.sensor chOutlet).value - (s.sensor chInlet).value) * 65536000 / p)

/-- Its mean over the 60 s that ended 10 s ago, once so much has been seen; the newest round stands first. -/
def meanOf (h : List (Option Int)) : Option Int :=
  if h.length < 70000 then none
  else
    let l := (h.drop 10000).filterMap id
    if l = [] then none else some (l.foldl (· + ·) 0 / l.length)

/-- FLOW_IN is enabled (R399). -/
def State.flowOn (s : State) : Bool := s.r .thm F.THM_FLOW_CFG_K != 0
/-- Flow is measured below FLOW_WARN. -/
def State.flowLow (s : State) : Bool := s.flowOn && s.therm.flowOk && decide (s.therm.flow < s.r .thm F.THM_FLOW_CFG_FLOW_WARN * 10)

/-- A condition of a slow coolant loss holds in this round (R400). -/
def State.coolCond (s : State) : Bool :=
  let now := s.dtPerKw
  let dt := match now, meanOf s.therm.dtHist with
    | some v, some m => decide (1000 ≤ s.r .thm F.PWR_INPUT_POWER ∧ 12 * m < 10 * v)
    | _, _ => false
  let above (c : Nat) (lim : Int) : Bool := (s.therm.sensors.find c).any fun x => !x.bad && decide (lim < x.value)
  dt || s.flowLow || above chInlet (deg 40) || above chOutlet (deg 65)

/-- One derate step down, to 40 % at the lowest. -/
def State.derateStep (s : State) : State :=
  if s.therm.derate ≤ 40 then s
  else ({ s with therm := { s.therm with derate := s.therm.derate - 10 } }).inc .thm F.THM_DERATE_COUNT_COUNT

/-- Slow coolant loss: it stands after 10 s, steps the derate limit every 10 s, and is taken back step by step (R400). -/
def State.coolant (s : State) : State :=
  let bad := s.coolCond
  let t := s.therm
  let cold := (t.sensors.find chInlet).any fun x => !x.bad && decide (x.value < deg 15)
  let s := if cold && !t.cold then s.logThermal 0 else s
  let n := if bad then t.coolBad + 1 else 0
  let ok := if bad then 0 else t.coolOk + 1
  let s := { s with therm := { t with cold := cold, coolBad := n, coolOk := ok, dtHist := (s.dtPerKw :: t.dtHist).take 70000 } }
  let s := if n = 10000 then (s.wb .thm F.THM_STATUS_COOL_WARN true).logThermal 0 else s
  let s := if 0 < n ∧ n % 10000 = 0 then s.derateStep else s
  let s : State := if 60000 < ok ∧ ok % 10000 = 0 ∧ t.derate < 100 then { s with therm := { s.therm with derate := min 100 (s.therm.derate + 10) } } else s
  let s := if s.therm.derate = 100 ∧ n < 10000 then s.wb .thm F.THM_STATUS_COOL_WARN false else s
  s.wb .thm F.THM_STATUS_DERATE (s.therm.derate < 100)

/-- The limit in force and what governs it (R2, R407). PWR_LIMIT_SET itself keeps and shows the value written; the clamp acts on the limit in
force alone (DESIGN CHOICE, log entry 96). A change of the identity body counts in GEN (Table 11.7). -/
def State.setLimit (s : State) : State :=
  let f := s.fused
  let set := s.r .thm F.PWR_LIMIT_SET_LIMIT
  let host := if set = 0 then f else max (min 1000 f) (min set f)
  let der := f * s.therm.derate / 100
  let cur := (s.volt.map fun v => 110 * v / 1000).getD f
  let lim := min (min f host) (min der cur)
  let new := s.b .id F.ID_STATUS_READY && s.r .id F.ID_W3_PWR_LIMIT != lim
  let s := (s.w .thm F.PWR_STATUS_IN_FORCE lim).w .id F.ID_W3_PWR_LIMIT lim
  let s := if new then s.wrapInc .id F.ID_STATUS_GEN else s
  (s.wb .thm F.PWR_STATUS_DERATE (der < f && der == lim)).wb .thm F.PWR_STATUS_CURRENT_CAP (cur < f && cur == lim)

/-- Power capping (R408). -/
def State.capPower (s : State) : State :=
  let p := s.r .thm F.PWR_INPUT_POWER
  let lim := s.r .thm F.PWR_STATUS_IN_FORCE
  let s :=
    if lim < p then
      ({ s with therm := { s.therm with capping := true, capOk := 0, keepWarm := [] } }).inc .thm F.PWR_CAP_COUNT_COUNT
    else
      let ok := if s.therm.capping ∧ p * 100 < lim * 98 then s.therm.capOk + 1 else 0
      { s with therm := { s.therm with capOk := ok, capping := s.therm.capping && ok < 10 } }
  s.wb .thm F.PWR_STATUS_CAPPING s.therm.capping

/-! ### Throttling (R393 to R397) -/

/-- Assigned tiles of a stack by local logical number, with their sites. -/
def State.activeTiles (s : State) (k : Nat) : List (Nat × Nat) :=
  (List.range 144).filterMap fun l => (s.siteOf (k * 144 + l)).map fun g => (l, g)

/-- The site's reading on the array die. -/
def State.siteTemp (s : State) (g : Nat) : Option Int := s.maxOf (g / 160 * 320 + g % 160 * 2) 2

/-- The hottest of some tiles, ties to the lower number (R394). -/
def State.hottest (s : State) (l : List (Nat × Nat)) : Option (Nat × Nat) :=
  (l.foldl (fun best x => match s.siteTemp x.2, best with
    | none, b => b
    | some v, none => some (v, x)
    | some v, some (w, y) => if w < v then some (v, x) else some (w, y)) none).map (·.2)

/-- The hottest valid DRAM sensor of a stack: j within its layer. -/
def State.hotDram (s : State) (k : Nat) : Option Nat :=
  ((List.range 64).foldl (fun (best : Option (Int × Nat)) i => match s.maxOf (3840 + k * 64 + i) 1, best with
    | none, b => b
    | some v, none => some (v, i)
    | some v, some (w, j) => if w < v then some (v, i) else some (w, j)) none).map fun x => x.2 % 8

/-- Site i of a stack lies under DRAM sensor j of a layer. -/
def under (j i : Nat) : Bool := i / 16 / 5 == j / 4 && i % 16 / 4 == j % 4

/-- The hottest tile of a stack for a domain. -/
def State.hotTile (s : State) (k : Nat) (dram : Bool) : Option (Nat × Nat) :=
  match dram, s.hotDram k with
  | true, some j => s.hottest ((s.activeTiles k).filter fun x => under j (x.2 % 160))
  | _, _ => s.hottest (s.activeTiles k)

/-- A level after a round in which its cause stands (`on`) and is at the threshold (`at_`); `z1`, `z2`: the ease of level 1, of level 2 is 0. -/
def Throttle.next (t : Throttle) (on at_ z1 z2 : Bool) (first l1 l2 round : Nat) : Throttle :=
  if !on then ⟨0, round⟩
  else match t.level with
    | 0 => ⟨first, round⟩
    | 1 => if z1 || (at_ && l1 ≤ round - t.since) then ⟨2, round⟩ else t
    | 2 => if z2 || (at_ && l2 ≤ round - t.since) then ⟨3, round⟩ else t
    | _ => t

/-- The levels of a compute stack: of its two domains and of power, and the tile that level 1 slows. -/
def State.throttleStack (s : State) (k : Nat) : State :=
  let run := s.stackRuns k
  let l1 := s.r .thm F.THM_CFG_L1_MS
  let l2 := s.r .thm F.THM_CFG_L2_MS
  let n := s.therm.round
  let z2 := (s.activeTiles k).all fun x => (s.tile x.2).lastEase.2 == 0
  let z1 (dram : Bool) : Bool := match s.hotTile k dram with
    | some x => (s.tile x.2).lastEase.1 == 0
    | none => true
  let dom (d : Nat) (dram : Bool) : Throttle :=
    (s.thr d).next (run && s.therm.hot.contains d) (decide (s.throttleAt d ≤ s.domRead d)) (z1 dram) z2 1 l1 l2 n
  let a := dom k false
  let m := dom (12 + k) true
  let p := (s.thr (24 + k)).next (run && s.therm.capping) true true z2 2 l1 l2 n
  let lvl := max (max a.level m.level) p.level
  let s := ((s.setThr k a).setThr (12 + k) m).setThr (24 + k) p
  let hot := if lvl = 0 then none else s.hotTile k (decide (a.level < m.level))
  (s.w .thm (F.THM_STK_LEVEL_LEVEL k) lvl).w .thm (F.THM_STK_LEVEL_HOT_TILE k) ((hot.map (·.1)).getD 0xFF)

/-- Throttling of compute and edge stacks, THM_STATUS.STATE and THM_EASE_COUNT. -/
def State.throttle (s : State) : State :=
  let s := (List.range 12).foldl (fun s k => s.throttleStack k) s
  let s := (List.range 12).foldl (fun s e => s.wb .thm (F.THM_EDGE_THROTTLE e) (s.therm.hot.contains (24 + e))) s
  let lv := (List.range 12).map fun k => s.r .thm (F.THM_STK_LEVEL_LEVEL k)
  let s := if lv.any fun l => l == 1 || l == 2 then s.inc .thm F.THM_EASE_COUNT_COUNT else s
  let any := lv.any (0 < ·) || (List.range 12).any fun e => s.therm.hot.contains (24 + e)
  s.w .thm F.THM_STATUS_STATE (if s.b .thm F.THM_SHUTDOWN_ACTIVE then 3 else if any then 2 else if s.therm.warn.isEmpty then 0 else 1)

/-- Keep-warm (R405). -/
def State.warmStacks (s : State) : State :=
  let fl := deg (s.r .thm F.THM_KEEPWARM_FLOOR)
  let free := s.b .thm F.THM_KEEPWARM_EN && !s.therm.capping && s.therm.derate == 100 && s.therm.warn.isEmpty && s.rst.level == 0
  let idle (k : Nat) : Bool := !s.hkc.stackFail.contains k && (match s.boltOf k with
    | none => true
    | some b => !s.patBusy b)
  let l := (List.range 12).filter fun k => free && idle k
    && (decide (s.domRead (12 + k) < fl) || (s.therm.keepWarm.contains k && decide (s.domRead (12 + k) < fl + deg 5)))
  ({ s with therm := { s.therm with keepWarm := l } }).wb .thm F.PWR_STATUS_KEEPWARM (!l.isEmpty)

/-! ### Life counts (R404) -/

/-- The reversal detector takes a reading: the detector, and the size of the rise that a counted cycle had. -/
def Life.next (x : Life) (v : Int) : Life × Option Int :=
  if x.rising then
    if x.extreme < v then ({ x with extreme := v }, none)
    else if v ≤ x.extreme - deg 20 then (⟨false, v, x.valley⟩, some (x.extreme - x.valley))
    else (x, none)
  else
    if v < x.extreme then ({ x with extreme := v }, none)
    else if x.extreme + deg 20 ≤ v then (⟨true, v, x.extreme⟩, none)
    else (x, none)

/-- The counts of a stack after a round. -/
def State.countLife (s : State) (k : Nat) : State :=
  match s.maxOf (3840 + k * 64) 64 with
  | none => s
  | some v =>
    let t := s.therm
    let (x, c) := (t.life.get ⟨false, v, v⟩ k).next v
    let add (m : SMap Nat) (i : Nat) : SMap Nat := m.set (k * 4 + i) (satAdd 32 (m.get 0 (k * 4 + i)) 1)
    let cyc := match c with
      | none => t.cyc
      | some r => add t.cyc (if r < deg 40 then 0 else if r < deg 60 then 1 else 2)
    let ms := t.hotMs.get 0 k + (if deg 95 < v then 1 else 0)
    let cyc := if ms = 60000 then add cyc 3 else cyc
    { s with therm := { t with life := t.life.set k x, cyc := cyc, hotMs := t.hotMs.set k (ms % 60000) } }

/-- The counts in the record store. -/
def State.saveLife (s : State) : State := ({ s with store := { s.store with cycles := s.therm.cyc } }).pulse

/-- Row LIFE_COUNT_SAVE. -/
def execLifeCountSave (s : State) : Result := .next (if s.hkc.imageRuns then s.saveLife else s)

/-! ### Shutdowns (R398, R401, R402) -/

/-- Hottest valid reading of each compute stack in whole degrees. -/
def State.hotList (s : State) : List Nat :=
  (List.range 12).map fun k =>
    min 255 ((((s.maxOf (k * 320) 320).toList ++ (s.maxOf (3840 + k * 64) 64).toList ++ (s.maxOf (4608 + k * 4) 4).toList).foldl max 0) / 16).toNat

/-- The shutdown record of a detection (Table 14.4). -/
def State.shutRecord (s : State) (causes unit domain : Nat) : ShutRec :=
  { causes := causes, unit := unit, domain := domain, seq := s.store.shutSeq, starts := s.store.starts, tape := s.tape, hottest := s.hotList,
    inlet := (s.sensor chInlet).value, outlet := (s.sensor chOutlet).value, flow := if s.flowOn then s.therm.flow else 0xFFFF,
    power := s.r .thm F.PWR_INPUT_POWER, bolts := ((List.range 12).map fun b => b2n (s.patRuns b) * 2 ^ b).sum }

/-- A coolant stop's LEAVING frames go out, and every port goes down (R401). -/
def State.leaveAll (s : State) : State := (List.range 12).foldl (fun s f => s.portDown f) s.sendLeaving

/-- A cause detected while the module is shut down: within 50 µs of the detection it joins the record, and a sudden coolant stop takes the ports down (R401). -/
def State.shutMore (s : State) (causes : Nat) : State :=
  let q := s.r .thm F.THM_SHUTDOWN_SEQ
  match s.store.shuts.find ((s.store.shutSeq + 255) % 256) with
  | none => s
  | some r =>
    let new := Nat.lor r.causes causes
    if r.tape + 50000 < s.tape ∨ new = r.causes ∨ r.seq % 256 ≠ q then s
    else
      let s := ({ s with store := { s.store with shuts := s.store.shuts.set (r.seq % 256) { r with causes := new } } } : State).pulse
      let s := s.w .thm F.THM_SHUTDOWN_CAUSE new
      if (bit causes 1 || bit causes 2) && !s.b .thm F.THM_SHUTDOWN_LEFT then s.leaveAll.wb .thm F.THM_SHUTDOWN_LEFT true else s

/-- A shutdown by its causes (Table 14.4, byte 4): with cause 1 or 2, a sudden coolant stop, LEAVING frames go out and the ports go down.
The held core reset waits for a record-store pulse under way (R358); before the first READY it is performed as a system reset, which leaves as one
(R357, R359, log entry 59). -/
def State.shutdown (s : State) (causes unit domain : Nat) : State :=
  if s.rst.heldShut then s.shutMore causes
  else
    let left := bit causes 1 || bit causes 2
    let r := s.shutRecord causes unit domain
    let s : State := { s with therm := { s.therm with aclkGated := true, selfRefresh := true }, pins := { s.pins with thermtrip := true } }
    let s := if left then s.leaveAll else s
    let s := if s.tape < s.store.pulse then (s.cause causeDeferred).advanceTo s.store.pulse else s
    let s := s.saveLife
    let s : State := { s with store := { s.store with shuts := s.store.shuts.set (r.seq % 256) r, shutSeq := (r.seq + 1) % 65536 } }
    let s := ((s.w .thm F.THM_SHUTDOWN_CAUSE causes).wb .thm F.THM_SHUTDOWN_ACTIVE true).wb .thm F.THM_SHUTDOWN_LEFT left
    let s := (s.w .thm F.THM_SHUTDOWN_SEQ r.seq).w2 .thm F.THM_SHUT_TAPE_LO_TAPE F.THM_SHUT_TAPE_HI_TAPE r.tape
    let s := (s.w .thm F.THM_STATUS_STATE 3).logEv { cls := .fatal, source := Src.thermal, index := ixOf unit 0 }
    let s := s.cause causeThermal
    if s.rst.level = 0 then
      if s.rst.wasReady then s.performReset 3 true else ((s.cause causeEscalated).leave 2).performReset 2 false
    else if s.rst.level = 3 then { s with rst := { s.rst with heldShut := true } }
    else s

/-! ### The housekeeping round (R385) -/

/-- Sudden rise of three or more stacks (R401), and what the next round compares with. -/
def State.risen (s : State) : State :=
  let now := (List.range 12).map fun k => max ((s.maxOf (4608 + k * 4) 4).getD 0) ((s.maxOf (3840 + k * 64) 64).getD 0)
  let n := ((now.zip s.therm.capMax).filter fun x => 32 < x.1 - x.2).length
  { s with therm := { s.therm with capMax := now, rise := if 3 ≤ n then s.therm.rise + 1 else 0 } }

/-- Flow as the round reports it. -/
def State.readFlow (s : State) : State :=
  let s := if s.flowOn then s else { s with therm := { s.therm with flowAt := none, flow := 0, flowOk := false } }
  (s.w .thm F.THM_FLOW_FLOW s.therm.flow).wb .thm F.THM_FLOW_VALID s.therm.flowOk

/-- THERMALERT_N (R390). -/
def State.alertPin (s : State) : State :=
  { s with pins := { s.pins with
      thermalert := !s.therm.warn.isEmpty || s.b .thm F.THM_STATUS_COOL_WARN || s.b .thm F.THM_STATUS_PAIR_WARN } }

/-- The HKC drains the tiles' accumulators into the table (R460). -/
def State.drainAttr (s : State) : State :=
  let s := { s with trace := { s.trace with attr := s.trace.sent.foldl tableAdd s.trace.attr, sent := [] } }
  s.tiles.foldl (fun s t =>
    if t.2.attr = [] then s
    else
      let tb := t.2.attr.foldl tableAdd s.trace.attr
      ({ s with trace := { s.trace with attr := tb } }).modTile t.1 fun x => { x with attr := [] }) s

/-- The shutdown that a round starts: trip in any domain, sudden coolant rise (R392, R401). -/
def State.roundTrip (s : State) : State :=
  let trip := (List.range 40).find? fun d => decide (tripAt d ≤ s.domRead d)
  let rise := decide (2 ≤ s.therm.rise)
  match trip with
  | some d => s.shutdown (1 + 2 * b2n rise) (domUnit d) (domKind d)
  | none => if rise then s.shutdown 2 0 4 else s

/-- Row HOUSEKEEPING_ROUND: the readings of a round by channel, in sixteenths of a degree, mV and 10 mA. -/
def execHousekeepingRound (readings : List (Nat × Int)) (s : State) : Result :=
  .next (if !s.hkc.imageRuns then s
    else
      let s := s.advanceTo s.therm.nextRound
      let s := { s with therm := { s.therm with nextRound := s.tape + 1000000, round := s.therm.round + 1 } }
      let s := (s.readChannels readings).domains
      let s := s.readPower.readFlow
      let s := s.coolant.setLimit.capPower
      let s := s.throttle.warmStacks
      let s := (List.range 12).foldl (fun s k => s.countLife k) s
      s.risen.alertPin.drainAttr.roundTrip)

/-! ### Comparators and flow (R392, R399, R401, R409) -/

/-- Row HW_TRIP_SAMPLE: a comparator of an array-die or DRAM sensor. Without a running HKC image only the hardware acts. -/
def execHwTripSample (ch : Nat) (reading : Int) (s : State) : Result :=
  .next (
    let x := s.sensor ch
    if 4608 ≤ ch ∨ deg 160 < reading ∨ x.bad ∨ !s.hkc.powered then s
    else
      let d := if ch < 3840 then ch / 320 else 12 + (ch - 3840) / 64
      let n := if tripAt d ≤ reading then x.hits + 1 else 0
      let s := { s with therm := { s.therm with sensors := s.therm.sensors.set ch { x with hits := if 2 ≤ n then 0 else n } } }
      if n < 2 then s
      else if s.hkc.imageRuns then s.shutdown 1 (domUnit d) (domKind d)
      else { s with therm := { s.therm with aclkGated := true }, pins := { s.pins with thermtrip := true } })

/-- Row OVERCURRENT_TRIP. -/
def execOvercurrentTrip (s : State) : Result :=
  .next (if !s.hkc.powered then s
    else if s.hkc.imageRuns then s.shutdown 8 0 4
    else { s with therm := { s.therm with aclkGated := true } })

/-- The longest interval, in ns, at which flow is not below FLOW_MIN (R399). -/
def State.flowBound (s : State) : Nat := 600000000000 / (s.r .thm F.THM_FLOW_CFG_K * s.r .thm F.THM_FLOW_CFG_FLOW_MIN)
def State.flowMinOn (s : State) : Bool := s.flowOn && s.r .thm F.THM_FLOW_CFG_FLOW_MIN != 0

/-- Row FLOW_IN_EDGE: the interval since the last edge gives the flow; too long an interval is a sudden coolant stop. -/
def execFlowInEdge (high : Nat) (s : State) : Result :=
  .next (if !s.flowOn || !s.hkc.imageRuns || decide (high < 20000) then s
    else match s.therm.flowAt with
      | none => { s with therm := { s.therm with flowAt := some s.tape } }
      | some t =>
        let n := s.tape - t
        if n = 0 then s
        else
          let f := min 0xFFFF (6000000000000 / (s.r .thm F.THM_FLOW_CFG_K * n))
          let s := { s with therm := { s.therm with flowAt := some s.tape, flow := f, flowOk := true } }
          if s.flowMinOn && s.flowBound < n then s.shutdown 4 0 4 else s)

/-- Row FLOW_TIMEOUT: the tape passes the longest interval with no edge; a stopped flow reads 0 until it is measured again (DESIGN CHOICE, log entry 120). -/
def execFlowTimeout (s : State) : Result :=
  .next (match s.therm.flowAt with
    | none => s
    | some t =>
      if !s.flowMinOn || !s.hkc.imageRuns then s
      else
        let s := s.advanceTo (t + s.flowBound + 1)
        ({ s with therm := { s.therm with flowAt := none, flow := 0, flowOk := true } }).shutdown 4 0 4)

/-! ### The end of a shutdown (R403) -/

/-- THM_SHUTDOWN.CLEAR by the control port. -/
def State.shutClear (s : State) (q : Nat) : State :=
  if !s.rst.heldShut then s
  else if (List.range 40).any (fun d => decide (warnAt d ≤ s.domRead d)) || s.b .thm F.THM_STATUS_COOL_WARN || s.flowLow then
    s.logReg q (Blk.thm.base + F.THM_SHUTDOWN_CLEAR.off)
  else
    let s : State := { s with rst := { s.rst with heldShut := false }, pins := { s.pins with thermtrip := false } }
    let s := (s.wb .thm F.THM_SHUTDOWN_ACTIVE false).w .thm F.THM_STATUS_STATE (if s.therm.warn.isEmpty then 0 else 1)
    if s.mayRelease then s.release else s

end Sys2Proof.Machine
end

