-- ==== Sys2Proof/Machine/Vertical.lean ====
section
/-! DEFINITION. Vertical connections, migration of a slice, seams and base-die resets (chapter 15). -/
namespace Sys2Proof.Machine

/-! ### Migration (R418 to R422) -/

/-- Lines of a slice that a migration copies: the exposed 384 MiB and the firmware area. -/
abbrev migLines : Nat := 6356992

/-- Row MIGRATION_COPY_LINE: the next line in ascending slice offset, in idle slots of both channels or refresh windows that refresh does not need; a line that reads uncorrectable, and every line of a channel with 9
erasures, is written as the marker codeword. -/
def execMigrationCopyLine (s : Fin 12) (sc : State) : Result :=
  .next (
    let b := Blk.stk s.val
    let n := sc.r b F.VC_MIG_DONE_LINES
    let src := sliceAt (sc.migSrc s.val) (64 * n)
    let dst := sliceAt (s.val * 160 + sc.r b F.VC_MIG_STATUS_DST_SITE) (64 * n)
    if sc.r b F.VC_MIG_STATUS_STATE ≠ 1 ∨ migLines ≤ n ∨ !sc.memLive ∨ !sc.idleSlot src ∨ !sc.idleSlot dst then sc
    else
      let sc := (sc.idleTake src).idleTake dst
      let dead := decide (9 ≤ (sc.chan (chanOf src)).erasures.length)
      let (ok, st) : Bool × State := if dead then (false, sc) else match sc.readCw src with
        | (true, st) => (true, st)
        | (false, st) => (false, st.noteUe src)
      let st : State := if ok then ({ st with mem := st.mem.copy src dst 64 } : State).sealCw dst
        else ({ st with errs := st.errs.set dst ⟨[], true⟩ } : State).inc b F.VC_MIG_LOST_LINES
      st.w b F.VC_MIG_DONE_LINES (n + 1))

/-- Row MIGRATION_COMPLETE: every line is copied; the site is retired now, or at the next load of its bolt. -/
def execMigrationComplete (s : Fin 12) (sc : State) : Result :=
  .next (
    let b := Blk.stk s.val
    if sc.r b F.VC_MIG_STATUS_STATE ≠ 1 ∨ sc.r b F.VC_MIG_DONE_LINES < migLines then sc
    else
      let st := sc.w b F.VC_MIG_STATUS_STATE 2
      (st.migSettle s.val).migNext s.val 160)

/-! ### Vertical connections (R414 to R417) -/

/-- Row SIDEBAND_CONNECTION_FAIL: the signal runs on its other connection; with both gone the slice is lost and its site retired. -/
def execSidebandConnectionFail (t : Site) (signal : Fin 8) (conn : Fin 2) (s : State) : Result :=
  .next (
    let c := sliceChan t.g 0
    let x := s.chan c
    if x.sideband.contains (signal.val, conn.val) then s
    else
      let s := s.setChan c { x with sideband := x.sideband ++ [(signal.val, conn.val)] }
      if x.sideband.contains (signal.val, 1 - conn.val) then s.migStart t.g false
      else s.wb (.stk t.stack.val) F.VC_STATUS_SIDEBAND_SINGLE true)

/-- A position that 16 lines have corrected within one second. -/
def Chan.hot (c : Chan) (p : Nat) : Bool := match (c.posHits.get [] p)[15]? with
  | some t => decide ((c.posHits.get [] p).headD 0 < t + 1000000000)
  | none => false

/-- The channel's refresh window of the present tape has been taken, and refresh does not need it (R182). -/
def State.idleWindow (s : State) (c : Nat) : Bool :=
  let (p, o, n) := winOf c (s.chanClass c)
  let x := s.chan c
  decide (o ≤ s.tape) && decide ((s.tape - o) % p < n) && decide (s.tape - (s.tape - o) % p < x.winNext) && decide (x.winBusy ≤ s.tape)

/-- Row VC_GROUP_TEST, in a window of the channel that refresh does not need: which of the group's connections fail is given. -/
def execVcGroupTest (t : Site) (ch : Fin 2) (pos : Fin 72) (dead : List (Fin 8)) (s : State) : Result :=
  .next (
    let c := sliceChan t.g ch.val
    if !(s.chan c).hot pos.val || !s.memLive || !s.idleWindow c then s
    else
      let s := s.setChan c { s.chan c with posHits := (s.chan c).posHits.set pos.val [] }
      let l := dead.eraseDups
      let s := l.foldl (fun s i => s.deadConn c pos.val i.val) s
      let s := if l = [] then s else s.putSpares c
      let more := s.chans.any fun x => x.1 / 320 == t.stack.val && (List.range 72).any x.2.hot
      let s := s.wb (.stk t.stack.val) F.VC_STATUS_TEST_PENDING more
      if 4 < (s.chan c).erasures.length then s.migStart t.g true else s)

/-! ### Seams (R423 to R427) -/

/-- A seam's width as its halves stand. -/
def State.setHalves (s : State) (n : Nat) (a b : Bool) : State :=
  ((s.w .rst (F.SEAM_STATUS_WIDTH n) (b2n a + b2n b)).wb .rst (F.SEAM_STATUS_HALF_A n) a).wb .rst (F.SEAM_STATUS_HALF_B n) b

/-- A link-class record of a seam (R426). -/
def State.logSeam (s : State) (n : Nat) (b : Option Nat) : State := s.logEv { cls := .link, source := Src.seam, index := ixOf n 0, bolt := b }

/-- A half is disabled: a link record, and one for every running bolt whose claims exceed what is left (R425, R426). -/
def State.dropHalf (s : State) (n half : Nat) : State :=
  let a := s.b .rst (F.SEAM_STATUS_HALF_A n) && half != 0
  let b := s.b .rst (F.SEAM_STATUS_HALF_B n) && half != 1
  let s := (s.setHalves n a b).logSeam n none
  ((List.range 12).filter fun i => s.patRuns i && (s.bolt i).pat.any fun p => decide (960 * (b2n a + b2n b) < p.seamClaim n)).foldl
    (fun s i => s.logSeam n (some i)) s

/-- An error attributed to a lane: with 8 within 1 ms the lane is failing; the group's spare replaces it, a second one takes the half down. -/
def State.laneError (s : State) (n dir group lane : Nat) : State :=
  let k := 2 * n + dir
  let x := s.seam k
  let key := group * 16 + lane
  let l := (s.tape :: x.hits.get [] key).take 8
  let fails := l.length == 8 && decide (s.tape < l.getLastD 0 + 1000000)
  if !fails then s.setSeam k { x with hits := x.hits.set key l }
  else
    let x := { x with hits := x.hits.set key [] }
    if x.spared.contains group then (s.setSeam k x).dropHalf n (group / 64)
    else
      let s := (s.setSeam k { x with spared := x.spared ++ [group] }).inc .rst (F.SEAM_STATUS_SPARES n)
      s.logEv { cls := .corrected, source := Src.seam, index := ixOf n (dir * 128 + group), code := lane }

/-- A seam flit of 64 bytes whose CRC is right: it stands in the last two, over those before it (R423; its place is a DESIGN CHOICE, log entry 97). -/
def seamOk (flit : List (BitVec 8)) : Bool := flit.length == 64 && crc16 (flit.take 62) == leNat (flit.drop 62)

/-- Row SEAM_FLIT_RECEIVE: a flit of one direction. One that fails its check is kept for the comparison with its replay, the next flit to come, and is
late at the second replay; a replay that differs from the kept copy has errors on the lanes that the comparison names (R423, R424; log entry 97). -/
def execSeamFlitReceive (n : Fin 4) (dir : Fin 2) (flit : List Byte) (badLanes : List (Fin 128 × Fin 16)) (s : State) : Result :=
  .next (if !s.seamUp n.val then s
    else
      let k := 2 * n.val + dir.val
      let x := s.seam k
      if seamOk flit then
        let l := if x.failed.any fun f => f != flit then badLanes else []
        let sent := (x.sent ++ [flit]).drop ((x.sent.length + 1) - 32)
        l.foldl (fun s l => s.laneError n.val dir.val l.1.val l.2.val) (s.setSeam k { x with failed := none, tries := 0, sent := sent })
      else
        let s := (s.setSeam k { x with failed := some flit, tries := x.tries + 1 }).inc .rst (F.SEAM_CRC_COUNT_COUNT n.val)
        if x.tries = 1 then s.inc .rst (F.SEAM_LATE_COUNT_COUNT n.val) else s)

/-- The claims of a bolt's pattern: of a loading one as its image gives them (R427, R429). -/
def State.claimsNow (s : State) (b : Nat) : Option Pattern :=
  if s.patState b = 1 then (s.runOf (s.imageBase b) 0x100).map fun _ => (s.imageAt (s.imageBase b)).pattern else (s.bolt b).pat

/-- A loading, admitted or running pattern claims bandwidth on a seam. -/
def State.seamClaimed (s : State) (n : Nat) : Bool :=
  (List.range 12).any fun b => s.patBusy b && (s.claimsNow b).any fun p => p.seamClaim n != 0

/-- SEAM_n_CTRL.RETRAIN, with the halves that train. -/
def State.seamRetrain (s : State) (n : Nat) (a b : Bool) : State :=
  if s.seamClaimed n then s.wb .rst (F.SEAM_CTRL_REFUSED n) true
  else
    let clear (st : State) (k : Nat) : State := st.setSeam k { st.seam k with hits := [], failed := none, tries := 0 }
    (clear (clear s (2 * n)) (2 * n + 1)).setHalves n a b

/-! ### Base-die reset (R428, R429) -/

/-- The seams that end on a die. -/
def seamsOf (d : Nat) : List Nat := [d / 2, 2 + d % 2]
/-- The fabric ports of a die (Table 18.5). -/
def portsOf (d : Nat) : List Nat := (List.range 3).map fun i => (if d = 0 then 0 else if d = 1 then 3 else if d = 2 then 6 else 9) + i

/-- A bolt touches a die (R429). -/
def State.touches (s : State) (b d : Nat) : Bool :=
  (s.boltStacks b).any (fun k => dieOf k == d) || (s.claimsNow b).any fun p =>
    p.ranges.any (fun r => r.stack / 3 == d) || p.rings.any (fun r => r.1 / 3 == d) || (portsOf d).any (fun f => bit p.ports f)
      || (seamsOf d).any fun n => p.seamClaim n != 0

/-- A request of a site's shuttle to base die `x` goes through base die `d` or ends there. -/
def State.goesBy (s : State) (g : Nat) (sched : Bool) (d x : Nat) : Bool := (s.routeOf sched (s.boltOf (g / 160)) (g / 480) x).any fun r => r.contains d

/-- The addresses that a running SHUT of a site has requests to: of the element or line it stands at, of a walk's list and table entries and its block. -/
def State.reqAddrs (s : State) (g : Nat) (f : Flight) : List Nat :=
  let at_ (v : Nat) : Option Nat := (s.translate g v 4 false).addr?
  match shutKind f.desc with
  | 0 => let (a, b, _) := (copyOf f.desc).place f.prog
         [a, b].filterMap at_
  | 1 => let x := gatherOf false f.desc
         let i := at_ (x.idx + 4 * (f.prog / x.esz))
         i.toList ++ ([x.src + (i.elim 0 fun a => s.mem.readLE a 4) * x.esz + f.prog % x.esz, x.dst + f.prog].filterMap at_)
  | _ => let x := walkOf f.desc
         let k := Blk.stk (g / 160)
         let tps := tpsOf (s.swSize k) x.fmt x.dim
         let pos := x.kvStart + 64 * f.aux
         let list := at_ (x.list + 4 * (pos / tps))
         let w := if f.cap = [] then list.elim 0 fun a => bits (s.mem.readLE a 4) 0 23 else leNat f.cap
         list.toList ++ ((s.tableBase + 8 * w) :: (s.blockParts k x w (pos % tps)).map (·.1)).filterMap s.addrOf

/-- Shuttle commands of tiles outside a die whose requests or data go into it or through it, each with the progress that its fault records. -/
def State.reachInto (s : State) (d : Nat) : List (Nat × Nat × Nat) :=
  s.tiles.flatMap fun t =>
    if t.1 / 480 = d then []
    else (t.2.flight.filter fun f =>
      if f.op = 6 then f.phase == .running && (s.reqAddrs t.1 f).any fun a => (dieAt a).any (s.goesBy t.1 (shutSched f.desc) d)
      else f.op == 7 && f.open_ && sendRoute f.desc == 0 && (s.siteOf (sendTile f.desc)).any fun g => s.goesBy t.1 true d (g / 480)).map
        fun f => (t.1, f.uid, if f.op = 6 then f.prog else 0)

/-- A pattern with a stack on a die in reset ends without being saved; its bolt is empty. -/
def State.emptyBolt (s : State) (b : Nat) : State :=
  let ports := s.boltPorts b
  let s := ((((s.dropFlits b).preemptLapse b).disable b).freshPorts b).setPat b 0
  (s.setBolt b { Bolt.reset with op := (s.bolt b).op, opBad := (s.bolt b).opBad, retire := (s.bolt b).retire }).narrowAll ports

/-- The registers of an edge stack's controller return to their Reset column but for what the training of its PHY left (R428). -/
def keepEdge (e off : Nat) : BitVec 32 :=
  match locate off with
  | some (.edge x) => if x = e then keepCore off else 0xFFFFFFFF
  | _ => 0xFFFFFFFF

/-- An edge controller in its reset state: the DRAM keeps its contents, the PHY its training (R428). -/
def State.resetEdge (s : State) (e : Nat) : State :=
  let s := (List.range 32).foldl (fun s p => s.setChan (edgeChan e p) { Chan.reset with erasures := (s.chan (edgeChan e p)).erasures }) s
  { s with regs := keepRegs (keepEdge e) s.regs, needle := (s.needle.erase e).erase (12 + e), scrubs := s.scrubs.erase (12 + e) }

/-- A seam end and the logic of a fabric port in their reset state: spares in use and the link's training stay (R428; log entry 65). -/
def Seam.clear (x : Seam) : Seam := { Seam.reset with spared := x.spared }
def FabPort.clear (p : FabPort) : FabPort :=
  { FabPort.reset with attempts := p.attempts, both := p.both, failing := p.failing, told := p.told, settled := p.settled, geo := p.geo }

/-- What the die holds is reset, and what goes through it is dropped; how many requests were aborted (log entry 65). -/
def State.resetDie (s : State) (d : Nat) : Nat × State :=
  let l := (List.range 480).map (d * 480 + ·)
  let out := s.reachInto d
  let lost := s.mesh.filter fun m => m.src / 480 == d || m.dst / 480 == d || s.goesBy m.src true d (m.dst / 480)
  let s := out.foldl (fun s x => s.abortFlight x.1 x.2.1 x.2.2 0) { s with mesh := s.mesh.filter fun m => !lost.contains m }
  let s := ((List.range 12).filter fun b => s.patBusy b && (s.boltStacks b).any fun k => dieOf k == d).foldl (fun s b => s.emptyBolt b) s
  let (n, s) := s.forceTiles l
  let (m, s) := (List.range 96).foldl (fun (acc : Nat × State) u => let (a, st) := acc.2.forceNbu (d * 96 + u); (acc.1 + a, st)) (0, s)
  let (h, s) := s.forceShuttle d
  let (c, s) := s.forceCheck d
  let s := (List.range 3).foldl (fun s i => s.resetEdge (3 * d + i)) s
  let s := (seamsOf d).foldl (fun s n => (s.setSeam (2 * n) (s.seam (2 * n)).clear).setSeam (2 * n + 1) (s.seam (2 * n + 1)).clear) s
  let s := (portsOf d).foldl (fun s f => s.modFport f FabPort.clear) s
  let s := if d = 1 then ((s.portClear 1).portCause .p1).setHport 1 { HostPort.reset with perst := (s.hport 1).perst } else s
  (out.length + n + m + h + c, s)

def State.bdRefuse (s : State) (d reason : Nat) : State := (s.wb .rst (F.RST_BD_STAT_REFUSED d) true).w .rst (F.RST_BD_STAT_REASON d) reason

/-- RST_BD_d_CTRL.RESET written as 1, with FORCE or without. -/
def State.askBaseDie (s : State) (d : Nat) (force : Bool) : State :=
  if d = 0 then s.bdRefuse 0 2
  else if s.dieHeld d then s
  else if !force && (List.range 12).any (fun b => s.patBusy b && s.touches b d) then s.bdRefuse d 1
  else
    let (n, s) := s.resetDie d
    let s := (s.wb .rst (F.RST_BD_STAT_BUSY d) true).w .rst (F.RST_BD_STAT_REASON d) 0
    let s := if force then s.w .rst (F.RST_BD_STAT_ABORTS d) (min n 0xFFFF) else s
    { s with rst := { s.rst with bd := s.rst.bd.set d s.tape } }

/-- Row BASE_DIE_RESET_DONE: its seams have been retrained; whether a half that was down trains is a free value (log entry 65). -/
def execBaseDieResetDone (d : Fin 4) (s : State) : Result :=
  .next (match s.rst.bd.find d.val with
    | none => s
    | some t =>
      let s := s.advanceTo (t + 1000)
      let s := (seamsOf d.val).foldl (fun s n =>
        let (v, s) := s.draw
        s.setHalves n (s.b .rst (F.SEAM_STATUS_HALF_A n) || v.getLsbD 0) (s.b .rst (F.SEAM_STATUS_HALF_B n) || v.getLsbD 1)) s
      let s : State := { s with rst := { s.rst with bd := s.rst.bd.erase d.val } }
      (s.wb .rst (F.RST_BD_STAT_BUSY d.val) false).wb .rst (F.RST_BD_STAT_DONE d.val) true)

end Sys2Proof.Machine
end

