-- ==== Sys2Proof/Machine/RegView.lean ====
section
/-! DEFINITION. Reading registers (R8 to R10, R23, R305, R306, R362): what a register shows, where it is stored as such or computed from other
state, the _HI latches, and the reads that act (CC_MEM_DATA). -/
namespace Sys2Proof.Machine

/-! ### What registers show -/

/-- A word with fields at values. -/
def vfields (w : BitVec 32) (l : List (Fld × Nat)) : BitVec 32 := l.foldl (fun w x => fput x.1 w x.2) w

/-- A number with bit i set where `p i` holds, for i below n. -/
def bitsWhere (n : Nat) (p : Nat → Bool) : Nat := ((List.range n).map fun i => b2n (p i) * 2 ^ i).sum

/-- A word of a 64-bit quantity: _LO at `lo`, _HI at `lo + 4`. -/
def word64 (rel lo v : Nat) : BitVec 32 := BitVec.ofNat 32 (if rel = lo then v else v / 2 ^ 32)

/-- The port that a read without a port of its own counts for (JTAG, R467). -/
def State.readerOf (s : State) (q : Nat) : Nat := if q = 3 then s.ctrlPort else q

def State.viewId (s : State) (q rel : Nat) (w : BitVec 32) : BitVec 32 :=
  if rel = F.ID_PORT_PORT.off then vfields w [(F.ID_PORT_PORT, b2n (s.readerOf q == 1))]
  else if rel = F.ID_W7_EDGES.off then s.w7Now
  else w

/-- The distinct segments staged and the lowest one missing, of the type in MBX_SEG_CTRL. -/
def State.viewMbx (s : State) (rel : Nat) (w : BitVec 32) : BitVec 32 :=
  if rel = F.MBX_SEG_STAT_COUNT.off then
    let l := s.staged (s.r .mbx F.MBX_SEG_CTRL_TYPE)
    vfields w [(F.MBX_SEG_STAT_COUNT, min l.length 511),
      (F.MBX_SEG_STAT_MISSING, ((List.range 512).find? fun i => !l.contains i).getD 511)]
  else if 0x1000 ≤ rel ∧ rel < 0x3000 then BitVec.ofNat 32 (s.mem.readLE (respAt (rel - 0x1000)) 4)
  else if 0x3000 ≤ rel ∧ rel < 0x7000 then BitVec.ofNat 32 (s.altWord ((rel - 0x3000) / 4))
  else w

def State.viewRst (s : State) (rel : Nat) (w : BitVec 32) : BitVec 32 :=
  if rel = F.RST_BLK_STAT_EPOCH.off then vfields w [(F.RST_BLK_STAT_EPOCH, (s.blkSel.map s.epochOf).getD 0)]
  else if rel = F.RST_GPIO_IN_LEVEL.off then vfields w [(F.RST_GPIO_IN_LEVEL, s.gpioIn.toNat)]
  else w

/-- STATE of a requester's transaction. -/
def Txn.stateNo (t : Txn) : Nat := if t.isOpen then 1 else if t.waiting then 2 else 0

/-- CFG registers show the transaction of the reader; CFG_TXN_VIEW_r that of requester r. -/
def State.viewCfg (s : State) (q rel : Nat) (w : BitVec 32) : BitVec 32 :=
  let q := s.readerOf q
  let t := (s.txnExpire q).txn q
  if rel = F.CFG_TXN_STATUS_STATE.off then
    vfields w [(F.CFG_TXN_STATUS_STATE, t.stateNo), (F.CFG_TXN_STATUS_STAGED, t.staged.length), (F.CFG_TXN_STATUS_FULL, b2n t.full),
      (F.CFG_TXN_STATUS_RESULT, t.result), (F.CFG_TXN_STATUS_CODE, t.code)]
  else if rel = F.CFG_TXN_REFUSE_ADDR_OFFSET.off then vfields w [(F.CFG_TXN_REFUSE_ADDR_OFFSET, t.refuse)]
  else if rel = F.CFG_TXN_APPLY_LO_TAPE.off ∨ rel = F.CFG_TXN_APPLY_HI_TAPE.off then word64 rel F.CFG_TXN_APPLY_LO_TAPE.off t.apply
  else if rel = F.CFG_ERR_NESTED.off then vfields w [(⟨0, 0, 3⟩, t.err.toNat)]
  else if 0x20 ≤ rel ∧ rel < 0x2C then
    let i := (rel - 0x20) / 4
    let x := (s.txnExpire i).txn i
    vfields w [(F.CFG_TXN_VIEW_STATE i, x.stateNo), (F.CFG_TXN_VIEW_STAGED i, x.staged.length),
      (F.CFG_TXN_VIEW_AGE i, if x.isOpen || x.waiting then min ((s.tape - x.baste) / 256000) 0xFFFF else 0)]
  else w

def State.viewThm (s : State) (rel : Nat) (w : BitVec 32) : BitVec 32 :=
  if rel = F.THM_SENSOR_DATA_VALUE.off then
    let c := s.r .thm F.THM_SENSOR_SEL_INDEX
    let x := s.sensor c
    vfields w [(F.THM_SENSOR_DATA_VALUE, w16 (if c < tempChans then x.value else s.therm.chan.get 0 c)), (F.THM_SENSOR_DATA_BAD, b2n x.bad),
      (F.THM_SENSOR_DATA_DISAGREE, b2n (c < pairedChans && 0 < (s.sensor (c / 2 * 2)).dis && pairDiffers s.therm.sensors (c / 2 * 2)))]
  else if 0x400 ≤ rel ∧ rel < 0x4C0 then BitVec.ofNat 32 (s.therm.cyc.get 0 ((rel - 0x400) / 4))
  else w

def State.viewBolt (s : State) (b rel : Nat) (w : BitVec 32) : BitVec 32 :=
  if rel = F.PAT_SCHED_LO_COUNT.off ∨ rel = F.PAT_SCHED_HI_COUNT.off then word64 rel F.PAT_SCHED_LO_COUNT.off (s.countOf b)
  else if rel = F.PAT_PAUSED_LO_CYCLES.off ∨ rel = F.PAT_PAUSED_HI_CYCLES.off then
    word64 rel F.PAT_PAUSED_LO_CYCLES.off ((s.bolt b).pausedAt s.schedTape)
  else w

def State.viewErr (s : State) (q rel : Nat) (w : BitVec 32) : BitVec 32 :=
  let q := s.readerOf q
  if rel = F.ERR_FSEQ_FSEQ.off then BitVec.ofNat 32 s.store.fseq
  else if rel = F.ERR_LOG_SEL_SLOT.off then s.logSel.get 0 (logKey q 0)
  else if 0x20 ≤ rel ∧ rel < 0x40 then s.logSel.get 0 (logKey q ((rel - 0x20) / 4 + 1))
  else w

def State.viewChk (s : State) (d rel : Nat) (w : BitVec 32) : BitVec 32 :=
  let u := s.chkU d
  if rel = F.CHK_STATUS_BUSY.off then
    vfields w [(F.CHK_STATUS_BUSY, b2n (u.jobs.any fun j => j.begun)), (F.CHK_STATUS_QUEUED, u.waiting)]
  else if 0x100 ≤ rel ∧ rel < 0x300 ∧ rel % 32 = 0x10 then
    vfields w [(F.CHK_CTX_STAT_BUSY ((rel - 0x100) / 32), b2n (u.busy ((rel - 0x100) / 32)))]
  else w

def State.viewStk (s : State) (k rel : Nat) (w : BitVec 32) : BitVec 32 :=
  if rel = F.PMEM_STATUS_RESERVE.off then vfields w [(F.PMEM_STATUS_RESERVE, s.stackReserve k)]
  else if rel = F.PMEM_DARN_ROWS.off then
    let mine (l : List (Nat × Nat)) : List Nat := (l.map (·.1)).filter fun c => c / 320 == k
    vfields w [(F.PMEM_DARN_ROWS, min (mine (s.fuses.rows ++ s.store.spareRows)).length 0xFFFF),
      (F.PMEM_DARN_BANKS, min (mine (s.fuses.banks ++ s.store.spareBanks)).length 0xFF),
      (F.PMEM_DARN_POOL, min ((mine s.store.poolRows).map (· / 2)).eraseDups.length 0xFF)]
  else w

/-- TILE_STATUS and the registers of the control core and the queue (Table 3.14). -/
def State.viewCore (s : State) (g rel : Nat) (w : BitVec 32) : BitVec 32 :=
  let t := s.tile g
  if rel = F.TILE_ID_SITE.off then
    vfields w [(F.TILE_ID_SITE, g % 160), (F.TILE_ID_LTILE, if s.ltile g < 144 then s.ltile g else 0xFF), (F.TILE_ID_MTILE, (s.mtile g).getD 0x7FF)]
  else if rel = F.TILE_STATUS_STATE.off then
    vfields w [(F.TILE_STATUS_STATE, t.mode.n), (F.TILE_STATUS_DRAINED, b2n t.drained), (F.TILE_STATUS_CQ_FULL, b2n (t.queue.length == Config.queueDepth)),
      (F.TILE_STATUS_CQ_EMPTY, b2n t.queue.isEmpty)]
  else if rel = F.CC_CTRL_RUN.off then vfields w [(F.CC_CTRL_RUN, b2n t.run)]
  else if rel = F.CC_PC_PC.off then vfields w [(F.CC_PC_PC, t.pc.toNat / 4)]
  else if rel = F.CQ_COUNT_COUNT.off then vfields w [(F.CQ_COUNT_COUNT, t.queue.length)]
  else w

/-- The engines' registers of a tile (Tables 4.13, 5.9, 8.10, 17.7). -/
def State.viewTile (s : State) (g rel : Nat) (w : BitVec 32) : BitVec 32 :=
  let t := s.tile g
  let inCh (c : Nat) : Bool := t.flight.any fun f => f.open_ && inChan f && f.chan == c
  if rel = F.VEC_STATUS_BUSY.off then
    vfields w [(F.VEC_STATUS_BUSY, b2n (t.flight.any fun f => f.op == 5 && t.executes f)),
      (F.VEC_STATUS_PENDING, b2n (t.flight.any fun f => f.op == 5 && f.open_ && !t.executes f))]
  else if rel = F.VEC_PROGRESS_GROUPS.off then
    (match t.flight.find? fun f => f.op == 5 && dget f.desc 8 0 2 == 0 && t.executes f with
    | some f => vfields w [(F.VEC_PROGRESS_GROUPS, f.prog)]
    | none => w)
  else if rel = F.ATT_STATUS_BUSY.off then
    vfields w [(F.ATT_STATUS_BUSY, b2n (t.flight.any fun f => (f.op == 3 || f.op == 4) && t.executes f))]
  else if rel = F.ATT_PROGRESS_BLOCKS.off then
    (match t.flight.find? fun f => f.op == 3 && t.executes f with
    | some f => vfields w [(F.ATT_PROGRESS_BLOCKS, f.prog)]
    | none => w)
  else if rel = F.SHT_STATUS_CH_BUSY.off then
    vfields w [(F.SHT_STATUS_CH_BUSY, bitsWhere 4 inCh), (F.SHT_STATUS_WALK, b2n (t.flight.any fun f => f.open_ && f.op == 6 && isWalk f.desc))]
  else if 0x220 ≤ rel ∧ rel < 0x260 ∧ rel % 16 = 0 then vfields w [(F.SHT_CH_SEQ_ACTIVE ((rel - 0x220) / 16), b2n (inCh ((rel - 0x220) / 16)))]
  else if rel = F.SHT_RECV_POSTED_CHAN.off then vfields w [(F.SHT_RECV_POSTED_CHAN, bitsWhere 16 fun c => (t.recvs.get none c).isSome)]
  else if rel = F.TRC_HEM_STAT_STATE.off then vfields w [(F.TRC_HEM_STAT_STATE, t.hem.hstate)]
  else if rel = F.TRC_HEM_WPTR_NEXT.off then vfields w [(F.TRC_HEM_WPTR_NEXT, t.hem.next), (F.TRC_HEM_WPTR_WRAPPED, b2n t.hem.wrapped)]
  else if rel = F.TRC_HEM_LOST_COUNT.off then BitVec.ofNat 32 t.hem.lost
  else s.viewCore g rel w

/-- A unit runs an operation; the runs that it claims (R200). -/
def Nbu.busy (u : Nbu) : Bool := u.ops.any fun x => x.2.isSome
def Nbu.claims (u : Nbu) : List (Nat × Nat) := u.ops.flatMap fun x => (x.2.map fun o => o.claims.filter fun r => r.2 != 0).getD []

def State.viewEdge (s : State) (e rel : Nat) (w : BitVec 32) : BitVec 32 :=
  if rel = F.EDGE_STATUS_RESERVE.off then vfields w [(F.EDGE_STATUS_RESERVE, s.edgeReserve e)]
  else if rel = F.EDGE_MARGIN_STAT_DEAD.off then
    let c := s.chan (edgeChan e (s.r (.edge e) F.EDGE_MARGIN_CTRL_PC))
    vfields w [(F.EDGE_MARGIN_STAT_DEAD, b2n (c.erasures.contains (s.r (.edge e) F.EDGE_MARGIN_CTRL_PIN)))]
  else if rel = F.NBU_BUSY_MAP_BUSY.off then BitVec.ofNat 32 (bitsWhere 32 fun u => (s.nbu (e * 32 + u)).busy)
  else if rel = F.NBU_CLAIM_MAP_CLAIM.off then BitVec.ofNat 32 (bitsWhere 32 fun u => (s.nbu (e * 32 + u)).claims != [])
  else w

def State.viewNbu (s : State) (k rel : Nat) (w : BitVec 32) : BitVec 32 :=
  let u := s.nbu k
  match u.claims with
  | [] => if rel = F.NBU_STATUS_BUSY.off then vfields w [(F.NBU_STATUS_BUSY, b2n u.busy), (F.NBU_STATUS_CLAIM, 0)] else w
  | r :: rest =>
    if rel = F.NBU_STATUS_BUSY.off then vfields w [(F.NBU_STATUS_BUSY, b2n u.busy), (F.NBU_STATUS_CLAIM, 1)]
    else if rel = F.NBU_CLAIM_START_LINE.off then vfields w [(F.NBU_CLAIM_START_LINE, rest.foldl (fun m x => min m (x.1 / 64)) (r.1 / 64))]
    else if rel = F.NBU_CLAIM_END_LINE.off then
      vfields w [(F.NBU_CLAIM_END_LINE, rest.foldl (fun m x => max m ((x.1 + x.2 - 1) / 64)) ((r.1 + r.2 - 1) / 64))]
    else w

/-- The word that a register of a block shows a reader (0 P0, 1 P1, 2 HKC, 3 JTAG, 4 the tile's own core). -/
def State.view (s : State) (q : Nat) (k : Blk) (rel : Nat) : BitVec 32 :=
  let w := s.word (k.base + rel)
  match k with
  | .id => s.viewId q rel w
  | .mbx => s.viewMbx rel w
  | .rst => s.viewRst rel w
  | .cfg => s.viewCfg q rel w
  | .thm => s.viewThm rel w
  | .tape =>
    if rel = F.TAPE_COUNT_LO_COUNT.off ∨ rel = F.TAPE_COUNT_HI_COUNT.off then word64 rel F.TAPE_COUNT_LO_COUNT.off s.tape
    else if rel = F.TAPE_STATUS_SLEWING.off then vfields w [(F.TAPE_STATUS_SLEWING, b2n (s.tape < s.slewTo))]
    else w
  | .bolt b => s.viewBolt b rel w
  | .err => s.viewErr q rel w
  | .trc => if rel = F.TRC_ATTR_USED_COUNT.off then vfields w [(F.TRC_ATTR_USED_COUNT, s.trace.attr.length)] else w
  | .chk d => s.viewChk d rel w
  | .fab _ => w
  | .stk n => s.viewStk n rel w
  | .tile g => s.viewTile g rel w
  | .edge e => s.viewEdge e rel w
  | .nbu u => s.viewNbu u rel w

/-! ### _LO and _HI (R8, R445) -/

/-- A register that a rule names _LO, at an offset within its block. -/
def loReg (k : Blk) (rel : Nat) : Bool :=
  let rep (lo stride n : Nat) : Bool := decide (lo ≤ rel ∧ rel < lo + stride * n) && (rel - lo) % stride == 0
  match k with
  | .id => rel == 0x8
  | .rst => rel == 0x8
  | .cfg => rel == 0x14
  | .thm => rel == 0x44 || rel == 0x8010
  | .tape => rel == 0x0 || rel == 0x10 || rel == 0x18
  | .bolt _ => [0x4, 0x10, 0x20, 0x38, 0x40, 0x48].contains rel
  | .trc => [0xC, 0x24, 0x34, 0x3C].contains rel
  | .chk _ => rel == 0x10 || rel == 0x18 || rep 0x100 32 16 || rep 0x108 32 16
  | .fab _ => rel == 0x8014
  | .stk _ => [0x10D0, 0x10D8, 0x10E8, 0x1100, 0x2010, 0x202C, 0x5008].contains rel || rep 0x4000 16 64 || rep 0x4008 16 64
  | .tile _ => [0x48, 0x50, 0x110, 0x62C, 0x20C].contains rel || rep 0x224 16 4 || rep 0x500 8 16
  | .edge _ => rel == 0x10 || rel == 0x2C || rep 0x200 8 16
  | _ => false

/-- The registers that a read of an _LO register latches: the matching _HI, and with CHK_CTX_n_VAL_LO the byte count (R445). -/
def latched (k : Blk) (rel : Nat) : List Nat :=
  match k with
  | .chk _ => if 0x100 ≤ rel ∧ rel % 32 = 0 then [rel + 4, rel + 8, rel + 12] else [rel + 4]
  | _ => [rel + 4]

/-- The key of a reader's latched word: requester and BAR0 offset, BAR4 offsets above. -/
def latchKey (q off : Nat) : Nat := q * 2 ^ 28 + off

/-- A reader's word of a register: the latched one where a latch holds, which it consumes. -/
def State.takeLatch (s : State) (key : Nat) (w : BitVec 32) : BitVec 32 × State :=
  match s.latch.find key with
  | some v => (v, { s with latch := s.latch.erase key })
  | none => (w, s)

/-! ### Reads that act -/

/-- The model's address of the word at CC_MEM_ADDR (Table 3.14). -/
def State.memAddr (s : State) (g : Nat) : Nat :=
  let a := s.r (.tile g) F.CC_MEM_ADDR_ADDR * 4
  if a < 0x10000 then iramAt g a else dsramAt g (a - 0x10000)

/-- AUTOINC: the address advances by 4 after the access. -/
def State.memNext (s : State) (g : Nat) : State :=
  if s.b (.tile g) F.CC_MEM_ADDR_AUTOINC then s.w (.tile g) F.CC_MEM_ADDR_ADDR (s.r (.tile g) F.CC_MEM_ADDR_ADDR + 1) else s

/-- A read of CC_MEM_DATA; an uncorrectable word is delivered in no form, and its record is logged (R437). -/
def State.memDataRead (s : State) (g : Nat) : Option (BitVec 32) × State :=
  match s.fetch (s.memAddr g) 4 with
  | (.ok l, s) => (some (w32 l), s.memNext g)
  | (.error _, s) => (none, s.memNext g)

/-- The clock counters of a tile are brought up to the present before its trace registers are read. -/
def State.readReady (s : State) (k : Blk) (rel : Nat) : State :=
  match k with
  | .tile g => if 0x500 ≤ rel ∧ rel < 0x580 then s.clkSettle g else s.hemSettle g
  | _ => s

/-- A read of a register whose word is `w`: a latched word goes first (R445), an _LO register latches its others (R8). -/
def State.latchRead (s : State) (q : Nat) (k : Blk) (rel : Nat) : BitVec 32 × State :=
  match s.latch.find (latchKey q (k.base + rel)), loReg k rel with
  | none, true => (s.view q k rel, { s with latch := (latched k rel).foldl (fun m h => m.set (latchKey q (k.base + h)) (s.view q k h)) s.latch })
  | _, _ => s.takeLatch (latchKey q (k.base + rel)) (s.view q k rel)

/-- A 4-byte read of BAR0: 0 where no register is or its block is in reset; no word where its data are lost (R437). -/
def State.regRead (s : State) (q off : Nat) : Option (BitVec 32) × State :=
  match regAt off with
  | none => (some 0, s)
  | some (k, _, _) =>
    let rel := off - k.base
    if s.inReset k then (some 0, s)
    else
      match k, rel == F.CC_MEM_DATA_DATA.off with
      | .tile g, true => s.memDataRead g
      | _, _ => (fun x => (some x.1, x.2)) ((s.readReady k rel).latchRead q k rel)

/-! ### BAR4 (Tables 11.6, 11.8) -/

/-- Commands of a pair in progress (R316). -/
def State.qActive (s : State) (p n : Nat) : Bool := (s.qp p n).doneQ != [] || (s.qp p n).moving != []

def State.view4 (s : State) (p off : Nat) : BitVec 32 :=
  let w := s.word4 p off
  let n := off / 64
  if off < 0x1000 ∧ off % 64 = 0x18 then
    vfields w [(F.HST_Q_STAT_SQ_HEAD n, (s.qp p n).sqHead), (F.HST_Q_STAT_CQ_FULL n, b2n (s.cqFull p n)), (F.HST_Q_STAT_ACTIVE n, b2n (s.qActive p n))]
  else w

/-- A 4-byte read of BAR4: 0 where no register is (R305). -/
def State.bar4Read (s : State) (p off : Nat) : BitVec 32 × State :=
  match bar4At off with
  | none => (0, s)
  | some _ =>
    if off < 0x1000 ∧ (off % 64 = 0 ∨ off % 64 = 8) then
      (s.view4 p off, { s with latch := s.latch.set (latchKey p (2 ^ 27 + off + 4)) (s.view4 p (off + 4)) })
    else s.takeLatch (latchKey p (2 ^ 27 + off)) (s.view4 p off)

/-! ### Requests of a port (R306, R313) -/

/-- 4 bytes aligned to 4, or 8 aligned to 8 (R306). -/
def sizeFits (off size : Nat) : Bool := (size == 4 && off % 4 == 0) || (size == 8 && off % 8 == 0)

/-- The same for a port; in D3hot a port answers no memory request (PRESUMED from the PCIe specification, log entry 13). -/
def State.sizeOk (s : State) (p off size : Nat) : Bool := sizeFits off size && !(s.hport p).d3hot

def Req.port? : Req → Option Port
  | .p0 => some .p0
  | .p1 => some .p1
  | .hkc => none

/-- One 4-byte read of a window. -/
def State.readWord (s : State) (q : Req) (bar : Bar) (off : Nat) : Option (BitVec 32) × State :=
  match bar with
  | .bar0 => s.regRead q.n off
  | .bar4 => (fun x => (some x.1, x.2)) (s.bar4Read q.n off)

/-- A read of 4 or 8 bytes: its value goes to the requester; a port whose request meets lost data has Completer Abort, as on BAR2 (R437, Table 16.3; DEDUCED,
log entry 114). -/
def State.readReq (s : State) (q : Req) (bar : Bar) (off size : Nat) : State :=
  let (lo, s) := s.readWord q bar off
  let (hi, s) := if size = 4 then (some 0, s) else s.readWord q bar (off + 4)
  match lo, hi with
  | some lo, some hi => s.send (.regData q bar off (BitVec.ofNat 64 (lo.toNat + hi.toNat * 2 ^ 32)))
  | _, _ => (Req.port? q).elim s fun p => s.sendCa p off

/-- A read request (row LO_READ_LATCH; every register read is one, of which R8 latches those of _LO registers). The HKC reads BAR0 only. -/
def execLoReadLatch (q : Req) (bar : Bar) (off size : Nat) (s : State) : Result :=
  .next (match Req.port? q with
    | none => if bar = .bar0 ∧ sizeFits off size then s.readReq q bar off size else s
    | some p =>
      if !s.portOn p.n then s
      else if !s.sizeOk p.n off size then s.sendUr p off
      else s.readReq q bar off size)

/-- Row CC_MEM_DATA_READ. -/
def execCcMemDataRead (q : Req) (t : Site) (s : State) : Result :=
  .next (if (Req.port? q).all fun p => s.portOn p.n && !(s.hport p.n).d3hot then s.readReq q .bar0 ((Blk.tile t.g).base + F.CC_MEM_DATA_DATA.off) 4 else s)

end Sys2Proof.Machine
end

