-- ==== Sys2Proof/Machine/RegWrite.lean ====
section
/-! DEFINITION. Writing registers (R8 to R13, R23, R97, R305, R306, R311, R315, R463): which write is refused, what it stores, and what the
block does with it. -/
namespace Sys2Proof.Machine

/-! ### How a write comes -/

/-- A request of a port or of the HKC, CSRW of the tile's own core (R97), or DBG_REG (R467). -/
inductive Via where | bus | csr | jtag
  deriving DecidableEq, Repr

/-- A global stop bars the windows of tiles and STK registers (R463). -/
def State.stopBars (s : State) (k : Blk) : Bool :=
  match k with
  | .tile _ => s.trace.stopped
  | .stk _ => s.trace.stopped
  | _ => false

/-- A write that a running pattern, a running tile or a global stop bars (R97, R213, R463); CSRW reaches no register of Table 3.14 other than
CQ_DONE_WAIT. The HKC is no host. -/
def State.barred (s : State) (q : Req) (v : Via) (k : Blk) (rel : Nat) : Bool :=
  match k with
  | .tile g =>
    s.trace.stopped || (match v with
      | .csr => decide (rel < 0x60) && rel != F.CQ_DONE_WAIT_SEQ.off
      | _ => q != .hkc && [F.CC_CTRL_RUN.off, F.CC_MEM_ADDR_ADDR.off, F.CC_MEM_DATA_DATA.off].contains rel
          && (s.stackRuns (g / 160) || (s.tile g).mode == .running))
  | .stk _ => s.trace.stopped
  | .nbu u => s.ringBarred q u rel
  | _ => false

/-! ### What the blocks do with a write: `v` is the value written, the register's own word being stored -/

/-- Registers whose word stands elsewhere in the state, so that a write stores nothing in `regs`. -/
def elsewhere (k : Blk) (rel : Nat) : Bool :=
  match k with
  | .cfg => true
  | .mbx => decide (0x7000 ≤ rel)
  | .err => rel == F.ERR_LOG_SEL_SLOT.off
  | .chk _ => decide (0x100 ≤ rel) && rel % 32 < 8
  | .tile _ => rel == F.CC_PC_PC.off || rel == F.CC_CTRL_RUN.off || rel == F.CC_MEM_DATA_DATA.off
  | _ => false

def State.mbxSet (s : State) (rel : Nat) (v : BitVec 32) : State :=
  if rel = F.MBX_SEG_CTRL_POST.off then (if fget F.MBX_SEG_CTRL_POST v = 1 then s.postSegment else s)
  else if rel = F.MBX_CMD_CMD.off then s.mbxCmd (fget F.MBX_CMD_CMD v)
  else if rel = F.MBX_BOOT_CFG_STOP_BEFORE.off then s.bootContinue
  else if 0x7000 ≤ rel then s.windowWrite (rel - 0x7000) v
  else s

/-- A seam's two halves as retraining leaves them (R427): the write itself does not say, so both are free. -/
def State.seamAsk (s : State) (n : Nat) : State :=
  let (v, s) := s.draw
  s.seamRetrain n (v.getLsbD 0) (v.getLsbD 1)

def State.rstSet (s : State) (q : Req) (rel : Nat) (v : BitVec 32) (gpio : BitVec 8) : State :=
  if rel = F.RST_CMD_KEY.off then s.rstCmd q.n v.toNat
  else if rel = F.RST_BLK_CTRL_RESET.off then (if fget F.RST_BLK_CTRL_RESET v = 1 then s.askBlock (fget F.RST_BLK_CTRL_FORCE v == 1) else s)
  else if 0x100 ≤ rel ∧ rel < 0x140 ∧ rel % 16 = 0 then
    let d := (rel - 0x100) / 16
    if fget (F.RST_BD_CTRL_RESET d) v = 1 then s.askBaseDie d (fget (F.RST_BD_CTRL_FORCE d) v == 1) else s
  else if 0x200 ≤ rel ∧ rel < 0x240 ∧ rel % 16 = 0 then
    let n := (rel - 0x200) / 16
    if fget (F.SEAM_CTRL_RETRAIN n) v = 1 then s.seamAsk n else s
  else if rel = F.RST_GPIO_DIR_DIR.off ∨ rel = F.RST_GPIO_OUT_LEVEL.off then s.gpioEdges gpio
  else s

def State.cfgSet (s : State) (q : Req) (rel : Nat) (v : BitVec 32) : State :=
  if rel = F.CFG_TXN_BEGIN_BASTE.off then (if fget F.CFG_TXN_BEGIN_BASTE v = 1 then s.baste q.n else s)
  else if rel = F.CFG_TXN_COMMIT_STITCH.off then (if fget F.CFG_TXN_COMMIT_STITCH v = 1 then s.stitch q else s)
  else if rel = F.CFG_TXN_ROLLBACK_UNPICK.off then (if fget F.CFG_TXN_ROLLBACK_UNPICK v = 1 then s.unpick q.n else s)
  else if rel = F.CFG_ERR_NESTED.off then
    let t := s.txn q.n
    s.setTxn q.n { t with err := t.err &&& ~~~(v.truncate 3) }
  else s

/-- TRC_ATTR_SEL written: the entry of Table 17.5 stands in TRC_ATTR_DATA_0 to 7 (R460). -/
def State.attrLatch (s : State) : State :=
  let n := s.r .trc F.TRC_ATTR_SEL_ENTRY
  let w := match s.trace.attr[n]? with
    | none => 0
    | some a => a.layer % 2 ^ 16 + a.operator % 2 ^ 16 * 2 ^ 16 + (min a.retired (2 ^ 31 - 1) + (if n = 4095 then 2 ^ 31 else 0)) * 2 ^ 32
        + a.array % 2 ^ 64 * 2 ^ 64 + a.vector % 2 ^ 64 * 2 ^ 128 + a.moved % 2 ^ 64 * 2 ^ 192
  (List.range 8).foldl (fun s i => s.w .trc (F.TRC_ATTR_DATA_DATA i) (bits w (32 * i) 32)) s

def State.trcSet (s : State) (rel : Nat) (v : BitVec 32) : State :=
  if rel = F.TRC_ATTR_CTRL_CLEAR.off then
    (if fget F.TRC_ATTR_CTRL_CLEAR v = 1 then { s with trace := { s.trace with attr := [] } } else s)
  else if rel = F.TRC_ATTR_SEL_ENTRY.off then s.attrLatch
  else s

/-- CC_MEM_DATA written (R97, R174): a word of the tile's SRAM; a host's write of instruction SRAM is remembered for the quote (R351). -/
def State.memDataWrite (s : State) (g : Nat) (host : Bool) (v : BitVec 32) : State :=
  let a := s.memAddr g
  match s.storeCw a (leBytes 4 v.toNat) with
  | (false, s) => (s.logUe (cwAt a)).memNext g
  | (true, s) =>
    (match host, placeOf a with
    | true, .iram _ o => s.modTile g fun t => { t with iramHost := true, code := runsAdd t.code o (o + 4) }
    | _, _ => s).memNext g

/-- A write of a tile window; `ctrl` is what a write of CC_CTRL does. -/
def State.tileSet (ctrl : State → Nat → BitVec 32 → State) (s : State) (host : Bool) (g rel : Nat) (v old : BitVec 32) : State :=
  if rel = F.CC_CTRL_RUN.off then ctrl s g v
  else if rel = F.CC_PC_PC.off then
    (if (s.tile g).run then s else s.modTile g fun t => { t with pc := BitVec.ofNat 64 (fget F.CC_PC_PC v * 4) })
  else if rel = F.CC_MEM_DATA_DATA.off then s.memDataWrite g host v
  else if rel = F.TRC_HEM_CFG_EN.off then s.hemCfg g (s.privClaim g) old
  else if rel = F.TRC_HEM_SEL_SLOT.off then s.hemLatch g
  else if rel = F.CMD_FAULT_STAT_VALID.off then
    (if fget F.CMD_FAULT_STAT_VALID v = 1 then s.faultStays g (fget F.CMD_FAULT_STAT_OVERFLOW v == 1) else s)
  else if 0x500 ≤ rel ∧ rel < 0x580 then s.trigCounts g
  else s

/-- The clock counters of a tile are brought up to the present before its gates, selections and counters change (R459). -/
def State.writeReady (s : State) (k : Blk) (rel : Nat) : State :=
  match k with
  | .tile g => if 0x460 ≤ rel ∧ rel < 0x580 then s.clkSettle g else s
  | _ => s

/-- A write that reaches its register: it stores, and the block acts. -/
def State.regSet (ctrl : State → Nat → BitVec 32 → State) (s : State) (q : Req) (via : Via) (k : Blk) (r : RegSpec) (off : Nat) (v : BitVec 32) :
    State :=
  let rel := off - k.base
  let s := s.writeReady k rel
  let old := s.word off
  let gpio := s.gpioIn
  let s := if r.badWrite v then s.logReg q.n off else s
  let s := if elsewhere k rel then s else s.setWord off (r.write old v)
  match k with
  | .mbx => s.mbxSet rel v
  | .rst => s.rstSet q rel v gpio
  | .cfg => s.cfgSet q rel v
  | .thm => if rel = F.THM_SHUTDOWN_CLEAR.off ∧ fget F.THM_SHUTDOWN_CLEAR v = 1 then s.shutClear q.n else s
  | .err =>
    if rel = F.ERR_STATUS_FATAL.off then (if fget F.ERR_STATUS_FATAL v = 1 then s.clearFatal else s)
    else if rel = F.ERR_LOG_SEL_SLOT.off then s.logLatch q.n v
    else s
  | .trc => s.trcSet rel v
  | .chk d =>
    if rel = F.CHK_SUB_CTRL_GO.off then
      (if fget F.CHK_SUB_CTRL_GO v ≠ 1 then s
       else if fget F.CHK_SUB_CTRL_ALG v = 3 then s.wb (.chk d) F.CHK_SUB_STAT_REFUSED true else s.chkSubGo d)
    else if 0x100 ≤ rel ∧ rel % 32 < 8 then s.chkValWrite d ((rel - 0x100) / 32) (rel % 32 == 4) v
    else s
  | .fab f => if rel = F.FAB_PORT_CTRL_RETRAIN.off ∧ fget F.FAB_PORT_CTRL_RETRAIN v = 1 then s.retrainPort f else s
  | .tile g => s.tileSet ctrl (q != .hkc && via != .csr) g rel v old
  | .edge e => if rel = F.EDGE_MARGIN_CTRL_START.off ∧ fget F.EDGE_MARGIN_CTRL_START v = 1 then s.marginStart e else s
  | _ => s

/-- One 4-byte write of BAR0. A write of a read-only register, or of a block in reset, is ignored; one that no block defines, out of scope
or barred is ignored and logged, and so is CSRW to any register that R97 bars, read-only ones included; an RWT register takes it by a transaction, which CSRW and DBG_REG never stage in (R373, R467). -/
def State.regWriteBy (ctrl : State → Nat → BitVec 32 → State) (s : State) (q : Req) (via : Via) (off : Nat) (v : BitVec 32) : State :=
  match regAt off with
  | none => s.logReg q.n off
  | some (k, r, _) =>
    let rel := off - k.base
    if s.inReset k then s
    else if (via = .csr ∨ s.stopBars k) ∧ s.barred q via k rel then s.logReg q.n off
    else if !r.writable then s
    else if via = .jtag ∧ k = .trc ∧ rel = F.TRC_DBG_CFG_JTAG_EN.off then s
    else if s.barred q via k rel || (via != .csr && !s.mayWrite q (s.scopeOf k rel)) then s.logReg q.n off
    else if !r.isRwt then s.regSet ctrl q via k r off v
    else if via = .bus then s.rwtWrite q r off v
    else if r.paired then (s.setTxn q.n ((s.txn q.n).setErr 2)).logReg q.n off
    else s.txnEnd q true (s.txnCheck q true [(off, v)])

/-! ### CSRR, CSRW and CC_CTRL (R65, R66, R68, R97) -/

/-- CSRR and CSRW of a core, which reach its own window; CSRW never reaches CC_CTRL. -/
def State.csr (s : State) (g : Nat) (i : CoreInstr) : State :=
  match i with
  | .csrr rd imm =>
    if 0x1000 ≤ imm.toNat * 4 then s.coreFault g 3
    else
      match s.regRead 4 ((Blk.tile g).base + imm.toNat * 4) with
      | (some v, s) => s.coreWrite g rd (v.zeroExtend 64)
      | (none, s) => s.coreFault g 4
  | .csrw rs1 imm =>
    if 0x1000 ≤ imm.toNat * 4 then s.coreFault g 3
    else
      (s.regWriteBy (fun s _ _ => s) .hkc .csr ((Blk.tile g).base + imm.toNat * 4) (((s.tile g).gr rs1).truncate 32)).coreNext g (s.tile g).next 1
  | _ => s

/-- CC_CTRL written: RUN starts or halts the core, STEP executes one instruction of a halted one. -/
def State.ccCtrl (s : State) (g : Nat) (v : BitVec 32) : State :=
  let s := if fget F.CC_CTRL_RUN v = 1 then s.runCore g else if (s.tile g).run then s.haltCore g else s
  if fget F.CC_CTRL_STEP v = 1 then s.stepCore State.csr g else s

/-- One 4-byte write of BAR0. -/
def State.regWrite (s : State) (q : Req) (via : Via) (off : Nat) (v : BitVec 32) : State := s.regWriteBy State.ccCtrl q via off v

/-! ### BAR4 (R305, R310, R313, R315, R316, R321) -/

/-- HST_Q_n_CTRL written: EN from 0 to 1 makes the pair new, and is refused until the module is ready (R316, Table 12.1). -/
def State.qCtrl (s : State) (p n : Nat) (r : RegSpec) (v : BitVec 32) : State :=
  let off := (F.HST_Q_CTRL_EN n).off
  let old := s.word4 p off
  let ready := s.b .id F.ID_STATUS_READY
  let w := r.write old v
  let w := if ready || fget (F.HST_Q_CTRL_EN n) old == 1 then w else fput (F.HST_Q_CTRL_EN n) w 0
  let up := fget (F.HST_Q_CTRL_EN n) old == 0 && fget (F.HST_Q_CTRL_EN n) w == 1
  let s := s.setWord4 p off w
  if up then s.qEnable p n else s

/-- HST_CTRL written: TAKE_REFUSED clears, then the role is taken, or the control port named where the value changes it. -/
def State.hstCtrl (s : State) (p : Nat) (v : BitVec 32) : State :=
  let s := if fget F.HST_CTRL_TAKE_REFUSED v = 1 then s.w4 0 F.HST_CTRL_TAKE_REFUSED 0 else s
  if fget F.HST_CTRL_TAKE_CTRL v = 1 then s.takeCtrl p
  else if fget F.HST_CTRL_CTRL_PORT v ≠ s.ctrlPort then s.nameCtrl p (fget F.HST_CTRL_CTRL_PORT v)
  else s

/-- HST_BOLT_b written: CQ and IEN by the owner only, then CMD. -/
def State.hstBolt (s : State) (p b : Nat) (v : BitVec 32) : State :=
  let s := if s.owner b = some p then
      (s.w4 0 (F.HST_BOLT_CQ b) (fget (F.HST_BOLT_CQ b) v)).w4 0 (F.HST_BOLT_IEN b) (fget (F.HST_BOLT_IEN b) v)
    else s
  s.boltCmd p b (fget (F.HST_BOLT_CMD b) v)

/-- One 4-byte write of a port's BAR4. -/
def State.bar4Write (s : State) (p off : Nat) (v : BitVec 32) : State :=
  match bar4At off with
  | none => s.logBar4 p off
  | some (r, i) =>
    let st := s.setWord4 p off (r.write (s.word4 p off) v)
    if off < 0x1000 then
      let s := if r.badWrite v then s.logBar4 p off else s
      let st := if r.badWrite v then st.logBar4 p off else st
      if off % 64 < 0x14 then (if s.qOn p i || s.qActive p i then s.logBar4 p off else st)
      else if off % 64 = 0x14 then s.qCtrl p i r v
      else st
    else if off = F.HST_CTRL_CTRL_PORT.off then s.hstCtrl p v
    else if off < 0x10100 then s.hstBolt p i v
    else if 0x100000 ≤ off ∧ off < 0x140000 then
      if off % 0x1000 = 0 then s.sqBell p i (v.toNat % 2 ^ 16) else s.cqBell p i (v.toNat % 2 ^ 16)
    else if 0x800000 ≤ off ∧ off % 16 = 12 ∧ off < 0x801000 then st.flushMsix p
    else if r.writable then st
    else s

/-! ### Requests of a port (R306, R313) -/

/-- One 4-byte write of a window. -/
def State.writeWord (s : State) (q : Req) (bar : Bar) (off : Nat) (v : BitVec 32) : State :=
  match bar with
  | .bar0 => s.regWrite q .bus off v
  | .bar4 => s.bar4Write q.n off v

/-- A write of 4 or 8 bytes, in ascending address order. -/
def State.writeReq (s : State) (q : Req) (bar : Bar) (off size : Nat) (v : BitVec 64) : State :=
  let s := s.writeWord q bar off (v.truncate 32)
  if size = 4 then s else s.writeWord q bar (off + 4) ((v >>> 32).truncate 32)

/-- A write request: nothing from a port that does not reach the module; the HKC writes BAR0 only. -/
def State.request (s : State) (q : Req) (bar : Bar) (off size : Nat) (v : BitVec 64) : State :=
  match Req.port? q with
  | none => if bar = .bar0 ∧ sizeFits off size then s.writeReq q bar off size v else s
  | some p =>
    if !s.portOn p.n then s
    else if !s.sizeOk p.n off size then s.sendUr p off
    else s.writeReq q bar off size v

/-- A 4-byte write of a register of a block. -/
def State.write0 (s : State) (q : Req) (k : Blk) (rel : Nat) (v : BitVec 32) : State := s.request q .bar0 (k.base + rel) 4 (v.zeroExtend 64)
/-- A 4-byte write of a BAR4 register. -/
def State.write4 (s : State) (p : Port) (off : Nat) (v : BitVec 32) : State :=
  s.request (match p with | .p0 => .p0 | .p1 => .p1) .bar4 off 4 (v.zeroExtend 64)

end Sys2Proof.Machine
end

