-- ==== Sys2Proof/Machine/RegRows.lean ====
section
/-! DEFINITION. The rows that are register writes: each is the write of one register, named in its row, with the values its operands give. -/
namespace Sys2Proof.Machine

/-! ### The plain write, CSRR and CSRW (R10, R65, R97, R306) -/

/-- Row REGISTER_WRITE: a bad TLP of a port is discarded (R304). -/
def execRegisterWrite (q : Req) (bar : Bar) (off size : Nat) (val : DWord) (tlp : Tlp) (s : State) : Result :=
  .next (match Req.port? q with
    | none => s.request q bar off size val
    | some p =>
      if !s.portOn p.n then s
      else match s.tlpCheck p tlp off (off % 2 ^ 26 + (if p.n = 1 then 2 ^ 32 else 0)) with
        | (false, s) => s
        | (true, s) => s.request q bar off size val)
def execCsrr (t : Site) (rd : BitVec 5) (imm : BitVec 16) (s : State) : Result := .next (s.coreTurn t.g (.csrr rd imm) fun s => s.csr t.g (.csrr rd imm))
def execCsrw (t : Site) (rs1 : BitVec 5) (imm : BitVec 16) (s : State) : Result := .next (s.coreTurn t.g (.csrw rs1 imm) fun s => s.csr t.g (.csrw rs1 imm))

/-! ### Tiles (R66, R97, R452, R455) -/

def execCcRun (q : Req) (t : Site) (s : State) : Result := .next (s.write0 q (.tile t.g) F.CC_CTRL_RUN.off 1)
def execCcHalt (q : Req) (t : Site) (s : State) : Result := .next (s.write0 q (.tile t.g) F.CC_CTRL_RUN.off 0)
/-- STEP with RUN as it stands. -/
def execCcStep (q : Req) (t : Site) (s : State) : Result :=
  .next (s.write0 q (.tile t.g) F.CC_CTRL_STEP.off (BitVec.ofNat 32 (2 + b2n (s.tile t.g).run)))
def execCcMemDataWrite (q : Req) (t : Site) (val : Word) (s : State) : Result := .next (s.write0 q (.tile t.g) F.CC_MEM_DATA_DATA.off val)
/-- TRC_HEM_CFG written with EN set. -/
def execHemEnable (q : Req) (t : Site) (val : Word) (s : State) : Result := .next (s.write0 q (.tile t.g) F.TRC_HEM_CFG_EN.off (val ||| 1))
def execHemLatch (q : Req) (t : Site) (val : Word) (s : State) : Result := .next (s.write0 q (.tile t.g) F.TRC_HEM_SEL_SLOT.off val)
def execAttrLatch (q : Req) (val : Word) (s : State) : Result := .next (s.write0 q .trc F.TRC_ATTR_SEL_ENTRY.off val)
/-- CLEAR with the other fields as they stand. -/
def execAttrClear (q : Req) (s : State) : Result :=
  .next (s.write0 q .trc F.TRC_ATTR_CTRL_CLEAR.off (fput F.TRC_ATTR_CTRL_CLEAR (s.word (Blk.trc.base + F.TRC_ATTR_CTRL_CLEAR.off)) 1))

/-! ### Memories, seams, fabric (R177, R188, R273, R427) -/

/-- FLIP_CTRL of a compute stack or an edge stack written with ARM set. -/
def execFlipArm (q : Req) (edge : Bool) (k : Fin 12) (val : Word) (s : State) : Result :=
  .next (if edge then s.write0 q (.edge k.val) F.EDGE_FLIP_CTRL_ARM.off (val ||| 1) else s.write0 q (.stk k.val) F.PMEM_FLIP_CTRL_ARM.off (val ||| 1))
/-- EDGE_MARGIN_CTRL written with START set. -/
def execMarginScanStart (q : Req) (e : Fin 12) (val : Word) (s : State) : Result := .next (s.write0 q (.edge e.val) F.EDGE_MARGIN_CTRL_START.off (val ||| 1))
/-- RETRAIN with EN as it stands. -/
def execPortRetrain (q : Req) (f : Fin 12) (s : State) : Result :=
  .next (s.write0 q (.fab f.val) F.FAB_PORT_CTRL_RETRAIN.off (BitVec.ofNat 32 (2 + s.r (.fab f.val) F.FAB_PORT_CTRL_EN)))

/-- SEAM_n_CTRL written with RETRAIN by a requester that may; the halves that trained are operands (log entry 12). -/
def execSeamRetrain (q : Req) (n : Fin 4) (halfA halfB : Bool) (s : State) : Result :=
  .next (
    let off := Blk.rst.base + (F.SEAM_CTRL_RETRAIN n.val).off
    if (Req.port? q).any (fun p => !s.portOn p.n || (s.hport p.n).d3hot) then s
    else if s.inReset .rst then s
    else if !s.mayWrite q (s.scopeOf .rst (F.SEAM_CTRL_RETRAIN n.val).off) then s.logReg q.n off
    else s.seamRetrain n.val halfA halfB)

/-! ### Queues and ownership (R310, R313, R315, R316) -/

def execSqTailDoorbell (p : Port) (n : Fin 64) (val : Word) (s : State) : Result := .next (s.write4 p (F.HST_SQ_TAIL_TAIL n.val).off val)
def execCqHeadDoorbell (p : Port) (n : Fin 64) (val : Word) (s : State) : Result := .next (s.write4 p (F.HST_CQ_HEAD_HEAD n.val).off val)
/-- EN written as 1 or 0 with the other fields as they stand. -/
def execQueueEnable (p : Port) (n : Fin 64) (s : State) : Result :=
  .next (s.write4 p (F.HST_Q_CTRL_EN n.val).off (fput (F.HST_Q_CTRL_EN n.val) (s.word4 p.n (F.HST_Q_CTRL_EN n.val).off) 1))
def execQueueDisable (p : Port) (n : Fin 64) (s : State) : Result :=
  .next (s.write4 p (F.HST_Q_CTRL_EN n.val).off (fput (F.HST_Q_CTRL_EN n.val) (s.word4 p.n (F.HST_Q_CTRL_EN n.val).off) 0))
def execCtrlPortSet (p : Port) (dst : Port) (s : State) : Result := .next (s.write4 p F.HST_CTRL_CTRL_PORT.off (BitVec.ofNat 32 dst.n))
def execTakeCtrl (p : Port) (s : State) : Result := .next (s.write4 p F.HST_CTRL_CTRL_PORT.off 2)

/-- HST_BOLT_b written with a CMD, CQ and IEN as they stand. -/
def State.boltReq (s : State) (p : Port) (b cmd : Nat) : State :=
  s.write4 p (F.HST_BOLT_CMD b).off (fput (F.HST_BOLT_CMD b) (s.word4 0 (F.HST_BOLT_CMD b).off) cmd)
def execClaim (p : Port) (b : Fin 12) (s : State) : Result := .next (s.boltReq p b.val 1)
def execBoltRelease (p : Port) (b : Fin 12) (s : State) : Result := .next (s.boltReq p b.val 2)
def execBoltTake (p : Port) (b : Fin 12) (s : State) : Result := .next (s.boltReq p b.val 3)

/-! ### The mailbox (R331, R332, R348, R351, R352) -/

/-- MBX_SEG_CTRL written with POST set. -/
def execSegmentPost (q : Req) (val : Word) (s : State) : Result := .next (s.write0 q .mbx F.MBX_SEG_CTRL_POST.off (val ||| 0x80000000))
/-- STOP_BEFORE written as 0 with the other fields as they stand. -/
def execBootContinue (q : Req) (s : State) : Result :=
  .next (s.write0 q .mbx F.MBX_BOOT_CFG_STOP_BEFORE.off (fput F.MBX_BOOT_CFG_STOP_BEFORE (s.word (Blk.mbx.base + F.MBX_BOOT_CFG_STOP_BEFORE.off)) 0))
def execAttest (q : Req) (s : State) : Result := .next (s.mbxRow (s.write0 q .mbx F.MBX_CMD_CMD.off 1))
def execReadIdkey (q : Req) (s : State) : Result := .next (s.mbxRow (s.write0 q .mbx F.MBX_CMD_CMD.off 2))
def execClearAlt (q : Req) (s : State) : Result := .next (s.mbxRow (s.write0 q .mbx F.MBX_CMD_CMD.off 3))
def execMbxReservedCmd (q : Req) (cmd : Byte) (s : State) : Result :=
  .next (s.mbxRow (s.write0 q .mbx F.MBX_CMD_CMD.off (cmd.zeroExtend 32)))

/-! ### Resets (R355, R363, R364, R428, R429) -/

def execRstCmdPor (q : Req) (s : State) : Result := .next (s.write0 q .rst F.RST_CMD_KEY.off 0x5EA30001)
def execRstCmdSystem (q : Req) (s : State) : Result := .next (s.write0 q .rst F.RST_CMD_KEY.off 0x5EA30002)
def execRstCmdCore (q : Req) (s : State) : Result := .next (s.write0 q .rst F.RST_CMD_KEY.off 0x5EA30003)
def execBlockReset (q : Req) (s : State) : Result := .next (s.write0 q .rst F.RST_BLK_CTRL_RESET.off 1)
def execBlockResetForced (q : Req) (s : State) : Result := .next (s.write0 q .rst F.RST_BLK_CTRL_RESET.off 3)
def execBaseDieReset (q : Req) (d : Fin 4) (s : State) : Result := .next (s.write0 q .rst (F.RST_BD_CTRL_RESET d.val).off 1)
def execBaseDieResetForced (q : Req) (d : Fin 4) (s : State) : Result := .next (s.write0 q .rst (F.RST_BD_CTRL_RESET d.val).off 3)

/-! ### Transactions (R369 to R374) -/

def execBaste (q : Req) (s : State) : Result := .next (s.write0 q .cfg F.CFG_TXN_BEGIN_BASTE.off 1)
def execStitch (q : Req) (s : State) : Result := .next (s.write0 q .cfg F.CFG_TXN_COMMIT_STITCH.off 1)
def execUnpick (q : Req) (s : State) : Result := .next (s.write0 q .cfg F.CFG_TXN_ROLLBACK_UNPICK.off 1)

/-- The register at an offset is an RWT register. -/
def rwtAt (off : Nat) : Bool :=
  match regAt off with
  | some (_, r, _) => r.isRwt
  | none => false

/-- Row TXN_STAGE_WRITE: a write of an RWT register while the requester's transaction is open. -/
def execTxnStageWrite (q : Req) (off : Nat) (val : Word) (s : State) : Result :=
  .next (if rwtAt off && ((s.txnExpire q.n).txn q.n).isOpen then s.request q .bar0 off 4 (val.zeroExtend 64) else s)

/-- Row RWT_LONE_WRITE: a write of an RWT register with no transaction open. -/
def execRwtLoneWrite (q : Req) (off : Nat) (val : Word) (s : State) : Result :=
  .next (if rwtAt off && !((s.txnExpire q.n).txn q.n).isOpen then s.request q .bar0 off 4 (val.zeroExtend 64) else s)

/-! ### Thermal, errors, check units (R403, R432, R434, R439, R445) -/

def execShutdownClear (q : Req) (s : State) : Result := .next (s.write0 q .thm F.THM_SHUTDOWN_CLEAR.off 0x80000000)
def execFatalClear (q : Req) (s : State) : Result := .next (s.write0 q .err F.ERR_STATUS_FATAL.off 1)
def execErrLogLatch (p : Port) (val : Word) (s : State) : Result :=
  .next (s.write0 (match p with | .p0 => .p0 | .p1 => .p1) .err F.ERR_LOG_SEL_SLOT.off val)
/-- CHK_SUB_CTRL written with GO set. -/
def execChkSubGo (q : Req) (d : Fin 4) (val : Word) (s : State) : Result := .next (s.write0 q (.chk d.val) F.CHK_SUB_CTRL_GO.off (val ||| 0x80000000))
def execChkCtxValWrite (q : Req) (d : Fin 4) (n : Fin 16) (hi : Bool) (val : Word) (s : State) : Result :=
  .next (s.write0 q (.chk d.val) (if hi then (F.CHK_CTX_VAL_HI_VALUE n.val).off else (F.CHK_CTX_VAL_LO_VALUE n.val).off) val)

end Sys2Proof.Machine
end

