-- ==== Sys2Proof/Machine/Debug.lean ====
section
/-! DEFINITION. Cross-triggers on arrival, hem freezing and spilling, global stop and dump, and the test access port (R454, R457, R458, R461 to
R467). -/
namespace Sys2Proof.Machine

/-! ### Hems and cross-triggers (R454, R457, R458) -/

/-- Row HEM_SPILL_LINE: a spill ring that a pattern's claim has come to cover is refused instead. -/
def execHemSpillLine (t : Site) (s : State) : Result :=
  .next (
    let h := (s.tile t.g).hem
    if !s.live || h.hstate = 0 || h.mode != 3 then s
    else if s.spillBad t.g (s.privClaim t.g) then s.spillRefuse t.g
    else s.hemSpill t.g)

/-- Row XTRIG_FRAME: accepted with XTRIG_EN set, and delivered to every tile of the module. -/
def execXtrigFrame (dest : MgmtDest) (tx : Nat) (id : Byte) (stop : Bool) (s : State) : Result :=
  .next (match s.route dest 0x04 (leBytes 8 tx ++ [id] ++ leBytes 1 (b2n stop)) with
    | (false, s) => s
    | (true, s) =>
      if !s.b (.fab 0) F.FAB_MGMT_CFG_XTRIG_EN then s
      else
        let s := ((s.wb .trc F.TRC_XTRIG_STAT_RCVD true).wb .trc F.TRC_XTRIG_STAT_STOP stop).xmod tx id.toNat
        let at_ := tx + s.r .trc F.TRC_XTRIG_POST_CYCLES
        if stop && s.b .trc F.TRC_XTRIG_CFG_XSTOP_EN then s.stopReq at_ (decide (at_ ≤ s.tape)) else s)

/-- Row CROSS_TRIGGER_ARRIVE: a cross-trigger that was sent reaches a tile. -/
def execCrossTriggerArrive (t : Site) (tx : Nat) (id : Byte) (s : State) : Result :=
  .next (if s.live && !s.tileHeld t.g && s.trace.xtrigs.contains (tx, id) then s.trigger t.g [.xtrig id.toNat] tx else s)

/-- Row HEM_FREEZE_AT_TAPE. -/
def execHemFreezeAtTape (t : Site) (s : State) : Result :=
  .next (match (s.tile t.g).hem.freezeAt with
    | none => s
    | some x =>
      if s.trace.stopped then s
      else (s.advanceTo x).modTile t.g fun t => { t with hem := { t.hem with freezeAt := none, hstate := if t.hem.hstate = 0 then 0 else 3 } })

/-! ### Global stop (R461 to R463) -/

/-- Row GLOBAL_STOP_ARM: TRC_STOP_CTRL as its transaction left it arms a stop at TRC_STOP_TAPE, or cancels one that no trigger asked for. -/
def execGlobalStopArm (s : State) : Result :=
  .next (
    let t := s.r2 .trc F.TRC_STOP_TAPE_LO_TAPE F.TRC_STOP_TAPE_HI_TAPE
    let st := s.r .trc F.TRC_STOP_STATUS_STATE
    if s.b .trc F.TRC_STOP_CTRL_ARM then
      (if st = 0 ∧ s.tape < t then { ((s.w .trc F.TRC_STOP_STATUS_STATE 1).wb .trc F.TRC_STOP_STATUS_TRIGGERED false) with trace := { s.trace with armed := some t } } else s)
    else if st = 1 ∧ !s.b .trc F.TRC_STOP_STATUS_TRIGGERED ∧ s.trace.armed.any (fun x => decide (s.tape < x)) then
      { (s.w .trc F.TRC_STOP_STATUS_STATE 0) with trace := { s.trace with armed := none } }
    else s)

/-- Where mesh data on its way is held: in a router, where it leaves its stack in the crossing of the base die, where it leaves that in a seam (DESIGN
CHOICE, log entry 66). -/
def meshKind (m : MeshMsg) : Nat := if m.src / 160 = m.dst / 160 then 1 else if dieOf (m.src / 160) = dieOf (m.dst / 160) then 2 else 3

/-- The scheduled domain stands: mesh data and flits not yet sent are held, with the tapes at which they were written (R462). -/
def State.holdAll (s : State) : State :=
  let s := s.mesh.foldl (fun s m => s.hold (meshKind m) m.dst m.at_ m.data) s
  (List.range 12).foldl (fun s f =>
    let p := s.fport f
    let s := p.slots.foldl (fun s x => s.hold 4 f x.2.at_ (flitBytes x.2.flit)) s
    let s := p.backlog.foldl (fun s x => s.hold 4 f x.2.2 (flitBytes x.1)) s
    p.replay.foldl (fun s x => s.hold 4 f x.2.2 (flitBytes x.1)) s) s

/-- The offset of a unit outside the scheduled domain from T: at most 1,000 tape cycles, and free (R463). -/
def State.smear (s : State) (f : Fld) : State :=
  let (v, s) := s.draw
  s.w .trc f (v.toNat % 1001)

/-- Row GLOBAL_STOP: the stop that is armed is taken. -/
def execGlobalStop (s : State) : Result :=
  .next (match s.trace.armed with
    | none => s
    | some t =>
      if s.r .trc F.TRC_STOP_STATUS_STATE ≠ 1 then s
      else
        let s := s.advanceTo t
        let s := (List.range 1920).foldl (fun s g => s.clkSettle g) s
        let s := (List.range 1920).foldl (fun s g => if (s.tiles.find g).isSome then s.modTile g fun x => x.gap s.tape else s) s
        let s := { s with trace := { s.trace with armed := none, stopped := true, stopTape := s.tape } }
        let s := (s.w .trc F.TRC_STOP_STATUS_STATE 2).w2 .trc F.TRC_STOP_AT_LO_TAPE F.TRC_STOP_AT_HI_TAPE t
        (((s.smear F.TRC_STOP_SMEAR_P0).smear F.TRC_STOP_SMEAR_P1).smear F.TRC_STOP_SMEAR_HKC).holdAll)

/-! ### Dump (R464) -/

def State.dumpBase (s : State) : Nat := s.r .trc F.TRC_DUMP_BASE_LO_ADDR * 65536 + s.r .trc F.TRC_DUMP_BASE_HI_ADDR * 2 ^ 32

/-- The logical tiles of a stack with their sites. -/
def State.dumpTiles (s : State) (k : Nat) : List (Nat × Nat) := (List.range 144).filterMap fun n => (s.siteOf (k * 144 + n)).map fun g => (n, g)

/-- A tile's record: Table 8.8 with the hem and the tile registers 0x400 to 0x4FF. -/
def State.dumpTile (s : State) (b g a : Nat) : State :=
  let h := (s.tile g).hem
  let s := s.saveTile b g a (s.tile g).run
  let s := s.saveBytes (a + 0x1A3000) 0x4000 ((List.range 1024).flatMap fun i => leBytes 16 (h.slots.get 0 i).toNat)
  s.saveBytes (a + 0x1A7000) 0x100 ((List.range 64).flatMap fun i => leBytes 4 (s.view 2 (.tile g) (0x400 + 4 * i)).toNat)

/-- The part of a stack. -/
def State.dumpStack (s : State) (k : Nat) : State :=
  let b := (s.boltOf k).getD 12
  let a := s.dumpBase + k * ctxLen
  let ts := s.dumpTiles k
  let tape := s.r2 .trc F.TRC_STOP_AT_LO_TAPE F.TRC_STOP_AT_HI_TAPE
  let s := s.saveHead 0x51544458 a b k (s.r (.bolt b) F.PAT_TACK_TACK) tape ts
  ts.foldl (fun s t => s.dumpTile b t.2 (a + 0x10000 + t.1 * 0x200000)) s

/-- A held entry's 320 bytes: KIND, index, tape and length of 8 bytes each, the data at byte 32 (log entry 66). -/
def HeldEntry.bytes (e : HeldEntry) : List (BitVec 8) :=
  leBytes 8 e.kind ++ leBytes 8 e.index ++ leBytes 8 e.tape ++ leBytes 8 (min e.data.length 256)
    ++ (e.data.take 256 ++ List.replicate 288 0).take 288

/-- The held entries that the area of 16 MiB takes. -/
def State.heldOut (s : State) : List HeldEntry := s.trace.held.take ((0x1000000 - 8) / 320)
def State.dumpLen (s : State) : Nat := 0xD80C0000 + 8 + 320 * s.heldOut.length

/-- Row DUMP: with the stop taken, the dump is written, or refused where it does not lie in edge memory. -/
def execDump (s : State) : Result :=
  .next (
    if !s.b .trc F.TRC_STOP_CTRL_DUMP ∨ s.r .trc F.TRC_STOP_STATUS_STATE ≠ 2 then s
    else if edgeEnd < s.dumpBase + s.dumpLen then (s.w .trc F.TRC_STOP_STATUS_STATE 5).wb .trc F.TRC_STOP_CTRL_DUMP false
    else
      let a := s.dumpBase + 0xD80C0000
      let held := s.heldOut
      let n := 8 + 320 * held.length
      let s := (List.range 12).foldl (fun s k => s.dumpStack k) (s.w .trc F.TRC_STOP_STATUS_STATE 3)
      s.saveBytes a n (leBytes 8 held.length ++ held.flatMap HeldEntry.bytes))

/-- Row DUMP_DONE. -/
def execDumpDone (s : State) : Result :=
  .next (if s.r .trc F.TRC_STOP_STATUS_STATE = 3 then (s.w .trc F.TRC_STOP_STATUS_STATE 4).wb .trc F.TRC_STOP_CTRL_DUMP false else s)

/-! ### The test access port (R466, R467, Table 17.6): each row is one scan of the data register that its instruction selects. While V48 is absent the
module's outputs are high impedance and nothing in it runs (R472) -/

def State.setIr (s : State) (ir : Nat) : State := { s with jtag := { s.jtag with ir := ir } }
/-- A row of the port, with V48 present. -/
def State.tap (s : State) (f : State → State) : Result := .next (if s.pins.v48 then f s else s)
/-- The bits of a number on TDO, least significant first. -/
def State.tdo (s : State) (n v : Nat) : State := s.send (.tdo ((List.range n).map fun i => v.testBit i))
/-- A data register whose captured bits the spec does not give (log entry 67). -/
def State.tdoFree (s : State) (n : Nat) : State :=
  (List.range n).foldl (fun (p : List Bool × State) _ => let (v, s) := p.2.draw; (p.1 ++ [v.getLsbD 0], s)) ([], s) |> fun p => p.2.send (.tdo p.1)
def State.jtagOn (s : State) : Bool := s.b .trc F.TRC_DBG_CFG_JTAG_EN
/-- An instruction that needs JTAG_EN while it is clear: a 1-bit register, which captures 0 as BYPASS does (PRESUMED from IEEE 1149.1, log
entry 67). -/
def State.jtagRefuse (s : State) : State := (s.wb .trc F.TRC_DBG_STAT_JTAG_REFUSED true).tdo 1 0

/-- Row TAP_RESET: the port selects IDCODE. -/
def execTapReset (s : State) : Result := .next (s.setIr 1)

/-- The boundary-scan register: one cell for each signal that R466 names, in the order of Table 18.2 (DESIGN CHOICE, log entry 67). -/
def scanCells : List String :=
  ["POR_N", "SYSRST_N", "PERST0_N", "PERST1_N", "THERMTRIP_N", "THERMALERT_N", "FAULT_N", "TAPE_SYNC_IN", "TAPE_SYNC_OUT", "HK_SCL", "HK_SDA",
   "FLOW_IN", "GPIO0", "GPIO1", "GPIO2", "GPIO3", "GPIO4", "GPIO5", "GPIO6", "GPIO7"]
/-- The cells of outputs, which EXTEST drives. -/
def outCells : List Nat := [4, 5, 6, 8, 10, 12, 13, 14, 15, 16, 17, 18, 19]

/-- The levels that the cells capture; of the inputs TAPE_SYNC_IN, HK_SCL, HK_SDA and FLOW_IN the state holds none, and they are free. -/
def State.scanLevels (s : State) : List Bool × State :=
  let (v, s) := s.draw
  let low (p : ResetPin) : Bool := !s.pins.low.contains p
  let g := s.gpioIn
  ([low .por, low .sysrst, low .perst0, low .perst1, !s.pins.thermtrip, !s.pins.thermalert, !s.pins.fault, v.getLsbD 0, decide (s.tape < s.pins.syncPulse),
    v.getLsbD 1, v.getLsbD 2, v.getLsbD 3] ++ (List.range 8).map fun i => g.getLsbD i, s)

/-- A scan of the boundary register: the captured levels go out and the given bits come in behind them; at Update-DR the register holds what has come
to stand in its cells. -/
def State.scan (s : State) (bits : List Bool) : State :=
  let (now, s) := s.scanLevels
  let all := now ++ bits
  { s.send (.tdo (all.take bits.length)) with jtag := { s.jtag with boundary := all.drop bits.length } }

/-- Row EXTEST: the output signals are driven from the boundary-scan register. -/
def execExtest (bits : List Bool) (s : State) : Result :=
  s.tap fun s =>
    let s := s.setIr 0
    if !s.jtagOn then s.jtagRefuse
    else
      let s := s.scan bits
      outCells.foldl (fun s i => s.send (.pin (scanCells.getD i "") (s.jtag.boundary.getD i false))) s

/-- Row SAMPLE/PRELOAD. -/
def execSamplePreload (bits : List Bool) (s : State) : Result := s.tap fun s => (s.setIr 2).scan bits

/-- The identification code. -/
def State.idcode (s : State) : Nat := 1 + Config.jedecVirzal.toNat * 2 + 0x0C12 * 2 ^ 12 + s.r .id F.ID_PART_STEP % 16 * 2 ^ 28

def execIdcode (s : State) : Result := s.tap fun s => let s := s.setIr 1; s.tdo 32 s.idcode

/-- Row BYPASS. -/
def execBypass (s : State) : Result := s.tap fun s => (s.setIr 0xFF).tdo 1 0

/-- The requester with the control port's rights. -/
def State.ctrlReq (s : State) : Req := if s.ctrlPort = 1 then .p1 else .p0

/-- A DBG_REG write that is refused: no such register, a block in reset, barred, a paired field, or a stitch refused (R13, R23, R467). -/
def State.jtagBad (s : State) (off : Nat) (v : BitVec 32) : Bool :=
  match regAt off with
  | none => true
  | some (k, r, _) =>
    let rel := off - k.base
    s.inReset k || s.barred s.ctrlReq .jtag k rel || (r.writable && !s.mayWrite s.ctrlReq (s.scopeOf k rel))
      || (r.isRwt && (r.paired || (match s.txnCheck s.ctrlReq true [(off, v)] with
        | .error _ => true
        | .ok _ => false)))

/-- Row DBG_REG: the result of the last access goes out, and the access that the data name is performed; DONE [59] and REFUSED [60] stand in
the next capture. -/
def execDbgReg (dr : DWord) (s : State) : Result :=
  s.tap fun s => (
    let s := s.setIr 0x10
    if !s.jtagOn then s.jtagRefuse
    else
      let s := s.tdo 64 s.jtag.capture.toNat
      let off := bits dr.toNat 32 26
      let v : BitVec 32 := dr.truncate 32
      let op := bits dr.toNat 32 27 * 2 ^ 32
      if dr.getLsbD 58 then
        let bad := s.jtagBad off v
        let cfg := decide (off = Blk.trc.base + F.TRC_DBG_CFG_JTAG_EN.off)
        let s := s.regWrite s.ctrlReq .jtag off v
        let s := if bad || cfg then s else s.wb .trc F.TRC_DBG_STAT_JTAG_WRITE true
        { s with jtag := { s.jtag with capture := BitVec.ofNat 64 (v.toNat + op + (if bad then 2 ^ 60 else 2 ^ 59)) } }
      else
        match s.regRead 3 off with
        | (some w, s) => { s with jtag := { s.jtag with capture := BitVec.ofNat 64 (w.toNat + op + 2 ^ 59) } }
        | (none, s) => { s with jtag := { s.jtag with capture := BitVec.ofNat 64 (op + 2 ^ 60) } })

/-- Row DBG_RESET. -/
def execDbgReset (dr : Byte) (s : State) : Result :=
  s.tap fun s => (
    let s := s.setIr 0x11
    if !s.jtagOn then s.jtagRefuse
    else
      let s := s.tdoFree 8
      match dr.toNat % 4 with
      | 0 => s
      | n => s.askReset n (some causeDebug))

end Sys2Proof.Machine
end

