-- ==== Sys2Proof/Machine/Dispatch.lean ====
section
/-! DEFINITION. The dispatch of the commands to their meanings, one arm per row of spec/opcode_table.json. -/
namespace Sys2Proof.Machine

/-- The effect of a command on everything but the queue. -/
def exec (i : Instr) (s : State) : Host.Outcome State Fault Refusal :=
  match i with
  | .registerWrite q bar off size val tlp => Sys2Proof.Machine.execRegisterWrite q bar off size val tlp s
  | .loReadLatch q bar off size => Sys2Proof.Machine.execLoReadLatch q bar off size s
  | .add t rd rs1 rs2 => Sys2Proof.Machine.execAdd t rd rs1 rs2 s
  | .sub t rd rs1 rs2 => Sys2Proof.Machine.execSub t rd rs1 rs2 s
  | .and_ t rd rs1 rs2 => Sys2Proof.Machine.execAnd t rd rs1 rs2 s
  | .or_ t rd rs1 rs2 => Sys2Proof.Machine.execOr t rd rs1 rs2 s
  | .xor t rd rs1 rs2 => Sys2Proof.Machine.execXor t rd rs1 rs2 s
  | .shl t rd rs1 rs2 => Sys2Proof.Machine.execShl t rd rs1 rs2 s
  | .shr t rd rs1 rs2 => Sys2Proof.Machine.execShr t rd rs1 rs2 s
  | .sar t rd rs1 rs2 => Sys2Proof.Machine.execSar t rd rs1 rs2 s
  | .slt t rd rs1 rs2 => Sys2Proof.Machine.execSlt t rd rs1 rs2 s
  | .sltu t rd rs1 rs2 => Sys2Proof.Machine.execSltu t rd rs1 rs2 s
  | .mul t rd rs1 rs2 => Sys2Proof.Machine.execMul t rd rs1 rs2 s
  | .mulhu t rd rs1 rs2 => Sys2Proof.Machine.execMulhu t rd rs1 rs2 s
  | .addi t rd rs1 imm => Sys2Proof.Machine.execAddi t rd rs1 imm s
  | .andi t rd rs1 imm => Sys2Proof.Machine.execAndi t rd rs1 imm s
  | .ori t rd rs1 imm => Sys2Proof.Machine.execOri t rd rs1 imm s
  | .xori t rd rs1 imm => Sys2Proof.Machine.execXori t rd rs1 imm s
  | .shi t rd rs1 imm => Sys2Proof.Machine.execShi t rd rs1 imm s
  | .lui t rd imm => Sys2Proof.Machine.execLui t rd imm s
  | .ld t rd rs1 imm => Sys2Proof.Machine.execLd t rd rs1 imm s
  | .lw t rd rs1 imm => Sys2Proof.Machine.execLw t rd rs1 imm s
  | .lb t rd rs1 imm => Sys2Proof.Machine.execLb t rd rs1 imm s
  | .sd t rd rs1 imm => Sys2Proof.Machine.execSd t rd rs1 imm s
  | .sw t rd rs1 imm => Sys2Proof.Machine.execSw t rd rs1 imm s
  | .sb t rd rs1 imm => Sys2Proof.Machine.execSb t rd rs1 imm s
  | .beq t rs1 rs2 off => Sys2Proof.Machine.execBeq t rs1 rs2 off s
  | .bne t rs1 rs2 off => Sys2Proof.Machine.execBne t rs1 rs2 off s
  | .blt t rs1 rs2 off => Sys2Proof.Machine.execBlt t rs1 rs2 off s
  | .bge t rs1 rs2 off => Sys2Proof.Machine.execBge t rs1 rs2 off s
  | .bltu t rs1 rs2 off => Sys2Proof.Machine.execBltu t rs1 rs2 off s
  | .bgeu t rs1 rs2 off => Sys2Proof.Machine.execBgeu t rs1 rs2 off s
  | .j t off => Sys2Proof.Machine.execJ t off s
  | .jal t off => Sys2Proof.Machine.execJal t off s
  | .jr t rd rs1 imm => Sys2Proof.Machine.execJr t rd rs1 imm s
  | .cqpush t rs1 imm => Sys2Proof.Machine.execCqpush t rs1 imm s
  | .cqpushAppend t => Sys2Proof.Machine.execCqpushAppend t s
  | .cqwait t rs1 => Sys2Proof.Machine.execCqwait t rs1 s
  | .cqwaitReturn t rs1 => Sys2Proof.Machine.execCqwaitReturn t rs1 s
  | .csrr t rd imm => Sys2Proof.Machine.execCsrr t rd imm s
  | .csrw t rs1 imm => Sys2Proof.Machine.execCsrw t rs1 imm s
  | .taper t rd => Sys2Proof.Machine.execTaper t rd s
  | .halt t => Sys2Proof.Machine.execHalt t s
  | .ccRun q t => Sys2Proof.Machine.execCcRun q t s
  | .ccHalt q t => Sys2Proof.Machine.execCcHalt q t s
  | .ccStep q t => Sys2Proof.Machine.execCcStep q t s
  | .ccMemDataRead q t => Sys2Proof.Machine.execCcMemDataRead q t s
  | .ccMemDataWrite q t val => Sys2Proof.Machine.execCcMemDataWrite q t val s
  | .tileDrained t => Sys2Proof.Machine.execTileDrained t s
  | .commandRetire t => Sys2Proof.Machine.execCommandRetire t s
  | .reservedOpcode t => Sys2Proof.Machine.execReservedOpcode t s
  | .nop t => Sys2Proof.Machine.execNop t s
  | .nopDelayExpire t => Sys2Proof.Machine.execNopDelayExpire t s
  | .fence t => Sys2Proof.Machine.execFence t s
  | .fenceComplete t => Sys2Proof.Machine.execFenceComplete t s
  | .mm t => Sys2Proof.Machine.execMm t s
  | .mma t => Sys2Proof.Machine.execMma t s
  | .arrayProductStart t => Sys2Proof.Machine.execArrayProductStart t s
  | .mmOutputBeat t => Sys2Proof.Machine.execMmOutputBeat t s
  | .mmComplete t => Sys2Proof.Machine.execMmComplete t s
  | .attn t => Sys2Proof.Machine.execAttn t s
  | .attnBlock t => Sys2Proof.Machine.execAttnBlock t s
  | .attnComplete t => Sys2Proof.Machine.execAttnComplete t s
  | .attnBwd t => Sys2Proof.Machine.execAttnBwd t s
  | .attnBwdComplete t => Sys2Proof.Machine.execAttnBwdComplete t s
  | .vec t => Sys2Proof.Machine.execVec t s
  | .vecGroup t => Sys2Proof.Machine.execVecGroup t s
  | .vecComplete t => Sys2Proof.Machine.execVecComplete t s
  | .rngk t => Sys2Proof.Machine.execRngk t s
  | .shutCopy t => Sys2Proof.Machine.execShutCopy t s
  | .shutGather t => Sys2Proof.Machine.execShutGather t s
  | .swatchWalk t => Sys2Proof.Machine.execSwatchWalk t s
  | .shuttleAccess t c => Sys2Proof.Machine.execShuttleAccess t c s
  | .walkBlock t c => Sys2Proof.Machine.execWalkBlock t c s
  | .send t => Sys2Proof.Machine.execSend t s
  | .recv t => Sys2Proof.Machine.execRecv t s
  | .meshDataArrive m => Sys2Proof.Machine.execMeshDataArrive m s
  | .sendComplete t c => Sys2Proof.Machine.execSendComplete t c s
  | .tack t => Sys2Proof.Machine.execTack t s
  | .tackArrival t => Sys2Proof.Machine.execTackArrival t s
  | .wait t => Sys2Proof.Machine.execWait t s
  | .waitComplete t => Sys2Proof.Machine.execWaitComplete t s
  | .chk t => Sys2Proof.Machine.execChk t s
  | .privateRead t off => Sys2Proof.Machine.execPrivateRead t off s
  | .privateWrite t off data => Sys2Proof.Machine.execPrivateWrite t off data s
  | .edgeLineRequest e off wr by_ => Sys2Proof.Machine.execEdgeLineRequest e off wr by_ s
  | .needleRead e off by_ => Sys2Proof.Machine.execNeedleRead e off by_ s
  | .bar2Read p h len => Sys2Proof.Machine.execBar2Read p h len s
  | .bar2Write p h data tlp => Sys2Proof.Machine.execBar2Write p h data tlp s
  | .scrubRead l => Sys2Proof.Machine.execScrubRead l s
  | .flipArm q edge k val => Sys2Proof.Machine.execFlipArm q edge k val s
  | .refreshWindow c need => Sys2Proof.Machine.execRefreshWindow c need s
  | .marginScanStart q e val => Sys2Proof.Machine.execMarginScanStart q e val s
  | .marginScanDone e left right low high => Sys2Proof.Machine.execMarginScanDone e left right low high s
  | .nbuDoorbell e u r val => Sys2Proof.Machine.execNbuDoorbell e u r val s
  | .nbuAppend e u r => Sys2Proof.Machine.execNbuAppend e u r s
  | .nbuCopy e u r => Sys2Proof.Machine.execNbuCopy e u r s
  | .nbuFill e u r => Sys2Proof.Machine.execNbuFill e u r s
  | .nbuAxpy e u r => Sys2Proof.Machine.execNbuAxpy e u r s
  | .nbuReduce e u r => Sys2Proof.Machine.execNbuReduce e u r s
  | .nbuGather e u r => Sys2Proof.Machine.execNbuGather e u r s
  | .nbuScatter e u r => Sys2Proof.Machine.execNbuScatter e u r s
  | .nbuCheckCrc32c e u r => Sys2Proof.Machine.execNbuCheckCrc32c e u r s
  | .nbuCheckCrc64 e u r => Sys2Proof.Machine.execNbuCheckCrc64 e u r s
  | .nbuCheckHostTag e u r => Sys2Proof.Machine.execNbuCheckHostTag e u r s
  | .take e u r => Sys2Proof.Machine.execTake e u r s
  | .tableRefInc e u r => Sys2Proof.Machine.execTableRefInc e u r s
  | .release e u r => Sys2Proof.Machine.execRelease e u r s
  | .probe e u r => Sys2Proof.Machine.execProbe e u r s
  | .insert e u r => Sys2Proof.Machine.execInsert e u r s
  | .publish e u r => Sys2Proof.Machine.execPublish e u r s
  | .hashRefInc e u r => Sys2Proof.Machine.execHashRefInc e u r s
  | .refDec e u r => Sys2Proof.Machine.execRefDec e u r s
  | .evict e u r => Sys2Proof.Machine.execEvict e u r s
  | .tableMessage b m => Sys2Proof.Machine.execTableMessage b m s
  | .nbuStep e u => Sys2Proof.Machine.execNbuStep e u s
  | .claimedLineRead e off => Sys2Proof.Machine.execClaimedLineRead e off s
  | .claimedLineWrite e off data => Sys2Proof.Machine.execClaimedLineWrite e off data s
  | .ctxSave b => Sys2Proof.Machine.execCtxSave b s
  | .preemptAtTack b => Sys2Proof.Machine.execPreemptAtTack b s
  | .ctxSaved b => Sys2Proof.Machine.execCtxSaved b s
  | .ctxRestore b => Sys2Proof.Machine.execCtxRestore b s
  | .ctxRestoreDone b => Sys2Proof.Machine.execCtxRestoreDone b s
  | .patLoad b => Sys2Proof.Machine.execPatLoad b s
  | .patternAdmit b => Sys2Proof.Machine.execPatternAdmit b s
  | .patStart b => Sys2Proof.Machine.execPatStart b s
  | .patternT0 b => Sys2Proof.Machine.execPatternT0 b s
  | .patStop b => Sys2Proof.Machine.execPatStop b s
  | .patternEnd b => Sys2Proof.Machine.execPatternEnd b s
  | .tackDeadline b => Sys2Proof.Machine.execTackDeadline b s
  | .tackReport b r => Sys2Proof.Machine.execTackReport b r s
  | .tackDecision b d => Sys2Proof.Machine.execTackDecision b d s
  | .tackRelease b => Sys2Proof.Machine.execTackRelease b s
  | .holdRelease b => Sys2Proof.Machine.execHoldRelease b s
  | .holdLong b => Sys2Proof.Machine.execHoldLong b s
  | .slipRequest b sc => Sys2Proof.Machine.execSlipRequest b sc s
  | .slipBroadcast b sc => Sys2Proof.Machine.execSlipBroadcast b sc s
  | .slipStart b => Sys2Proof.Machine.execSlipStart b s
  | .slipEnd b => Sys2Proof.Machine.execSlipEnd b s
  | .paceStart b => Sys2Proof.Machine.execPaceStart b s
  | .paceEnd b => Sys2Proof.Machine.execPaceEnd b s
  | .tapeSyncInEdge elsewhere => Sys2Proof.Machine.execTapeSyncInEdge elsewhere s
  | .tapeSyncOutPulse => Sys2Proof.Machine.execTapeSyncOutPulse s
  | .timingExchange t1 t2 t3 t4 asym => Sys2Proof.Machine.execTimingExchange t1 t2 t3 t4 asym s
  | .trainStateComplete f info => Sys2Proof.Machine.execTrainStateComplete f info s
  | .trainLimitExpire f => Sys2Proof.Machine.execTrainLimitExpire f s
  | .portRetrain q f => Sys2Proof.Machine.execPortRetrain q f s
  | .slotStart f => Sys2Proof.Machine.execSlotStart f s
  | .flitReceive f raw due uncorr corr => Sys2Proof.Machine.execFlitReceive f raw due uncorr corr s
  | .replayTimeout f => Sys2Proof.Machine.execReplayTimeout f s
  | .deliveryAck t c negative => Sys2Proof.Machine.execDeliveryAck t c negative s
  | .laneStatus f mask => Sys2Proof.Machine.execLaneStatus f mask s
  | .leaving f => Sys2Proof.Machine.execLeaving f s
  | .resetFrame dest key => Sys2Proof.Machine.execResetFrame dest key s
  | .xtrigFrame dest tx id stop => Sys2Proof.Machine.execXtrigFrame dest tx id stop s
  | .fwSegment dest type seq crc data => Sys2Proof.Machine.execFwSegment dest type seq crc data s
  | .unknownFrame dest type payload => Sys2Proof.Machine.execUnknownFrame dest type payload s
  | .sqTailDoorbell p n val => Sys2Proof.Machine.execSqTailDoorbell p n val s
  | .cqHeadDoorbell p n val => Sys2Proof.Machine.execCqHeadDoorbell p n val s
  | .queueEnable p n => Sys2Proof.Machine.execQueueEnable p n s
  | .queueDisable p n => Sys2Proof.Machine.execQueueDisable p n s
  | .hostToDevice p n entry data hostOk => Sys2Proof.Machine.execHostToDevice p n entry data hostOk s
  | .deviceToHost p n entry len hostOk => Sys2Proof.Machine.execDeviceToHost p n entry len hostOk s
  | .deviceCopy p n entry => Sys2Proof.Machine.execDeviceCopy p n entry s
  | .deviceGather p n entry => Sys2Proof.Machine.execDeviceGather p n entry s
  | .hqCompletion p n => Sys2Proof.Machine.execHqCompletion p n s
  | .ctrlPortSet p dst => Sys2Proof.Machine.execCtrlPortSet p dst s
  | .takeCtrl p => Sys2Proof.Machine.execTakeCtrl p s
  | .claim p b => Sys2Proof.Machine.execClaim p b s
  | .boltRelease p b => Sys2Proof.Machine.execBoltRelease p b s
  | .boltTake p b => Sys2Proof.Machine.execBoltTake p b s
  | .portReset p c => Sys2Proof.Machine.execPortReset p c s
  | .flr p => Sys2Proof.Machine.execFlr p s
  | .mctpControl msg => Sys2Proof.Machine.execMctpControl msg s
  | .pldmRequest msg => Sys2Proof.Machine.execPldmRequest msg s
  | .bringupPower => Sys2Proof.Machine.execBringupPower s
  | .bringupPcie up0 up1 => Sys2Proof.Machine.execBringupPcie up0 up1 s
  | .segmentPost q val => Sys2Proof.Machine.execSegmentPost q val s
  | .segmentStaged => Sys2Proof.Machine.execSegmentStaged s
  | .imageVerify => Sys2Proof.Machine.execImageVerify s
  | .bringupFuses => Sys2Proof.Machine.execBringupFuses s
  | .bringupClocks fabref stackFail => Sys2Proof.Machine.execBringupClocks fabref stackFail s
  | .bringupTrain eyes fails => Sys2Proof.Machine.execBringupTrain eyes fails s
  | .bringupMemtest rows banks pins fails => Sys2Proof.Machine.execBringupMemtest rows banks pins fails s
  | .bringupTilefw short differ => Sys2Proof.Machine.execBringupTilefw short differ s
  | .tilefwUnicastRound short differ => Sys2Proof.Machine.execTilefwUnicastRound short differ s
  | .bringupFitting arrays fails => Sys2Proof.Machine.execBringupFitting arrays fails s
  | .bringupReady => Sys2Proof.Machine.execBringupReady s
  | .bootContinue q => Sys2Proof.Machine.execBootContinue q s
  | .attest q => Sys2Proof.Machine.execAttest q s
  | .readIdkey q => Sys2Proof.Machine.execReadIdkey q s
  | .clearAlt q => Sys2Proof.Machine.execClearAlt q s
  | .mbxReservedCmd q cmd => Sys2Proof.Machine.execMbxReservedCmd q cmd s
  | .rstCmdPor q => Sys2Proof.Machine.execRstCmdPor q s
  | .rstCmdSystem q => Sys2Proof.Machine.execRstCmdSystem q s
  | .rstCmdCore q => Sys2Proof.Machine.execRstCmdCore q s
  | .powerOnReset => Sys2Proof.Machine.execPowerOnReset s
  | .systemReset => Sys2Proof.Machine.execSystemReset s
  | .coreReset => Sys2Proof.Machine.execCoreReset s
  | .resetDeferred => Sys2Proof.Machine.execResetDeferred s
  | .resetRelease => Sys2Proof.Machine.execResetRelease s
  | .porNLow ns taken => Sys2Proof.Machine.execPorNLow ns taken s
  | .sysrstNLow ns taken => Sys2Proof.Machine.execSysrstNLow ns taken s
  | .v48Loss => Sys2Proof.Machine.execV48Loss s
  | .v48Return => Sys2Proof.Machine.execV48Return s
  | .v48Overvoltage => Sys2Proof.Machine.execV48Overvoltage s
  | .hkcWatchdog => Sys2Proof.Machine.execHkcWatchdog s
  | .blockReset q => Sys2Proof.Machine.execBlockReset q s
  | .blockResetForced q => Sys2Proof.Machine.execBlockResetForced q s
  | .staleReply b epoch => Sys2Proof.Machine.execStaleReply b epoch s
  | .stackPllLockLoss sc => Sys2Proof.Machine.execStackPllLockLoss sc s
  | .basePllLockLoss d => Sys2Proof.Machine.execBasePllLockLoss d s
  | .fabrefLoss => Sys2Proof.Machine.execFabrefLoss s
  | .baste q => Sys2Proof.Machine.execBaste q s
  | .txnStageWrite q off val => Sys2Proof.Machine.execTxnStageWrite q off val s
  | .stitch q => Sys2Proof.Machine.execStitch q s
  | .unpick q => Sys2Proof.Machine.execUnpick q s
  | .rwtLoneWrite q off val => Sys2Proof.Machine.execRwtLoneWrite q off val s
  | .txnApply => Sys2Proof.Machine.execTxnApply s
  | .txnTimeout q => Sys2Proof.Machine.execTxnTimeout q s
  | .boltReset b => Sys2Proof.Machine.execBoltReset b s
  | .boltRepair b failed arrays => Sys2Proof.Machine.execBoltRepair b failed arrays s
  | .boltReplaceFw b unmatched => Sys2Proof.Machine.execBoltReplaceFw b unmatched s
  | .boltOpDone b => Sys2Proof.Machine.execBoltOpDone b s
  | .housekeepingRound readings => Sys2Proof.Machine.execHousekeepingRound readings s
  | .lifeCountSave => Sys2Proof.Machine.execLifeCountSave s
  | .hwTripSample ch reading => Sys2Proof.Machine.execHwTripSample ch reading s
  | .flowInEdge high => Sys2Proof.Machine.execFlowInEdge high s
  | .flowTimeout => Sys2Proof.Machine.execFlowTimeout s
  | .overcurrentTrip => Sys2Proof.Machine.execOvercurrentTrip s
  | .shutdownClear q => Sys2Proof.Machine.execShutdownClear q s
  | .sidebandConnectionFail t signal conn => Sys2Proof.Machine.execSidebandConnectionFail t signal conn s
  | .vcGroupTest t ch pos dead => Sys2Proof.Machine.execVcGroupTest t ch pos dead s
  | .migrationCopyLine sc => Sys2Proof.Machine.execMigrationCopyLine sc s
  | .migrationComplete sc => Sys2Proof.Machine.execMigrationComplete sc s
  | .seamFlitReceive n dir flit badLanes => Sys2Proof.Machine.execSeamFlitReceive n dir flit badLanes s
  | .seamRetrain q n halfA halfB => Sys2Proof.Machine.execSeamRetrain q n halfA halfB s
  | .baseDieReset q d => Sys2Proof.Machine.execBaseDieReset q d s
  | .baseDieResetForced q d => Sys2Proof.Machine.execBaseDieResetForced q d s
  | .fatalClear q => Sys2Proof.Machine.execFatalClear q s
  | .errLogLatch p val => Sys2Proof.Machine.execErrLogLatch p val s
  | .chkSubGo q d val => Sys2Proof.Machine.execChkSubGo q d val s
  | .chkScanTurn d => Sys2Proof.Machine.execChkScanTurn d s
  | .chkCtxValWrite q d n hi val => Sys2Proof.Machine.execChkCtxValWrite q d n hi val s
  | .hemEnable q t val => Sys2Proof.Machine.execHemEnable q t val s
  | .hemSpillLine t => Sys2Proof.Machine.execHemSpillLine t s
  | .hemLatch q t val => Sys2Proof.Machine.execHemLatch q t val s
  | .crossTriggerArrive t tx id => Sys2Proof.Machine.execCrossTriggerArrive t tx id s
  | .hemFreezeAtTape t => Sys2Proof.Machine.execHemFreezeAtTape t s
  | .attrLatch q val => Sys2Proof.Machine.execAttrLatch q val s
  | .attrClear q => Sys2Proof.Machine.execAttrClear q s
  | .globalStopArm => Sys2Proof.Machine.execGlobalStopArm s
  | .globalStop => Sys2Proof.Machine.execGlobalStop s
  | .dump => Sys2Proof.Machine.execDump s
  | .dumpDone => Sys2Proof.Machine.execDumpDone s
  | .tapReset => Sys2Proof.Machine.execTapReset s
  | .extest bits => Sys2Proof.Machine.execExtest bits s
  | .idcode => Sys2Proof.Machine.execIdcode s
  | .samplePreload bits => Sys2Proof.Machine.execSamplePreload bits s
  | .dbgReg dr => Sys2Proof.Machine.execDbgReg dr s
  | .dbgReset dr => Sys2Proof.Machine.execDbgReset dr s
  | .bypass => Sys2Proof.Machine.execBypass s
  | .gpioInputChange levels => Sys2Proof.Machine.execGpioInputChange levels s
  | .cableRemoved f => Sys2Proof.Machine.execCableRemoved f s
  | .lossOfLock f lane us => Sys2Proof.Machine.execLossOfLock f lane us s
  | .holdReleaseMessage b h => Sys2Proof.Machine.execHoldReleaseMessage b h s
  | .portLinkUp p link => Sys2Proof.Machine.execPortLinkUp p link s
  | .flrComplete p => Sys2Proof.Machine.execFlrComplete p s
  | .resetPinHigh pin => Sys2Proof.Machine.execResetPinHigh pin s
  | .blockResetDone => Sys2Proof.Machine.execBlockResetDone s
  | .baseDieResetDone d => Sys2Proof.Machine.execBaseDieResetDone d s
  | .fabrefReturn => Sys2Proof.Machine.execFabrefReturn s
  | .dynamicAddressAssign addr => Sys2Proof.Machine.execDynamicAddressAssign addr s
  | .addressResolution addr => Sys2Proof.Machine.execAddressResolution addr s
  | .configSpaceWrite p d3hot busMaster c => Sys2Proof.Machine.execConfigSpaceWrite p d3hot busMaster c s

end Sys2Proof.Machine
end

