-- ==== Sys2Proof/Safety.lean ====
section
/-! DEFINITION. What counts as a safe run, and the relations that claims are stated with: steps that answer a next state, the canonical form
of memory, and states that differ only in what observation, the error log or the decoding of one tile leave behind. -/
namespace Sys2Proof.Machine

/-- A step goes on to a state. -/
def StepsTo (s t : State) : Prop := step s = .next t

/-- Memory keeps its canonical form. -/
def State.MemOk (s : State) : Prop := Mem.wf s.mem

/-! ### Observation (R447): what it may change -/

/-- The registers that observation writes: a tile's TRC window (Table 17.8) and the TRC block (Table 17.7). -/
def traceWord (g off : Nat) : Bool :=
  decide ((Blk.tile g).base + 0x400 ≤ off ∧ off < (Blk.tile g).base + 0x600) || decide (0x60000 ≤ off ∧ off < 0x80000)

/-- A tile without its hem and the count of its clock counter. -/
def Tile.untraced (t : Tile) : Tile := { t with hem := .reset, clkFrom := 0, fired := none }

/-- A flit of a management frame that carries a cross-trigger to every module (R295, R458). -/
def XtrigFlit (fl : Flit) : Prop := ∃ src p, fl ∈ frameFlits 0x04 0xFFF src 255 p

/-- `t` is `s` but for what observation of site `g` changes (R447): its hem and clock counter, its trace registers and those of the TRC block,
an armed stop, cross-triggers, and the frames that carry one, which wait at ports. Every other part of the state is the same. -/
structure TraceOnly (g : Nat) (s t : State) : Prop where
  pending  : t.pending = s.pending
  tape     : t.tape = s.tape
  words    : ∀ off, traceWord g off = false → t.word off = s.word off
  bar4     : t.bar4 = s.bar4
  latch    : t.latch = s.latch
  mem      : t.mem = s.mem
  errs     : t.errs = s.errs
  chans    : t.chans = s.chans
  scrubs   : t.scrubs = s.scrubs
  migs     : t.migs = s.migs
  needle   : t.needle = s.needle
  others   : ∀ g', g' ≠ g → t.tile g' = s.tile g'
  tile     : (t.tile g).untraced = (s.tile g).untraced
  mesh     : t.mesh = s.mesh
  meshId   : t.meshId = s.meshId
  bolts    : t.bolts = s.bolts
  txns     : t.txns = s.txns
  stitched : t.stitched = s.stitched
  log      : t.log = s.log
  logSel   : t.logSel = s.logSel
  qps      : t.qps = s.qps
  hports   : t.hports = s.hports
  nbus     : t.nbus = s.nbus
  chks     : t.chks = s.chks
  seams    : t.seams = s.seams
  ports    : ∀ f, ∃ l, t.fport f = { s.fport f with resv := (s.fport f).resv ++ l } ∧ ∀ w ∈ l, XtrigFlit w.flit
  hkc      : t.hkc = s.hkc
  store    : t.store = s.store
  fuses    : t.fuses = s.fuses
  therm    : t.therm = s.therm
  pins     : t.pins = s.pins
  rst      : t.rst = s.rst
  jtag     : t.jtag = s.jtag
  mgmt     : t.mgmt = s.mgmt
  slewTo   : t.slewTo = s.slewTo
  timingAt : t.timingAt = s.timingAt
  free     : t.free = s.free
  traceFix : t.trace.attr = s.trace.attr ∧ t.trace.sent = s.trace.sent ∧ t.trace.stopped = s.trace.stopped
    ∧ t.trace.stopTape = s.trace.stopTape ∧ t.trace.held = s.trace.held
  out      : t.out = s.out

/-! ### The error log (R433 to R436): what it may change -/

/-- `t` is `s` but for what an event of the error log changes: the log, the ERR block's registers, the MSI-X pending bits and messages, and for
a fatal event FAULT_N and the record store. -/
structure LogOnly (s t : State) : Prop where
  pending  : t.pending = s.pending
  tape     : t.tape = s.tape
  words    : ∀ off, off < 0x50000 ∨ 0x60000 ≤ off → t.word off = s.word off
  words4   : ∀ p off, off < 0x801000 → p < 2 → t.word4 p off = s.word4 p off
  latch    : t.latch = s.latch
  mem      : t.mem = s.mem
  errs     : t.errs = s.errs
  chans    : t.chans = s.chans
  scrubs   : t.scrubs = s.scrubs
  migs     : t.migs = s.migs
  needle   : t.needle = s.needle
  tiles    : t.tiles = s.tiles
  mesh     : t.mesh = s.mesh
  meshId   : t.meshId = s.meshId
  bolts    : t.bolts = s.bolts
  txns     : t.txns = s.txns
  stitched : t.stitched = s.stitched
  logSel   : t.logSel = s.logSel
  qps      : t.qps = s.qps
  hports   : t.hports = s.hports
  nbus     : t.nbus = s.nbus
  chks     : t.chks = s.chks
  seams    : t.seams = s.seams
  fab      : t.fab = s.fab
  hkc      : t.hkc = s.hkc
  fuses    : t.fuses = s.fuses
  therm    : t.therm = s.therm
  pins     : t.pins = { s.pins with fault := t.pins.fault }
  rst      : t.rst = s.rst
  jtag     : t.jtag = s.jtag
  trace    : t.trace = s.trace
  mgmt     : t.mgmt = s.mgmt
  slewTo   : t.slewTo = s.slewTo
  timingAt : t.timingAt = s.timingAt
  out      : ∃ l, t.out = s.out ++ l ∧ ∀ o ∈ l, ∃ p v, o = .msix p v
  store    : t.store.starts = s.store.starts ∧ t.store.alts = s.store.alts ∧ t.store.leafA = s.store.leafA
    ∧ t.store.leafB = s.store.leafB ∧ t.store.rows = s.store.rows ∧ t.store.shuts = s.store.shuts
    ∧ t.store.cycles = s.store.cycles ∧ t.store.chans = s.store.chans

/-! ### Register writes (R12, R97, R306, R311) -/

/-- A request of `q` reaches the module: its port's link is up, not in reset and not in D3hot (R306, R313). -/
def State.reaches (s : State) (q : Req) : Bool :=
  match Req.port? q with
  | none => true
  | some p => s.portOn p.n && !(s.hport p.n).d3hot

/-- A write by `q` of the register at `rel` of a block is in scope and not barred, and the block is not in reset (R97, R311, R363). -/
def State.grants (s : State) (q : Req) (k : Blk) (rel : Nat) : Bool :=
  s.reaches q && !s.inReset k && !s.barred q .bus k rel && s.mayWrite q (s.scopeOf k rel)

/-! ### A tile's core and queue -/

/-- The control core of a site would execute instruction `i` next: RUN is set, it does not stall, nothing holds the tile's clock, and the word
at the program counter, which came from one of the sources of R330, decodes to `i` (R64 to R68, R367). -/
abbrev State.coreAt (s : State) (g : Nat) (i : CoreInstr) : Prop :=
  (s.tile g).run = true ∧ (s.tile g).coreFree = true ∧ (s.tile g).codeOk = true ∧ s.live = true ∧ s.clocked g = true
    ∧ (s.fetchInstr g).1 = .instr i

/-- The state in which that instruction executes: after the fetch (which may correct a word, R174), at the tape it issues (R66). -/
def State.coreNow (s : State) (g : Nat) (i : CoreInstr) : State := (s.fetchInstr g).2.advanceTo ((s.tile g).issueAt i)

/-- An instruction that writes `rd` and goes on: everything else in the state is as it was (R65, R66). -/
def CoreWrites (s : State) (g : Nat) (i : CoreInstr) (rd : BitVec 5) (v : BitVec 64) (pc : BitVec 64) (n : Nat) (u : State) : Prop :=
  let x := s.coreNow g i
  TraceOnly g (x.setTile g { (x.tile g).setG rd v with pc := pc, readyAt := x.tape + x.tclkCycles n }) u

/-- A row of format A: rd has a function of rs1 and rs2 as they stood, and the core goes on at pc + 4 (Table 3.4). -/
def AluRow (row : Site → BitVec 5 → BitVec 5 → BitVec 5 → Instr) (op : AluOp) (f : BitVec 64 → BitVec 64 → BitVec 64) : Prop :=
  ∀ (t : Site) (rd a b : BitVec 5) (s : State), s.coreAt t.g (.alu op rd a b) →
    ∃ u, exec (row t rd a b) s = .next u ∧
      CoreWrites s t.g (.alu op rd a b) rd (f ((s.tile t.g).gr a) ((s.tile t.g).gr b)) ((s.tile t.g).pc + 4) 1 u

/-- A row with an immediate: rd has a function of rs1 and imm16 (Table 3.4). -/
def ImmRow (row : Site → BitVec 5 → BitVec 5 → BitVec 16 → Instr) (i : BitVec 5 → BitVec 5 → BitVec 16 → CoreInstr)
    (f : BitVec 64 → BitVec 16 → BitVec 64) : Prop :=
  ∀ (t : Site) (rd a : BitVec 5) (imm : BitVec 16) (s : State), s.coreAt t.g (i rd a imm) →
    ∃ u, exec (row t rd a imm) s = .next u ∧ CoreWrites s t.g (i rd a imm) rd (f ((s.tile t.g).gr a) imm) ((s.tile t.g).pc + 4) 1 u

/-- A load of `n` bytes: aligned, inside data SRAM or the bobbin window, with no uncorrectable word (R64, R66, R68). -/
def LoadRow (row : Site → BitVec 5 → BitVec 5 → BitVec 16 → Instr) (w : AccW) (n : Nat) : Prop :=
  ∀ (t : Site) (rd a : BitVec 5) (imm : BitVec 16) (m : Nat) (l : List (BitVec 8)) (s : State), s.coreAt t.g (.load w rd a imm) →
    ((s.tile t.g).gr a + imm.signExtend 64).toNat % n = 0 → coreAddr t.g ((s.tile t.g).gr a + imm.signExtend 64).toNat = some m →
    ((s.coreNow t.g (.load w rd a imm)).peek m n).1.toOption = some l →
    ∃ u, exec (row t rd a imm) s = .next u ∧
      let x := ((s.coreNow t.g (.load w rd a imm)).peek m n).2
      TraceOnly t.g (x.setTile t.g { (x.tile t.g).setG rd (BitVec.ofNat 64 (leNat l)) with
        loadReg := rd.toNat, loadAt := x.tape + x.tclkCycles 2, pc := (s.tile t.g).pc + 4, readyAt := x.tape + x.tclkCycles 1 }) u

/-- A store of the low `n` bytes of rd: aligned, inside data SRAM or the bobbin window, in a word that can be merged (R66, R68, R174). -/
def StoreRow (row : Site → BitVec 5 → BitVec 5 → BitVec 16 → Instr) (w : AccW) (n : Nat) : Prop :=
  ∀ (t : Site) (rd a : BitVec 5) (imm : BitVec 16) (m : Nat) (s : State), s.coreAt t.g (.store w rd a imm) →
    ((s.tile t.g).gr a + imm.signExtend 64).toNat % n = 0 → coreAddr t.g ((s.tile t.g).gr a + imm.signExtend 64).toNat = some m →
    ((s.coreNow t.g (.store w rd a imm)).put m (leBytes n ((s.tile t.g).gr rd).toNat)).1 = none →
    ∃ u, exec (row t rd a imm) s = .next u ∧
      let x := ((s.coreNow t.g (.store w rd a imm)).put m (leBytes n ((s.tile t.g).gr rd).toNat)).2
      TraceOnly t.g (x.setTile t.g { x.tile t.g with pc := (s.tile t.g).pc + 4, readyAt := x.tape + x.tclkCycles 1 }) u

/-- A branch: to pc + 4 + 4 × off16 where the condition holds, else to pc + 4 (R65, R66). -/
def BranchRow (row : Site → BitVec 5 → BitVec 5 → BitVec 16 → Instr) (c : Cond) (f : BitVec 64 → BitVec 64 → Bool) : Prop :=
  ∀ (t : Site) (a b : BitVec 5) (off : BitVec 16) (s : State), s.coreAt t.g (.branch c a b off) →
    ∃ u, exec (row t a b off) s = .next u ∧
      (if f ((s.tile t.g).gr a) ((s.tile t.g).gr b) then
        CoreWrites s t.g (.branch c a b off) 0 0 ((s.tile t.g).pc + 4 + 4 * off.signExtend 64) 3 u
      else CoreWrites s t.g (.branch c a b off) 0 0 ((s.tile t.g).pc + 4) 1 u)

/-- The head of a tile's queue is of a kind, may be handed on, and its entry reads without an uncorrectable word and without reserved
flags: the descriptor as read, and the state after reading it (R70, R71, R75, R174). -/
def State.head (s : State) (g : Nat) (kind : BitVec 512 → Bool) : Option (BitVec 512 × State) :=
  match (s.tile g).queue with
  | [] => none
  | d :: _ =>
    if kind d && s.mayIssue g d then
      match s.cqRead g d with
      | (none, e, x) => if reservedFlags e && opcodeOf e < 0x0E then none else some (e, x)
      | (some _, _, _) => none
    else none

/-- The state after a descriptor left the queue: the next entry is the head, and CQ_ISSUED has its SEQ (R70). -/
def State.handOn (x : State) (g : Nat) (d : BitVec 512) : State :=
  let t := x.tile g
  (x.setTile g { t with queue := t.queue.tail, nextUid := t.nextUid + 1, headAt := x.tape }).w (.tile g) F.CQ_ISSUED_SEQ (seqOf d)

/-- A descriptor was handed on from state `y` (R70): it has left the head of the queue, CQ_ISSUED has its SEQ, it is the youngest command in
flight and its entry there satisfies `p`; memory, the bolts and every other tile are as they were. -/
def HandedOn (y : State) (g : Nat) (d : BitVec 512) (p : Flight → Prop) (u : State) : Prop :=
  (u.tile g).queue = (y.tile g).queue.tail ∧ (u.tile g).nextUid = (y.tile g).nextUid + 1 ∧ u.r (.tile g) F.CQ_ISSUED_SEQ = seqOf d
    ∧ (u.tile g).flight.map (·.desc) = (y.tile g).flight.map (·.desc) ++ [d]
    ∧ (∃ f, (u.tile g).flight.getLast? = some f ∧ f.uid = (y.tile g).nextUid ∧ p f)
    ∧ (u.tile g).faulted = (y.tile g).faulted
    ∧ (∀ g', g' ≠ g → u.tile g' = y.tile g') ∧ u.mem = y.mem ∧ u.bolts = y.bolts ∧ u.txns = y.txns ∧ u.nbus = y.nbus

/-- A row that issues the commands of a kind: whenever the head of the queue is one, may be handed on and passes its checks, it is handed on. -/
def IssueRow (row : Site → Instr) (kind : BitVec 512 → Bool) (chk : Nat → State → BitVec 512 → Check × State)
    (ready : Nat → State → Prop) (p : State → BitVec 512 → Nat → Flight → Prop) : Prop :=
  ∀ (t : Site) (d : BitVec 512) (x y s : State), ready t.g s → s.head t.g kind = some (d, x) → chk t.g x d = (.ok, y) →
    ∃ u, exec (row t) s = .next u ∧ HandedOn y t.g d (p y d t.g) u

/-! ### What a command in flight meets -/

/-- The state in which a KV block is taken, once the ring feeds it and its cycles have passed (R137). -/
def attnBlockAt (s : State) (g : Nat) (f : Flight) : State :=
  let x := s.attFed g f
  (x.advanceTo ((((x.tile g).flightOf f.uid).getD f).start + x.tclkCycles (60 + (f.prog + 1) * (attOf f.desc).per))).modFlight g f.uid
    fun f => { f with phase := .running }

/-- The regions a KV block reads: Q, its scales, the block, and the rows' state unless it is fresh (R124). -/
def attnBlockIn (s : State) (g : Nat) (f : Flight) : List Rgn :=
  let x := attOf f.desc
  let n := kvBlockBytes x.kvFmt x.dim
  let kvA := if x.ring then s.ringOff g + s.ringCons g % s.ringSlots g * n else x.kvOff + f.prog * n
  [x.qR, x.qsR, Rgn.flat kvA n] ++ (if x.init && f.prog == 0 then [] else [x.stR])

/-- The operands of an MM or MMA that its first beat reads, from the beat's time on (R36, R60). -/
def mmBeatIn (s : State) (g : Nat) (f : Flight) : Option Nat × State :=
  let x := mmOf f.desc
  let y := s.advanceTo (f.start + s.aclkCycles (x.beatCycle f.prog + 1))
  if f.prog = 0 then y.readRgns g (x.inputs ++ [x.dR]) else (none, y)

/-- The beat's output elements written (R36, R60). -/
def mmBeatOut (s : State) (g : Nat) (f : Flight) : Option Nat × State :=
  let x := mmOf f.desc
  (x.elems f.prog).foldl (State.mmElem x (posOf f.cap) f g) (none, (mmBeatIn s g f).2)

/-- A message has left the mesh, at the tape at which it arrives (R227). -/
def State.meshTake (s : State) (x : MeshMsg) : State := ({ s with mesh := s.mesh.filter fun y => y.id != x.id } : State).advanceTo x.at_

/-- A shuttle access reads `n` bytes at `a` (R161, R217): the tape by which they have come, the bytes, and the state. -/
def accRead (s : State) (g : Nat) (f : Flight) (needle : Bool) (a n : Nat) : Nat × Except Nat (List (BitVec 8)) × State :=
  let q := s.serve g (shutSched f.desc) needle false a s.tape
  (q.1, q.2.fetchT a n)

/-- The access's write, issued when what it read has come. -/
def accWrite (x : Nat × Except Nat (List (BitVec 8)) × State) (g : Nat) (f : Flight) (b : Nat) (l : List (BitVec 8)) : Option Nat × State :=
  (x.2.2.serve g (shutSched f.desc) false true b x.1).2.put b l

/-- The index that a gather's next access reads (R221); a gather of 16-byte elements counts it. -/
def gatherIx (s : State) (g : Nat) (f : Flight) : Except Nat (List (BitVec 8)) × State :=
  let x := gatherOf false f.desc
  let r := s.fetchT (bobbinAt g (x.idx + 4 * (f.prog / x.esz))) 4
  (r.1, if x.esz = 16 then r.2.shutEv g f 0x0E 1 else r.2)

/-- Where that access reads from, and how many bytes. -/
def gatherAt (f : Flight) (ix : List (BitVec 8)) : Nat × Nat :=
  let x := gatherOf false f.desc
  let src := (x.src + leNat ix * x.esz + f.prog % x.esz) % 2 ^ 48
  (src, min (x.esz - f.prog % x.esz) (min (lineLeft src) (lineLeft (x.dst + f.prog))))

/-- The next block of a walk, where its list entry, its table entry and its parts are found and read (R222): swatch, bytes and the tape by which
they have come. -/
def walkRead (s : State) (g : Nat) (f : Flight) : Option (Nat × List (BitVec 8) × Nat × State) :=
  let x := walkOf f.desc
  let k := Blk.stk (g / 160)
  let prog := f.aux * x.ss
  let tps := tpsOf (s.swSize k) x.fmt x.dim
  let pos := x.kvStart + 64 * f.aux
  match (if f.cap = [] ∨ pos % tps = 0 then s.walkEntry g f (pos / tps) prog s.tape else .ok ((leNat f.cap, s.tape), s)) with
  | .error _ => none
  | .ok ((w, t), y) =>
    match y.walkParts g f prog t ((y.blockParts k x w (pos % tps)).flatMap fun r => linesOf r.1 r.2) with
    | .error _ => none
    | .ok ((l, t), z) => some (w, l, t, z)

/-- The lanes of a VEC group from its time on: the uncorrectable word its loads met, what it would store, and the state (R106). -/
def vecGroupRun (s : State) (g : Nat) (f : Flight) : Option Nat × Group × State :=
  let x := vecOf f.desc
  let ops := progOps (f.cap.drop 32) x.progLen
  let y := (s.advanceTo (f.start + s.tclkCycles (12 + (f.prog + 1) * x.period ops))).modFlight g f.uid fun f => { f with phase := .running }
  let per := ceilDiv x.cols 64
  let lo := f.prog % per * 64
  ops.foldl (State.uop x g (f.prog / per) lo (min 64 (x.cols - lo)) f.seed (posOf f.cap)) (none, ⟨List.replicate 16 (List.replicate 64 0), [], [], []⟩, y)

/-- The rows of a VEC that is not element-wise, from its start on (R107 to R112). -/
def vecRowsRun (s : State) (g : Nat) (f : Flight) : Option Nat × Group × Bool × State :=
  let x := vecOf f.desc
  (List.range x.rows).foldl (State.vecRow x g f.seed (posOf f.cap)) (none, ⟨[], [], [], []⟩, false, s.advanceTo f.start)

/-- The image that the end of a bolt's load reads and measures, and the state then (R248); none where its DPA run is no memory or cannot be
read. -/
def State.admitRead (s : State) (b : Nat) : Option (Image × State) :=
  let s := s.retirePending b
  let base := s.imageBase b
  if (s.runOf base 0x100).isNone then none
  else
    let len := max 0x100 (s.mem.readLE (base + 8) 8)
    match (if base + len ≤ edgeEnd then s.fetch base len else s.fetch base 0x100) with
    | (.error _, _) => none
    | (.ok _, s) =>
      let i := s.imageAt base
      some (i, if base + i.len ≤ edgeEnd then s.measure b i else s)

/-! ### Requests by themselves to an edge stack (R161, R162, R203) -/

/-- No operation of a near-bank unit that the request would wait for claims its line. -/
def State.edgeFree (s : State) (e off kind : Nat) (by_ : Option (Site × Nat)) : Bool :=
  by_.all fun x => !s.bellClaims (s.waitOf x.1.g none off kind e).bells (off / 64 * 64) 64

/-- Whether the request has waited for a claim, and the state in which it goes: it waits no longer. -/
def State.edgeGo (s : State) (e off kind : Nat) (by_ : Option (Site × Nat)) : Bool × State :=
  match by_ with
  | none => (false, s)
  | some (t, _) =>
    let w := s.waitOf t.g none off kind e
    ((s.tile t.g).waited.contains w, s.modTile t.g fun x => { x with waited := x.waited.filter (· != w) })

/-! ### Near-bank units (R194 to R199) -/

/-- The descriptor at the head of a ring, where the unit fetches it and it is of a row of the table, and the state in which it is checked. -/
def State.nbuHead (s : State) (k r row : Nat) : Option (BitVec 512 × State) :=
  let b := Blk.nbu k
  let cons := s.r b (F.NBU_RING_PTR_CONS r)
  if !s.nbuLive k || !s.b b (F.NBU_RING_CFG_EN r) || !s.ringFits k r || s.r b (F.NBU_RING_PTR_PROD r) == cons
      || ((s.nbu k).ops.get none r).isSome || s.barredBy k r then none
  else
    match s.nbuRead k (s.r b (F.NBU_RING_BASE_BASE r) * 64 + 64 * (1 + cons % (s.r b (F.NBU_RING_CFG_SLOTS_M1 r) + 1))) 64 with
    | (.error _, _) => none
    | (.ok l, y) =>
      let d := BitVec.ofNat 512 (leNat l)
      if nRow d ≠ none ∧ nRow d ≠ some row then none else some (d, y.w b F.NBU_STATUS_RING r)

/-- The descriptor that the unit takes from the head of a ring for a row, its checks passed, and the state they leave. -/
def State.nbuTaken (s : State) (k r row : Nat) : Option (BitVec 512 × State) :=
  match s.nbuHead k r row with
  | none => none
  | some (d, y) => match y.nbuCheck k r d with
    | (0, _, z) => some (d, z)
    | _ => none

/-- The status with which its checks end. -/
def State.nbuVerdict (s : State) (k r row : Nat) : Option Nat := (s.nbuHead k r row).map fun p => (p.2.nbuCheck k r p.1).1

/-- Ring r of unit k has consumed one slot more, its operation ended (R194, R199). -/
def State.ringDone (s u : State) (k r : Nat) : Prop :=
  (u.nbu k).ops.get none r = none ∧ u.r (.nbu k) (F.NBU_RING_PTR_CONS r) = (s.r (.nbu k) (F.NBU_RING_PTR_CONS r) + 1) % 2 ^ 16
    ∧ u.r (.nbu k) F.NBU_OPS_DONE_COUNT = satAdd F.NBU_OPS_DONE_COUNT.w (s.r (.nbu k) F.NBU_OPS_DONE_COUNT) 1

/-- A row whose operation runs in steps: its checked descriptor runs on the ring, a refused one ends with its status. -/
def NbuRuns (row : Fin 12 → Fin 32 → Fin 4 → Instr) (n : Nat) : Prop :=
  ∀ (e : Fin 12) (u : Fin 32) (r : Fin 4) (st : Nat) (s : State), s.nbuVerdict (nbuNo e.val u.val) r.val n = some st →
    ∃ t, exec (row e u r) s = .next t ∧
      (st = 0 → ∃ p o, s.nbuHead (nbuNo e.val u.val) r.val n = some p ∧ (t.nbu (nbuNo e.val u.val)).ops.get none r.val = some o
        ∧ o.desc = p.1 ∧ o.ring = r.val ∧ o.taken = 0 ∧ o.prog = 0 ∧ t.r (.nbu (nbuNo e.val u.val)) F.NBU_STATUS_RING = r.val) ∧
      (st ≠ 0 → s.ringDone t (nbuNo e.val u.val) r.val)

/-- A row whose operation is one step on the table or the tree: status, result and state are those of that step, and the ring's slot is done. -/
def NbuAtOnce (row : Fin 12 → Fin 32 → Fin 4 → Instr) (n : Nat) (f : Nat → Nat → State → BitVec 512 → Nat × Nat × State) : Prop :=
  ∀ (e : Fin 12) (u : Fin 32) (r : Fin 4) (st : Nat) (s : State), s.nbuVerdict (nbuNo e.val u.val) r.val n = some st →
    ∃ t, exec (row e u r) s = .next t ∧ s.ringDone t (nbuNo e.val u.val) r.val ∧
      (st = 0 → ∃ p, s.nbuHead (nbuNo e.val u.val) r.val n = some p ∧
        let z := (p.2.nbuCheck (nbuNo e.val u.val) r.val p.1).2.2
        t = z.nbuOnce (nbuNo e.val u.val) (z.nbuOp (nbuNo e.val u.val) r.val p.1) (z.lineWrites (nbuNo e.val u.val) r.val p.1) (f (nbuNo e.val u.val) r.val z p.1))

/-- What a TABLE or HASH operation leaves that ends with status 0 and the result `v` in state `x`. -/
def State.nbuDone (z : State) (k r : Nat) (d : BitVec 512) (v : Nat) (x : State) : State :=
  z.nbuOnce k (z.nbuOp k r d) (z.lineWrites k r d) (0, v, x)

/-- The key of a PROBE or INSERT as the unit finds it (R149), and its bucket line in the tree of the bolt whose stack is `q` (R150). -/
def State.hashKeyRun (s : State) (k : Nat) (q : Blk) (d : BitVec 512) : Option Nat × State :=
  if keyed d then
    let r := s.nbuRead k (nSrc d) (nLen d)
    (r.1.toOption.map fun l => fnv (leBytes 8 (s.r2 q F.SWT_SALT_LO_SALT F.SWT_SALT_HI_SALT) ++ l), r.2)
  else (some (nArg3 d), s)
def State.bucketAt (s : State) (q : Blk) (h : Nat) : Nat := s.treeBase q % edgeBytes + 64 * (h % 2 ^ 19)
def nodesOf (l : List (BitVec 8)) : List Nat := (List.range 8).map fun i => leNat ((l.drop (8 * i)).take 8)

/-- The step of a TABLE operation, and that of a HASH operation. -/
def tableStep (_k _r : Nat) (s : State) (d : BitVec 512) : Nat × Nat × State := s.tableOp (nSub d) (nArg1 d)
def hashStep (k r : Nat) (s : State) (d : BitVec 512) : Nat × Nat × State := s.hashOp k r ((s.treeBolt k r d).getD 0) d

/-- What a step of a unit's next operation leaves to be kept or ended: the operation and the runs it wrote, the tags written after it. -/
def State.stepRun (s : State) (k : Nat) (o : NbuOp) : StepOut × State :=
  let y := (s.w (.nbu k) F.NBU_STATUS_RING o.ring).stepLines o
  y.2.nbuWork k y.1 o
def State.stepTags (s : State) (k : Nat) (o : NbuOp) : Option Nat × Bool × State :=
  let w := s.stepRun k o
  if nRetag o.desc then w.2.retag k o.ring o.tags w.1.runs else (none, false, w.2)

end Sys2Proof.Machine
end

