-- ==== Sys2Proof/Certificates/Slice0/Obligations.lean ====
section
/-! DEFINITION. The statements about the model, for the provers: the queue and the step, the invariant of memory, the control core, and for every
command of the table a statement that says on which states it completes with its own effect and what that effect is. -/
section
open Sys2Proof Sys2Proof.Machine

/-- For every command c, waiting commands cs and state s: step of s with c at the front of its queue and cs behind it is exec of c on s with the queue cs; and every command answers a next state in every state. With an empty queue, step answers the state after one idle cycle; where no fabric port is up, no mailbox command runs and no tile has a counter trigger, that is s with the tape count one higher, or s itself while a power-on reset is in progress. That a step without a command is a tape cycle is the model's own choice (log entries 2 and 60), and so is that a mailbox command completes in it (log entry 53). -/
def Obligations.StepRunsFront : Prop :=
  (∀ (c : Instr) (cs : List Instr) (s : State),
    step { s with pending := c :: cs } = exec c { s with pending := cs })
  ∧ (∀ (c : Instr) (s : State), ∃ t, exec c s = .next t)
  ∧ (∀ s : State, s.pending = [] → step s = .next s.idleStep)
  ∧ (∀ s : State, s.pending = [] → s.rst.level ≠ 1 → (∀ f, f < 12 → s.portUp f = false) → s.hkc.cmd = none → (∀ t ∈ s.tiles, ∀ u, u < 4 → s.r (.tile t.1) (F.TRC_TRIG_CFG_KIND u) ≠ 5) →
    step s = .next { s with tape := s.tape + 1 })
  ∧ (∀ s : State, s.pending = [] → s.rst.level = 1 → (∀ f, f < 12 → s.portUp f = false) → s.hkc.cmd = none → (∀ t ∈ s.tiles, ∀ u, u < 4 → s.r (.tile t.1) (F.TRC_TRIG_CFG_KIND u) ≠ 5) → step s = .next s)

/-- In State.reset: no command waits; every BAR0 and BAR4 register word is the word of its Reset column; every tile is halted (TILE_STATUS.STATE), with no command in its queue or in flight; every bolt has no pattern; no transaction is open or stitched; the log is empty. -/
def Obligations.ResetRegisters : Prop :=
  (∀ off, State.reset.word off = regReset off)
  ∧ (∀ p off, State.reset.word4 p off = bar4Reset off)
  ∧ (∀ g, (State.reset.tile g).mode = .halted ∧ (State.reset.tile g).queue = [] ∧ (State.reset.tile g).flight = [])
  ∧ (∀ b, (State.reset.bolt b).pat = none)
  ∧ (∀ q, (State.reset.txn q).isOpen = false) ∧ State.reset.stitched = [] ∧ State.reset.log = [] ∧ State.reset.pending = []

/-- One word of each form of the control-core table, its fields written out from Table 3.3, decodes to its instruction; a word with an unlisted major opcode, an unlisted fn or a nonzero unused field decodes to none. -/
def Obligations.CoreWords : Prop :=
  decodeCore 0b000000_00011_00001_00010_00000001010 = some (.alu .mul 3 1 2)
  ∧ decodeCore 0b000001_00101_00110_1111111111111110 = some (.imm .addi 5 6 0xFFFE)
  ∧ decodeCore 0b000101_00001_00010_0000000001000011 = some (.shi 1 2 0x43)
  ∧ decodeCore 0b000110_00111_00000_1000000000000001 = some (.lui 7 0x8001)
  ∧ decodeCore 0b001001_00100_11111_0000000000001000 = some (.load .word 4 31 8)
  ∧ decodeCore 0b001110_00100_00000_0000000000000001 = some (.store .byte 4 0 1)
  ∧ decodeCore 0b010011_00001_00010_1111111111111111 = some (.branch .ge 1 2 0xFFFF)
  ∧ decodeCore 0b011001_00000000000000000000000011 = some (.jal 3)
  ∧ decodeCore 0b011010_00000_00001_0000000000000100 = some (.jr 0 1 4)
  ∧ decodeCore 0b100000_00000_00011_0000000001000000 = some (.cqpush 3 0x40)
  ∧ decodeCore 0b100010_00010_00000_0000000000000001 = some (.csrr 2 1)
  ∧ decodeCore 0b100101_00000000000000000000000000 = some .halt
  ∧ decodeCore 0b000111_00000_00000_0000000000000000 = none
  ∧ decodeCore 0b000000_00001_00010_00011_00000001100 = none
  ∧ decodeCore 0b000110_00111_00001_0000000000000001 = none

/-- For every instruction of the control-core table, with every operand at every value its field admits (SHI's immediate with bits [15:7] zero), decodeCore of encodeCore is that instruction. For every 32-bit word w: where decodeCore answers an instruction, that instruction is well formed and its word is w, so no two words spell one instruction and no bit of an encoding is ignored. -/
def Obligations.CoreRoundTrip : Prop :=
  (∀ i : CoreInstr, i.wf = true → decodeCore (encodeCore i) = some i)
  ∧ (∀ (w : BitVec 32) (i : CoreInstr), decodeCore w = some i → i.wf = true ∧ encodeCore i = w)

/-- State.reset's memory lists nothing, so its addresses rise strictly and no entry equals what an unlisted address reads as. -/
def Obligations.ResetMemory : Prop :=
  State.reset.MemOk ∧ ∀ a, State.reset.mem.read a = Mem.unlisted

/-- From every state whose memory has strictly rising addresses and no entry at its unlisted value, whatever command is at the front of its queue, a step that answers a next state leaves the memory in that form, so that equal memories stay equal data. -/
def Obligations.StepKeepsMemory : Prop :=
  ∀ s t : State, s.MemOk → StepsTo s t → t.MemOk

/-- ADD, SUB, AND, OR, XOR, SHL, SHR, SAR, SLT, SLTU, MUL, MULHU: on every state in which the core of the site would execute the instruction, exec answers a next state in which rd (unless it is g0) has the listed function of rs1 and rs2 as they stood, the program counter is 4 higher, the core is ready one TCLK cycle later, and every other part of the state is as the fetch left it but for the tracing of the site. -/
def Obligations.CoreAlu : Prop :=
  AluRow Instr.add .add (fun x y => x + y)
  ∧ AluRow Instr.sub .sub (fun x y => x - y)
  ∧ AluRow Instr.and_ .and_ (fun x y => x &&& y)
  ∧ AluRow Instr.or_ .or_ (fun x y => x ||| y)
  ∧ AluRow Instr.xor .xor (fun x y => x ^^^ y)
  ∧ AluRow Instr.shl .shl (fun x y => x <<< (y.toNat % 64))
  ∧ AluRow Instr.shr .shr (fun x y => x >>> (y.toNat % 64))
  ∧ AluRow Instr.sar .sar (fun x y => x.sshiftRight (y.toNat % 64))
  ∧ AluRow Instr.slt .slt (fun x y => if x.toInt < y.toInt then 1 else 0)
  ∧ AluRow Instr.sltu .sltu (fun x y => if x.toNat < y.toNat then 1 else 0)
  ∧ AluRow Instr.mul .mul (fun x y => x * y)
  ∧ AluRow Instr.mulhu .mulhu (fun x y => BitVec.ofNat 64 (x.toNat * y.toNat / 2 ^ 64))

/-- ADDI, ANDI, ORI, XORI with the sign-extended immediate, SHI (imm16[6] set: right by imm16[5:0]; clear: left), LUI (the immediate shifted left 16 as a 32-bit word, sign-extended): on every state in which the core would execute the instruction, exec answers a next state with that result in rd (unless rd is g0), the program counter 4 higher, and everything else as the fetch left it but for the tracing of the site. -/
def Obligations.CoreImmediate : Prop :=
  ImmRow Instr.addi (CoreInstr.imm .addi) (fun x i => x + i.signExtend 64)
  ∧ ImmRow Instr.andi (CoreInstr.imm .andi) (fun x i => x &&& i.signExtend 64)
  ∧ ImmRow Instr.ori (CoreInstr.imm .ori) (fun x i => x ||| i.signExtend 64)
  ∧ ImmRow Instr.xori (CoreInstr.imm .xori) (fun x i => x ^^^ i.signExtend 64)
  ∧ ImmRow Instr.shi (CoreInstr.shi) (fun x i => if i.getLsbD 6 then x >>> (i.toNat % 64) else x <<< (i.toNat % 64))
  ∧ (∀ (t : Site) (rd : BitVec 5) (i : BitVec 16) (s : State), s.coreAt t.g (.lui rd i) →
      ∃ u, exec (Instr.lui t rd i) s = .next u ∧
        CoreWrites s t.g (.lui rd i) rd ((BitVec.ofNat 32 (i.toNat * 65536)).signExtend 64) ((s.tile t.g).pc + 4) 1 u)

/-- LD, LW, LB with a naturally aligned address inside data SRAM or the bobbin window whose words read without an uncorrectable error: exec answers a next state in which rd (unless g0) has the little-endian bytes at that address, zero-extended; the load reaches an instruction that reads rd two TCLK cycles later; the program counter is 4 higher; memory reads as the access left it, and no other register of the core changes. -/
def Obligations.CoreLoads : Prop :=
  LoadRow Instr.ld .dword 8
  ∧ LoadRow Instr.lw .word 4
  ∧ LoadRow Instr.lb .byte 1

/-- SD, SW, SB with a naturally aligned address inside data SRAM or the bobbin window, whose word can be merged: exec answers a next state whose memory is what writing the low 8, 4 or 1 bytes of rd at that address makes of it (put, R174), with the program counter 4 higher, no general register changed, and every other byte of memory as the write leaves it. For a run of bytes inside one 8-byte word of a tile's SRAM whose stored copy is sound: put writes them, byte i at address a + i, every byte outside the run reads as before, and no tile, bolt or register of the host changes. -/
def Obligations.CoreStores : Prop :=
  StoreRow Instr.sd .dword 8
  ∧ StoreRow Instr.sw .word 4
  ∧ StoreRow Instr.sb .byte 1
  ∧ (∀ (a : Nat) (l : List (BitVec 8)) (s : State),
      (placeOf a).isDram = false →
      l ≠ [] →
      a % 8 + l.length ≤ 8 →
      s.verdict (cwAt a) = .clean →
      (s.put a l).1 = none →
      let x := (s.put a l).2;
        (∀ i (h : i < l.length), x.mem.read (a + i) = l[i]) ∧ (∀ b, b < a ∨ a + l.length ≤ b → x.mem.read b = s.mem.read b)
          ∧ x.tiles = s.tiles ∧ x.bolts = s.bolts ∧ x.bar4 = s.bar4 ∧ x.tape = s.tape ∧ x.out = s.out)

/-- BEQ, BNE, BLT, BGE, BLTU, BGEU: on every state in which the core would execute the branch, exec answers a next state in which the program counter is pc + 4 + 4 × off16 where the listed condition on rs1 and rs2 holds, the core being ready three TCLK cycles later, and pc + 4 with the core ready one TCLK cycle later where it does not; no general register and nothing else changes but the tracing of the site. -/
def Obligations.CoreBranches : Prop :=
  BranchRow Instr.beq .eq (fun x y => decide (x = y))
  ∧ BranchRow Instr.bne .ne (fun x y => decide (x ≠ y))
  ∧ BranchRow Instr.blt .lt (fun x y => decide (x.toInt < y.toInt))
  ∧ BranchRow Instr.bge .ge (fun x y => decide (y.toInt ≤ x.toInt))
  ∧ BranchRow Instr.bltu .ltu (fun x y => decide (x.toNat < y.toNat))
  ∧ BranchRow Instr.bgeu .geu (fun x y => decide (y.toNat ≤ x.toNat))

/-- J, JAL, JR: on every state in which the core would execute the jump, exec answers a next state with the program counter at pc + 4 + 4 × off26 (J, JAL) or at rs1 + imm16 as rs1 stood (JR); JAL writes pc + 4 to g31 and JR to rd (unless g0); the core is ready three TCLK cycles later; nothing else changes but the tracing of the site. TAPER: on every state in which the core would execute it, exec answers a next state with the tape count of its execution in rd and the program counter 4 higher. HALT: the core stops (RUN clear) with the program counter 4 higher; a tile whose queue is empty and drained is then idle. -/
def Obligations.CoreControl : Prop :=
  (∀ (t : Site) (off : BitVec 26) (s : State),
      s.coreAt t.g (.j off) →
      ∃ u, exec (Instr.j t off) s = .next u ∧ CoreWrites s t.g (.j off) 0 0 ((s.tile t.g).pc + 4 + 4 * off.signExtend 64) 3 u)
  ∧ (∀ (t : Site) (off : BitVec 26) (s : State),
      s.coreAt t.g (.jal off) →
      ∃ u, exec (Instr.jal t off) s = .next u ∧ CoreWrites s t.g (.jal off) 31 ((s.tile t.g).pc + 4) ((s.tile t.g).pc + 4 + 4 * off.signExtend 64) 3 u)
  ∧ (∀ (t : Site) (rd a : BitVec 5) (i : BitVec 16) (s : State),
      s.coreAt t.g (.jr rd a i) →
      ∃ u, exec (Instr.jr t rd a i) s = .next u ∧ CoreWrites s t.g (.jr rd a i) rd ((s.tile t.g).pc + 4) ((s.tile t.g).gr a + i.signExtend 64) 3 u)
  ∧ (∀ (t : Site) (rd : BitVec 5) (s : State),
      s.coreAt t.g (.taper rd) →
      ∃ u, exec (Instr.taper t rd) s = .next u ∧ CoreWrites s t.g (.taper rd) rd (BitVec.ofNat 64 (s.coreNow t.g (.taper rd)).tape) ((s.tile t.g).pc + 4) 1 u)
  ∧ (∀ (t : Site) (s : State),
      s.coreAt t.g .halt →
      ∃ u, exec (Instr.halt t) s = .next u ∧ (u.tile t.g).run = false ∧ (u.tile t.g).pc = (s.tile t.g).pc + 4 ∧ (u.tile t.g).g = (s.tile t.g).g ∧ (u.tile t.g).queue = (s.tile t.g).queue
      ∧ ((s.tile t.g).faulted = false → (s.tile t.g).queue = [] → (s.tile t.g).flight = [] → (u.tile t.g).mode = .idle))

/-- CQPUSH with a 64-byte-aligned data SRAM address, room in the 64-entry queue and readable words begins a copy of those bytes that ends 8 TCLK cycles later; CQPUSH_APPEND ends it: the entry stands at the queue's tail and the core goes on at pc + 4. CQWAIT goes on at pc + 4 when CQ_DONE.ANY is set and (CQ_DONE.SEQ − s) mod 2^16 < 2^15, and else stalls on s; CQWAIT_RETURN ends the stall under the same test. -/
def Obligations.CoreQueue : Prop :=
  (∀ (t : Site) (a : BitVec 5) (i : BitVec 16) (l : List (BitVec 8)) (s : State),
      s.coreAt t.g (.cqpush a i) →
      ((s.tile t.g).gr a + i.signExtend 64).toNat % 64 = 0 →
      0x10000 ≤ ((s.tile t.g).gr a + i.signExtend 64).toNat ∧ ((s.tile t.g).gr a + i.signExtend 64).toNat < 0x20000 →
      (s.tile t.g).queue.length < 64 →
      ((s.coreNow t.g (.cqpush a i)).peek (dsramAt t.g (((s.tile t.g).gr a + i.signExtend 64).toNat - 0x10000)) 64).1.toOption = some l →
      ∃ u, exec (Instr.cqpush t a i) s = .next u ∧ let x := ((s.coreNow t.g (.cqpush a i)).peek (dsramAt t.g (((s.tile t.g).gr a + i.signExtend 64).toNat - 0x10000)) 64).2;
        u = x.setTile t.g { x.tile t.g with pushing := some (BitVec.ofNat 512 (leNat l), x.tape + x.tclkCycles 8) })
  ∧ (∀ (t : Site) (d : BitVec 512) (due : Nat) (s : State),
      s.live = true →
      s.clocked t.g = true →
      (s.tile t.g).pushing = some (d, due) →
      ∃ u, exec (Instr.cqpushAppend t) s = .next u ∧ (u.tile t.g).queue = (s.tile t.g).queue ++ [d] ∧ (u.tile t.g).pushing = none ∧ (u.tile t.g).pc = (s.tile t.g).pc + 4
      ∧ (u.tile t.g).flight = (s.tile t.g).flight ∧ u.tape = max s.tape due ∧ ∀ a, u.mem.read a = s.mem.read a)
  ∧ (∀ (t : Site) (a : BitVec 5) (s : State),
      s.coreAt t.g (.cqwait a) →
      s.b (.tile t.g) F.CQ_DONE_ANY = true →
      (s.r (.tile t.g) F.CQ_DONE_SEQ + 2 ^ 16 - ((s.tile t.g).gr a).toNat % 2 ^ 16) % 2 ^ 16 < 2 ^ 15 →
      ∃ u, exec (Instr.cqwait t a) s = .next u ∧ CoreWrites s t.g (.cqwait a) 0 0 ((s.tile t.g).pc + 4) 1 u)
  ∧ (∀ (t : Site) (a : BitVec 5) (s : State),
      s.coreAt t.g (.cqwait a) →
      (s.b (.tile t.g) F.CQ_DONE_ANY = true →
      2 ^ 15 ≤ (s.r (.tile t.g) F.CQ_DONE_SEQ + 2 ^ 16 - ((s.tile t.g).gr a).toNat % 2 ^ 16) % 2 ^ 16) →
      ∃ u, exec (Instr.cqwait t a) s = .next u ∧ (u.tile t.g).waitSeq = some (((s.tile t.g).gr a).toNat % 2 ^ 16) ∧ (u.tile t.g).pc = (s.tile t.g).pc ∧ (u.tile t.g).coreFree = false)
  ∧ (∀ (t : Site) (a : BitVec 5) (v : Nat) (s : State),
      (s.tile t.g).waitSeq = some v →
      (s.tile t.g).run = true →
      s.live = true →
      s.clocked t.g = true →
      ((s.tile t.g).gr a).toNat % 2 ^ 16 = v →
      s.b (.tile t.g) F.CQ_DONE_ANY = true →
      (s.r (.tile t.g) F.CQ_DONE_SEQ + 2 ^ 16 - v) % 2 ^ 16 < 2 ^ 15 →
      ∃ u, exec (Instr.cqwaitReturn t a) s = .next u ∧ (u.tile t.g).waitSeq = none ∧ (u.tile t.g).pc = (s.tile t.g).pc + 4 ∧ (u.tile t.g).queue = (s.tile t.g).queue ∧ u.mem = s.mem ∧ u.tape = s.tape)

/-- While the core of a site runs, a fetch from a program counter that is not a multiple of 4 (cause 2) or is outside instruction SRAM (cause 3), or of a word that is no instruction (cause 1), whatever instruction the command names: exec of ADD answers a next state in which the tile is faulted and its core halted, CC_FAULT.CAUSE and VALID are set with the word address of the program counter, and the program counter and the registers are as they were. A load whose address is not aligned faults in the same way with cause 2 and one outside data SRAM and bobbin with cause 3. -/
def Obligations.CoreFaults : Prop :=
  (∀ (t : Site) (rd a b : BitVec 5) (c : Nat) (s : State),
      (s.tile t.g).run = true →
      (s.tile t.g).coreFree = true →
      s.live = true →
      s.clocked t.g = true →
      ((s.tile t.g).pc.toNat % 4 ≠ 0 ∧ c = 2) ∨ ((s.tile t.g).pc.toNat % 4 = 0 ∧ 0x10000 ≤ (s.tile t.g).pc.toNat ∧ c = 3) →
      ∃ u, exec (Instr.add t rd a b) s = .next u ∧ (u.tile t.g).faulted = true ∧ (u.tile t.g).run = false ∧ (u.tile t.g).pc = (s.tile t.g).pc ∧ (u.tile t.g).g = (s.tile t.g).g
      ∧ u.r (.tile t.g) F.CC_FAULT_CAUSE = c ∧ u.b (.tile t.g) F.CC_FAULT_VALID = true ∧ u.r (.tile t.g) F.CC_FAULT_PC = (s.tile t.g).pc.toNat / 4 % 2 ^ 16 ∧ u.mem = s.mem)
  ∧ (∀ (t : Site) (rd a : BitVec 5) (i : BitVec 16) (s : State),
      s.coreAt t.g (.load .dword rd a i) →
      ((s.tile t.g).gr a + i.signExtend 64).toNat % 8 ≠ 0 →
      ∃ u, exec (Instr.ld t rd a i) s = .next u ∧ (u.tile t.g).faulted = true ∧ (u.tile t.g).run = false ∧ (u.tile t.g).pc = (s.tile t.g).pc ∧ (u.tile t.g).g = (s.tile t.g).g
      ∧ u.r (.tile t.g) F.CC_FAULT_CAUSE = 2 ∧ u.b (.tile t.g) F.CC_FAULT_VALID = true)
  ∧ (∀ (t : Site) (rd a : BitVec 5) (i : BitVec 16) (s : State),
      s.coreAt t.g (.load .dword rd a i) →
      ((s.tile t.g).gr a + i.signExtend 64).toNat % 8 = 0 →
      coreAddr t.g ((s.tile t.g).gr a + i.signExtend 64).toNat = none →
      ∃ u, exec (Instr.ld t rd a i) s = .next u ∧ (u.tile t.g).faulted = true ∧ (u.tile t.g).run = false ∧ (u.tile t.g).pc = (s.tile t.g).pc ∧ (u.tile t.g).g = (s.tile t.g).g
      ∧ u.r (.tile t.g) F.CC_FAULT_CAUSE = 3 ∧ u.b (.tile t.g) F.CC_FAULT_VALID = true)

/-- NOP, FENCE, RNGK: whenever the head of a tile's queue is one, may be handed on, reads cleanly and has no reserved bits, exec of the row answers a next state in which it has left the queue, CQ_ISSUED has its SEQ, and it is the youngest command in flight: NOP running until max(1, DELAY) TCLK cycles after its issue, FENCE running, RNGK done one TCLK cycle after its issue (that cycle is the model's choice, log entry 15). Memory, bolts and other tiles do not change. -/
def Obligations.IssueSync : Prop :=
  IssueRow Instr.nop (isOp 0x00) (fun _ => resCheck fun d => !zeroFrom d 96) (fun _ _ => True)
      (fun y d _ f => f.phase = .running ∧ f.start = y.tape ∧ f.due = y.tape + y.tclkCycles (max 1 (dget d 8 0 32)))
  ∧ IssueRow Instr.fence (isOp 0x0D) (fun _ => resCheck fun d => !zeroFrom d 69) (fun _ _ => True)
      (fun y _ _ f => f.phase = .running ∧ f.start = y.tape)
  ∧ IssueRow Instr.rngk (isOp 0x0B) (fun _ => resCheck rngkBad) (fun _ _ => True)
      (fun y _ _ f => f.phase = .done ∧ f.due = y.tape + y.tclkCycles 1)

/-- MM, MMA: whenever the head of the queue is one, may be handed on and passes the checks of its row, exec answers a next state in which it is the youngest command in flight: done one TCLK cycle after issue when M or N is 0, and otherwise waiting, to start no earlier than 4 TCLK cycles after issue. It has left the queue, CQ_ISSUED has its SEQ, and memory, bolts and other tiles do not change. -/
def Obligations.IssueArrays : Prop :=
  IssueRow Instr.mm (isOp 0x01) (fun g s d => s.mmCheck g d) (fun _ _ => True)
      (fun y d _ f => if mmEmpty d then f.phase = .done ∧ f.due = y.tape + y.tclkCycles 1 else f.phase = .waiting ∧ f.start = y.tape + y.tclkCycles 4)
  ∧ IssueRow Instr.mma (isOp 0x02) (fun g s d => s.mmCheck g d) (fun _ _ => True)
      (fun y d _ f => if mmEmpty d then f.phase = .done ∧ f.due = y.tape + y.tclkCycles 1 else f.phase = .waiting ∧ f.start = y.tape + y.tclkCycles 4)

/-- ATTN, ATTN_BWD, VEC: whenever the head of the queue is one, may be handed on and passes the checks of its row, exec answers a next state in which it is the youngest command in flight: done one TCLK cycle after issue when it has no query rows (ATTN, ATTN_BWD) or no rows or columns (VEC), and otherwise waiting. It has left the queue, CQ_ISSUED has its SEQ, and memory, bolts and other tiles do not change. -/
def Obligations.IssueEngines : Prop :=
  IssueRow Instr.attn (isOp 0x03) (fun g s d => s.attCheck g d) (fun _ _ => True)
      (fun y d _ f => if (attOf d).mq = 0 then f.phase = .done ∧ f.due = y.tape + y.tclkCycles 1 else f.phase = .waiting)
  ∧ IssueRow Instr.attnBwd (isOp 0x04) (fun _ s d => s.bwdCheck d) (fun _ _ => True)
      (fun y d _ f => if (attOf d).mq = 0 then f.phase = .done ∧ f.due = y.tape + y.tclkCycles 1 else f.phase = .waiting)
  ∧ IssueRow Instr.vec (isOp 0x05) (fun g s d => s.vecCheck g d) (fun _ _ => True)
      (fun y d _ f => if (vecOf d).rows = 0 ∨ (vecOf d).cols = 0 then f.phase = .done ∧ f.due = y.tape + y.tclkCycles 1 else f.phase = .waiting ∧ f.start = y.tape + y.tclkCycles 4)

/-- SHUT_COPY, SHUT_GATHER, SWATCH_WALK, SEND, RECV: whenever the head of the queue is one, may be handed on and passes the checks of its row, exec answers a next state in which it is the youngest command in flight: done one TCLK cycle after issue when it moves no byte, and otherwise on the lowest channel that no open command holds with no progress, running (a walk behind another walk waits). It has left the queue, CQ_ISSUED has its SEQ, and memory, bolts and other tiles do not change. -/
def Obligations.IssueShuttle : Prop :=
  IssueRow Instr.shutCopy (fun d => opcodeOf d == 6 && shutKind d != 1 && shutKind d != 2) (copyCheck) (fun _ _ => True)
      (fun y d g f => if (copyOf d).total = 0 then f.phase = .done ∧ f.due = y.tape + y.tclkCycles 1 else f.phase = .running ∧ f.start = y.tape ∧ f.prog = 0 ∧ f.chan = (y.tile g).freeChan)
  ∧ IssueRow Instr.shutGather (fun d => opcodeOf d == 6 && shutKind d == 1) (gatherCheck) (fun _ _ => True)
      (fun y d g f => if (gatherOf false d).count = 0 then f.phase = .done ∧ f.due = y.tape + y.tclkCycles 1 else f.phase = .running ∧ f.start = y.tape ∧ f.prog = 0 ∧ f.chan = (y.tile g).freeChan)
  ∧ IssueRow Instr.swatchWalk (isWalk) (walkCheck) (fun _ _ => True)
      (fun y d g f => if (walkOf d).kvLen = 0 then f.phase = .done ∧ f.due = y.tape + y.tclkCycles 1 else f.phase = (if isWalk d && (y.tile g).walking then .waiting else .running) ∧ f.start = y.tape ∧ f.prog = 0 ∧ f.chan = (y.tile g).freeChan)
  ∧ IssueRow Instr.send (isOp 0x07) (sendCheck) (fun _ _ => True)
      (fun y d g f => if sendLen d = 0 then f.phase = .done ∧ f.due = y.tape + y.tclkCycles 1 else f.phase = .running ∧ f.start = y.tape ∧ f.prog = 0 ∧ f.chan = (y.tile g).freeChan)
  ∧ IssueRow Instr.recv (isOp 0x08) (sendCheck) (fun _ _ => True)
      (fun y d g f => if sendLen d = 0 then f.phase = .done ∧ f.due = y.tape + y.tclkCycles 1 else f.phase = .running ∧ f.start = y.tape ∧ f.prog = 0 ∧ f.chan = (y.tile g).freeChan)

/-- TACK (on a site that is not migrating), WAIT, CHK (with fewer than 16 descriptors waiting at the check unit): whenever the head of the queue is one, may be handed on and passes the checks of its row, exec answers a next state in which it is the youngest command in flight, a CHK waiting for the unit and the others running: TACK with its TACK_NO, WAIT with the mark that its TARGET is reached when the schedule count is not below it. It has left the queue, CQ_ISSUED has its SEQ, and memory, bolts and other tiles do not change. -/
def Obligations.IssueOrder : Prop :=
  IssueRow Instr.tack (isOp 0x09) (tackCheck) (fun g s => s.migrating g = false)
      (fun _ d _ f => f.phase = .running ∧ f.aux = tackNo d)
  ∧ IssueRow Instr.wait (isOp 0x0A) (waitCheck) (fun _ _ => True)
      (fun y d g f => f.phase = .running ∧ f.start = y.tape ∧ f.aux = (if dget d 8 0 64 ≤ ((y.runBolt g).map y.countOf).getD 0 then 1 else 0))
  ∧ IssueRow Instr.chk (isOp 0x0C) (chkCheck) (fun g s => (s.chkU (dieChk g)).waiting < 16)
      (fun _ _ _ f => f.phase = .waiting)

/-- RESERVED_OPCODE, whose whole effect the spec gives as this refusal: for every descriptor d at the head of a tile's queue with an opcode of 0x0E or above that may be handed on and whose entry reads without an uncorrectable word, exec answers a next state in which the tile is faulted, the queue and the commands in flight are unchanged, memory and the other tiles are unchanged, and, where CMD_FAULT_STAT.VALID was clear, the CMD_FAULT registers hold code 0x01, the opcode, the sequence number and REFUSAL. -/
def Obligations.ReservedOpcode : Prop :=
  (∀ (t : Site) (d e : BitVec 512) (q : List (BitVec 512)) (x : State) (s : State),
      (s.tile t.g).queue = d :: q →
      0x0E ≤ opcodeOf d →
      0x0E ≤ opcodeOf e →
      s.mayIssue t.g d = true →
      s.cqRead t.g d = (none, e, x) →
      ∃ u, exec (Instr.reservedOpcode t) s = .next u ∧ (u.tile t.g).faulted = true ∧ (u.tile t.g).queue = d :: q ∧ (u.tile t.g).flight = (s.tile t.g).flight ∧ u.mem = x.mem
      ∧ (∀ g', g' ≠ t.g → u.tile g' = s.tile g')
      ∧ (s.b (.tile t.g) F.CMD_FAULT_STAT_VALID = false →
          u.r (.tile t.g) F.CMD_FAULT_CODE_CODE = 1 ∧ u.r (.tile t.g) F.CMD_FAULT_CODE_OPCODE = opcodeOf e ∧ u.r (.tile t.g) F.CMD_FAULT_CODE_SEQ = seqOf e
          ∧ u.b (.tile t.g) F.CMD_FAULT_STAT_VALID = true ∧ u.b (.tile t.g) F.CMD_FAULT_STAT_REFUSAL = true))

/-- For every row that issues through the queue's head with its kind, check and effect: where the check refuses with a code, issue leaves the queue and the commands in flight as they were, the tile faulted, memory and the other tiles as the check left them and, where VALID was clear, CMD_FAULT_CODE with that code and REFUSAL set (stated of MM with the checks of its row). -/
def Obligations.IssueRefused : Prop :=
  (∀ (t : Site) (d : BitVec 512) (x y : State) (code : Nat) (s : State),
      s.head t.g (isOp 0x01) = some (d, x) →
      x.mmCheck t.g d = (.refuse code, y) →
      ∃ u, exec (Instr.mm t) s = .next u ∧ (u.tile t.g).faulted = true ∧ (u.tile t.g).queue = (s.tile t.g).queue ∧ (u.tile t.g).flight = (s.tile t.g).flight ∧ u.mem = y.mem
      ∧ (∀ g', g' ≠ t.g → u.tile g' = s.tile g')
      ∧ (s.b (.tile t.g) F.CMD_FAULT_STAT_VALID = false → u.r (.tile t.g) F.CMD_FAULT_CODE_CODE = code ∧ u.b (.tile t.g) F.CMD_FAULT_STAT_REFUSAL = true))

/-- NOP_DELAY_EXPIRE: the running NOP is done at the tape its delay ends. FENCE_COMPLETE: the open FENCE is done once no earlier command that uses an engine of its mask is incomplete. COMMAND_RETIRE: the oldest command in flight, if done, leaves the tile no earlier than one TCLK cycle after it completed, and CQ_DONE.SEQ has its sequence number with ANY set. TILE_DRAINED: before a global stop, a faulted tile whose engines hold no open command has DRAINED set. -/
def Obligations.SyncCompletes : Prop :=
  (∀ (t : Site) (f : Flight) (s : State),
      s.live = true →
      (s.tile t.g).openOp 0x00 = some f →
      f.phase = .running →
      ∃ u, exec (Instr.nopDelayExpire t) s = .next u ∧ TraceOnly t.g ((s.advanceTo f.due).modFlight t.g f.uid fun x => { x with phase := .done, due := max s.tape f.due }) u)
  ∧ (∀ (t : Site) (f : Flight) (s : State),
      s.live = true →
      (s.tile t.g).openOp 0x0D = some f →
      (s.tile t.g).flight.all (fun x => !(decide (x.uid < f.uid) && x.phase != .done && (maskEng (dget f.desc 8 0 5)).any fun e => x.uses e)) = true →
      ∃ u, exec (Instr.fenceComplete t) s = .next u ∧ TraceOnly t.g (s.modFlight t.g f.uid fun x => { x with phase := .done, due := s.tape }) u)
  ∧ (∀ (t : Site) (f : Flight) (rest : List Flight) (s : State),
      s.live = true →
      s.clocked t.g = true →
      (s.tile t.g).flight = f :: rest →
      f.phase = .done →
      ∃ u, exec (Instr.commandRetire t) s = .next u ∧ (u.tile t.g).flight = rest ∧ u.r (.tile t.g) F.CQ_DONE_SEQ = seqOf f.desc ∧ u.b (.tile t.g) F.CQ_DONE_ANY = true
      ∧ u.tape = max s.tape (f.due + s.tclkCycles 1) ∧ u.mem = s.mem ∧ (u.tile t.g).queue = (s.tile t.g).queue ∧ (∀ g', g' ≠ t.g → u.tile g' = s.tile g'))
  ∧ (∀ (t : Site) (s : State),
      s.trace.stopped = false →
      (s.tile t.g).faulted = true →
      (s.tile t.g).flight.any (fun f => f.open_ && !f.uses .sync) = false →
      ∃ u, exec (Instr.tileDrained t) s = .next u ∧ u = s.setTile t.g { s.tile t.g with drainSet := true } ∧ (u.tile t.g).drained = true)

/-- ARRAY_PRODUCT_START: the first waiting MM or MMA, with no product running on the array, runs from its earliest start. MM_OUTPUT_BEAT: with beats left and no uncorrectable operand or output word, the running product's progress is one higher and every byte that is not one of the beat's output elements reads as before. MM_COMPLETE: with all 8 × Fp beats out, the product is done at the ACLK cycle of its last beat's write. Other tiles do not change. -/
def Obligations.ArrayRuns : Prop :=
  (∀ (t : Site) (f : Flight) (s : State),
      s.live = true →
      ((s.tile t.g).flight.find? fun f => f.phase == .waiting && f.uses .array) = some f →
      f.isMm = true →
      ((s.tile t.g).flight.find? fun e => e.phase == .running && e.uses .array) = none →
      ∃ u, exec (Instr.arrayProductStart t) s = .next u ∧ u = (s.advanceTo f.start).modFlight t.g f.uid fun x => { x with phase := .running, start := f.start })
  ∧ (∀ (t : Site) (f e : Flight) (s : State),
      s.live = true →
      ((s.tile t.g).flight.find? fun f => f.phase == .waiting && f.uses .array) = some f →
      f.isMm = true →
      ((s.tile t.g).flight.find? fun e => e.phase == .running && e.uses .array) = some e →
      e.isMm = true →
      (mmOf f.desc).k ≠ 0 →
      (mmOf e.desc).k ≠ 0 →
      ∃ u, exec (Instr.arrayProductStart t) s = .next u ∧ u.tape = max s.tape (max f.start (e.start + s.aclkCycles (mmOf e.desc).entered)) ∧ u.mem = s.mem
      ∧ (∃ x ∈ (u.tile t.g).flight, x.uid = f.uid ∧ x.phase = .running ∧ x.start = max f.start (e.start + s.aclkCycles (mmOf e.desc).entered)) ∧ (∀ g', g' ≠ t.g → u.tile g' = s.tile g'))
  ∧ (∀ (t : Site) (f : Flight) (s : State),
      s.live = true →
      (s.tile t.g).product = some f →
      f.prog < 8 * (mmOf f.desc).fp →
      (mmBeatIn s t.g f).1 = none →
      (mmBeatOut s t.g f).1 = none →
      ∃ u, exec (Instr.mmOutputBeat t) s = .next u ∧ (∃ x ∈ (u.tile t.g).flight, x.uid = f.uid ∧ x.prog = f.prog + 1) ∧ u.mem = (mmBeatOut s t.g f).2.mem ∧ (∀ g', g' ≠ t.g → u.tile g' = s.tile g')
      ∧ (∀ a, (∀ e ∈ (mmOf f.desc).elems f.prog,
          let d := bobbinAt t.g ((mmOf f.desc).dOff + (e.1 * (mmOf f.desc).m + e.2.1) * ((mmOf f.desc).dStr * 64) + e.2.2 * sizeOf8 (mmOf f.desc).dFmt);
          a < d ∨ d + sizeOf8 (mmOf f.desc).dFmt ≤ a) → u.mem.read a = (mmBeatIn s t.g f).2.mem.read a))
  ∧ (∀ (t : Site) (f : Flight) (s : State),
      (s.tile t.g).product = some f →
      8 * (mmOf f.desc).fp ≤ f.prog →
      ∃ u, exec (Instr.mmComplete t) s = .next u ∧ (∃ x ∈ (u.tile t.g).flight, x.uid = f.uid ∧ x.phase = .done ∧ x.due = u.tape) ∧ u.tape = max s.tape (f.start + s.aclkCycles ((mmOf f.desc).beatCycle (8 * (mmOf f.desc).fp - 1) + 1)) ∧ u.mem = s.mem ∧ (∀ g', g' ≠ t.g → u.tile g' = s.tile g'))

/-- ATTN_BLOCK: with a block left, the ring (where used) not empty and readable operands, the command's progress and ATT_PROGRESS are one higher, and of a ring CONS is one higher. ATTN_COMPLETE: with all blocks taken and a readable state, the command is done at its start plus its cycles and ATT_PROGRESS stands at its blocks. ATTN_BWD_COMPLETE: with readable operands and 8-byte-aligned outputs it is done at its start plus its cycles. Other tiles do not change. -/
def Obligations.AttentionRuns : Prop :=
  (∀ (t : Site) (f : Flight) (s : State),
      s.live = true →
      (s.tile t.g).attNow 3 = some f →
      f.prog < (attOf f.desc).nb →
      ((attOf f.desc).ring && s.ringProd t.g == s.ringCons t.g) = false →
      ((attnBlockAt s t.g f).readRgns t.g (attnBlockIn s t.g f)).1 = none →
      ∃ u, exec (Instr.attnBlock t) s = .next u ∧ (∃ x ∈ (u.tile t.g).flight, x.uid = f.uid ∧ x.prog = f.prog + 1) ∧ u.r (.tile t.g) F.ATT_PROGRESS_BLOCKS = (f.prog + 1) % 2 ^ F.ATT_PROGRESS_BLOCKS.w
      ∧ ((attOf f.desc).ring = true → u.ringCons t.g = (s.ringCons t.g + 1) % 2 ^ 32) ∧ (∀ g', g' ≠ t.g → u.tile g' = s.tile g'))
  ∧ (∀ (t : Site) (f : Flight) (s : State),
      s.live = true →
      (s.tile t.g).attNow 3 = some f →
      (attOf f.desc).nb ≤ f.prog →
      ((s.advanceTo (f.start + s.tclkCycles (attOf f.desc).cycles)).readRgns t.g [(attOf f.desc).stR]).1 = none →
      ∃ u, exec (Instr.attnComplete t) s = .next u ∧ (∃ x ∈ (u.tile t.g).flight, x.uid = f.uid ∧ x.phase = .done ∧ x.due = u.tape) ∧ u.tape = max s.tape (f.start + s.tclkCycles (attOf f.desc).cycles)
      ∧ u.r (.tile t.g) F.ATT_PROGRESS_BLOCKS = f.prog % 2 ^ F.ATT_PROGRESS_BLOCKS.w ∧ (∀ g', g' ≠ t.g → u.tile g' = s.tile g'))
  ∧ (∀ (t : Site) (f : Flight) (s : State),
      s.live = true →
      (s.tile t.g).attNow 4 = some f →
      (attOf f.desc).dqOff % 8 = 0 →
      (attOf f.desc).dkvOff % 8 = 0 →
      ((s.advanceTo (f.start + s.tclkCycles (attOf f.desc).bwdCycles)).readRgns t.g [(attOf f.desc).qR, (attOf f.desc).doR, (attOf f.desc).oR, (attOf f.desc).statR, (attOf f.desc).kvR]).1 = none →
      ∃ u, exec (Instr.attnBwdComplete t) s = .next u ∧ (∃ x ∈ (u.tile t.g).flight, x.uid = f.uid ∧ x.phase = .done ∧ x.due = u.tape) ∧ u.tape = max s.tape (f.start + s.tclkCycles (attOf f.desc).bwdCycles) ∧ (∀ g', g' ≠ t.g → u.tile g' = s.tile g'))

/-- VEC_GROUP: with groups left and no uncorrectable word met by its loads or its stores, the program's progress and VEC_PROGRESS are one higher, no earlier than TCLK cycle 12 + (n + 1) × P after its start. VEC_COMPLETE: an element-wise program whose groups are all done is done at cycle 12 + groups × P + 8; a reduction, selection or sampling kind whose rows meet no uncorrectable word is done no earlier than its start. Other tiles do not change. -/
def Obligations.VectorRuns : Prop :=
  (∀ (t : Site) (f : Flight) (s : State),
      s.live = true →
      (s.tile t.g).vecNow = some f →
      (vecOf f.desc).kind = 0 →
      f.prog < (vecOf f.desc).groups →
      (vecGroupRun s t.g f).1 = none →
      ((vecGroupRun s t.g f).2.1.puts.foldl (fun (acc : Option Nat × State) e => acc.2.putOn e.1 e.2 acc.1) (none, (vecGroupRun s t.g f).2.2)).1 = none →
      ∃ u, exec (Instr.vecGroup t) s = .next u ∧ (∃ x ∈ (u.tile t.g).flight, x.uid = f.uid ∧ x.prog = f.prog + 1) ∧ u.r (.tile t.g) F.VEC_PROGRESS_GROUPS = (f.prog + 1) % 2 ^ F.VEC_PROGRESS_GROUPS.w
      ∧ f.start + s.tclkCycles (12 + (f.prog + 1) * (vecOf f.desc).period (progOps (f.cap.drop 32) (vecOf f.desc).progLen)) ≤ u.tape ∧ (∀ g', g' ≠ t.g → u.tile g' = s.tile g'))
  ∧ (∀ (t : Site) (f : Flight) (s : State),
      s.live = true →
      (s.tile t.g).vecNow = some f →
      (vecOf f.desc).kind = 0 →
      (vecOf f.desc).groups ≤ f.prog →
      ∃ u, exec (Instr.vecComplete t) s = .next u ∧ (∃ x ∈ (u.tile t.g).flight, x.uid = f.uid ∧ x.phase = .done ∧ x.due = u.tape) ∧ u.mem = s.mem
      ∧ u.tape = max s.tape (f.start + s.tclkCycles (12 + (vecOf f.desc).groups * (vecOf f.desc).period (progOps (f.cap.drop 32) (vecOf f.desc).progLen) + 8)) ∧ (∀ g', g' ≠ t.g → u.tile g' = s.tile g'))
  ∧ (∀ (t : Site) (f : Flight) (s : State),
      s.live = true →
      (s.tile t.g).vecNow = some f →
      (vecOf f.desc).kind ≠ 0 →
      (vecRowsRun s t.g f).1 = none →
      ((vecRowsRun s t.g f).2.1.puts.foldl (fun (acc : Option Nat × State) e => acc.2.putOn e.1 e.2 acc.1) (none, (vecRowsRun s t.g f).2.2.2)).1 = none →
      ∃ u, exec (Instr.vecComplete t) s = .next u ∧ (∃ x ∈ (u.tile t.g).flight, x.uid = f.uid ∧ x.phase = .done ∧ x.due = u.tape) ∧ max s.tape f.start ≤ u.tape ∧ (∀ g', g' ≠ t.g → u.tile g' = s.tile g'))

/-- SHUTTLE_ACCESS, whose descriptor reads without an uncorrectable word before its first access: a running copy whose next access translates, finds a path, waits for no near-bank operation of its bolt and reads and writes without an uncorrectable word writes the bytes at its source to its destination, at most to the end of either line, and its progress is higher by their number; a running gather does the same with the row its index selects; a running SEND to a tile of the module puts the next 64 bytes on the mesh for the destination's channel. No other tile changes. -/
def Obligations.ShuttleMoves : Prop :=
  (∀ (t : Site) (c : Fin 4) (f e : Flight) (src dst left n a b : Nat) (l : List (BitVec 8)) (y : State) (s : State),
      s.live = true →
      (s.tile t.g).chanCmd c.val = some f →
      s.chanRead t.g f = (some e, y) →
      e.op = 6 →
      shutKind e.desc = 0 →
      (copyOf e.desc).place e.prog = (src, dst, left) →
      n = min left (min (lineLeft src) (lineLeft dst)) →
      y.translate t.g src n false = .at_ a →
      y.cutOffBy t.g (shutSched e.desc) a = false →
      y.waitsAt t.g e.uid a n = none →
      ((y.translate t.g dst n true).addr?.bind fun b => y.waitsAt t.g e.uid b n) = none →
      (accRead y t.g e false a n).2.1.toOption = some l →
      (accRead y t.g e false a n).2.2.translate t.g dst n true = .at_ b →
      (accRead y t.g e false a n).2.2.cutOffBy t.g (shutSched e.desc) b = false →
      (accWrite (accRead y t.g e false a n) t.g e b l).1 = none →
      ∃ u, exec (Instr.shuttleAccess t c) s = .next u ∧ u.mem = (accWrite (accRead y t.g e false a n) t.g e b l).2.mem ∧ (∃ x ∈ (u.tile t.g).flight, x.uid = e.uid ∧ x.prog = e.prog + n) ∧ (∀ g', g' ≠ t.g → u.tile g' = s.tile g'))
  ∧ (∀ (t : Site) (c : Fin 4) (f e : Flight) (a b : Nat) (ix l : List (BitVec 8)) (y : State) (s : State),
      s.live = true →
      (s.tile t.g).chanCmd c.val = some f →
      s.chanRead t.g f = (some e, y) →
      e.op = 6 →
      shutKind e.desc = 1 →
      (gatherIx y t.g e).1.toOption = some ix →
      (gatherIx y t.g e).2.translate t.g (gatherAt e ix).1 (gatherAt e ix).2 false = .at_ a →
      (gatherIx y t.g e).2.cutOffBy t.g (shutSched e.desc) a = false →
      (gatherIx y t.g e).2.waitsAt t.g e.uid a (gatherAt e ix).2 = none →
      (((gatherIx y t.g e).2.translate t.g ((gatherOf false e.desc).dst + e.prog) (gatherAt e ix).2 true).addr?.bind fun b => (gatherIx y t.g e).2.waitsAt t.g e.uid b (gatherAt e ix).2) = none →
      (accRead (gatherIx y t.g e).2 t.g e ((gatherOf false e.desc).esz == 16) a (gatherAt e ix).2).2.1.toOption = some l →
      (accRead (gatherIx y t.g e).2 t.g e ((gatherOf false e.desc).esz == 16) a (gatherAt e ix).2).2.2.translate t.g ((gatherOf false e.desc).dst + e.prog) (gatherAt e ix).2 true = .at_ b →
      (accRead (gatherIx y t.g e).2 t.g e ((gatherOf false e.desc).esz == 16) a (gatherAt e ix).2).2.2.cutOffBy t.g (shutSched e.desc) b = false →
      (accWrite (accRead (gatherIx y t.g e).2 t.g e ((gatherOf false e.desc).esz == 16) a (gatherAt e ix).2) t.g e b l).1 = none →
      ∃ u, exec (Instr.shuttleAccess t c) s = .next u ∧ u.mem = (accWrite (accRead (gatherIx y t.g e).2 t.g e ((gatherOf false e.desc).esz == 16) a (gatherAt e ix).2) t.g e b l).2.mem ∧ (∃ x ∈ (u.tile t.g).flight, x.uid = e.uid ∧ x.prog = e.prog + (gatherAt e ix).2) ∧ (∀ g', g' ≠ t.g → u.tile g' = s.tile g'))
  ∧ (∀ (t : Site) (c : Fin 4) (f e : Flight) (m dst : Nat) (r : List Nat) (l : List (BitVec 8)) (y z : State) (s : State),
      s.live = true →
      (s.tile t.g).chanCmd c.val = some f →
      s.chanRead t.g f = (some e, y) →
      e.op = 7 →
      e.prog < sendLen e.desc →
      sendRoute e.desc = 0 →
      y.translate t.g (sendAddr e.desc + e.prog) 64 false = .at_ m →
      (y.fetchT m 64).1.toOption = some l →
      (y.fetchT m 64).2 = z →
      z.siteOf (sendTile e.desc) = some dst →
      z.routeOf true (z.boltOf (t.g / 160)) (t.g / 480) (dst / 480) = some r →
      ∃ u, exec (Instr.shuttleAccess t c) s = .next u ∧ u.mesh = s.mesh ++ [⟨s.meshId, (z.seamTurns r z.tape).1, t.g, e.uid, dst, sendChan e.desc, l, decide (e.prog + 64 = sendLen e.desc)⟩] ∧ (∃ x ∈ (u.tile t.g).flight, x.uid = e.uid ∧ x.prog = e.prog + 64) ∧ (∀ g', g' ≠ t.g → u.tile g' = s.tile g'))

/-- WALK_BLOCK: a running walk with room in its ring, whose descriptor reads without an uncorrectable word, waiting for no near-bank operation of its bolt, that meets no fault adds one to the ring's PROD. MESH_DATA_ARRIVE: a message whose SEND has none before it leaves the mesh; with a RECV posted for its channel, room in its buffer and no uncorrectable word, its bytes stand at the buffer's next position and the posting has got that many more, or, at LEN bytes, the RECV is done. SEND_COMPLETE: a mesh SEND with all bytes sent and none under way is done. -/
def Obligations.WalksAndMesh : Prop :=
  (∀ (t : Site) (c : Fin 4) (f e : Flight) (y : State) (s : State),
      s.live = true →
      (s.tile t.g).chanCmd c.val = some f →
      isWalk f.desc = true →
      s.ringRoom t.g = true →
      s.chanRead t.g f = (some e, y) →
      y.walkWaits t.g e = none →
      (walkRead y t.g e).any (fun r => (r.2.2.2.put (bobbinAt t.g (s.ringOff t.g + s.ringProd t.g % s.ringSlots t.g * (walkOf e.desc).ss)) r.2.1).1.isNone) = true →
      ∃ u, exec (Instr.walkBlock t c) s = .next u ∧ u.ringProd t.g = (s.ringProd t.g + 1) % 2 ^ 32 ∧ (∃ x ∈ (u.tile t.g).flight, x.uid = e.uid ∧ x.aux = e.aux + 1) ∧ (∀ g', g' ≠ t.g → u.tile g' = s.tile g')
      ∧ ∃ r, walkRead y t.g e = some r ∧ u.mem = (r.2.2.2.put (bobbinAt t.g (s.ringOff t.g + s.ringProd t.g % s.ringSlots t.g * (walkOf e.desc).ss)) r.2.1).2.mem)
  ∧ (∀ (m : Nat) (x : MeshMsg) (p : RecvPost) (f : Flight) (s : State),
      s.live = true →
      (s.mesh.find? fun x => x.id == m) = some x →
      s.mesh.any (fun y => decide (y.id < m) && y.src == x.src && y.uid == x.uid) = false →
      (s.tile x.dst).recvs.get none x.chan = some p →
      (s.tile x.dst).flightOf p.uid = some f →
      x.data.length ≤ p.len - p.got →
      ((s.meshTake x).put (bobbinAt x.dst (p.off + p.got)) x.data).1 = none →
      ∃ u, exec (Instr.meshDataArrive m) s = .next u ∧ u.mesh = s.mesh.filter (fun y => y.id != m) ∧ u.mem = ((s.meshTake x).put (bobbinAt x.dst (p.off + p.got)) x.data).2.mem
      ∧ (u.tile x.dst).recvs.get none x.chan = (if p.got + x.data.length = p.len then none else some { p with got := p.got + x.data.length })
      ∧ (∃ r ∈ (u.tile x.dst).flight, r.uid = p.uid ∧ r.prog = p.got + x.data.length ∧ (p.got + x.data.length = p.len → r.phase = .done))
      ∧ (∀ g', g' ≠ x.dst → u.tile g' = s.tile g'))
  ∧ (∀ (t : Site) (c : Fin 4) (f : Flight) (s : State),
      s.live = true →
      (s.tile t.g).chanCmd c.val = some f →
      f.op = 7 →
      sendRoute f.desc = 0 →
      f.prog = sendLen f.desc →
      s.mesh.any (fun x => x.src == t.g && x.uid == f.uid) = false →
      ∃ u, exec (Instr.sendComplete t c) s = .next u ∧ TraceOnly t.g (s.modFlight t.g f.uid fun x => { x with phase := .done, due := s.tape }) u)

/-- TACK_ARRIVAL of a tile with every earlier command complete: a TACK whose number is released completes; one for the next tack leaves the tile at that tack, counts it among the arrived, and completes unless a pause lasts. WAIT_COMPLETE: late in the TCLK cycle after issue, otherwise at the tape of TARGET. TACK_DEADLINE: the module's own report stands, at the deadline's tape, late exactly when a tile has not arrived. TACK_REPORT: the child's report replaces any earlier one of that child for that tack. One for a released tack has the decision sent again to that child; one that comes while no pattern runs is kept. TACK_DECISION: the decision stands, its pace pause is set for the tack after, it goes on to the children, and to a bolt restored at that tack it gives its release. -/
def Obligations.TackArrivals : Prop :=
  (∀ (t : Site) (b : Nat) (f : Flight) (s : State),
      s.live = true →
      (s.tile t.g).openOp 0x09 = some f →
      s.runBolt t.g = some b →
      f.phase = .running →
      (s.tile t.g).faulted = false →
      (s.tile t.g).reported = false →
      (s.tile t.g).flight.any (fun y => decide (y.uid < f.uid) && y.phase != .done && !(s.preemptsAt b f.aux && stoppable y)) = false →
      f.aux < (s.bolt b).tack →
      ∃ u, exec (Instr.tackArrival t) s = .next u ∧ (∃ x ∈ (u.tile t.g).flight, x.uid = f.uid ∧ x.phase = .done))
  ∧ (∀ (t : Site) (b : Nat) (f : Flight) (s : State),
      s.live = true →
      (s.tile t.g).openOp 0x09 = some f →
      s.runBolt t.g = some b →
      f.phase = .running →
      (s.tile t.g).faulted = false →
      (s.tile t.g).reported = false →
      (s.tile t.g).flight.any (fun y => decide (y.uid < f.uid) && y.phase != .done && !(s.preemptsAt b f.aux && stoppable y)) = false →
      f.aux = (s.bolt b).tack →
      ∃ u, exec (Instr.tackArrival t) s = .next u ∧ (u.tile t.g).atTack = some (f.aux, dget f.desc 12 0 32, dget f.desc 16 0 32) ∧ t.g ∈ (u.bolt b).arrived
      ∧ ((u.tile t.g).reported = false → ∃ x ∈ (u.tile t.g).flight, x.uid = f.uid ∧ x.phase = .done))
  ∧ (∀ (t : Site) (b : Nat) (f : Flight) (s : State),
      s.live = true →
      (s.tile t.g).openOp 0x0A = some f →
      s.runBolt t.g = some b →
      f.phase = .running →
      f.aux = 1 →
      s.boltPaused t.g = false →
      ∃ u, exec (Instr.waitComplete t) s = .next u ∧ (∃ x ∈ (u.tile t.g).flight, x.uid = f.uid ∧ x.phase = .done) ∧ u.tape = max s.tape (f.start + s.tclkCycles 1))
  ∧ (∀ (t : Site) (b : Nat) (f : Flight) (s : State),
      s.live = true →
      (s.tile t.g).openOp 0x0A = some f →
      s.runBolt t.g = some b →
      f.phase = .running →
      f.aux ≠ 1 →
      s.canReach b (dget f.desc 8 0 64) = true →
      ∃ u, exec (Instr.waitComplete t) s = .next u ∧ (∃ x ∈ (u.tile t.g).flight, x.uid = f.uid ∧ x.phase = .done) ∧ u.tape = max s.tape ((s.bolt b).tapeOf (dget f.desc 8 0 64)))
  ∧ (∀ (b : Fin 12) (p : Pattern) (d : Nat) (s : State),
      s.live = true →
      (s.bolt b).pat = some p →
      s.deadlineOf b (s.bolt b).tack = some d →
      s.patRuns b = true →
      (s.bolt b).hasOwn = false →
      (d ≤ s.countOf b ∨ s.canReach b d = true) →
      ∃ u, exec (Instr.tackDeadline b) s = .next u ∧ (∃ r ∈ (u.bolt b).reports, r.from_ = ownReport ∧ r.tack = (s.bolt b).tack ∧ r.late = !s.allArrived b)
      ∧ u.tape = (if d ≤ s.countOf b then s.tape else max s.tape ((s.bolt b).tapeOf d)))
  ∧ (∀ (b : Fin 12) (p : Pattern) (r : TackMsg) (s : State),
      s.patLive b = true →
      (s.bolt b).pat = some p →
      p.kids.contains r.from_ = true →
      (s.bolt b).tack ≤ r.tack →
      ∃ u, exec (Instr.tackReport b r) s = .next u ∧ r ∈ (u.bolt b).reports ∧ (∀ q ∈ (u.bolt b).reports, q.from_ = r.from_ → q.tack = r.tack → q = r))
  ∧ (∀ (b : Fin 12) (p : Pattern) (r : TackMsg) (s : State),
      s.patLive b = true →
      (s.bolt b).pat = some p →
      p.kids.contains r.from_ = true →
      r.tack < (s.bolt b).tack →
      ∃ u, exec (Instr.tackReport b r) s = .next u ∧ u.bolts = s.bolts ∧ (∀ f ∈ [r.from_], s.portUp f = true → ∃ w ∈ (u.fport f).resv, w.prec = Prec.tack ∧ w.flit = plainFlit 2 (tackBytes 2 b { r with late := false, lateXyz := none })))
  ∧ (∀ (b : Fin 12) (p : Pattern) (r : TackMsg) (s : State),
      s.trace.stopped = false →
      (s.bolt b).pat = some p →
      s.patRuns b = false →
      p.kids.contains r.from_ = true →
      exec (Instr.tackReport b r) s = .next (s.setBolt b { s.bolt b with reports := (s.bolt b).reports ++ [r] }))
  ∧ (∀ (b : Fin 12) (p : Pattern) (d : TackMsg) (s : State),
      s.patLive b = true →
      (s.bolt b).pat = some p →
      p.isRoot = false →
      d.tack = (s.bolt b).tack →
      (s.bolt b).decision = none →
      ∃ u, exec (Instr.tackDecision b d) s = .next u ∧ (u.bolt b).decision = some d ∧ (u.bolt b).paces = (if d.pace = 0 then (s.bolt b).paces else (s.bolt b).paces ++ [(d.tack + 1, d.pace * 1000)])
      ∧ (∀ f ∈ p.kids, s.portUp f = true → ∃ w ∈ (u.fport f).resv, w.prec = Prec.tack ∧ w.flit = plainFlit 2 (tackBytes 2 b d))
      ∧ ((s.bolt b).restoreTack = some d.tack → (s.bolt b).pause = .hold → (s.bolt b).release = none → d.late = false → (u.bolt b).release = some (s.tape + p.tackLat)))

/-- TACK_RELEASE at the schedule count of the next release: with no decision, or a late one, the bolt holds from the tape of that count (STATE 5), and a missing one sets the fatal class; with a decision on time and a schedule for the widths, the tack passes: PAT_TACK takes its number, the next tack follows, no tile has arrived at it; where a STOP waits the pattern ends. HOLD_RELEASE at the release tape H does the same, the hold's cycles being accumulated as paused. HOLD_RELEASE_MESSAGE sets H and passes it on. HOLD_LONG, 10 ms into a hold, sets HOLD_LONG. -/
def Obligations.TackReleases : Prop :=
  (∀ (b : Fin 12) (p : Pattern) (r : Nat) (s : State),
      s.live = true →
      (s.bolt b).pat = some p →
      s.releaseOf b (s.bolt b).tack = some r →
      s.patLive b = true →
      (s.bolt b).pause = .none →
      (s.bolt b).hasOwn = true →
      s.preemptsAt b (s.bolt b).tack = false →
      (s.bolt b).pauseBefore r = false →
      (s.bolt b).decision = none →
      ∃ u, exec (Instr.tackRelease b) s = .next u ∧ (u.bolt b).pause = .hold ∧ (u.bolt b).holdFrom = (s.bolt b).tapeOf r ∧ (u.bolt b).pauseFrom = (s.bolt b).tapeOf r ∧ u.patState b = 5 ∧ u.tape = max s.tape ((s.bolt b).tapeOf r) ∧ u.b .err ErrClass.fatal.bitOf = true)
  ∧ (∀ (b : Fin 12) (p : Pattern) (r : Nat) (m : TackMsg) (s : State),
      s.live = true →
      (s.bolt b).pat = some p →
      s.releaseOf b (s.bolt b).tack = some r →
      s.patLive b = true →
      (s.bolt b).pause = .none →
      (s.bolt b).hasOwn = true →
      s.preemptsAt b (s.bolt b).tack = false →
      (s.bolt b).pauseBefore r = false →
      (s.bolt b).decision = some m →
      m.late = true →
      ∃ u, exec (Instr.tackRelease b) s = .next u ∧ (u.bolt b).pause = .hold ∧ (u.bolt b).holdFrom = (s.bolt b).tapeOf r ∧ (u.bolt b).pauseFrom = (s.bolt b).tapeOf r ∧ u.patState b = 5 ∧ u.tape = max s.tape ((s.bolt b).tapeOf r))
  ∧ (∀ (b : Fin 12) (p : Pattern) (r : Nat) (m : TackMsg) (s : State),
      s.live = true →
      (s.bolt b).pat = some p →
      s.releaseOf b (s.bolt b).tack = some r →
      s.patLive b = true →
      (s.bolt b).pause = .none →
      (s.bolt b).hasOwn = true →
      s.preemptsAt b (s.bolt b).tack = false →
      (s.bolt b).pauseBefore r = false →
      (s.bolt b).decision = some m →
      m.late = false →
      (p.fabric = false ∨ (p.fit s.minw).isSome = true) →
      (s.bolt b).stopPend = false →
      ∃ u, exec (Instr.tackRelease b) s = .next u ∧ (u.bolt b).tack = (s.bolt b).tack + 1 ∧ (u.bolt b).arrived = [] ∧ u.r (.bolt b) F.PAT_TACK_TACK = (s.bolt b).tack % 2 ^ F.PAT_TACK_TACK.w
      ∧ u.b (.bolt b) F.PAT_TACK_ANY = true ∧ u.tape = max s.tape ((s.bolt b).tapeOf r))
  ∧ (∀ (b : Fin 12) (p : Pattern) (r : Nat) (m : TackMsg) (s : State),
      s.live = true →
      (s.bolt b).pat = some p →
      s.releaseOf b (s.bolt b).tack = some r →
      s.patLive b = true →
      (s.bolt b).pause = .none →
      (s.bolt b).hasOwn = true →
      s.preemptsAt b (s.bolt b).tack = false →
      (s.bolt b).pauseBefore r = false →
      (s.bolt b).decision = some m →
      m.late = false →
      (p.fabric = false ∨ (p.fit s.minw).isSome = true) →
      (s.bolt b).stopPend = true →
      ∃ u, exec (Instr.tackRelease b) s = .next u ∧ u.patState b = 7 ∧ (u.bolt b).stopPend = false ∧ (u.bolt b).endAt.isSome = true)
  ∧ (∀ (b : Fin 12) (p : Pattern) (r : Nat) (m : TackMsg) (s : State),
      s.live = true →
      (s.bolt b).pat = some p →
      s.releaseOf b (s.bolt b).tack = some r →
      s.patLive b = true →
      (s.bolt b).pause = .none →
      (s.bolt b).hasOwn = true →
      s.preemptsAt b (s.bolt b).tack = false →
      (s.bolt b).pauseBefore r = false →
      (s.bolt b).decision = some m →
      m.late = false →
      p.fabric = true →
      p.fit s.minw = none →
      (s.bolt b).restoreTack ≠ some (s.bolt b).tack →
      ∃ u, exec (Instr.tackRelease b) s = .next u ∧ (u.bolt b).pause = .hold ∧ u.patState b = 5)
  ∧ (∀ (b : Fin 12) (p : Pattern) (h : Nat) (s : State),
      s.patLive b = true →
      (s.bolt b).pat = some p →
      (s.bolt b).release = some h →
      (s.bolt b).pause = .hold →
      s.preemptsAt b (s.bolt b).tack = false →
      (p.fabric = false ∨ (p.fit s.minw).isSome = true) →
      (s.bolt b).stopPend = false →
      ∃ u, exec (Instr.holdRelease b) s = .next u ∧ (u.bolt b).tack = (s.bolt b).tack + 1 ∧ (u.bolt b).pause = .none ∧ (u.bolt b).pausedAcc = (s.bolt b).pausedAcc + (h - (s.bolt b).pauseFrom) ∧ u.patState b = 4
      ∧ u.r (.bolt b) F.PAT_HOLD_LEN_CYCLES = min (h - (s.bolt b).pauseFrom) (2 ^ 32 - 1) ∧ u.tape = max s.tape h)
  ∧ (∀ (b : Fin 12) (p : Pattern) (h : Nat) (s : State),
      s.patLive b = true →
      (s.bolt b).pat = some p →
      p.isRoot = false →
      ∃ u, exec (Instr.holdReleaseMessage b h) s = .next u ∧ (u.bolt b).release = some h ∧ (∀ f ∈ p.kids, s.portUp f = true → ∃ w ∈ (u.fport f).resv, w.prec = Prec.tack ∧ w.flit = plainFlit 2 (countBytes 5 b h)))
  ∧ (∀ (b : Fin 12) (s : State),
      s.patRuns b = true →
      (s.bolt b).pause = .hold →
      (s.bolt b).holdFlag = false →
      ∃ u, exec (Instr.holdLong b) s = .next u ∧ u.b (.bolt b) F.PAT_STATUS_HOLD_LONG = true ∧ (u.bolt b).holdFlag = true ∧ u.tape = max s.tape ((s.bolt b).holdFrom + 10000000))

/-- SLIP_REQUEST: the root's list takes s + TACK_LAT or the present count, the later, and the broadcast goes to the children; another module sends the request on. SLIP_BROADCAST does the same at a module that is no root. SLIP_START: the count stops at the slip's tape for SLIP_LEN, STATE 6. PACE_START: a pace pause starts at the release of its tack. SLIP_END and PACE_END: the pause's cycles are accumulated and the count goes on, STATE 4. -/
def Obligations.Pauses : Prop :=
  (∀ (b : Fin 12) (c : Nat) (p : Pattern) (s : State),
      s.patLive b = true →
      (s.bolt b).pat = some p →
      p.isRoot = true →
      ∃ u, exec (Instr.slipRequest b c) s = .next u ∧ (u.bolt b).slips = (s.bolt b).slips ++ [max (c + p.tackLat) (s.countOf b)] ∧ (∀ f ∈ p.kids, s.portUp f = true → ∃ w ∈ (u.fport f).resv, w.prec = Prec.tack ∧ w.flit = plainFlit 2 (countBytes 4 b c)))
  ∧ (∀ (b : Fin 12) (c : Nat) (p : Pattern) (s : State),
      s.patLive b = true →
      (s.bolt b).pat = some p →
      p.isRoot = false →
      ∃ u, exec (Instr.slipRequest b c) s = .next u ∧ u.bolts = s.bolts ∧ (∀ f ∈ [p.parent], s.portUp f = true → ∃ w ∈ (u.fport f).resv, w.prec = Prec.tack ∧ w.flit = plainFlit 2 (countBytes 3 b c)))
  ∧ (∀ (b : Fin 12) (c : Nat) (p : Pattern) (s : State),
      s.patLive b = true →
      (s.bolt b).pat = some p →
      p.isRoot = false →
      ∃ u, exec (Instr.slipBroadcast b c) s = .next u ∧ (u.bolt b).slips = (s.bolt b).slips ++ [max (c + p.tackLat) (s.countOf b)] ∧ (∀ f ∈ p.kids, s.portUp f = true → ∃ w ∈ (u.fport f).resv, w.prec = Prec.tack ∧ w.flit = plainFlit 2 (countBytes 4 b c)))
  ∧ (∀ (b : Fin 12) (p : Pattern) (v : Nat) (l : List Nat) (s : State),
      s.patLive b = true →
      (s.bolt b).pat = some p →
      (s.bolt b).slips = v :: l →
      (s.bolt b).pause = .none →
      (s.releaseOf b (s.bolt b).tack).any (fun r => decide (r ≤ l.foldl min v)) = false →
      (s.bolt b).paces.any (fun q => decide (q.1 < (s.bolt b).tack)) = false →
      ∃ u, exec (Instr.slipStart b) s = .next u ∧ let a := (s.bolt b).tapeOf (l.foldl min v); (u.bolt b).pause = .slip (a + p.slipLen) ∧ (u.bolt b).pauseFrom = a
      ∧ (u.bolt b).slips = (v :: l).erase (l.foldl min v) ∧ u.patState b = 6 ∧ u.tape = max s.tape a)
  ∧ (∀ (b : Fin 12) (v : Nat) (s : State),
      s.trace.stopped = false →
      (s.bolt b).pause = .slip v →
      ∃ u, exec (Instr.slipEnd b) s = .next u ∧ (u.bolt b).pause = .none ∧ (u.bolt b).pausedAcc = (s.bolt b).pausedAcc + (v - (s.bolt b).pauseFrom) ∧ u.patState b = 4 ∧ u.tape = max s.tape v)
  ∧ (∀ (b : Fin 12) (q : Nat × Nat) (s : State),
      s.patLive b = true →
      ((s.bolt b).paces.find? fun q => decide (q.1 < (s.bolt b).tack)) = some q →
      (s.bolt b).pause = .none →
      ∃ u, exec (Instr.paceStart b) s = .next u ∧ let a := (s.bolt b).tapeOf (s.bolt b).relAt; (u.bolt b).pause = .pace (a + q.2) ∧ (u.bolt b).pauseFrom = a ∧ (u.bolt b).paces = (s.bolt b).paces.erase q
      ∧ u.patState b = 6 ∧ u.tape = max s.tape a)
  ∧ (∀ (b : Fin 12) (v : Nat) (s : State),
      s.trace.stopped = false →
      (s.bolt b).pause = .pace v →
      ∃ u, exec (Instr.paceEnd b) s = .next u ∧ (u.bolt b).pause = .none ∧ (u.bolt b).pausedAcc = (s.bolt b).pausedAcc + (v - (s.bolt b).pauseFrom) ∧ u.patState b = 4 ∧ u.tape = max s.tape v)

/-- TAPE_SYNC_IN_EDGE: with IN_EN on the root the tape takes TAPE_SYNC_VAL by a step while no pattern is started here or elsewhere in the fabric, and else begins a slew of 10,000 tape cycles a count; otherwise the tape stands; the stamp takes the tape. TAPE_SYNC_OUT_PULSE: with OUT_EN the pin rises at a multiple of 2^OUT_SHIFT, for 100 cycles. TIMING_EXCHANGE away from the root, its parent port up: half the difference of the two delays less the asymmetry is the offset; it is a step while no pattern is started, and a slew otherwise. -/
def Obligations.TapeCommands : Prop :=
  (∀ (s : State),
      s.b .tape F.TAPE_STATUS_ROOT = true →
      s.b .tape F.TAPE_SYNC_CFG_IN_EN = true →
      s.anyStarted = false →
      ∃ u, exec (Instr.tapeSyncInEdge false) s = .next u ∧ u.tape = s.r2 .tape F.TAPE_SYNC_VAL_LO_VALUE F.TAPE_SYNC_VAL_HI_VALUE ∧ u.r2 .tape F.TAPE_SYNC_STAMP_LO_TAPE F.TAPE_SYNC_STAMP_HI_TAPE = u.tape % 2 ^ 64)
  ∧ (∀ (e : Bool) (s : State),
      s.b .tape F.TAPE_STATUS_ROOT = true →
      s.b .tape F.TAPE_SYNC_CFG_IN_EN = true →
      (s.anyStarted || e) = true →
      ∃ u, exec (Instr.tapeSyncInEdge e) s = .next u ∧ u.tape = s.tape ∧ u.r2 .tape F.TAPE_SYNC_STAMP_LO_TAPE F.TAPE_SYNC_STAMP_HI_TAPE = u.tape % 2 ^ 64 ∧ u.slewTo = s.tape + ((s.r2 .tape F.TAPE_SYNC_VAL_LO_VALUE F.TAPE_SYNC_VAL_HI_VALUE : Int) - s.tape).natAbs * 10000)
  ∧ (∀ (e : Bool) (s : State),
      (s.b .tape F.TAPE_STATUS_ROOT && s.b .tape F.TAPE_SYNC_CFG_IN_EN) = false →
      ∃ u, exec (Instr.tapeSyncInEdge e) s = .next u ∧ u.tape = s.tape ∧ u.r2 .tape F.TAPE_SYNC_STAMP_LO_TAPE F.TAPE_SYNC_STAMP_HI_TAPE = u.tape % 2 ^ 64)
  ∧ (∀ (s : State),
      s.b .tape F.TAPE_SYNC_CFG_OUT_EN = true →
      ∃ u, exec (Instr.tapeSyncOutPulse) s = .next u ∧ u.out = s.out ++ [.pin "TAPE_SYNC_OUT" true] ∧ ∃ k, u.pins.syncPulse = k * 2 ^ s.r .tape F.TAPE_SYNC_CFG_OUT_SHIFT + 100
      ∧ s.tape ≤ k * 2 ^ s.r .tape F.TAPE_SYNC_CFG_OUT_SHIFT ∧ u.tape = k * 2 ^ s.r .tape F.TAPE_SYNC_CFG_OUT_SHIFT)
  ∧ (∀ (t1 t2 t3 t4 a : Int) (s : State),
      s.parentPort.isSome = true →
      s.anyStarted = false →
      ∃ u, exec (Instr.timingExchange t1 t2 t3 t4 a) s = .next u ∧ u.tape = ((s.tape : Int) + (((t2 - t1) - (t4 - t3)) * 5 - a + 5).fdiv 10).toNat ∧ u.mem = s.mem ∧ u.slewTo = s.slewTo)
  ∧ (∀ (t1 t2 t3 t4 a : Int) (s : State),
      s.parentPort.isSome = true →
      s.anyStarted = true →
      ∃ u, exec (Instr.timingExchange t1 t2 t3 t4 a) s = .next u ∧ u.tape = s.tape ∧ u.slewTo = s.tape + (((t2 - t1) - (t4 - t3)) * 5 - a).natAbs * 1000)

/-- PAT_LOAD with LOAD applied: a bolt that may load, after step 11, takes STATE loading, another takes CODE 0x03. PATTERN_ADMIT: an image that is read and passes every check of Table 9.4 becomes the bolt's pattern (admitted); the first failing check, or an unreadable run, refuses it with its code. PAT_START: a T0 at least 100,000 cycles after the stitch is kept, an earlier one gives 0x13, a bolt not admitted or started before 0x15. PATTERN_T0: count 0 at tape T0, STATE running, every tile of the bolt empty. PAT_STOP is pending on a running or loading pattern and ends an admitted one. PATTERN_END: every tile of the bolt halted, the pattern ends. -/
def Obligations.PatternLife : Prop :=
  (∀ (b : Fin 12) (s : State),
      s.b (.bolt b) F.PAT_CTRL_LOAD = true →
      s.b .id F.ID_STATUS_READY = true →
      s.patState b ≠ 1 →
      s.patState b ≠ 2 →
      s.patRuns b = false →
      ∃ u, exec (Instr.patLoad b) s = .next u ∧ u.patState b = 1 ∧ u.b (.bolt b) F.PAT_CTRL_LOAD = false ∧ u.tape = s.tape)
  ∧ (∀ (b : Fin 12) (s : State),
      s.b (.bolt b) F.PAT_CTRL_LOAD = true →
      (s.b .id F.ID_STATUS_READY = false ∨ s.patState b = 1 ∨ s.patState b = 2 ∨ s.patRuns b = true) →
      ∃ u, exec (Instr.patLoad b) s = .next u ∧ u.patState b = s.patState b ∧ u.b (.bolt b) F.PAT_CTRL_LOAD = false ∧ u.r (.bolt b) F.PAT_STATUS_CODE = 3 ∧ u.r (.bolt b) F.PAT_DETAIL_INDEX = b)
  ∧ (∀ (b : Fin 12) (s : State),
      s.patState b = 1 →
      s.migBusy b = false →
      s.trace.stopped = false →
      (s.admitRead b).any (fun r => (r.2.admitCheck b r.1).isNone) = true →
      (s.bolt b).stopPend = false →
      ∃ u, exec (Instr.patternAdmit b) s = .next u ∧ u.patState b = 2 ∧ (u.bolt b).t0 = none ∧ ∃ r, s.admitRead b = some r ∧ (u.bolt b).pat = some r.1.pattern)
  ∧ (∀ (b : Fin 12) (s : State),
      s.patState b = 1 →
      s.migBusy b = false →
      s.trace.stopped = false →
      (s.admitRead b).any (fun r => (r.2.admitCheck b r.1).isSome) = true →
      ∃ u, exec (Instr.patternAdmit b) s = .next u ∧ u.patState b = 3 ∧ ∃ r c d, s.admitRead b = some r ∧ r.2.admitCheck b r.1 = some (c, d) ∧ u.r (.bolt b) F.PAT_STATUS_CODE = c % 2 ^ F.PAT_STATUS_CODE.w
      ∧ u.r (.bolt b) F.PAT_DETAIL_INDEX = d % 2 ^ F.PAT_DETAIL_INDEX.w)
  ∧ (∀ (b : Fin 12) (s : State),
      s.patState b = 1 →
      s.migBusy b = false →
      s.trace.stopped = false →
      (s.retirePending b).runOf ((s.retirePending b).imageBase b) 0x100 = none →
      ∃ u, exec (Instr.patternAdmit b) s = .next u ∧ u.patState b = 3 ∧ u.r (.bolt b) F.PAT_STATUS_CODE = 2)
  ∧ (∀ (b : Fin 12) (s : State),
      s.b (.bolt b) F.PAT_CTRL_START = true →
      s.patState b = 2 →
      (s.bolt b).t0 = none →
      (s.bolt b).stitchAt + 100000 ≤ s.r2 (.bolt b) F.PAT_START_LO_T0 F.PAT_START_HI_T0 →
      ∃ u, exec (Instr.patStart b) s = .next u ∧ (u.bolt b).t0 = some (s.r2 (.bolt b) F.PAT_START_LO_T0 F.PAT_START_HI_T0) ∧ u.b (.bolt b) F.PAT_CTRL_START = false ∧ u.patState b = 2)
  ∧ (∀ (b : Fin 12) (s : State),
      s.b (.bolt b) F.PAT_CTRL_START = true →
      s.patState b = 2 →
      (s.bolt b).t0 = none →
      s.r2 (.bolt b) F.PAT_START_LO_T0 F.PAT_START_HI_T0 < (s.bolt b).stitchAt + 100000 →
      ∃ u, exec (Instr.patStart b) s = .next u ∧ (u.bolt b).t0 = none ∧ u.b (.bolt b) F.PAT_CTRL_START = false ∧ u.r (.bolt b) F.PAT_STATUS_CODE = 0x13)
  ∧ (∀ (b : Fin 12) (s : State),
      s.b (.bolt b) F.PAT_CTRL_START = true →
      (s.patState b ≠ 2 ∨ (s.bolt b).t0.isSome = true) →
      ∃ u, exec (Instr.patStart b) s = .next u ∧ u.patState b = s.patState b ∧ u.b (.bolt b) F.PAT_CTRL_START = false ∧ u.r (.bolt b) F.PAT_STATUS_CODE = 0x15)
  ∧ (∀ (b : Fin 12) (t : Nat) (s : State),
      s.live = true →
      s.patState b = 2 →
      (s.bolt b).t0 = some t →
      (s.bolt b).pat.isSome = true →
      ∃ u, exec (Instr.patternT0 b) s = .next u ∧ u.patState b = 4 ∧ u.tape = max s.tape t ∧ (u.bolt b).tack = 0 ∧ (u.bolt b).pause = .none ∧ (u.bolt b).base = 0 ∧ (u.bolt b).pausedAcc = 0
      ∧ ∀ g ∈ s.boltTiles b, (u.tile g).queue = [] ∧ (u.tile g).flight = [] ∧ (u.tile g).nextTack = 0)
  ∧ (∀ (b : Fin 12) (s : State),
      s.b (.bolt b) F.PAT_CTRL_STOP = true →
      (s.patRuns b = true ∨ s.patState b = 1) →
      exec (Instr.patStop b) s = .next (s.modBolt b fun x => { x with stopPend := true }))
  ∧ (∀ (b : Fin 12) (s : State),
      s.b (.bolt b) F.PAT_CTRL_STOP = true →
      s.patState b = 2 →
      ∃ u, exec (Instr.patStop b) s = .next u ∧ u.patState b = 7 ∧ (u.bolt b).t0 = none ∧ u.b (.bolt b) F.PAT_CTRL_STOP = false)
  ∧ (∀ (b : Fin 12) (s : State),
      s.patRuns b = true →
      s.trace.stopped = false →
      (s.boltTiles b).all (fun g => (s.tile g).haltExec) = true →
      ∃ u, exec (Instr.patternEnd b) s = .next u ∧ u.patState b = 7 ∧ (u.bolt b).stopPend = false ∧ (u.bolt b).slips = [] ∧ (u.bolt b).paces = [] ∧ (u.bolt b).preempt = none ∧ (u.bolt b).endAt = some ((s.bolt b).endAt.getD s.tape) ∧ u.mem = s.mem)

/-- CTX_SAVE, applied in every stack of the bolt: with a running pattern and a tack not yet released the pre-emption is pending and every tile of the stacks shows it; otherwise it lapses with 0x0C or 0x0A. PREEMPT_AT_TACK: in a hold of that tack, every tile able to stop there and no copy or gather kept from its boundary by a near-bank operation, the stacks show STATE 2 and the saved tack. CTX_SAVED: STATE 3 and the pattern ends. CTX_RESTORE: STATE 4, or 6 with the first refusal code of Table 8.9. CTX_RESTORE_DONE: STATE 5, the bolt in the hold at the saved tack. -/
def Obligations.Contexts : Prop :=
  (∀ (b : Fin 12) (k : Nat) (l : List Nat) (s : State),
      s.boltStacks b = k :: l →
      (k :: l).all (fun k => s.b (.stk k) F.CTX_CTRL_SAVE) = true →
      (s.bolt b).preempt = none →
      s.patRuns b = true →
      (s.b (.stk k) F.CTX_CTRL_AT_TACK && decide (s.r (.stk k) F.CTX_TACK_TACK_NO < (s.bolt b).tack)) = false →
      ∃ u, exec (Instr.ctxSave b) s = .next u ∧ (u.bolt b).preempt = some (if s.b (.stk k) F.CTX_CTRL_AT_TACK then some (s.r (.stk k) F.CTX_TACK_TACK_NO) else none)
      ∧ (∀ j ∈ k :: l, u.r (.stk j) F.CTX_STATUS_STATE = 1) ∧ (∀ g ∈ s.boltSites b, u.b (.tile g) F.TILE_STATUS_PREEMPT_PENDING = true))
  ∧ (∀ (b : Fin 12) (k : Nat) (l : List Nat) (s : State),
      s.boltStacks b = k :: l →
      (k :: l).all (fun k => s.b (.stk k) F.CTX_CTRL_SAVE) = true →
      (s.bolt b).preempt = none →
      s.patRuns b = false →
      ∃ u, exec (Instr.ctxSave b) s = .next u ∧ (∀ j ∈ k :: l, u.r (.stk j) F.CTX_STATUS_STATE = 0 ∧ u.r (.stk j) F.CTX_STATUS_CODE = 0x0C ∧ u.b (.stk j) F.CTX_CTRL_SAVE = false) ∧ (u.bolt b).preempt = none)
  ∧ (∀ (b : Fin 12) (k : Nat) (l : List Nat) (s : State),
      s.boltStacks b = k :: l →
      (k :: l).all (fun k => s.b (.stk k) F.CTX_CTRL_SAVE) = true →
      (s.bolt b).preempt = none →
      s.patRuns b = true →
      (s.b (.stk k) F.CTX_CTRL_AT_TACK && decide (s.r (.stk k) F.CTX_TACK_TACK_NO < (s.bolt b).tack)) = true →
      ∃ u, exec (Instr.ctxSave b) s = .next u ∧ (∀ j ∈ k :: l, u.r (.stk j) F.CTX_STATUS_STATE = 0 ∧ u.r (.stk j) F.CTX_STATUS_CODE = 0x0A ∧ u.b (.stk j) F.CTX_CTRL_SAVE = false) ∧ (u.bolt b).preempt = none)
  ∧ (∀ (b : Fin 12) (r : Nat) (s : State),
      s.live = true →
      (s.bolt b).pat.isSome = true →
      s.releaseOf b (s.bolt b).tack = some r →
      s.preemptsAt b (s.bolt b).tack = true →
      s.patRuns b = true →
      (s.bolt b).saving = false →
      (s.boltTiles b).all (fun g => s.savable g true) = true →
      (s.boltTiles b).any ((s.boltTiles b).foldl State.stopWork s).midAccess = false →
      (s.bolt b).pause = .hold →
      ∃ u, exec (Instr.preemptAtTack b) s = .next u ∧ (u.bolt b).saving = true ∧ (∀ k ∈ s.boltStacks b, u.r (.stk k) F.CTX_STATUS_STATE = 2 ∧ u.r (.stk k) F.CTX_SAVED_TACK_TACK = (s.bolt b).tack % 2 ^ F.CTX_SAVED_TACK_TACK.w))
  ∧ (∀ (b : Fin 12) (s : State),
      (s.bolt b).saving = true →
      ∃ u, exec (Instr.ctxSaved b) s = .next u ∧ (u.bolt b).saving = false ∧ (u.bolt b).preempt = none ∧ u.patState b = 7 ∧ (∀ k ∈ s.boltStacks b, u.r (.stk k) F.CTX_STATUS_STATE = 3 ∧ u.b (.stk k) F.CTX_CTRL_SAVE = false)
      ∧ (∀ g ∈ s.boltSites b, u.b (.tile g) F.TILE_STATUS_PREEMPT_PENDING = false) ∧ u.mem = s.mem)
  ∧ (∀ (b : Fin 12) (s : State),
      s.boltStacks b ≠ [] →
      (s.boltStacks b).all (fun k => s.b (.stk k) F.CTX_CTRL_RESTORE && s.r (.stk k) F.CTX_STATUS_STATE != 4) = true →
      s.patState b = 2 →
      (s.restoreCode b).1 = 0 →
      ∃ u, exec (Instr.ctxRestore b) s = .next u ∧ (∀ k ∈ s.boltStacks b, u.r (.stk k) F.CTX_STATUS_STATE = 4) ∧ u.mem = s.mem)
  ∧ (∀ (b : Fin 12) (s : State),
      s.boltStacks b ≠ [] →
      (s.boltStacks b).all (fun k => s.b (.stk k) F.CTX_CTRL_RESTORE && s.r (.stk k) F.CTX_STATUS_STATE != 4) = true →
      s.patState b = 2 →
      (s.restoreCode b).1 ≠ 0 →
      ∃ u, exec (Instr.ctxRestore b) s = .next u ∧ (∀ k ∈ s.boltStacks b, u.r (.stk k) F.CTX_STATUS_STATE = 6 ∧ u.r (.stk k) F.CTX_STATUS_CODE = (s.restoreCode b).1 % 2 ^ F.CTX_STATUS_CODE.w ∧ u.b (.stk k) F.CTX_CTRL_RESTORE = false))
  ∧ (∀ (b : Fin 12) (s : State),
      s.boltStacks b ≠ [] →
      (s.boltStacks b).all (fun k => s.b (.stk k) F.CTX_CTRL_RESTORE && s.r (.stk k) F.CTX_STATUS_STATE != 4) = true →
      s.patState b ≠ 2 →
      ∃ u, exec (Instr.ctxRestore b) s = .next u ∧ (∀ k ∈ s.boltStacks b, u.r (.stk k) F.CTX_STATUS_STATE = 6 ∧ u.r (.stk k) F.CTX_STATUS_CODE = 2 ∧ u.b (.stk k) F.CTX_CTRL_RESTORE = false))
  ∧ (∀ (b : Fin 12) (p : Pattern) (s : State),
      s.live = true →
      (s.bolt b).pat = some p →
      s.boltStacks b ≠ [] →
      s.patState b = 2 →
      (s.boltStacks b).all (fun k => s.r (.stk k) F.CTX_STATUS_STATE == 4) = true →
      ∃ u, exec (Instr.ctxRestoreDone b) s = .next u ∧ u.patState b = 5 ∧ (u.bolt b).pause = .hold ∧ (u.bolt b).tack = s.ctxRd ((s.boltStacks b).headD 0) 0x50 4 ∧ (u.bolt b).restoreTack = some (u.bolt b).tack
      ∧ (∀ k ∈ s.boltStacks b, u.r (.stk k) F.CTX_STATUS_STATE = 5 ∧ u.b (.stk k) F.CTX_CTRL_RESTORE = false))

/-- REGISTER_WRITE that reaches the module. In a block whose registers only store: an in-scope write of a register outside transactions stores its RW fields and clears RW1C bits written 1; with a reserved encoding that field keeps its value and the write is logged. An offset with no register, a write out of scope or barred, is ignored and logged; a write in a block in reset or of a read-only register changes nothing; an 8-byte request is two accesses in ascending order; any other size or alignment completes as unsupported; a poisoned request is discarded and logged as uncorrectable data, one whose ECRC is bad is discarded where the port checks it; BAR4 offsets without a register are ignored and logged. -/
def Obligations.RegisterWrites : Prop :=
  (∀ (q : Req) (k : Blk) (r : RegSpec) (i off : Nat) (val : DWord) (s : State),
      s.reaches q = true →
      off % 4 = 0 →
      regAt off = some (k, r, i) →
      s.inReset k = false →
      s.barred q .bus k (off - k.base) = false →
      s.mayWrite q (s.scopeOf k (off - k.base)) = true →
      r.writable = true →
      r.isRwt = false →
      (match k with | .id => true | .tape => true | .bolt _ => true | .stk _ => true | .nbu _ => true | _ => false) = true →
      r.badWrite (val.truncate 32) = false →
      exec (Instr.registerWrite q .bar0 off 4 val .good) s = .next (s.setWord off (r.write (s.word off) (val.truncate 32))))
  ∧ (∀ (q : Req) (k : Blk) (r : RegSpec) (i off : Nat) (val : DWord) (s : State),
      s.reaches q = true →
      off % 4 = 0 →
      regAt off = some (k, r, i) →
      s.inReset k = false →
      s.barred q .bus k (off - k.base) = false →
      s.mayWrite q (s.scopeOf k (off - k.base)) = true →
      r.writable = true →
      r.isRwt = false →
      (match k with | .id => true | .tape => true | .bolt _ => true | .stk _ => true | .nbu _ => true | _ => false) = true →
      r.badWrite (val.truncate 32) = true →
      exec (Instr.registerWrite q .bar0 off 4 val .good) s = .next ((s.logReg q.n off).setWord off (r.write (s.word off) (val.truncate 32))))
  ∧ (∀ (q : Req) (off : Nat) (val : DWord) (s : State),
      s.reaches q = true →
      off % 4 = 0 →
      regAt off = none →
      exec (Instr.registerWrite q .bar0 off 4 val .good) s = .next (s.logReg q.n off))
  ∧ (∀ (q : Req) (k : Blk) (r : RegSpec) (i off : Nat) (val : DWord) (s : State),
      s.reaches q = true →
      off % 4 = 0 →
      regAt off = some (k, r, i) →
      s.inReset k = false →
      r.writable = true →
      (s.barred q .bus k (off - k.base) || !s.mayWrite q (s.scopeOf k (off - k.base))) = true →
      exec (Instr.registerWrite q .bar0 off 4 val .good) s = .next (s.logReg q.n off))
  ∧ (∀ (q : Req) (k : Blk) (r : RegSpec) (i off : Nat) (val : DWord) (s : State),
      s.reaches q = true →
      off % 4 = 0 →
      regAt off = some (k, r, i) →
      (s.inReset k || !r.writable) = true →
      exec (Instr.registerWrite q .bar0 off 4 val .good) s = .next (s))
  ∧ (∀ (q : Req) (off : Nat) (val : DWord) (s : State),
      s.reaches q = true →
      off % 8 = 0 →
      exec (Instr.registerWrite q .bar0 off 8 val .good) s = .next ((s.writeWord q .bar0 off (val.truncate 32)).writeWord q .bar0 (off + 4) ((val >>> 32).truncate 32)))
  ∧ (∀ (p : Port) (q : Req) (bar : Bar) (off n : Nat) (val : DWord) (s : State),
      Req.port? q = some p →
      s.portOn p.n = true →
      sizeFits off n = false →
      exec (Instr.registerWrite q bar off n val .good) s = .next (s.sendUr p off))
  ∧ (∀ (p : Port) (q : Req) (bar : Bar) (off n : Nat) (val : DWord) (s : State),
      Req.port? q = some p →
      s.portOn p.n = true →
      exec (Instr.registerWrite q bar off n val .poisoned) s = .next ((s.logEv { cls := .ue, source := Src.port, index := ixOf p.n 0, detail := off % 2 ^ 26 + (if p.n = 1 then 2 ^ 32 else 0) }).aerSet p.n 12 off))
  ∧ (∀ (p : Port) (q : Req) (bar : Bar) (off n : Nat) (val : DWord) (s : State),
      Req.port? q = some p →
      s.portOn p.n = true →
      (s.hport p.n).ecrcCheck = true →
      exec (Instr.registerWrite q bar off n val .badEcrc) s = .next (s.aerSet p.n 19 off))
  ∧ (∀ (p : Port) (q : Req) (off : Nat) (val : DWord) (s : State),
      Req.port? q = some p →
      s.reaches q = true →
      off % 4 = 0 →
      bar4At off = none →
      exec (Instr.registerWrite q .bar4 off 4 val .good) s = .next (s.logBar4 p.n off))

/-- LO_READ_LATCH (a register read of 4 bytes that reaches the module): outside CC_MEM_DATA and tile windows, a register whose word is kept for the requester returns that word, which is then gone; an _LO register with none kept shows its word and the words latched with it are kept for the requester; any other register returns what it shows. Where no register is, or its block is in reset, the word is 0. -/
def Obligations.RegisterReads : Prop :=
  (∀ (q : Req) (k : Blk) (r : RegSpec) (i off : Nat) (s : State),
      s.reaches q = true →
      off % 4 = 0 →
      regAt off = some (k, r, i) →
      s.inReset k = false →
      (match k with | .tile _ => false | _ => true) = true →
      loReg k (off - k.base) = true →
      s.latch.find (latchKey q.n off) = none →
      ∃ u, exec (Instr.loReadLatch q .bar0 off 4) s = .next u ∧ u.out = s.out ++ [.regData q .bar0 off ((s.view q.n k (off - k.base)).zeroExtend 64)]
      ∧ (∀ h ∈ latched k (off - k.base), u.latch.find (latchKey q.n (k.base + h)) = some (s.view q.n k h)) ∧ u.regs = s.regs ∧ u.mem = s.mem)
  ∧ (∀ (q : Req) (k : Blk) (r : RegSpec) (i off : Nat) (v : BitVec 32) (s : State),
      s.reaches q = true →
      off % 4 = 0 →
      regAt off = some (k, r, i) →
      s.inReset k = false →
      (match k with | .tile _ => false | _ => true) = true →
      s.latch.find (latchKey q.n off) = some v →
      ∃ u, exec (Instr.loReadLatch q .bar0 off 4) s = .next u ∧ u.out = s.out ++ [.regData q .bar0 off (v.zeroExtend 64)] ∧ u.latch = s.latch.erase (latchKey q.n off) ∧ u.regs = s.regs ∧ u.mem = s.mem)
  ∧ (∀ (q : Req) (k : Blk) (r : RegSpec) (i off : Nat) (s : State),
      s.reaches q = true →
      off % 4 = 0 →
      regAt off = some (k, r, i) →
      s.inReset k = false →
      (match k with | .tile _ => false | _ => true) = true →
      loReg k (off - k.base) = false →
      s.latch.find (latchKey q.n off) = none →
      exec (Instr.loReadLatch q .bar0 off 4) s = .next (s.send (.regData q .bar0 off ((s.view q.n k (off - k.base)).zeroExtend 64))))
  ∧ (∀ (q : Req) (off : Nat) (s : State),
      s.reaches q = true →
      off % 4 = 0 →
      ((regAt off).all fun x => s.inReset x.1) = true →
      exec (Instr.loReadLatch q .bar0 off 4) s = .next (s.send (.regData q .bar0 off 0)))

/-- RWT_LONE_WRITE by a requester with no transaction open, to a register with paired fields that it may write: the register keeps its value, the requester's LONE_PAIRED flag is set, and the refusal is logged as a protocol-class event of the register. -/
def Obligations.LoneWrite : Prop :=
  (∀ (q : Req) (k : Blk) (r : RegSpec) (i off : Nat) (val : Word) (s : State),
      s.reaches q = true →
      (Instr.rwtLoneWrite q off val).wf = true →
      regAt off = some (k, r, i) →
      r.isRwt = true →
      r.paired = true →
      s.inReset k = false →
      s.barred q .bus k (off - k.base) = false →
      s.mayWrite q (s.scopeOf k (off - k.base)) = true →
      ((s.txnExpire q.n).txn q.n).isOpen = false →
      ∃ u, exec (Instr.rwtLoneWrite q off val) s = .next u ∧ u = ((s.txnExpire q.n).setTxn q.n (((s.txnExpire q.n).txn q.n).setErr 2)).logReg q.n off ∧ (k ≠ .err → u.word off = s.word off))

/-- CC_RUN starts a halted core that is not faulted, whose next instruction has a source (R330) and whose clock runs: it goes on from its program counter, no earlier than now. CC_HALT clears RUN at once. CC_STEP executes the next instruction of a halted core, which stays halted, and does nothing to a running one. CC_MEM_DATA_READ answers the word at CC_MEM_ADDR; CC_MEM_DATA_WRITE stores it there, and a host's word of instruction SRAM is marked as the host's; CC_MEM_ADDR advances with AUTOINC. A host's CC_RUN, CC_HALT, CC_STEP or CC_MEM_DATA_WRITE while the tile runs or its bolt's pattern runs is ignored and logged. CSRR puts the register's word into rd; CSRW writes the low half of rs1 as a write of the register from the core, and to the registers of Table 3.14 below 0x60 other than CQ_DONE_WAIT only logs; both go on at pc + 4. -/
def Obligations.TileRegisters : Prop :=
  (∀ (q : Req) (t : Site) (i : CoreInstr) (s : State),
      s.grants q (.tile t.g) F.CC_CTRL_RUN.off = true →
      (s.tile t.g).faulted = false →
      (s.tile t.g).run = false →
      (s.tile t.g).codeOk = true →
      s.clocked t.g = true →
      (s.fetchInstr t.g).1 = .instr i →
      ∃ u, exec (Instr.ccRun q t) s = .next u ∧ (u.tile t.g).run = true ∧ (u.tile t.g).haltExec = false ∧ (u.tile t.g).pc = (s.tile t.g).pc ∧ (u.tile t.g).readyAt = max (s.tile t.g).readyAt s.tape ∧ (u.tile t.g).g = (s.tile t.g).g)
  ∧ (∀ (q : Req) (t : Site) (s : State),
      s.grants q (.tile t.g) F.CC_CTRL_RUN.off = true →
      exec (Instr.ccHalt q t) s = .next (if (s.tile t.g).run then s.modTile t.g fun x => { x with run := false, waitSeq := none } else s))
  ∧ (∀ (q : Req) (t : Site) (s : State),
      s.grants q (.tile t.g) F.CC_CTRL_RUN.off = true →
      (s.tile t.g).run = true →
      exec (Instr.ccStep q t) s = .next (s))
  ∧ (∀ (q : Req) (t : Site) (i : CoreInstr) (s : State),
      s.grants q (.tile t.g) F.CC_CTRL_STEP.off = true →
      (s.tile t.g).coreFree = true →
      (s.tile t.g).run = false →
      (s.tile t.g).codeOk = true →
      s.clocked t.g = true →
      (s.fetchInstr t.g).1 = .instr i →
      exec (Instr.ccStep q t) s = .next (((((s.fetchInstr t.g).2.advanceTo ((s.tile t.g).issueAt i)).modTile t.g fun x => { x with haltExec := false }).execInstr State.csr t.g i).modTile t.g fun x => { x with waitSeq := none }))
  ∧ (∀ (q : Req) (t : Site) (s : State),
      s.reaches q = true →
      s.inReset (.tile t.g) = false →
      q ≠ .hkc →
      (s.stackRuns (t.g / 160) = true ∨ (s.tile t.g).mode = .running) →
      exec (Instr.ccRun q t) s = .next (s.logReg q.n ((Blk.tile t.g).base + F.CC_CTRL_RUN.off)))
  ∧ (∀ (q : Req) (t : Site) (s : State),
      s.reaches q = true →
      s.inReset (.tile t.g) = false →
      q ≠ .hkc →
      (s.stackRuns (t.g / 160) = true ∨ (s.tile t.g).mode = .running) →
      exec (Instr.ccHalt q t) s = .next (s.logReg q.n ((Blk.tile t.g).base + F.CC_CTRL_RUN.off)))
  ∧ (∀ (q : Req) (t : Site) (s : State),
      s.reaches q = true →
      s.inReset (.tile t.g) = false →
      q ≠ .hkc →
      (s.stackRuns (t.g / 160) = true ∨ (s.tile t.g).mode = .running) →
      exec (Instr.ccStep q t) s = .next (s.logReg q.n ((Blk.tile t.g).base + F.CC_CTRL_STEP.off)))
  ∧ (∀ (q : Req) (t : Site) (l : List (BitVec 8)) (s : State),
      s.reaches q = true →
      s.inReset (.tile t.g) = false →
      (s.fetch (s.memAddr t.g) 4).1.toOption = some l →
      ∃ u, exec (Instr.ccMemDataRead q t) s = .next u ∧ u.out = (s.fetch (s.memAddr t.g) 4).2.out ++ [.regData q .bar0 ((Blk.tile t.g).base + F.CC_MEM_DATA_DATA.off) ((w32 l).zeroExtend 64)] ∧ u.mem = (s.fetch (s.memAddr t.g) 4).2.mem
      ∧ u.r (.tile t.g) F.CC_MEM_ADDR_ADDR = (s.r (.tile t.g) F.CC_MEM_ADDR_ADDR + if s.b (.tile t.g) F.CC_MEM_ADDR_AUTOINC then 1 else 0) % 2 ^ F.CC_MEM_ADDR_ADDR.w)
  ∧ (∀ (q : Req) (t : Site) (val : Word) (s : State),
      s.grants q (.tile t.g) F.CC_MEM_DATA_DATA.off = true →
      (s.storeCw (s.memAddr t.g) (leBytes 4 val.toNat)).1 = true →
      ∃ u, exec (Instr.ccMemDataWrite q t val) s = .next u ∧ u.mem = (s.storeCw (s.memAddr t.g) (leBytes 4 val.toNat)).2.mem ∧ u.r (.tile t.g) F.CC_MEM_ADDR_ADDR = (s.r (.tile t.g) F.CC_MEM_ADDR_ADDR + if s.b (.tile t.g) F.CC_MEM_ADDR_AUTOINC then 1 else 0) % 2 ^ F.CC_MEM_ADDR_ADDR.w
      ∧ (q ≠ .hkc → s.r (.tile t.g) F.CC_MEM_ADDR_ADDR * 4 < 0x10000 →
        (u.tile t.g).iramHost = true ∧ (u.tile t.g).codeAt (s.r (.tile t.g) F.CC_MEM_ADDR_ADDR * 4) = true))
  ∧ (∀ (q : Req) (t : Site) (val : Word) (s : State),
      s.reaches q = true →
      s.inReset (.tile t.g) = false →
      q ≠ .hkc →
      (s.stackRuns (t.g / 160) = true ∨ (s.tile t.g).mode = .running) →
      exec (Instr.ccMemDataWrite q t val) s = .next (s.logReg q.n ((Blk.tile t.g).base + F.CC_MEM_DATA_DATA.off)))
  ∧ (∀ (t : Site) (rd : BitVec 5) (i : BitVec 16) (v : BitVec 32) (y : State) (s : State),
      s.coreAt t.g (.csrr rd i) →
      i.toNat * 4 < 0x1000 →
      (s.coreNow t.g (.csrr rd i)).regRead 4 ((Blk.tile t.g).base + i.toNat * 4) = (some v, y) →
      ∃ u, exec (Instr.csrr t rd i) s = .next u ∧ TraceOnly t.g (y.setTile t.g { (y.tile t.g).setG rd (v.zeroExtend 64) with pc := (s.tile t.g).pc + 4, readyAt := y.tape + y.tclkCycles 1 }) u)
  ∧ (∀ (t : Site) (a : BitVec 5) (i : BitVec 16) (s : State),
      s.coreAt t.g (.csrw a i) →
      i.toNat * 4 < 0x1000 →
      ∃ u, exec (Instr.csrw t a i) s = .next u ∧ let y := (s.coreNow t.g (.csrw a i)).regWriteBy (fun s _ _ => s) .hkc .csr ((Blk.tile t.g).base + i.toNat * 4) (((s.tile t.g).gr a).truncate 32);
      TraceOnly t.g (y.modTile t.g fun x => { x with pc := (s.tile t.g).pc + 4, readyAt := y.tape + y.tclkCycles 1 }) u)
  ∧ (∀ (t : Site) (a : BitVec 5) (i : BitVec 16) (k : Blk) (r : RegSpec) (j : Nat) (s : State),
      s.coreAt t.g (.csrw a i) →
      i.toNat * 4 < 0x60 →
      i.toNat * 4 ≠ F.CQ_DONE_WAIT_SEQ.off →
      regAt ((Blk.tile t.g).base + i.toNat * 4) = some (k, r, j) →
      s.inReset (.tile t.g) = false →
      ∃ u, exec (Instr.csrw t a i) s = .next u ∧ let y := (s.coreNow t.g (.csrw a i)).logReg 2 ((Blk.tile t.g).base + i.toNat * 4);
      TraceOnly t.g (y.modTile t.g fun x => { x with pc := (s.tile t.g).pc + 4, readyAt := y.tape + y.tclkCycles 1 }) u)

/-- PRIVATE_READ: the bank is taken from its turn on, which no refresh window and no earlier request of the bank delays further, and 16 tape cycles after the turn the line is at its requester, or it is refused as uncorrectable. PRIVATE_WRITE, memory being in its canonical form and the slice having lost no sideband: the 64 bytes stand at the line, its requester is answered 16 cycles after the turn, and, no migration copying it, every other byte of memory is as it was. EDGE_LINE_REQUEST of a line that no near-bank operation it must wait for claims: a tile's request is complete after the latency of Table 6.3 and what it waits beyond that, late ones counted once; a read sends the 64 bytes, or the refusal of uncorrectable data; a write leaves its 64 bytes there and every other byte as it was. NEEDLE_READ sends the 16 bytes at its offset. A request whose line is claimed waits. CLAIMED_LINE_READ and CLAIMED_LINE_WRITE do the same for a request that meets a claim of a near-bank unit, at the end of its step. -/
def Obligations.MemoryLines : Prop :=
  (∀ (t : Site) (off : Nat) (d : List (BitVec 8)) (s : State),
      (Instr.privateRead t off).wf = true →
      s.tileHeld t.g = false →
      s.memLive = true →
      ((s.bankTake (sliceAt t.g off) (s.bankTurn (sliceAt t.g off) s.tape)).fetch (sliceAt t.g off) 64).1.toOption = some d →
      exec (Instr.privateRead t off) s = .next (((s.bankTake (sliceAt t.g off) (s.bankTurn (sliceAt t.g off) s.tape)).fetch (sliceAt t.g off) 64).2.send (.line (.slice t off) (s.bankTurn (sliceAt t.g off) s.tape + 16) d)))
  ∧ (∀ (t : Site) (off : Nat) (s : State),
      (Instr.privateRead t off).wf = true →
      s.tileHeld t.g = false →
      s.memLive = true →
      ((s.bankTake (sliceAt t.g off) (s.bankTurn (sliceAt t.g off) s.tape)).fetch (sliceAt t.g off) 64).1.toOption = none →
      exec (Instr.privateRead t off) s = .next (((s.bankTake (sliceAt t.g off) (s.bankTurn (sliceAt t.g off) s.tape)).fetch (sliceAt t.g off) 64).2.send (.lineUe (.slice t off))))
  ∧ (∀ (t : Site) (off : Nat) (d : List Byte) (s : State),
      Mem.wf s.mem →
      (Instr.privateWrite t off d).wf = true →
      s.tileHeld t.g = false →
      s.sidebandDead t.g = false →
      s.memLive = true →
      ∃ u, exec (Instr.privateWrite t off d) s = .next u ∧ u.mem.readN (sliceAt t.g off) 64 = d ∧ u.out = s.out ++ [.lineDone (.slice t off) (s.bankTurn (sliceAt t.g off) s.tape + 16)] ∧ (s.mirrorOf (sliceAt t.g off) = none → (∀ x, (x < (sliceAt t.g off) ∨ (sliceAt t.g off) + 64 ≤ x) → u.mem.read x = s.mem.read x)))
  ∧ (∀ (e : Fin 12) (off : Nat) (r : Option (Site × Nat)) (d : List (BitVec 8)) (s : State),
      (Instr.edgeLineRequest e off none r).wf = true →
      s.edgeFree e.val off 0 r = true →
      s.dieHeld (e.val / 3) = false →
      s.memLive = true →
      (((s.edgeGo e.val off 0 r).2.scheduled e.val (e.val * edgeBytes + off) false false (s.edgeGo e.val off 0 r).1 r).2.fetch (e.val * edgeBytes + off) 64).1.toOption = some d →
      exec (Instr.edgeLineRequest e off none r) s = .next ((((s.edgeGo e.val off 0 r).2.scheduled e.val (e.val * edgeBytes + off) false false (s.edgeGo e.val off 0 r).1 r).2.fetch (e.val * edgeBytes + off) 64).2.send (.line (.edge e off) ((s.edgeGo e.val off 0 r).2.scheduled e.val (e.val * edgeBytes + off) false false (s.edgeGo e.val off 0 r).1 r).1 d)))
  ∧ (∀ (e : Fin 12) (off : Nat) (r : Option (Site × Nat)) (s : State),
      (Instr.edgeLineRequest e off none r).wf = true →
      s.edgeFree e.val off 0 r = true →
      s.dieHeld (e.val / 3) = false →
      s.memLive = true →
      (((s.edgeGo e.val off 0 r).2.scheduled e.val (e.val * edgeBytes + off) false false (s.edgeGo e.val off 0 r).1 r).2.fetch (e.val * edgeBytes + off) 64).1.toOption = none →
      exec (Instr.edgeLineRequest e off none r) s = .next ((((s.edgeGo e.val off 0 r).2.scheduled e.val (e.val * edgeBytes + off) false false (s.edgeGo e.val off 0 r).1 r).2.fetch (e.val * edgeBytes + off) 64).2.send (.lineUe (.edge e off))))
  ∧ (∀ (e : Fin 12) (off : Nat) (r : Option (Site × Nat)) (d : List Byte) (s : State),
      (Instr.edgeLineRequest e off (some d) r).wf = true →
      s.edgeFree e.val off 1 r = true →
      s.dieHeld (e.val / 3) = false →
      s.memLive = true →
      ∃ u, exec (Instr.edgeLineRequest e off (some d) r) s = .next u ∧ u.mem.readN (e.val * edgeBytes + off) 64 = d ∧ (∀ x, (x < (e.val * edgeBytes + off) ∨ (e.val * edgeBytes + off) + 64 ≤ x) → u.mem.read x = s.mem.read x) ∧ u.tape = s.tape ∧ u.out = s.out ++ [.lineDone (.edge e off) ((s.edgeGo e.val off 1 r).2.scheduled e.val (e.val * edgeBytes + off) false true (s.edgeGo e.val off 1 r).1 r).1])
  ∧ (∀ (t : Site) (e : Fin 12) (wait off : Nat) (wr : Bool) (s : State),
      s.clearOf (chanOf (e.val * edgeBytes + off)) s.tape = s.tape →
      (s.crossing t.g (dieOf e.val) wr s.tape).1 = s.tape →
      off < edgeBytes →
      wait ≠ 0 →
      (s.scheduled e.val (e.val * edgeBytes + off) false wr false (some (t, wait))).1 = s.tape + 140 + 40 * seamsBetween (t.g / 480) (e.val / 3) + wait
      ∧ (s.scheduled e.val (e.val * edgeBytes + off) false wr false (some (t, wait))).2.r (.edge e.val) F.EDGE_LATE_COUNT_COUNT = satAdd F.EDGE_LATE_COUNT_COUNT.w (s.r (.edge e.val) F.EDGE_LATE_COUNT_COUNT) 1)
  ∧ (∀ (e : Fin 12) (off : Nat) (r : Option (Site × Nat)) (d : List (BitVec 8)) (s : State),
      (Instr.needleRead e off r).wf = true →
      s.edgeFree e.val off 2 r = true →
      s.dieHeld (e.val / 3) = false →
      s.memLive = true →
      (((s.edgeGo e.val off 2 r).2.scheduled e.val (e.val * edgeBytes + off / 64 * 64) true false (s.edgeGo e.val off 2 r).1 r).2.fetch (e.val * edgeBytes + off / 64 * 64) 64).1.toOption = some d →
      exec (Instr.needleRead e off r) s = .next ((((s.edgeGo e.val off 2 r).2.scheduled e.val (e.val * edgeBytes + off / 64 * 64) true false (s.edgeGo e.val off 2 r).1 r).2.fetch (e.val * edgeBytes + off / 64 * 64) 64).2.send (.needle e off ((s.edgeGo e.val off 2 r).2.scheduled e.val (e.val * edgeBytes + off / 64 * 64) true false (s.edgeGo e.val off 2 r).1 r).1 ((d.drop (off % 64)).take 16))))
  ∧ (∀ (t : Site) (e : Fin 12) (off wait : Nat) (s : State),
      (Instr.edgeLineRequest e off none (some (t, wait))).wf = true →
      s.dieHeld (e.val / 3) = false →
      s.memLive = true →
      s.bellClaims (s.waitOf t.g none off 0 e.val).bells (off / 64 * 64) 64 = true →
      exec (Instr.edgeLineRequest e off none (some (t, wait))) s = .next (s.keepWait t.g (s.waitOf t.g none off 0 e.val) true))
  ∧ (∀ (t : Site) (e : Fin 12) (off wait : Nat) (s : State),
      (Instr.needleRead e off (some (t, wait))).wf = true →
      s.dieHeld (e.val / 3) = false →
      s.memLive = true →
      s.bellClaims (s.waitOf t.g none off 2 e.val).bells (off / 64 * 64) 64 = true →
      exec (Instr.needleRead e off (some (t, wait))) s = .next (s.keepWait t.g (s.waitOf t.g none off 2 e.val) true))
  ∧ (∀ (e : Fin 12) (off : Nat) (d : List (BitVec 8)) (s : State),
      (Instr.claimedLineRead e off).wf = true →
      (s.fetch (e.val * edgeBytes + off) 64).1.toOption = some d →
      exec (Instr.claimedLineRead e off) s = .next ((s.fetch (e.val * edgeBytes + off) 64).2.send (.line (.edge e off) s.tape d)))
  ∧ (∀ (e : Fin 12) (off : Nat) (d : List Byte) (s : State),
      (Instr.claimedLineWrite e off d).wf = true →
      ∃ u, exec (Instr.claimedLineWrite e off d) s = .next u ∧ u.mem.readN (e.val * edgeBytes + off) 64 = d ∧ (∀ x, (x < (e.val * edgeBytes + off) ∨ (e.val * edgeBytes + off) + 64 ≤ x) → u.mem.read x = s.mem.read x) ∧ u.tape = s.tape)

/-- BAR2_READ, at a port that is up, of bytes that all reach memory: the bytes go to the port, or a completer abort where one is uncorrectable or behind a failed seam; one of no bytes answers 4 bytes and reads no memory. BAR2_WRITE: the pieces are written in order, of one whole line exactly its 64 bytes change; one behind a failed seam is dropped; a poisoned write, wherever it points, is logged as uncorrectable data and writes nothing, nor does one whose ECRC a checking port finds bad. A request that does not reach memory is logged and completes as unsupported. -/
def Obligations.HostMemory : Prop :=
  (∀ (p : Port) (h n : Nat) (l : List (Nat × Nat)) (d : List (BitVec 8)) (s : State),
      s.portOn p.n = true →
      s.bar2Req p.n h n = some l →
      l ≠ [] →
      l.any (fun x => s.cutOff p.n x.1) = false →
      (s.readPieces l).1 = some d →
      exec (Instr.bar2Read p h n) s = .next ((s.readPieces l).2.send (.bar2Data p h d)))
  ∧ (∀ (p : Port) (h n : Nat) (l : List (Nat × Nat)) (s : State),
      s.portOn p.n = true →
      s.bar2Req p.n h n = some l →
      l ≠ [] →
      l.any (fun x => s.cutOff p.n x.1) = false →
      (s.readPieces l).1 = none →
      exec (Instr.bar2Read p h n) s = .next ((s.readPieces l).2.sendCa p h))
  ∧ (∀ (p : Port) (h n : Nat) (l : List (Nat × Nat)) (s : State),
      s.portOn p.n = true →
      s.bar2Req p.n h n = some l →
      l.any (fun x => s.cutOff p.n x.1) = true →
      exec (Instr.bar2Read p h n) s = .next (s.sendCa p h))
  ∧ (∀ (p : Port) (h n : Nat) (s : State),
      s.portOn p.n = true →
      s.bar2Req p.n h n = some [] →
      ∃ u, exec (Instr.bar2Read p h n) s = .next u ∧ u.mem = s.mem ∧ ∃ d, d.length = 4 ∧ u.out = s.out ++ [.bar2Data p h d])
  ∧ (∀ (p : Port) (h n : Nat) (s : State),
      s.portOn p.n = true →
      s.bar2Req p.n h n = none →
      exec (Instr.bar2Read p h n) s = .next ((s.logEv { cls := .protocol, source := Src.port, index := ixOf p.n 0, detail := h }).sendUr p h))
  ∧ (∀ (p : Port) (h : Nat) (d : List Byte) (l : List (Nat × Nat)) (s : State),
      s.portOn p.n = true →
      s.bar2Req p.n h d.length = some l →
      l.any (fun x => s.cutOff p.n x.1) = false →
      exec (Instr.bar2Write p h d .good) s = .next (s.writePieces l d))
  ∧ (∀ (p : Port) (h a : Nat) (d : List Byte) (s : State),
      s.portOn p.n = true →
      d.length = 64 →
      s.bar2Req p.n h 64 = some [(a, 64)] →
      s.cutOff p.n a = false →
      a % 64 = 0 →
      ∃ u, exec (Instr.bar2Write p h d .good) s = .next u ∧ u.mem.readN a 64 = d ∧ (∀ x, (x < a ∨ a + 64 ≤ x) → u.mem.read x = s.mem.read x))
  ∧ (∀ (p : Port) (h : Nat) (d : List Byte) (l : List (Nat × Nat)) (s : State),
      s.portOn p.n = true →
      s.bar2Req p.n h d.length = some l →
      l.any (fun x => s.cutOff p.n x.1) = true →
      exec (Instr.bar2Write p h d .good) s = .next (s))
  ∧ (∀ (p : Port) (h : Nat) (d : List Byte) (s : State),
      s.portOn p.n = true →
      exec (Instr.bar2Write p h d .poisoned) s = .next ((s.logEv { cls := .ue, source := Src.port, index := ixOf p.n 0, detail := (s.bar2Dpa h).getD 0 }).aerSet p.n 12 h))
  ∧ (∀ (p : Port) (h : Nat) (d : List Byte) (s : State),
      s.portOn p.n = true →
      (s.hport p.n).ecrcCheck = true →
      exec (Instr.bar2Write p h d .badEcrc) s = .next (s.aerSet p.n 19 h))
  ∧ (∀ (p : Port) (h : Nat) (d : List Byte) (s : State),
      s.portOn p.n = true →
      s.bar2Req p.n h d.length = none →
      exec (Instr.bar2Write p h d .good) s = .next ((s.logEv { cls := .protocol, source := Src.port, index := ixOf p.n 0, detail := h }).sendUr p h))

/-- SCRUB_READ with scrub on in a free slot: the line counts as read in its stack's pass, which ends when every line in use has been and is counted, and flagged if it took longer than its period; a corrected line's stored errors are gone. REFRESH_WINDOW: the tape is at the channel's next window, in band mode the refreshes of the band's rate are due there, in native mode as many as the oscillator needs up to that; more than one due sets OVERRUN. FLIP_ARM arms the mask and writes no memory. MARGIN_SCAN_START makes the scan busy, or is refused in a stack whose ranges a running bolt claims or that scans already; MARGIN_SCAN_DONE stores the result and DONE. -/
def Obligations.MemoryUpkeep : Prop :=
  (∀ (t : Site) (off : Nat) (s : State),
      (Instr.scrubRead (.slice t off)).wf = true →
      s.scrubOn (.slice t off) = true →
      s.idleSlot (LineRef.addr (.slice t off)) = true →
      s.memLive = true →
      ∃ u, exec (Instr.scrubRead (.slice t off)) s = .next u ∧ let x := s.scrubs.get Scrub.reset (scrubNo (.slice t off)); let seen := runsAdd x.seen (LineRef.addr (.slice t off)) (LineRef.addr (.slice t off) + 64);
      let whole := s.linesInUse (scrubNo (.slice t off)) != [] && (s.linesInUse (scrubNo (.slice t off))).all fun r => seen.any fun q => decide (q.1 ≤ r.1 ∧ r.2 ≤ q.2);
      u.r (.stk t.stack.val) F.PMEM_SCRUB_PASSES_COUNT = (if whole then satAdd F.PMEM_SCRUB_PASSES_COUNT.w (s.r (.stk t.stack.val) F.PMEM_SCRUB_PASSES_COUNT) 1 else s.r (.stk t.stack.val) F.PMEM_SCRUB_PASSES_COUNT)
      ∧ (whole = true → x.start.getD s.tape + s.scrubPeriod (.slice t off) < s.tape → u.b (.stk t.stack.val) F.PMEM_STATUS_SCRUB_LATE = true)
      ∧ (u.scrubs.get Scrub.reset (scrubNo (.slice t off)) = if whole then ⟨some s.tape, []⟩ else ⟨some (x.start.getD s.tape), seen⟩) ∧ u.mem = s.mem ∧ u.tape = s.tape)
  ∧ (∀ (e : Fin 12) (off : Nat) (s : State),
      (Instr.scrubRead (.edge e off)).wf = true →
      s.scrubOn (.edge e off) = true →
      s.idleSlot (LineRef.addr (.edge e off)) = true →
      s.memLive = true →
      ∃ u, exec (Instr.scrubRead (.edge e off)) s = .next u ∧ let x := s.scrubs.get Scrub.reset (scrubNo (.edge e off)); let seen := runsAdd x.seen (LineRef.addr (.edge e off)) (LineRef.addr (.edge e off) + 64);
      let whole := s.linesInUse (scrubNo (.edge e off)) != [] && (s.linesInUse (scrubNo (.edge e off))).all fun r => seen.any fun q => decide (q.1 ≤ r.1 ∧ r.2 ≤ q.2);
      u.r (.edge e.val) F.EDGE_SCRUB_PASSES_COUNT = (if whole then satAdd F.EDGE_SCRUB_PASSES_COUNT.w (s.r (.edge e.val) F.EDGE_SCRUB_PASSES_COUNT) 1 else s.r (.edge e.val) F.EDGE_SCRUB_PASSES_COUNT)
      ∧ (whole = true → x.start.getD s.tape + s.scrubPeriod (.edge e off) < s.tape → u.b (.edge e.val) F.EDGE_STATUS_SCRUB_LATE = true)
      ∧ (u.scrubs.get Scrub.reset (scrubNo (.edge e off)) = if whole then ⟨some s.tape, []⟩ else ⟨some (x.start.getD s.tape), seen⟩) ∧ u.mem = s.mem ∧ u.tape = s.tape)
  ∧ (∀ (l : LineRef) (ps : List Nat) (s : State),
      (Instr.scrubRead l).wf = true →
      s.scrubOn l = true →
      s.idleSlot l.addr = true →
      s.memLive = true →
      s.verdict l.addr = .corrected ps →
      ∃ u, exec (Instr.scrubRead l) s = .next u ∧ u.errs = s.errs.erase l.addr ∧ u.mem = s.mem)
  ∧ (∀ (t : Site) (h : Fin 2) (need : Nat) (s : State),
      s.therm.selfRefresh = false →
      ∃ u, exec (Instr.refreshWindow (.slice t h) need) s = .next u ∧ let x := s.chan (ChanRef.num (.slice t h)); let cls := s.chanClass (ChanRef.num (.slice t h)); let i := nextWindow (winOf (ChanRef.num (.slice t h)) cls) (max s.tape x.winNext);
      let rate := bandDue cls (s.chanBand (.slice t h)) i.1; let due := if s.bandMode (.slice t h) then rate else min need rate;
      u.tape = max s.tape i.2 ∧ (2 ≤ due → u.b (.stk t.stack.val) F.PMEM_STATUS_OVERRUN = true) ∧ (due ≤ 1 → u.b (.stk t.stack.val) F.PMEM_STATUS_OVERRUN = s.b (.stk t.stack.val) F.PMEM_STATUS_OVERRUN)
      ∧ (u.chan (ChanRef.num (.slice t h))).winNext = i.2 + 1 ∧ u.mem = s.mem)
  ∧ (∀ (e : Fin 12) (h : Fin 32) (need : Nat) (s : State),
      s.therm.selfRefresh = false →
      s.dieHeld (e.val / 3) = false →
      ∃ u, exec (Instr.refreshWindow (.edge e h) need) s = .next u ∧ let x := s.chan (ChanRef.num (.edge e h)); let cls := s.chanClass (ChanRef.num (.edge e h)); let i := nextWindow (winOf (ChanRef.num (.edge e h)) cls) (max s.tape x.winNext);
      let rate := bandDue cls (s.chanBand (.edge e h)) i.1; let due := if s.bandMode (.edge e h) then rate else min need rate;
      u.tape = max s.tape i.2 ∧ (2 ≤ due → u.b (.edge e.val) F.EDGE_STATUS_OVERRUN = true) ∧ (due ≤ 1 → u.b (.edge e.val) F.EDGE_STATUS_OVERRUN = s.b (.edge e.val) F.EDGE_STATUS_OVERRUN)
      ∧ (u.chan (ChanRef.num (.edge e h))).winNext = i.2 + 1 ∧ u.mem = s.mem)
  ∧ (∀ (q : Req) (k : Fin 12) (val : Word) (s : State),
      s.grants q (.stk k.val) F.PMEM_FLIP_CTRL_ARM.off = true →
      ∃ u, exec (Instr.flipArm q false k val) s = .next u ∧ u.b (.stk k.val) F.PMEM_FLIP_CTRL_ARM = true ∧ u.mem = s.mem ∧ u.errs = s.errs)
  ∧ (∀ (q : Req) (k : Fin 12) (val : Word) (s : State),
      s.grants q (.edge k.val) F.EDGE_FLIP_CTRL_ARM.off = true →
      ∃ u, exec (Instr.flipArm q true k val) s = .next u ∧ u.b (.edge k.val) F.EDGE_FLIP_CTRL_ARM = true ∧ u.mem = s.mem ∧ u.errs = s.errs)
  ∧ (∀ (q : Req) (e : Fin 12) (val : Word) (s : State),
      s.grants q (.edge e.val) F.EDGE_MARGIN_CTRL_START.off = true →
      (s.edgeClaimed e.val || s.b (.edge e.val) F.EDGE_MARGIN_STAT_BUSY) = false →
      ∃ u, exec (Instr.marginScanStart q e val) s = .next u ∧ u.b (.edge e.val) F.EDGE_MARGIN_STAT_BUSY = true ∧ u.mem = s.mem)
  ∧ (∀ (q : Req) (e : Fin 12) (val : Word) (s : State),
      s.grants q (.edge e.val) F.EDGE_MARGIN_CTRL_START.off = true →
      (s.edgeClaimed e.val || s.b (.edge e.val) F.EDGE_MARGIN_STAT_BUSY) = true →
      ∃ u, exec (Instr.marginScanStart q e val) s = .next u ∧ u.b (.edge e.val) F.EDGE_MARGIN_STAT_REFUSED = true ∧ u.mem = s.mem)
  ∧ (∀ (e : Fin 12) (a b c d : Byte) (s : State),
      s.b (.edge e.val) F.EDGE_MARGIN_STAT_BUSY = true →
      ∃ u, exec (Instr.marginScanDone e a b c d) s = .next u ∧ u.r (.edge e.val) F.EDGE_MARGIN_RESULT_LEFT = a.toNat ∧ u.r (.edge e.val) F.EDGE_MARGIN_RESULT_RIGHT = b.toNat ∧ u.r (.edge e.val) F.EDGE_MARGIN_RESULT_LOW = c.toNat
      ∧ u.r (.edge e.val) F.EDGE_MARGIN_RESULT_HIGH = d.toNat ∧ u.b (.edge e.val) F.EDGE_MARGIN_STAT_BUSY = false ∧ u.b (.edge e.val) F.EDGE_MARGIN_STAT_DONE = true ∧ u.mem = s.mem)

/-- NBU_APPEND, COPY, FILL, AXPY, REDUCE, GATHER, SCATTER, CHECK_CRC32C, CHECK_CRC64 and CHECK_HOST_TAG: where the unit fetches a descriptor of the row at the head of an enabled ring, an accepted one runs on the ring with no progress and NBU_STATUS.RING names it; a refused one ends: the ring is idle, CONS and the operation count are one higher. -/
def Obligations.NbuOperations : Prop :=
  NbuRuns .nbuAppend 0x10
  ∧ NbuRuns .nbuCopy 0x20
  ∧ NbuRuns .nbuFill 0x30
  ∧ NbuRuns .nbuAxpy 0x40
  ∧ NbuRuns .nbuReduce 0x50
  ∧ NbuRuns .nbuGather 0x60
  ∧ NbuRuns .nbuScatter 0x70
  ∧ NbuRuns .nbuCheckCrc32c 0x90
  ∧ NbuRuns .nbuCheckCrc64 0x91
  ∧ NbuRuns .nbuCheckHostTag 0x92

/-- An accepted descriptor at the head of its ring completes in one step with status 0 and its RESULT: TAKE pops the free list where it is not empty; REF_INC adds a reference below 65,535 and RELEASE takes one away, the last freeing the swatch, of an entry with STATE 1; PROBE answers what its bucket holds; INSERT claims the first free slot or answers the match or that the bucket is full; PUBLISH makes a pending node valid; REF_INC and REF_DEC change a valid node's references; EVICT frees a valid node without any. Any accepted descriptor of these rows leaves the state of its indivisible step; CONS and the operation count are one higher and the ring is idle, as after a refused one. TABLE_MESSAGE performs the message and replies. -/
def Obligations.NbuTableAndTree : Prop :=
  NbuAtOnce .take 0xa0 tableStep
  ∧ NbuAtOnce .tableRefInc 0xa1 tableStep
  ∧ NbuAtOnce .release 0xa2 tableStep
  ∧ NbuAtOnce .probe 0x80 hashStep
  ∧ NbuAtOnce .insert 0x81 hashStep
  ∧ NbuAtOnce .publish 0x82 hashStep
  ∧ NbuAtOnce .hashRefInc 0x83 hashStep
  ∧ NbuAtOnce .refDec 0x84 hashStep
  ∧ NbuAtOnce .evict 0x85 hashStep
  ∧ (∀ (e : Fin 12) (u : Fin 32) (r : Fin 4) (d : BitVec 512) (z : State) (q : Blk) (v : Nat) (s : State),
      s.nbuTaken (nbuNo e.val u.val) r.val 0xa0 = some (d, z) →
      z.swtStk (bits (nArg1 d) 4 4) = some q →
      z.b q (F.SWT_SEG_FREE_EMPTY (bits (nArg1 d) 0 4)) = false →
      z.r q (F.SWT_SEG_COUNT_COUNT (bits (nArg1 d) 0 4)) ≠ 0 →
      (z.swRead (z.r q (F.SWT_SEG_FREE_HEAD (bits (nArg1 d) 0 4)))).1.toOption = some v →
      let n := bits (nArg1 d) 0 4; let w := z.r q (F.SWT_SEG_FREE_HEAD n); let x := (z.swRead w).2.swWrite w (swSet v 1 1 0); let l := bits v 37 23;
      let more := decide (z.r q (F.SWT_SEG_FIRST_FIRST n) ≤ l ∧ l < z.r q (F.SWT_SEG_FIRST_FIRST n) + z.r q (F.SWT_SEG_COUNT_COUNT n)) && bits (x.mem.readLE (z.tableBase + 8 * l) 8) 0 2 == 0 && !x.hasUe (z.tableBase + 8 * l) 8;
      exec (Instr.take e u r) s = .next (z.nbuDone (nbuNo e.val u.val) r.val d (w) (x.setHead (bits (nArg1 d) 4 4) n (if more then l else w) (!more))))
  ∧ (∀ (e : Fin 12) (u : Fin 32) (r : Fin 4) (d : BitVec 512) (z : State) (v : Nat) (s : State),
      s.nbuTaken (nbuNo e.val u.val) r.val 0xa1 = some (d, z) →
      (z.swRead (nArg1 d)).1.toOption = some v →
      swState v = 1 →
      swRefs v ≠ 65535 →
      exec (Instr.tableRefInc e u r) s = .next (z.nbuDone (nbuNo e.val u.val) r.val d (swRefs v + 1) ((z.swRead (nArg1 d)).2.swWrite (nArg1 d) (swSet v 1 (swRefs v + 1) (swFill v)))))
  ∧ (∀ (e : Fin 12) (u : Fin 32) (r : Fin 4) (d : BitVec 512) (z : State) (v : Nat) (s : State),
      s.nbuTaken (nbuNo e.val u.val) r.val 0xa2 = some (d, z) →
      (z.swRead (nArg1 d)).1.toOption = some v →
      swState v = 1 →
      swRefs v ≤ 1 →
      exec (Instr.release e u r) s = .next (z.nbuDone (nbuNo e.val u.val) r.val d (0) ((z.swRead (nArg1 d)).2.pushFree (nArg1 d) v)))
  ∧ (∀ (e : Fin 12) (u : Fin 32) (r : Fin 4) (d : BitVec 512) (z : State) (v : Nat) (s : State),
      s.nbuTaken (nbuNo e.val u.val) r.val 0xa2 = some (d, z) →
      (z.swRead (nArg1 d)).1.toOption = some v →
      swState v = 1 →
      1 < swRefs v →
      exec (Instr.release e u r) s = .next (z.nbuDone (nbuNo e.val u.val) r.val d (swRefs v - 1) ((z.swRead (nArg1 d)).2.swWrite (nArg1 d) (swSet v 1 (swRefs v - 1) (swFill v)))))
  ∧ (∀ (e : Fin 12) (u : Fin 32) (r : Fin 4) (d : BitVec 512) (z : State) (b : Nat) (q : Blk) (h : Nat) (l : List (BitVec 8)) (v : Nat) (s : State),
      s.nbuTaken (nbuNo e.val u.val) r.val 0x80 = some (d, z) →
      z.treeBolt (nbuNo e.val u.val) r.val d = some b →
      z.swtStk b = some q →
      (z.hashKeyRun (nbuNo e.val u.val) q d).1 = some h →
      ((z.hashKeyRun (nbuNo e.val u.val) q d).2.nbuRead (nbuNo e.val u.val) (z.bucketAt q h) 64).1.toOption = some l →
      hashFind (nodesOf l) (h % 2 ^ 19) (h / 2 ^ 19) false = (v, none) →
      exec (Instr.probe e u r) s = .next (z.nbuDone (nbuNo e.val u.val) r.val d (v) (((z.hashKeyRun (nbuNo e.val u.val) q d).2.nbuRead (nbuNo e.val u.val) (z.bucketAt q h) 64).2)))
  ∧ (∀ (e : Fin 12) (u : Fin 32) (r : Fin 4) (d : BitVec 512) (z : State) (b : Nat) (q : Blk) (h : Nat) (l : List (BitVec 8)) (v : Nat) (i : Nat) (s : State),
      s.nbuTaken (nbuNo e.val u.val) r.val 0x81 = some (d, z) →
      z.treeBolt (nbuNo e.val u.val) r.val d = some b →
      z.swtStk b = some q →
      (z.hashKeyRun (nbuNo e.val u.val) q d).1 = some h →
      ((z.hashKeyRun (nbuNo e.val u.val) q d).2.nbuRead (nbuNo e.val u.val) (z.bucketAt q h) 64).1.toOption = some l →
      hashFind (nodesOf l) (h % 2 ^ 19) (h / 2 ^ 19) true = (v, some i) →
      exec (Instr.insert e u r) s = .next (z.nbuDone (nbuNo e.val u.val) r.val d (v) ((((z.hashKeyRun (nbuNo e.val u.val) q d).2.nbuRead (nbuNo e.val u.val) (z.bucketAt q h) 64).2.nbuPut (nbuNo e.val u.val) r.val (z.bucketAt q h + 8 * i) (leBytes 8 (h / 2 ^ 19 + 2 ^ 45))).2)))
  ∧ (∀ (e : Fin 12) (u : Fin 32) (r : Fin 4) (d : BitVec 512) (z : State) (b : Nat) (q : Blk) (h : Nat) (l : List (BitVec 8)) (v : Nat) (s : State),
      s.nbuTaken (nbuNo e.val u.val) r.val 0x81 = some (d, z) →
      z.treeBolt (nbuNo e.val u.val) r.val d = some b →
      z.swtStk b = some q →
      (z.hashKeyRun (nbuNo e.val u.val) q d).1 = some h →
      ((z.hashKeyRun (nbuNo e.val u.val) q d).2.nbuRead (nbuNo e.val u.val) (z.bucketAt q h) 64).1.toOption = some l →
      hashFind (nodesOf l) (h % 2 ^ 19) (h / 2 ^ 19) true = (v, none) →
      exec (Instr.insert e u r) s = .next (z.nbuDone (nbuNo e.val u.val) r.val d (v) (((z.hashKeyRun (nbuNo e.val u.val) q d).2.nbuRead (nbuNo e.val u.val) (z.bucketAt q h) 64).2)))
  ∧ (∀ (e : Fin 12) (u : Fin 32) (r : Fin 4) (d : BitVec 512) (z : State) (b : Nat) (q : Blk) (l : List (BitVec 8)) (s : State),
      s.nbuTaken (nbuNo e.val u.val) r.val 0x82 = some (d, z) →
      z.treeBolt (nbuNo e.val u.val) r.val d = some b →
      z.swtStk b = some q →
      (z.nbuRead (nbuNo e.val u.val) (z.treeBase q % edgeBytes + 8 * nArg1 d) 8).1.toOption = some l →
      ndState (leNat l) = 1 →
      exec (Instr.publish e u r) s = .next (z.nbuDone (nbuNo e.val u.val) r.val d (nArg1 d) (((z.nbuRead (nbuNo e.val u.val) (z.treeBase q % edgeBytes + 8 * nArg1 d) 8).2.nbuPut (nbuNo e.val u.val) r.val (z.treeBase q % edgeBytes + 8 * nArg1 d) (leBytes 8 (ndSet (leNat l) 2 (ndRefs (leNat l))))).2)))
  ∧ (∀ (e : Fin 12) (u : Fin 32) (r : Fin 4) (d : BitVec 512) (z : State) (b : Nat) (q : Blk) (l : List (BitVec 8)) (s : State),
      s.nbuTaken (nbuNo e.val u.val) r.val 0x83 = some (d, z) →
      z.treeBolt (nbuNo e.val u.val) r.val d = some b →
      z.swtStk b = some q →
      (z.nbuRead (nbuNo e.val u.val) (z.treeBase q % edgeBytes + 8 * nArg1 d) 8).1.toOption = some l →
      ndState (leNat l) = 2 →
      ndRefs (leNat l) ≠ 65535 →
      exec (Instr.hashRefInc e u r) s = .next (z.nbuDone (nbuNo e.val u.val) r.val d (ndRefs (leNat l) + 1) (((z.nbuRead (nbuNo e.val u.val) (z.treeBase q % edgeBytes + 8 * nArg1 d) 8).2.nbuPut (nbuNo e.val u.val) r.val (z.treeBase q % edgeBytes + 8 * nArg1 d) (leBytes 8 (ndSet (leNat l) 2 (ndRefs (leNat l) + 1)))).2)))
  ∧ (∀ (e : Fin 12) (u : Fin 32) (r : Fin 4) (d : BitVec 512) (z : State) (b : Nat) (q : Blk) (l : List (BitVec 8)) (s : State),
      s.nbuTaken (nbuNo e.val u.val) r.val 0x84 = some (d, z) →
      z.treeBolt (nbuNo e.val u.val) r.val d = some b →
      z.swtStk b = some q →
      (z.nbuRead (nbuNo e.val u.val) (z.treeBase q % edgeBytes + 8 * nArg1 d) 8).1.toOption = some l →
      ndState (leNat l) = 2 →
      0 < ndRefs (leNat l) →
      exec (Instr.refDec e u r) s = .next (z.nbuDone (nbuNo e.val u.val) r.val d (ndRefs (leNat l) - 1) (((z.nbuRead (nbuNo e.val u.val) (z.treeBase q % edgeBytes + 8 * nArg1 d) 8).2.nbuPut (nbuNo e.val u.val) r.val (z.treeBase q % edgeBytes + 8 * nArg1 d) (leBytes 8 (ndSet (leNat l) 2 (ndRefs (leNat l) - 1)))).2)))
  ∧ (∀ (e : Fin 12) (u : Fin 32) (r : Fin 4) (d : BitVec 512) (z : State) (b : Nat) (q : Blk) (l : List (BitVec 8)) (s : State),
      s.nbuTaken (nbuNo e.val u.val) r.val 0x85 = some (d, z) →
      z.treeBolt (nbuNo e.val u.val) r.val d = some b →
      z.swtStk b = some q →
      (z.nbuRead (nbuNo e.val u.val) (z.treeBase q % edgeBytes + 8 * nArg1 d) 8).1.toOption = some l →
      ndState (leNat l) = 2 →
      ndRefs (leNat l) = 0 →
      exec (Instr.evict e u r) s = .next (z.nbuDone (nbuNo e.val u.val) r.val d (nArg1 d) (((z.nbuRead (nbuNo e.val u.val) (z.treeBase q % edgeBytes + 8 * nArg1 d) 8).2.nbuPut (nbuNo e.val u.val) r.val (z.treeBase q % edgeBytes + 8 * nArg1 d) (leBytes 8 (ndSet (leNat l) 0 0))).2)))
  ∧ (∀ (b : Fin 12) (m : TableMsg) (s : State), s.nbuLive s.tableUnit = true →
    exec (Instr.tableMessage b m) s = .next ((s.tableMsg b.val m).2.2.send (.tableReply (s.tableMsg b.val m).1 (s.tableMsg b.val m).2.1)))

/-- NBU_STEP: the next operation's lines are worked, its tags written where it has RETAG, and the operation is kept, or ended with its status; outside APPEND and CHECK a step either ends it or takes it further. NBU_DOORBELL: bytes 0 to 3 of the header line take the value; an enabled ring's PROD is its low half, or RING_ERR where that lies beyond the ring. -/
def Obligations.NbuSteps : Prop :=
  (∀ (e : Fin 12) (u : Fin 32) (o : NbuOp) (s : State), s.nbuLive (nbuNo e.val u.val) = true → s.nbuNext (nbuNo e.val u.val) = some o →
    exec (Instr.nbuStep e u) s = .next (
      let w := s.stepRun (nbuNo e.val u.val) o
      let t := s.stepTags (nbuNo e.val u.val) o
      let op := { w.1.op with retagged := w.1.op.retagged || t.2.1 }
      match t.1, w.1.done with
      | some f, _ => t.2.2.nbuEnd (nbuNo e.val u.val) op 0x06 f
      | none, some (st, f) => t.2.2.nbuEnd (nbuNo e.val u.val) op st f
      | none, none => t.2.2.nbuKeep (nbuNo e.val u.val) op))
  ∧ (∀ (e : Fin 12) (u : Fin 32) (o : NbuOp) (s : State), s.nbuLive (nbuNo e.val u.val) = true → s.nbuNext (nbuNo e.val u.val) = some o → o.ring < 4 → nOp o.desc ≠ 1 → nOp o.desc ≠ 9 →
    ∃ t, exec (Instr.nbuStep e u) s = .next t ∧
      (t.r (.nbu (nbuNo e.val u.val)) (F.NBU_RING_PTR_CONS o.ring) = (s.r (.nbu (nbuNo e.val u.val)) (F.NBU_RING_PTR_CONS o.ring) + 1) % 2 ^ 16 ∨
        ∃ o', (t.nbu (nbuNo e.val u.val)).ops.get none o.ring = some o' ∧ o.taken < o'.taken))
  ∧ (∀ (e : Fin 12) (u : Fin 32) (r : Fin 4) (val : Word) (s : State), (s.r (.nbu (nbuNo e.val u.val)) (F.NBU_RING_BASE_BASE r.val) * 64) + 64 ≤ edgeBytes → (s.readCw (e.val * edgeBytes + (s.r (.nbu (nbuNo e.val u.val)) (F.NBU_RING_BASE_BASE r.val) * 64))).1 = true →
    ∃ t, exec (Instr.nbuDoorbell e u r val) s = .next t ∧ t.mem.readN (e.val * edgeBytes + (s.r (.nbu (nbuNo e.val u.val)) (F.NBU_RING_BASE_BASE r.val) * 64)) 4 = leBytes 4 val.toNat ∧
      (∀ a, (a < (e.val * edgeBytes + (s.r (.nbu (nbuNo e.val u.val)) (F.NBU_RING_BASE_BASE r.val) * 64)) ∨ (e.val * edgeBytes + (s.r (.nbu (nbuNo e.val u.val)) (F.NBU_RING_BASE_BASE r.val) * 64)) + 4 ≤ a) → t.mem.read a = (s.readCw (e.val * edgeBytes + (s.r (.nbu (nbuNo e.val u.val)) (F.NBU_RING_BASE_BASE r.val) * 64))).2.mem.read a) ∧
      (s.b (.nbu (nbuNo e.val u.val)) (F.NBU_RING_CFG_EN r.val) = true →
        ((val.toNat % 2 ^ 16 + 2 ^ 16 - s.r (.nbu (nbuNo e.val u.val)) (F.NBU_RING_PTR_CONS r.val)) % 2 ^ 16 ≤ s.r (.nbu (nbuNo e.val u.val)) (F.NBU_RING_CFG_SLOTS_M1 r.val) + 1 →
          t.r (.nbu (nbuNo e.val u.val)) (F.NBU_RING_PTR_PROD r.val) = val.toNat % 2 ^ 16) ∧
        (s.r (.nbu (nbuNo e.val u.val)) (F.NBU_RING_CFG_SLOTS_M1 r.val) + 1 < (val.toNat % 2 ^ 16 + 2 ^ 16 - s.r (.nbu (nbuNo e.val u.val)) (F.NBU_RING_PTR_CONS r.val)) % 2 ^ 16 →
          t.b (.nbu (nbuNo e.val u.val)) F.NBU_STATUS_RING_ERR = true)))

/-- TRAIN_STATE_COMPLETE moves a port from each state of Table 10.3 to the next: precode lanes, passed lanes less the masked ones, the neighbour of EXCHANGE, which must be the one that the coordinate with which training began gives (else the port is down with CABLING), and at the end, where no pattern claims the port, up at the width of the lanes that pass at both ends. A state that leaves no lane, or TRAIN_LIMIT_EXPIRE, starts the next attempt, or after the third leaves the port down and settled. PORT_RETRAIN starts training of an enabled unclaimed port of an axis with more than one module; a claimed one refuses. LANE_STATUS: the far end's failing lanes are failing here, each newly failing one flagged; with none left the port goes down. LOSS_OF_LOCK of at least LOCK_LOSS_US: the lane is failing and a frame tells the far end all failing lanes. CABLE_REMOVED: an up port goes down, its buffers discarded and its width 0. LEAVING does the same and sets LEFT. A frame of an unknown type at its destination is logged as a protocol-class event. -/
def Obligations.FabricPorts : Prop :=
  (∀ (f : Fin 12) (i : TrainInfo) (s : State),
      s.portState f = 1 →
      exec (Instr.trainStateComplete f i) s = .next (s.w (.fab f.val) F.FAB_PORT_STATUS_STATE 2))
  ∧ (∀ (f : Fin 12) (i : TrainInfo) (s : State),
      s.portState f = 2 →
      ∃ u, exec (Instr.trainStateComplete f i) s = .next u ∧ u.portState f = 3 ∧ (∀ l, l < 4 → u.b (.fab f.val) (F.FAB_LANE_PRECODE l) = bit i.precode.toNat l))
  ∧ (∀ (f : Fin 12) (i : TrainInfo) (s : State),
      s.portState f = 3 →
      (i.laneMask &&& ~~~(s.maskedLanes f)) ≠ 0 →
      ∃ u, exec (Instr.trainStateComplete f i) s = .next u ∧ u.portState f = 4 ∧ (∀ l, l < 4 → u.b (.fab f.val) (F.FAB_LANE_PASSED l) = bit (i.laneMask &&& ~~~(s.maskedLanes f)).toNat l))
  ∧ (∀ (f : Fin 12) (i : TrainInfo) (s : State),
      s.portState f = 3 →
      (i.laneMask &&& ~~~(s.maskedLanes f)) = 0 →
      (s.fport f).attempts < 3 →
      ∃ u, exec (Instr.trainStateComplete f i) s = .next u ∧ u.portState f = 1 ∧ (u.fport f).attempts = (s.fport f).attempts + 1)
  ∧ (∀ (f : Fin 12) (i : TrainInfo) (s : State),
      s.portState f = 4 →
      exec (Instr.trainStateComplete f i) s = .next (s.w (.fab f.val) F.FAB_PORT_STATUS_STATE 5))
  ∧ (∀ (f : Fin 12) (i : TrainInfo) (s : State),
      s.portState f = 5 →
      (i.farX, i.farY, i.farZ) = neighbourOf (s.fport f).geo.1 (s.fport f).geo.2 f ∧ i.farPort = partnerPort f ∧ (i.farDX, i.farDY, i.farDZ) = (s.fport f).geo.2 →
      ((List.range 4).foldl (fun m l => if s.b (.fab f.val) (F.FAB_LANE_PASSED l) then m ||| BitVec.ofNat 4 (2 ^ l) else m) (0 : BitVec 4) &&& i.farMask) ≠ 0 →
      ∃ u, exec (Instr.trainStateComplete f i) s = .next u ∧ u.portState f = 6 ∧ (u.fport f).both = ((List.range 4).foldl (fun m l => if s.b (.fab f.val) (F.FAB_LANE_PASSED l) then m ||| BitVec.ofNat 4 (2 ^ l) else m) (0 : BitVec 4) &&& i.farMask) ∧ u.b (.fab f.val) F.FAB_PORT_NBR_VALID = true ∧ u.r (.fab f.val) F.FAB_PORT_NBR_NPORT = i.farPort)
  ∧ (∀ (f : Fin 12) (i : TrainInfo) (s : State),
      s.portState f = 5 →
      ¬ ((i.farX, i.farY, i.farZ) = neighbourOf (s.fport f).geo.1 (s.fport f).geo.2 f ∧ i.farPort = partnerPort f ∧ (i.farDX, i.farDY, i.farDZ) = (s.fport f).geo.2) →
      ∃ u, exec (Instr.trainStateComplete f i) s = .next u ∧ u.portState f = 0 ∧ u.b (.fab f.val) F.FAB_PORT_STATUS_CABLING = true)
  ∧ (∀ (f : Fin 12) (i : TrainInfo) (s : State),
      s.portState f = 6 →
      s.portBolt f = none →
      ∃ u, exec (Instr.trainStateComplete f i) s = .next u ∧ u.portUp f = true ∧ u.fabWidth f = widthOf (s.fport f).both.toNat ∧ u.r (.fab f.val) F.FAB_LAT_NOM_CYCLES = i.latNom % 2 ^ F.FAB_LAT_NOM_CYCLES.w
      ∧ (u.fport f).replay = [] ∧ (u.fport f).txSeq = FabPort.reset.txSeq ∧ (u.fport f).rxSeq = FabPort.reset.rxSeq)
  ∧ (∀ (f : Fin 12) (s : State),
      1 ≤ s.portState f ∧ s.portState f ≤ 6 →
      (s.fport f).attempts < 3 →
      ∃ u, exec (Instr.trainLimitExpire f) s = .next u ∧ u.portState f = 1 ∧ (u.fport f).attempts = (s.fport f).attempts + 1)
  ∧ (∀ (f : Fin 12) (s : State),
      1 ≤ s.portState f ∧ s.portState f ≤ 6 →
      3 ≤ (s.fport f).attempts →
      ∃ u, exec (Instr.trainLimitExpire f) s = .next u ∧ u.portState f = 0 ∧ (u.fport f).settled = true)
  ∧ (∀ (q : Req) (f : Fin 12) (s : State),
      s.grants q (.fab f.val) F.FAB_PORT_CTRL_RETRAIN.off = true →
      s.portBolt f = none →
      s.b (.fab f.val) F.FAB_PORT_CTRL_EN = true →
      1 < s.axisSize f →
      ∃ u, exec (Instr.portRetrain q f) s = .next u ∧ u.portState f = 1 ∧ (u.fport f).attempts = 1 ∧ (u.fport f).replay = [] ∧ (u.fport f).slots = [] ∧ (u.fport f).resv = [] ∧ u.fabWidth f = 0)
  ∧ (∀ (q : Req) (f : Fin 12) (s : State),
      s.grants q (.fab f.val) F.FAB_PORT_CTRL_RETRAIN.off = true →
      s.portBolt f = none →
      (s.b (.fab f.val) F.FAB_PORT_CTRL_EN = false ∨ s.axisSize f ≤ 1) →
      ∃ u, exec (Instr.portRetrain q f) s = .next u ∧ u.portState f = s.portState f ∧ (u.fport f) = (s.fport f))
  ∧ (∀ (q : Req) (f : Fin 12) (s : State),
      s.grants q (.fab f.val) F.FAB_PORT_CTRL_RETRAIN.off = true →
      (s.portBolt f).isSome = true →
      ∃ u, exec (Instr.portRetrain q f) s = .next u ∧ u.b (.fab f.val) F.FAB_PORT_STATUS_REFUSED = true ∧ u.portState f = s.portState f)
  ∧ (∀ (f : Fin 12) (mask : BitVec 4) (s : State),
      s.portUp f = true →
      (s.fport f).both &&& ~~~((s.fport f).failing ||| mask) ≠ 0 →
      ∃ u, exec (Instr.laneStatus f mask) s = .next u ∧ (u.fport f).failing = (s.fport f).failing ||| mask ∧ u.tape = s.tape ∧ (∀ l, l < 4 → bit (mask &&& ~~~(s.fport f).failing).toNat l = true → u.b (.fab f.val) (F.FAB_LANE_FAILING l) = true))
  ∧ (∀ (f : Fin 12) (mask : BitVec 4) (s : State),
      s.portUp f = true →
      (s.fport f).both &&& ~~~((s.fport f).failing ||| mask) = 0 →
      (mask &&& ~~~(s.fport f).failing) ≠ 0 →
      ∃ u, exec (Instr.laneStatus f mask) s = .next u ∧ u.portUp f = false ∧ u.fabWidth f = 0 ∧ (u.fport f).replay = [] ∧ (u.fport f).backlog = [] ∧ (u.fport f).slots = [] ∧ (u.fport f).resv = [])
  ∧ (∀ (f : Fin 12) (lane : Fin 4) (us : Nat) (s : State),
      s.portUp f = true →
      s.r (.fab f.val) F.FAB_LANE_FAIL_CFG_LOCK_LOSS_US ≤ us →
      (s.fport f).both &&& ~~~((s.fport f).failing ||| BitVec.ofNat 4 (2 ^ lane.val)) ≠ 0 →
      ∃ u, exec (Instr.lossOfLock f lane us) s = .next u ∧ (u.fport f).failing = (s.fport f).failing ||| BitVec.ofNat 4 (2 ^ lane.val)
      ∧ (BitVec.ofNat 4 (2 ^ lane.val) &&& ~~~(s.fport f).failing ≠ 0 → ∀ fl ∈ frameFlits 0x01 (xyz12 (s.neighbour f)) (xyz12 s.coord) 1 (leBytes 1 (u.fport f).failing.toNat),
          ∃ w ∈ (u.fport f).resv, w.flit = fl ∧ w.prec = Prec.frame))
  ∧ (∀ (f : Fin 12) (s : State),
      s.portUp f = true →
      ∃ u, exec (Instr.cableRemoved f) s = .next u ∧ u.portUp f = false ∧ u.fabWidth f = 0 ∧ (u.fport f).replay = [] ∧ (u.fport f).backlog = [] ∧ (u.fport f).slots = [] ∧ (u.fport f).resv = [])
  ∧ (∀ (f : Fin 12) (s : State),
      s.portUp f = true →
      ∃ u, exec (Instr.leaving f) s = .next u ∧ u.portUp f = false ∧ u.fabWidth f = 0 ∧ (u.fport f).replay = [] ∧ (u.fport f).backlog = [] ∧ (u.fport f).slots = [] ∧ (u.fport f).resv = [] ∧ u.b (.fab f.val) F.FAB_PORT_STATUS_LEFT = true)
  ∧ (∀ (d : MgmtDest) (ty : Byte) (l : List Byte) (s : State),
      [1, 2, 3, 4, 5].contains ty.toNat = false →
      (s.route d ty.toNat l).1 = true →
      exec (Instr.unknownFrame d ty l) s = .next ((s.route d ty.toNat l).2.logEv { cls := .protocol, source := Src.fabric, index := ixOf d.inPort.val 0, code := ty.toNat }))

/-- SLOT_START: at the schedule count of the next scheduled slot that holds a flit, the flit goes out on the active lanes with the next sequence number, at the first flit boundary where the link is free. FLIT_RECEIVE of 256 bytes with a right CRC: a flit in sequence is taken; its last flit for a tile here brings an acknowledgement, negative where there is no such tile, which waits at the port toward the sender; one taken before is acknowledged again; a gap, or a bad CRC, which is counted, brings NAK. REPLAY_TIMEOUT: the unacknowledged flits go out again, in order, 2 µs after the oldest. DELIVERY_ACK completes the channel's fabric SEND, or faults its tile. -/
def Obligations.FabricFlits : Prop :=
  (∀ (f : Fin 12) (b q : Nat) (x : Placed) (l : SMap Placed) (s : State),
      (s.fport f).slots = (q, x) :: l →
      s.portBolt f = some b →
      s.patRuns b = true →
      s.live = true →
      s.portUp f = true →
      (slotCount (s.fabWidth f) q ≤ s.countOf b ∨ s.canReach b (slotCount (s.fabWidth f) q) = true) →
      ∃ u, exec (Instr.slotStart f) s = .next u ∧ (u.portUp f = true → (u.fport f).slots = l ∧ (u.fport f).nextSlot = q + 1) ∧ u.tape = max s.tape ((s.bolt b).tapeOf (slotCount (s.fabWidth f) q)))
  ∧ (∀ (f : Fin 12) (b q : Nat) (x : Placed) (l : SMap Placed) (s : State),
      (s.fport f).slots = (q, x) :: l →
      s.portBolt f = some b →
      s.patRuns b = true →
      s.live = true →
      s.portUp f = true →
      (slotCount (s.fabWidth f) q ≤ s.countOf b ∨ s.canReach b (slotCount (s.fabWidth f) q) = true) →
      x.flit.type = 1 →
      s.trace.stopped = false →
      (s.fport f).backlog = [] →
      (s.fport f).resv = [] →
      (s.fport f).replay = [] →
      s.tape ≤ ((s.bolt b).tapeOf (slotCount (s.fabWidth f) q)) →
      x.at_ ≤ ((s.bolt b).tapeOf (slotCount (s.fabWidth f) q)) →
      (s.fport f).busyUntil ≤ boundary (flitTime (s.fabWidth f)) ((s.bolt b).tapeOf (slotCount (s.fabWidth f) q)) →
      ∃ u, exec (Instr.slotStart f) s = .next u ∧ let fl := { x.flit with seq := ((s.fport f).txSeq + 1) % 8192, ack := (s.fport f).rxSeq, nak := (s.fport f).nakDue };
      u.out = s.out ++ [.flit f (boundary (flitTime (s.fabWidth f)) ((s.bolt b).tapeOf (slotCount (s.fabWidth f) q)) / 100) (s.laneParts f (flitBytes fl))] ∧ (u.fport f).txSeq = ((s.fport f).txSeq + 1) % 8192
      ∧ (u.fport f).replay.map (·.1.seq) = [fl.seq])
  ∧ (∀ (f : Fin 12) (raw : List Byte) (due : Nat) (fl : Flit) (cr : List (Fin 4 × Nat)) (s : State),
      (Instr.flitReceive f raw due [] cr).wf = true →
      s.portUp f = true →
      flitOk raw = true →
      readFlit raw = fl →
      fl.type ≠ 0 →
      fl.seq = ((s.fport f).rxSeq + 1) % 8192 →
      ∃ u, exec (Instr.flitReceive f raw due [] cr) s = .next u ∧ (u.portUp f = true → (u.fport f).rxSeq = fl.seq ∧ (u.fport f).nakOut = false))
  ∧ (∀ (f : Fin 12) (raw : List Byte) (due : Nat) (fl : Flit) (cr : List (Fin 4 × Nat)) (s : State),
      (Instr.flitReceive f raw due [] cr).wf = true →
      s.portUp f = true →
      flitOk raw = true →
      readFlit raw = fl →
      fl.type ≠ 0 →
      fl.seq = ((s.fport f).rxSeq + 1) % 8192 →
      fl.nak = false →
      (s.fport f).backlog = [] →
      (s.fport f).resv = [] →
      ∃ u, exec (Instr.flitReceive f raw due [] cr) s = .next u ∧ u.portUp f = true ∧ (u.fport f).rxSeq = fl.seq ∧ (u.fport f).nakOut = false)
  ∧ (∀ (f : Fin 12) (raw : List Byte) (due : Nat) (fl : Flit) (cr : List (Fin 4 × Nat)) (g p : Nat) (s : State),
      (Instr.flitReceive f raw due [] cr).wf = true →
      s.portUp f = true →
      flitOk raw = true →
      readFlit raw = fl →
      fl.type ≠ 0 →
      fl.seq = ((s.fport f).rxSeq + 1) % 8192 →
      fl.nak = false →
      (s.fport f).backlog = [] →
      (s.fport f).resv = [] →
      fl.type = 1 →
      s.trace.stopped = false →
      s.rst.level = 0 →
      fl.hx = 0 ∧ fl.hy = 0 ∧ fl.hz = 0 →
      fl.last = true →
      s.frameHop (fl.srcX, fl.srcY, fl.srcZ) = some p →
      s.siteOf fl.ftile = some g →
      ∃ u, exec (Instr.flitReceive f raw due [] cr) s = .next u ∧ ∃ w ∈ (u.fport p).resv, w.flit = ackFlit fl false ∧ w.prec = Prec.ack)
  ∧ (∀ (f : Fin 12) (raw : List Byte) (due : Nat) (fl : Flit) (cr : List (Fin 4 × Nat)) (p : Nat) (s : State),
      (Instr.flitReceive f raw due [] cr).wf = true →
      s.portUp f = true →
      flitOk raw = true →
      readFlit raw = fl →
      fl.type ≠ 0 →
      fl.seq = ((s.fport f).rxSeq + 1) % 8192 →
      fl.nak = false →
      (s.fport f).backlog = [] →
      (s.fport f).resv = [] →
      fl.type = 1 →
      s.trace.stopped = false →
      s.rst.level = 0 →
      fl.hx = 0 ∧ fl.hy = 0 ∧ fl.hz = 0 →
      fl.last = true →
      s.frameHop (fl.srcX, fl.srcY, fl.srcZ) = some p →
      s.siteOf fl.ftile = none →
      ∃ u, exec (Instr.flitReceive f raw due [] cr) s = .next u ∧ ∃ w ∈ (u.fport p).resv, w.flit = ackFlit fl true ∧ w.prec = Prec.ack)
  ∧ (∀ (f : Fin 12) (raw : List Byte) (due : Nat) (fl : Flit) (cr : List (Fin 4 × Nat)) (s : State),
      (Instr.flitReceive f raw due [] cr).wf = true →
      s.portUp f = true →
      flitOk raw = true →
      readFlit raw = fl →
      fl.nak = false →
      (s.fport f).backlog = [] →
      (s.fport f).resv = [] →
      fl.type ≠ 0 →
      (fl.seq = (s.fport f).rxSeq ∨ 4096 < (fl.seq + 8192 - (s.fport f).rxSeq) % 8192) →
      (s.fport f).rxSeq < 8192 →
      ∃ u, exec (Instr.flitReceive f raw due [] cr) s = .next u ∧ (u.fport f).rxSeq = (s.fport f).rxSeq ∧ (u.fport f).ackSent = 8192)
  ∧ (∀ (f : Fin 12) (raw : List Byte) (due : Nat) (fl : Flit) (cr : List (Fin 4 × Nat)) (s : State),
      (Instr.flitReceive f raw due [] cr).wf = true →
      s.portUp f = true →
      flitOk raw = true →
      readFlit raw = fl →
      fl.nak = false →
      (s.fport f).backlog = [] →
      (s.fport f).resv = [] →
      fl.type ≠ 0 →
      1 < (fl.seq + 8192 - (s.fport f).rxSeq) % 8192 ∧ (fl.seq + 8192 - (s.fport f).rxSeq) % 8192 ≤ 4096 →
      (s.fport f).nakOut = false →
      ∃ u, exec (Instr.flitReceive f raw due [] cr) s = .next u ∧ (u.fport f).rxSeq = (s.fport f).rxSeq ∧ (u.fport f).nakOut = true ∧ (u.fport f).nakDue = true)
  ∧ (∀ (f : Fin 12) (raw : List Byte) (due : Nat) (cr : List (Fin 4 × Nat)) (s : State),
      (Instr.flitReceive f raw due [] cr).wf = true →
      s.portUp f = true →
      flitOk raw = false →
      ∃ u, exec (Instr.flitReceive f raw due [] cr) s = .next u ∧ u.r (.fab f.val) F.FAB_CRC_ERR_COUNT_COUNT = satAdd F.FAB_CRC_ERR_COUNT_COUNT.w (s.r (.fab f.val) F.FAB_CRC_ERR_COUNT_COUNT) 1
      ∧ (u.fport f).nakOut = true ∧ (u.fport f).nakDue = true ∧ (u.fport f).rxSeq = (s.fport f).rxSeq ∧ u.out = s.out)
  ∧ (∀ (f : Fin 12) (x : Flit × Nat × Nat) (l : List (Flit × Nat × Nat)) (s : State),
      (s.fport f).replay = x :: l →
      s.portUp f = true →
      ∃ u, exec (Instr.replayTimeout f) s = .next u ∧ u.tape = max s.tape (x.2.2 + 2000) ∧ u.r (.fab f.val) F.FAB_RETRY_COUNT_COUNT = satAdd F.FAB_RETRY_COUNT_COUNT.w (s.r (.fab f.val) F.FAB_RETRY_COUNT_COUNT) 1
      ∧ (u.portUp f = true → (u.fport f).replay.map (·.1) = (x :: l).map (·.1))
      ∧ (u.portUp f = true → ∀ i r, (x :: l)[i]? = some r →
          .flit f (((s.fport f).free (flitTime (s.fabWidth f)) (max s.tape (x.2.2 + 2000)) + i * (flitTime (s.fabWidth f))) / 100) (s.laneParts f (flitBytes { r.1 with ack := (s.fport f).rxSeq, nak := i == 0 && (s.fport f).nakDue })) ∈ u.out))
  ∧ (∀ (t : Site) (c : Fin 4) (f : Flight) (s : State),
      (s.tile t.g).chanCmd c.val = some f →
      s.trace.stopped = false →
      f.op = 7 →
      sendRoute f.desc = 1 →
      f.prog = sendLen f.desc →
      ∃ u, exec (Instr.deliveryAck t c false) s = .next u ∧ (∃ x ∈ (u.tile t.g).flight, x.uid = f.uid ∧ x.phase = .done) ∧ u.tape = s.tape)
  ∧ (∀ (t : Site) (c : Fin 4) (f : Flight) (s : State),
      (s.tile t.g).chanCmd c.val = some f →
      s.trace.stopped = false →
      f.op = 7 →
      sendRoute f.desc = 1 →
      ∃ u, exec (Instr.deliveryAck t c true) s = .next u ∧ (u.tile t.g).faulted = true)

/-- SQ_TAIL_DOORBELL and CQ_HEAD_DOORBELL on an enabled pair take the tail or the head; a value beyond the ring, or a disabled pair, sets ERR. QUEUE_ENABLE, once the module is ready, makes the pair new; QUEUE_DISABLE clears EN and leaves the commands in progress. HOST_TO_DEVICE, DEVICE_TO_HOST, DEVICE_COPY and DEVICE_GATHER, of the queue whose turn it is, advance the head and run; the two that move data to or from the host go request by request, each of no more than the negotiated size (a line lands whole in edge memory, data go out to the host), the two device commands, their checks passed, from one 64-byte boundary to the next; each stays in progress until its length is reached or it fails, then leaves its completion. Reserved fields end any of them with status 1; a transfer to or from the host that is misaligned ends with 7, one that the host refuses with 3 at the bytes then moved; a device command ends with what its checks answer. HQ_COMPLETION writes the oldest record. -/
def Obligations.HostQueues : Prop :=
  (∀ (p : Port) (n : Fin 64) (val : Word) (s : State),
      s.portOn p.n = true →
      (s.hport p.n).d3hot = false →
      s.qOn p.n n.val = true →
      val.toNat % 2 ^ 16 < s.sqSize p.n n.val →
      exec (Instr.sqTailDoorbell p n val) s = .next (s.setQp p.n n.val { (s.qp p.n n.val) with sqTail := val.toNat % 2 ^ 16 }))
  ∧ (∀ (p : Port) (n : Fin 64) (val : Word) (s : State),
      s.portOn p.n = true →
      (s.hport p.n).d3hot = false →
      (s.qOn p.n n.val = false ∨ s.sqSize p.n n.val ≤ val.toNat % 2 ^ 16) →
      exec (Instr.sqTailDoorbell p n val) s = .next (s.w4 p.n (F.HST_Q_STAT_ERR n.val) 1))
  ∧ (∀ (p : Port) (n : Fin 64) (val : Word) (s : State),
      s.portOn p.n = true →
      (s.hport p.n).d3hot = false →
      s.qOn p.n n.val = true →
      val.toNat % 2 ^ 16 < s.cqSize p.n n.val →
      exec (Instr.cqHeadDoorbell p n val) s = .next (s.setQp p.n n.val { (s.qp p.n n.val) with cqHead := val.toNat % 2 ^ 16, used := ((s.qp p.n n.val).cqPos + s.cqSize p.n n.val - val.toNat % 2 ^ 16) % s.cqSize p.n n.val }))
  ∧ (∀ (p : Port) (n : Fin 64) (val : Word) (s : State),
      s.portOn p.n = true →
      (s.hport p.n).d3hot = false →
      (s.qOn p.n n.val = false ∨ s.cqSize p.n n.val ≤ val.toNat % 2 ^ 16) →
      exec (Instr.cqHeadDoorbell p n val) s = .next (s.w4 p.n (F.HST_Q_STAT_ERR n.val) 1))
  ∧ (∀ (p : Port) (n : Fin 64) (s : State),
      s.portOn p.n = true →
      (s.hport p.n).d3hot = false →
      s.b .id F.ID_STATUS_READY = true →
      ∃ u, exec (Instr.queueEnable p n) s = .next u ∧ u.qOn p.n n.val = true ∧ u.qp p.n n.val = (if s.qOn p.n n.val then (s.qp p.n n.val) else QPair.reset) ∧ u.regs = s.regs)
  ∧ (∀ (p : Port) (n : Fin 64) (s : State),
      s.portOn p.n = true →
      (s.hport p.n).d3hot = false →
      s.b .id F.ID_STATUS_READY = false →
      ∃ u, exec (Instr.queueEnable p n) s = .next u ∧ u.qOn p.n n.val = s.qOn p.n n.val ∧ u.qp p.n n.val = (s.qp p.n n.val))
  ∧ (∀ (p : Port) (n : Fin 64) (s : State),
      s.portOn p.n = true →
      (s.hport p.n).d3hot = false →
      ∃ u, exec (Instr.queueDisable p n) s = .next u ∧ u.qOn p.n n.val = false ∧ u.qp p.n n.val = (s.qp p.n n.val) ∧ u.regs = s.regs)
  ∧ (∀ (p : Port) (n : Fin 64) (d : Desc) (l : List Byte) (s : State),
      hOp d = 1 →
      s.hostWaits p n.val d = false →
      (s.qp p.n n.val).moving.find? (fun x => x.1 == d) = none →
      hReserved d = false →
      hMisaligned d = false →
      hLen d ≠ 0 →
      ∃ u, exec (Instr.hostToDevice p n d l true) s = .next u ∧ let x := (s.hostStart p n.val).dmaIn p.n (hDpa d) (reqLines d 0 l.length (s.hport p.n).readSize) 0 l; (u.qp p.n n.val).sqHead = (((s.qp p.n n.val).sqHead + 1) % s.sqSize p.n n.val) ∧ u.mem = x.2.mem
      ∧ (if x.1.1 = 0 ∧ x.1.2.2 < hLen d then (u.qp p.n n.val).moving = ((s.qp p.n n.val).moving.filter fun y => y.1 != d) ++ [(d, x.1.2.2, (((s.qp p.n n.val).sqHead + 1) % s.sqSize p.n n.val))] ∧ (u.qp p.n n.val).doneQ = (s.qp p.n n.val).doneQ
        else (u.qp p.n n.val).moving = ((s.qp p.n n.val).moving.filter fun y => y.1 != d) ∧ (u.qp p.n n.val).doneQ = (s.qp p.n n.val).doneQ ++ [(hCid d, x.1.1, x.1.2.1, x.1.2.2, (((s.qp p.n n.val).sqHead + 1) % s.sqSize p.n n.val))]))
  ∧ (∀ (p : Port) (n : Fin 64) (d : Desc) (l : List Byte) (done hd : Nat) (s : State),
      hOp d = 1 →
      (s.qp p.n n.val).moving.find? (fun x => x.1 == d) = some (d, done, hd) →
      s.rst.level = 0 →
      s.rst.steps = false →
      s.portAvail p.n = true →
      hReserved d = false →
      hMisaligned d = false →
      hLen d ≠ 0 →
      ∃ u, exec (Instr.hostToDevice p n d l true) s = .next u ∧ let x := s.dmaIn p.n (hDpa d) (reqLines d done l.length (s.hport p.n).readSize) done l; u.mem = x.2.mem
      ∧ (if x.1.1 = 0 ∧ x.1.2.2 < hLen d then (u.qp p.n n.val).moving = ((s.qp p.n n.val).moving.filter fun y => y.1 != d) ++ [(d, x.1.2.2, hd)] ∧ (u.qp p.n n.val).doneQ = (s.qp p.n n.val).doneQ
        else (u.qp p.n n.val).moving = ((s.qp p.n n.val).moving.filter fun y => y.1 != d) ∧ (u.qp p.n n.val).doneQ = (s.qp p.n n.val).doneQ ++ [(hCid d, x.1.1, x.1.2.1, x.1.2.2, hd)]))
  ∧ (∀ (p : Port) (n : Fin 64) (d : Desc) (l : List Byte) (s : State),
      hOp d = 1 →
      s.hostWaits p n.val d = false →
      (s.qp p.n n.val).moving.find? (fun x => x.1 == d) = none →
      hReserved d = false →
      hMisaligned d = false →
      hLen d = 64 →
      l.length = 64 →
      64 ≤ (s.hport p.n).readSize →
      s.notEdge (hDpa d) = none →
      s.cutOff p.n (hDpa d) = false →
      ∃ u, exec (Instr.hostToDevice p n d l true) s = .next u ∧ u.mem.readN (hDpa d) 64 = l ∧ (u.qp p.n n.val).sqHead = (((s.qp p.n n.val).sqHead + 1) % s.sqSize p.n n.val) ∧ (u.qp p.n n.val).doneQ = (s.qp p.n n.val).doneQ ++ [(hCid d, 0, 0, 64, (((s.qp p.n n.val).sqHead + 1) % s.sqSize p.n n.val))])
  ∧ (∀ (p : Port) (n : Fin 64) (d : Desc) (len : Nat) (s : State),
      hOp d = 2 →
      s.hostWaits p n.val d = false →
      (s.qp p.n n.val).moving.find? (fun x => x.1 == d) = none →
      hReserved d = false →
      hMisaligned d = false →
      hLen d ≠ 0 →
      ∃ u, exec (Instr.deviceToHost p n d len true) s = .next u ∧ let x := (s.hostStart p n.val).dmaOut p.n (hDpa d) (reqLines d 0 len (s.hport p.n).payload) 0; (u.qp p.n n.val).sqHead = (((s.qp p.n n.val).sqHead + 1) % s.sqSize p.n n.val) ∧ u.mem = x.2.2.mem ∧ (x.2.1 ≠ [] → .hostWrite p (hAddr d) x.2.1 ∈ u.out)
      ∧ (if x.1.1 = 0 ∧ x.1.2.2 < hLen d then (u.qp p.n n.val).moving = ((s.qp p.n n.val).moving.filter fun y => y.1 != d) ++ [(d, x.1.2.2, (((s.qp p.n n.val).sqHead + 1) % s.sqSize p.n n.val))] ∧ (u.qp p.n n.val).doneQ = (s.qp p.n n.val).doneQ
        else (u.qp p.n n.val).moving = ((s.qp p.n n.val).moving.filter fun y => y.1 != d) ∧ (u.qp p.n n.val).doneQ = (s.qp p.n n.val).doneQ ++ [(hCid d, x.1.1, x.1.2.1, x.1.2.2, (((s.qp p.n n.val).sqHead + 1) % s.sqSize p.n n.val))]))
  ∧ (∀ (p : Port) (n : Fin 64) (d : Desc) (len done hd : Nat) (s : State),
      hOp d = 2 →
      (s.qp p.n n.val).moving.find? (fun x => x.1 == d) = some (d, done, hd) →
      s.rst.level = 0 →
      s.rst.steps = false →
      s.portAvail p.n = true →
      hReserved d = false →
      hMisaligned d = false →
      hLen d ≠ 0 →
      ∃ u, exec (Instr.deviceToHost p n d len true) s = .next u ∧ let x := s.dmaOut p.n (hDpa d) (reqLines d done len (s.hport p.n).payload) done; u.mem = x.2.2.mem ∧ (x.2.1 ≠ [] → .hostWrite p (hAddr d + done) x.2.1 ∈ u.out)
      ∧ (if x.1.1 = 0 ∧ x.1.2.2 < hLen d then (u.qp p.n n.val).moving = ((s.qp p.n n.val).moving.filter fun y => y.1 != d) ++ [(d, x.1.2.2, hd)] ∧ (u.qp p.n n.val).doneQ = (s.qp p.n n.val).doneQ
        else (u.qp p.n n.val).moving = ((s.qp p.n n.val).moving.filter fun y => y.1 != d) ∧ (u.qp p.n n.val).doneQ = (s.qp p.n n.val).doneQ ++ [(hCid d, x.1.1, x.1.2.1, x.1.2.2, hd)]))
  ∧ (∀ (p : Port) (n : Fin 64) (d : Desc) (s : State),
      s.shutHeld (hDie d) = false →
      (hOp d = 3 ∨ hOp d = 0 ∨ 4 < hOp d) →
      s.hostWaits p n.val d = false →
      (s.qp p.n n.val).moving.find? (fun x => x.1 == d) = none →
      hReserved d = true →
      ∃ u, exec (Instr.deviceCopy p n d) s = .next u ∧ (u.qp p.n n.val).sqHead = (((s.qp p.n n.val).sqHead + 1) % s.sqSize p.n n.val) ∧ (u.qp p.n n.val).doneQ = (s.qp p.n n.val).doneQ ++ [(hCid d, 1, 0, 0, (((s.qp p.n n.val).sqHead + 1) % s.sqSize p.n n.val))] ∧ u.mem = s.mem)
  ∧ (∀ (p : Port) (n : Fin 64) (d : Desc) (s : State),
      s.shutHeld (hDie d) = false →
      hOp d = 3 →
      s.hostWaits p n.val d = false →
      (s.qp p.n n.val).moving.find? (fun x => x.1 == d) = none →
      hReserved d = false →
      (((s.hostStart p n.val).bCopyCheck d).1 ≠ 0 ∨ (copyOf d).total = 0) →
      ∃ u, exec (Instr.deviceCopy p n d) s = .next u ∧ let e := (s.hostStart p n.val).bCopyCheck d; (u.qp p.n n.val).sqHead = (((s.qp p.n n.val).sqHead + 1) % s.sqSize p.n n.val) ∧ (u.qp p.n n.val).doneQ = (s.qp p.n n.val).doneQ ++ [(hCid d, e.1, e.2.1, e.2.2, (((s.qp p.n n.val).sqHead + 1) % s.sqSize p.n n.val))] ∧ u.mem = s.mem)
  ∧ (∀ (p : Port) (n : Fin 64) (d : Desc) (s : State),
      s.shutHeld (hDie d) = false →
      hOp d = 3 →
      s.hostWaits p n.val d = false →
      (s.qp p.n n.val).moving.find? (fun x => x.1 == d) = none →
      hReserved d = false →
      ((s.hostStart p n.val).bCopyCheck d).1 = 0 →
      (copyOf d).total ≠ 0 →
      ∃ u, exec (Instr.deviceCopy p n d) s = .next u ∧ let x := (s.hostStart p n.val).bCopy (hDie d) (copyOf d) (nextStop (copyOf d).total 0) 64 0; (u.qp p.n n.val).sqHead = (((s.qp p.n n.val).sqHead + 1) % s.sqSize p.n n.val) ∧ u.mem = x.2.mem
      ∧ (if x.1.1 = 0 ∧ x.1.2.2 < (copyOf d).total then (u.qp p.n n.val).moving = ((s.qp p.n n.val).moving.filter fun y => y.1 != d) ++ [(d, x.1.2.2, (((s.qp p.n n.val).sqHead + 1) % s.sqSize p.n n.val))] ∧ (u.qp p.n n.val).doneQ = (s.qp p.n n.val).doneQ
        else (u.qp p.n n.val).moving = ((s.qp p.n n.val).moving.filter fun y => y.1 != d) ∧ (u.qp p.n n.val).doneQ = (s.qp p.n n.val).doneQ ++ [(hCid d, x.1.1, x.1.2.1, x.1.2.2, (((s.qp p.n n.val).sqHead + 1) % s.sqSize p.n n.val))]))
  ∧ (∀ (p : Port) (n : Fin 64) (d : Desc) (done hd : Nat) (s : State),
      s.shutHeld (hDie d) = false →
      hOp d = 3 →
      (s.qp p.n n.val).moving.find? (fun x => x.1 == d) = some (d, done, hd) →
      s.rst.level = 0 →
      s.rst.steps = false →
      s.portAvail p.n = true →
      ∃ u, exec (Instr.deviceCopy p n d) s = .next u ∧ let x := s.bCopy (hDie d) (copyOf d) (nextStop (copyOf d).total done) 64 done; u.mem = x.2.mem
      ∧ (if x.1.1 = 0 ∧ x.1.2.2 < (copyOf d).total then (u.qp p.n n.val).moving = ((s.qp p.n n.val).moving.filter fun y => y.1 != d) ++ [(d, x.1.2.2, hd)] ∧ (u.qp p.n n.val).doneQ = (s.qp p.n n.val).doneQ
        else (u.qp p.n n.val).moving = ((s.qp p.n n.val).moving.filter fun y => y.1 != d) ∧ (u.qp p.n n.val).doneQ = (s.qp p.n n.val).doneQ ++ [(hCid d, x.1.1, x.1.2.1, x.1.2.2, hd)]))
  ∧ (∀ (p : Port) (n : Fin 64) (d : Desc) (s : State),
      s.shutHeld (hDie d) = false →
      (hOp d = 4 ∨ hOp d = 0 ∨ 4 < hOp d) →
      s.hostWaits p n.val d = false →
      (s.qp p.n n.val).moving.find? (fun x => x.1 == d) = none →
      hReserved d = true →
      ∃ u, exec (Instr.deviceGather p n d) s = .next u ∧ (u.qp p.n n.val).sqHead = (((s.qp p.n n.val).sqHead + 1) % s.sqSize p.n n.val) ∧ (u.qp p.n n.val).doneQ = (s.qp p.n n.val).doneQ ++ [(hCid d, 1, 0, 0, (((s.qp p.n n.val).sqHead + 1) % s.sqSize p.n n.val))] ∧ u.mem = s.mem)
  ∧ (∀ (p : Port) (n : Fin 64) (d : Desc) (s : State),
      s.shutHeld (hDie d) = false →
      hOp d = 4 →
      s.hostWaits p n.val d = false →
      (s.qp p.n n.val).moving.find? (fun x => x.1 == d) = none →
      hReserved d = false →
      (((s.hostStart p n.val).bGatherCheck d).1 ≠ 0 ∨ ((gatherOf true d).count * (gatherOf true d).esz) = 0) →
      ∃ u, exec (Instr.deviceGather p n d) s = .next u ∧ let e := (s.hostStart p n.val).bGatherCheck d; (u.qp p.n n.val).sqHead = (((s.qp p.n n.val).sqHead + 1) % s.sqSize p.n n.val) ∧ (u.qp p.n n.val).doneQ = (s.qp p.n n.val).doneQ ++ [(hCid d, e.1, e.2.1, e.2.2, (((s.qp p.n n.val).sqHead + 1) % s.sqSize p.n n.val))] ∧ u.mem = s.mem)
  ∧ (∀ (p : Port) (n : Fin 64) (d : Desc) (s : State),
      s.shutHeld (hDie d) = false →
      hOp d = 4 →
      s.hostWaits p n.val d = false →
      (s.qp p.n n.val).moving.find? (fun x => x.1 == d) = none →
      hReserved d = false →
      ((s.hostStart p n.val).bGatherCheck d).1 = 0 →
      ((gatherOf true d).count * (gatherOf true d).esz) ≠ 0 →
      ∃ u, exec (Instr.deviceGather p n d) s = .next u ∧ let x := (s.hostStart p n.val).bGather (hDie d) (gatherOf true d) (nextStop ((gatherOf true d).count * (gatherOf true d).esz) 0) 64 0; (u.qp p.n n.val).sqHead = (((s.qp p.n n.val).sqHead + 1) % s.sqSize p.n n.val) ∧ u.mem = x.2.mem
      ∧ (if x.1.1 = 0 ∧ x.1.2.2 < ((gatherOf true d).count * (gatherOf true d).esz) then (u.qp p.n n.val).moving = ((s.qp p.n n.val).moving.filter fun y => y.1 != d) ++ [(d, x.1.2.2, (((s.qp p.n n.val).sqHead + 1) % s.sqSize p.n n.val))] ∧ (u.qp p.n n.val).doneQ = (s.qp p.n n.val).doneQ
        else (u.qp p.n n.val).moving = ((s.qp p.n n.val).moving.filter fun y => y.1 != d) ∧ (u.qp p.n n.val).doneQ = (s.qp p.n n.val).doneQ ++ [(hCid d, x.1.1, x.1.2.1, x.1.2.2, (((s.qp p.n n.val).sqHead + 1) % s.sqSize p.n n.val))]))
  ∧ (∀ (p : Port) (n : Fin 64) (d : Desc) (done hd : Nat) (s : State),
      s.shutHeld (hDie d) = false →
      hOp d = 4 →
      (s.qp p.n n.val).moving.find? (fun x => x.1 == d) = some (d, done, hd) →
      s.rst.level = 0 →
      s.rst.steps = false →
      s.portAvail p.n = true →
      ∃ u, exec (Instr.deviceGather p n d) s = .next u ∧ let x := s.bGather (hDie d) (gatherOf true d) (nextStop ((gatherOf true d).count * (gatherOf true d).esz) done) 64 done; u.mem = x.2.mem
      ∧ (if x.1.1 = 0 ∧ x.1.2.2 < ((gatherOf true d).count * (gatherOf true d).esz) then (u.qp p.n n.val).moving = ((s.qp p.n n.val).moving.filter fun y => y.1 != d) ++ [(d, x.1.2.2, hd)] ∧ (u.qp p.n n.val).doneQ = (s.qp p.n n.val).doneQ
        else (u.qp p.n n.val).moving = ((s.qp p.n n.val).moving.filter fun y => y.1 != d) ∧ (u.qp p.n n.val).doneQ = (s.qp p.n n.val).doneQ ++ [(hCid d, x.1.1, x.1.2.1, x.1.2.2, hd)]))
  ∧ (∀ (p : Port) (n : Fin 64) (d : Desc) (len : Nat) (ok : Bool) (s : State),
      (hOp d = 2 ∨ hOp d = 0 ∨ 4 < hOp d) →
      s.hostWaits p n.val d = false →
      (s.qp p.n n.val).moving.find? (fun x => x.1 == d) = none →
      hReserved d = true →
      ∃ u, exec (Instr.deviceToHost p n d len ok) s = .next u ∧ (u.qp p.n n.val).sqHead = (((s.qp p.n n.val).sqHead + 1) % s.sqSize p.n n.val) ∧ (u.qp p.n n.val).doneQ = (s.qp p.n n.val).doneQ ++ [(hCid d, 1, 0, 0, (((s.qp p.n n.val).sqHead + 1) % s.sqSize p.n n.val))] ∧ u.mem = s.mem)
  ∧ (∀ (p : Port) (n : Fin 64) (d : Desc) (len : Nat) (ok : Bool) (s : State),
      hOp d = 2 →
      s.hostWaits p n.val d = false →
      (s.qp p.n n.val).moving.find? (fun x => x.1 == d) = none →
      hReserved d = false →
      hMisaligned d = true →
      ∃ u, exec (Instr.deviceToHost p n d len ok) s = .next u ∧ (u.qp p.n n.val).sqHead = (((s.qp p.n n.val).sqHead + 1) % s.sqSize p.n n.val) ∧ (u.qp p.n n.val).doneQ = (s.qp p.n n.val).doneQ ++ [(hCid d, 7, 0, 0, (((s.qp p.n n.val).sqHead + 1) % s.sqSize p.n n.val))] ∧ u.mem = s.mem)
  ∧ (∀ (p : Port) (n : Fin 64) (d : Desc) (len : Nat) (ok : Bool) (s : State),
      hOp d = 2 →
      s.hostWaits p n.val d = false →
      (s.qp p.n n.val).moving.find? (fun x => x.1 == d) = none →
      hReserved d = false →
      hMisaligned d = false →
      hLen d = 0 →
      ∃ u, exec (Instr.deviceToHost p n d len ok) s = .next u ∧ (u.qp p.n n.val).sqHead = (((s.qp p.n n.val).sqHead + 1) % s.sqSize p.n n.val) ∧ (u.qp p.n n.val).doneQ = (s.qp p.n n.val).doneQ ++ [(hCid d, 0, 0, 0, (((s.qp p.n n.val).sqHead + 1) % s.sqSize p.n n.val))] ∧ u.mem = s.mem)
  ∧ (∀ (p : Port) (n : Fin 64) (d : Desc) (len : Nat) (s : State),
      hOp d = 2 →
      s.hostWaits p n.val d = false →
      (s.qp p.n n.val).moving.find? (fun x => x.1 == d) = none →
      hReserved d = false →
      hMisaligned d = false →
      hLen d ≠ 0 →
      ∃ u, exec (Instr.deviceToHost p n d len false) s = .next u ∧ (u.qp p.n n.val).sqHead = (((s.qp p.n n.val).sqHead + 1) % s.sqSize p.n n.val) ∧ (u.qp p.n n.val).doneQ = (s.qp p.n n.val).doneQ ++ [(hCid d, 3, 0, 0, (((s.qp p.n n.val).sqHead + 1) % s.sqSize p.n n.val))] ∧ u.mem = s.mem)
  ∧ (∀ (p : Port) (n : Fin 64) (d : Desc) (len : Nat) (done hd : Nat) (s : State),
      hOp d = 2 →
      (s.qp p.n n.val).moving.find? (fun x => x.1 == d) = some (d, done, hd) →
      s.rst.level = 0 →
      s.rst.steps = false →
      s.portAvail p.n = true →
      hReserved d = false →
      hMisaligned d = false →
      hLen d ≠ 0 →
      ∃ u, exec (Instr.deviceToHost p n d len false) s = .next u ∧ (u.qp p.n n.val).doneQ = (s.qp p.n n.val).doneQ ++ [(hCid d, 3, 0, done, hd)] ∧ u.mem = s.mem)
  ∧ (∀ (p : Port) (n : Fin 64) (d : Desc) (l : List Byte) (ok : Bool) (s : State),
      (hOp d = 1 ∨ hOp d = 0 ∨ 4 < hOp d) →
      s.hostWaits p n.val d = false →
      (s.qp p.n n.val).moving.find? (fun x => x.1 == d) = none →
      hReserved d = true →
      ∃ u, exec (Instr.hostToDevice p n d l ok) s = .next u ∧ (u.qp p.n n.val).sqHead = (((s.qp p.n n.val).sqHead + 1) % s.sqSize p.n n.val) ∧ (u.qp p.n n.val).doneQ = (s.qp p.n n.val).doneQ ++ [(hCid d, 1, 0, 0, (((s.qp p.n n.val).sqHead + 1) % s.sqSize p.n n.val))] ∧ u.mem = s.mem)
  ∧ (∀ (p : Port) (n : Fin 64) (d : Desc) (l : List Byte) (ok : Bool) (s : State),
      hOp d = 1 →
      s.hostWaits p n.val d = false →
      (s.qp p.n n.val).moving.find? (fun x => x.1 == d) = none →
      hReserved d = false →
      hMisaligned d = true →
      ∃ u, exec (Instr.hostToDevice p n d l ok) s = .next u ∧ (u.qp p.n n.val).sqHead = (((s.qp p.n n.val).sqHead + 1) % s.sqSize p.n n.val) ∧ (u.qp p.n n.val).doneQ = (s.qp p.n n.val).doneQ ++ [(hCid d, 7, 0, 0, (((s.qp p.n n.val).sqHead + 1) % s.sqSize p.n n.val))] ∧ u.mem = s.mem)
  ∧ (∀ (p : Port) (n : Fin 64) (d : Desc) (l : List Byte) (ok : Bool) (s : State),
      hOp d = 1 →
      s.hostWaits p n.val d = false →
      (s.qp p.n n.val).moving.find? (fun x => x.1 == d) = none →
      hReserved d = false →
      hMisaligned d = false →
      hLen d = 0 →
      ∃ u, exec (Instr.hostToDevice p n d l ok) s = .next u ∧ (u.qp p.n n.val).sqHead = (((s.qp p.n n.val).sqHead + 1) % s.sqSize p.n n.val) ∧ (u.qp p.n n.val).doneQ = (s.qp p.n n.val).doneQ ++ [(hCid d, 0, 0, 0, (((s.qp p.n n.val).sqHead + 1) % s.sqSize p.n n.val))] ∧ u.mem = s.mem)
  ∧ (∀ (p : Port) (n : Fin 64) (d : Desc) (l : List Byte) (s : State),
      hOp d = 1 →
      s.hostWaits p n.val d = false →
      (s.qp p.n n.val).moving.find? (fun x => x.1 == d) = none →
      hReserved d = false →
      hMisaligned d = false →
      hLen d ≠ 0 →
      ∃ u, exec (Instr.hostToDevice p n d l false) s = .next u ∧ (u.qp p.n n.val).sqHead = (((s.qp p.n n.val).sqHead + 1) % s.sqSize p.n n.val) ∧ (u.qp p.n n.val).doneQ = (s.qp p.n n.val).doneQ ++ [(hCid d, 3, 0, 0, (((s.qp p.n n.val).sqHead + 1) % s.sqSize p.n n.val))] ∧ u.mem = s.mem)
  ∧ (∀ (p : Port) (n : Fin 64) (d : Desc) (l : List Byte) (done hd : Nat) (s : State),
      hOp d = 1 →
      (s.qp p.n n.val).moving.find? (fun x => x.1 == d) = some (d, done, hd) →
      s.rst.level = 0 →
      s.rst.steps = false →
      s.portAvail p.n = true →
      hReserved d = false →
      hMisaligned d = false →
      hLen d ≠ 0 →
      ∃ u, exec (Instr.hostToDevice p n d l false) s = .next u ∧ (u.qp p.n n.val).doneQ = (s.qp p.n n.val).doneQ ++ [(hCid d, 3, 0, done, hd)] ∧ u.mem = s.mem)
  ∧ (∀ (p : Port) (n : Fin 64) (c st dt pr hd : Nat) (l : List (Nat × Nat × Nat × Nat × Nat)) (s : State),
      (s.qp p.n n.val).doneQ = (c, st, dt, pr, hd) :: l →
      s.cqFull p.n n.val = false →
      s.portAvail p.n = true →
      exec (Instr.hqCompletion p n) s = .next ((s.setQp p.n n.val { (s.qp p.n n.val) with doneQ := l }).cqWrite p.n n.val (c + n.val * 2 ^ 16 + st * 2 ^ 32 + dt * 2 ^ 40 + hd * 2 ^ 48) pr))

/-- CTRL_PORT_SET by the control port names it; TAKE_CTRL succeeds for the other port while the control port is unavailable, else is refused. CLAIM of an unowned bolt, BOLT_RELEASE by its owner and BOLT_TAKE from an unavailable owner change the owner with LAST 1; otherwise the owner stays and LAST is 2. PORT_RESET and FLR clear the port's queue pairs and transaction and keep the other port; FLR keeps the link. PORT_LINK_UP, FLR_COMPLETE and CONFIG_SPACE_WRITE set the port's state: link, power, PCIe options. MCTP_CONTROL and PLDM_REQUEST are answered, the latter by the boot ROM with not-ready and later by the sensors as they stand; the address commands set the endpoint's address. -/
def Obligations.HostPorts : Prop :=
  (∀ (p dst : Port) (s : State),
      s.portOn p.n = true →
      (s.hport p.n).d3hot = false →
      p.n = s.ctrlPort →
      ∃ u, exec (Instr.ctrlPortSet p dst) s = .next u ∧ u.ctrlPort = dst.n ∧ u.regs = s.regs)
  ∧ (∀ (p dst : Port) (s : State),
      s.portOn p.n = true →
      (s.hport p.n).d3hot = false →
      p.n ≠ s.ctrlPort →
      ∃ u, exec (Instr.ctrlPortSet p dst) s = .next u ∧ u.ctrlPort = s.ctrlPort)
  ∧ (∀ (p : Port) (s : State),
      s.portOn p.n = true →
      (s.hport p.n).d3hot = false →
      p.n ≠ s.ctrlPort →
      s.portAvail s.ctrlPort = false →
      ∃ u, exec (Instr.takeCtrl p) s = .next u ∧ u.ctrlPort = p.n ∧ u.regs = s.regs)
  ∧ (∀ (p : Port) (s : State),
      s.portOn p.n = true →
      (s.hport p.n).d3hot = false →
      (p.n = s.ctrlPort ∨ s.portAvail s.ctrlPort = true) →
      ∃ u, exec (Instr.takeCtrl p) s = .next u ∧ u.ctrlPort = s.ctrlPort ∧ u.r4 0 F.HST_CTRL_TAKE_REFUSED = 1)
  ∧ (∀ (p : Port) (b : Fin 12) (s : State),
      s.portOn p.n = true →
      (s.hport p.n).d3hot = false →
      s.owner b.val = none →
      ∃ u, exec (Instr.claim p b) s = .next u ∧ u.owner b.val = some p.n ∧ u.r4 0 (F.HST_BOLT_LAST b.val) = 1 ∧ u.r4 0 (F.HST_BOLT_IEN b.val) = 0 ∧ u.r4 0 (F.HST_BOLT_CQ b.val) = 0 ∧ u.regs = s.regs)
  ∧ (∀ (p : Port) (b : Fin 12) (s : State),
      s.portOn p.n = true →
      (s.hport p.n).d3hot = false →
      s.owner b.val ≠ none →
      ∃ u, exec (Instr.claim p b) s = .next u ∧ u.owner b.val = s.owner b.val ∧ u.r4 0 (F.HST_BOLT_LAST b.val) = 2 ∧ u.regs = s.regs)
  ∧ (∀ (p : Port) (b : Fin 12) (s : State),
      s.portOn p.n = true →
      (s.hport p.n).d3hot = false →
      s.owner b.val = some p.n →
      ∃ u, exec (Instr.boltRelease p b) s = .next u ∧ u.owner b.val = none ∧ u.r4 0 (F.HST_BOLT_LAST b.val) = 1 ∧ u.r4 0 (F.HST_BOLT_IEN b.val) = 0 ∧ u.r4 0 (F.HST_BOLT_CQ b.val) = 0 ∧ u.regs = s.regs)
  ∧ (∀ (p : Port) (b : Fin 12) (s : State),
      s.portOn p.n = true →
      (s.hport p.n).d3hot = false →
      s.owner b.val ≠ some p.n →
      ∃ u, exec (Instr.boltRelease p b) s = .next u ∧ u.owner b.val = s.owner b.val ∧ u.r4 0 (F.HST_BOLT_LAST b.val) = 2 ∧ u.regs = s.regs)
  ∧ (∀ (p : Port) (b : Fin 12) (s : State),
      s.portOn p.n = true →
      (s.hport p.n).d3hot = false →
      s.owner b.val = some (1 - p.n) →
      s.portAvail (1 - p.n) = false →
      ∃ u, exec (Instr.boltTake p b) s = .next u ∧ u.owner b.val = some p.n ∧ u.r4 0 (F.HST_BOLT_LAST b.val) = 1 ∧ u.r4 0 (F.HST_BOLT_IEN b.val) = 0 ∧ u.r4 0 (F.HST_BOLT_CQ b.val) = 0 ∧ u.regs = s.regs)
  ∧ (∀ (p : Port) (b : Fin 12) (s : State),
      s.portOn p.n = true →
      (s.hport p.n).d3hot = false →
      (s.owner b.val ≠ some (1 - p.n) ∨ s.portAvail (1 - p.n) = true) →
      ∃ u, exec (Instr.boltTake p b) s = .next u ∧ u.owner b.val = s.owner b.val ∧ u.r4 0 (F.HST_BOLT_LAST b.val) = 2 ∧ u.regs = s.regs)
  ∧ (∀ (p : Port) (c : PortResetCause) (s : State),
      ∃ u, exec (Instr.portReset p c) s = .next u ∧ u.hport p.n = { HostPort.reset with perst := c == .perst || (s.hport p.n).perst } ∧ (∀ n, n < 64 → u.qp p.n n = QPair.reset) ∧ (u.txn p.n).isOpen = false ∧ u.hport (1 - p.n) = s.hport (1 - p.n)
      ∧ (c = .perst → portPin p ∈ u.pins.low) ∧ u.mem = s.mem)
  ∧ (∀ (p : Port) (s : State),
      (s.hport p.n).linkUp = true →
      ∃ u, exec (Instr.flr p) s = .next u ∧ u.hport p.n = { HostPort.reset with linkUp := true, width := (s.hport p.n).width, rate := (s.hport p.n).rate, flr := true } ∧ (∀ n, n < 64 → u.qp p.n n = QPair.reset) ∧ (u.txn p.n).isOpen = false ∧ u.hport (1 - p.n) = s.hport (1 - p.n) ∧ u.mem = s.mem)
  ∧ (∀ (p : Port) (s : State),
      (s.hport p.n).flr = true →
      exec (Instr.flrComplete p) s = .next (s.setHport p.n { s.hport p.n with flr := false }))
  ∧ (∀ (p : Port) (k : PcieLink) (s : State),
      s.romRuns = true →
      ∃ u, exec (Instr.portLinkUp p k) s = .next u ∧ (u.hport p.n).linkUp = true ∧ (u.hport p.n).width = 2 ^ k.width.val ∧ (u.hport p.n).rate = k.rate.val ∧ (u.hport p.n).perst = false ∧ u.pins.low = s.pins.low.filter (· != portPin p) ∧ u.regs = s.regs)
  ∧ (∀ (p : Port) (d m : Bool) (c : PcieConfig) (s : State),
      (s.hport p.n).linkUp = true →
      ∃ u, exec (Instr.configSpaceWrite p d m c) s = .next u ∧ u.hport p.n = { s.hport p.n with d3hot := d, busMaster := m, payload := 128 * 2 ^ c.payload.val, readSize := 128 * 2 ^ c.readSize.val, ecrcGen := c.ecrcGen, ecrcCheck := c.ecrcCheck, msixOn := c.msixOn, msixMask := c.msixMask, severity := c.severity, aerMask := c.aerMask, aer := (s.hport p.n).aer &&& ~~~c.aerClear } ∧ u.regs = s.regs ∧ u.mem = s.mem)
  ∧ (∀ (l : List Byte) (s : State),
      s.romRuns = true →
      exec (Instr.mctpControl l) s = .next (s.send (.mgmtAnswer ((List.range (Config.mgmtAnswerLen l [])).map (Config.mgmtAnswer l [])))))
  ∧ (∀ (l : List Byte) (s : State),
      s.romRuns = true →
      s.hkc.imageRuns = true →
      exec (Instr.pldmRequest l) s = .next (s.send (.mgmtAnswer ((List.range (Config.mgmtAnswerLen l s.sensors)).map (Config.mgmtAnswer l s.sensors)))))
  ∧ (∀ (l : List Byte) (s : State),
      s.romRuns = true →
      s.hkc.imageRuns = false →
      exec (Instr.pldmRequest l) s = .next (s.send (.mgmtAnswer [l.getD 0 0 &&& 0x1F, l.getD 1 0, l.getD 2 0, 0x04])))
  ∧ (∀ (a : BitVec 7) (s : State),
      s.romRuns = true →
      exec (Instr.dynamicAddressAssign a) s = .next ({ s with mgmt := { s.mgmt with i3c := some a } }))
  ∧ (∀ (a : BitVec 7) (s : State),
      s.romRuns = true →
      s.mgmt.i3c = none →
      exec (Instr.addressResolution a) s = .next ({ s with mgmt := { s.mgmt with smbus := a } }))

/-- BRINGUP_POWER starts the boot ROM; PCIE brings up the ports that trained and goes on past step 3 where the HKC image is already staged; FUSES sets the fuse fields and counts the start, or stops without B0; CLOCKS sets ACLK and, but after a core reset, locks the tape, or stops without the reference; TRAIN ends self-refresh and, after a core reset, goes on to step 9; MEMTEST leaves every exposed byte zero and every other byte as it was; FITTING substitutes failed arrays and stops with no site left; READY sets READY. After each ended step MBX_STATUS shows the next, halted where STOP_BEFORE names it. BOOT_CONTINUE lets a halted sequence go on, past step 3 where the image has been staged meanwhile. -/
def Obligations.BringupSteps : Prop :=
  (∀ (s : State),
      s.hkc.powered = false →
      s.pins.v48 = true →
      s.rst.level = 0 →
      s.stepNo = 0 →
      ∃ u, exec (Instr.bringupPower) s = .next u ∧ u.hkc.powered = true ∧ u.r .mbx (F.MBX_STEP_RESULT 1) = 1 ∧ u.stepNo = 2 ∧ u.r .mbx F.MBX_STATUS_STATE = (if s.r .mbx F.MBX_BOOT_CFG_STOP_BEFORE = 2 then 4 else 0))
  ∧ (∀ (a b : Option PcieLink) (s : State),
      s.onStep 2 = true →
      ((a.isSome && !s.pins.low.contains .perst0) || (b.isSome && !s.pins.low.contains .perst1)) = true →
      s.imageFull 1 = false →
      ∃ u, exec (Instr.bringupPcie a b) s = .next u ∧ (∀ l ∈ a, .perst0 ∉ s.pins.low → (u.hport 0).linkUp = true ∧ (u.hport 0).width = 2 ^ l.width.val ∧ (u.hport 0).rate = l.rate.val)
      ∧ (∀ l ∈ b, .perst1 ∉ s.pins.low → (u.hport 1).linkUp = true ∧ (u.hport 1).width = 2 ^ l.width.val ∧ (u.hport 1).rate = l.rate.val)
      ∧ u.stepNo = 3 ∧ u.r .mbx F.MBX_STATUS_STATE = (if s.r .mbx F.MBX_BOOT_CFG_STOP_BEFORE = 3 then 4 else 1) ∧ u.r .mbx (F.MBX_STEP_RESULT 2) = (if (a.isSome && !s.pins.low.contains .perst0) && (b.isSome && !s.pins.low.contains .perst1) then 1 else 2))
  ∧ (∀ (a b : Option PcieLink) (s : State),
      s.onStep 2 = true →
      ((a.isSome && !s.pins.low.contains .perst0) || (b.isSome && !s.pins.low.contains .perst1)) = true →
      s.imageFull 1 = true →
      s.r .mbx F.MBX_BOOT_CFG_STOP_BEFORE ≠ 3 →
      ∃ u, exec (Instr.bringupPcie a b) s = .next u ∧ u.stepNo = 4 ∧ u.r .mbx F.MBX_STATUS_STATE = (if s.r .mbx F.MBX_BOOT_CFG_STOP_BEFORE = 4 then 4 else 0) ∧ u.r .mbx (F.MBX_STEP_RESULT 3) = 1 ∧ u.r .mbx (F.MBX_STEP_RESULT 2) = (if (a.isSome && !s.pins.low.contains .perst0) && (b.isSome && !s.pins.low.contains .perst1) then 1 else 2))
  ∧ (∀ (s : State),
      s.onStep 5 = true →
      s.fuses.badDie.contains 0 = false →
      ∃ u, exec (Instr.bringupFuses) s = .next u ∧ u.b .id F.ID_STATUS_FUSES = true ∧ u.store.starts = s.store.starts + 1 ∧ u.r2 .id F.ID_SERIAL_LO_SERIAL F.ID_SERIAL_HI_SERIAL = s.fuses.serial % 2 ^ 64
      ∧ u.stepNo = 6 ∧ u.r .mbx F.MBX_STATUS_STATE = (if s.r .mbx F.MBX_BOOT_CFG_STOP_BEFORE = 6 then 4 else 0))
  ∧ (∀ (s : State),
      s.onStep 5 = true →
      s.fuses.badDie.contains 0 = true →
      ∃ u, exec (Instr.bringupFuses) s = .next u ∧ u.r .mbx F.MBX_STATUS_STATE = 2 ∧ u.r .mbx F.MBX_STATUS_CODE = 0x10 ∧ u.r .mbx (F.MBX_STEP_RESULT 5) = 3)
  ∧ (∀ (l : List (Fin 12)) (s : State),
      s.onStep 6 = true →
      ∃ u, exec (Instr.bringupClocks true l) s = .next u ∧ u.r .id F.ID_W2_ACLK_SET = aclkOf (s.r .mbx F.MBX_BOOT_CFG_ACLK_REQ) (s.r .id F.ID_W2_ACLK_MAX) % 2 ^ F.ID_W2_ACLK_SET.w
      ∧ (s.coreStart = false → u.b .tape F.TAPE_STATUS_LOCKED = true) ∧ u.stepNo = 7 ∧ u.r .mbx F.MBX_STATUS_STATE = (if s.r .mbx F.MBX_BOOT_CFG_STOP_BEFORE = 7 then 4 else 0))
  ∧ (∀ (l : List (Fin 12)) (s : State),
      s.onStep 6 = true →
      ∃ u, exec (Instr.bringupClocks false l) s = .next u ∧ u.r .mbx F.MBX_STATUS_STATE = 2 ∧ u.r .mbx F.MBX_STATUS_CODE = 0x11 ∧ u.r .mbx (F.MBX_STEP_RESULT 6) = 3)
  ∧ (∀ (eyes : List PinEye) (l : List ItemFail) (s : State),
      s.onStep 7 = true →
      ∃ u, exec (Instr.bringupTrain eyes l) s = .next u ∧ u.rst.steps = false ∧ u.therm.selfRefresh = false ∧ u.mem = s.mem
      ∧ u.stepNo = (if s.coreStart then 9 else 8) ∧ u.r .mbx F.MBX_STATUS_STATE = (if s.r .mbx F.MBX_BOOT_CFG_STOP_BEFORE = (if s.coreStart then 9 else 8) then 4 else 0))
  ∧ (∀ (rows banks : List (ChanRef × Nat)) (pins : List (ChanRef × Fin 72 × Fin 8)) (l : List ItemFail) (s : State),
      s.onStep 8 = true →
      ∃ u, exec (Instr.bringupMemtest rows banks pins l) s = .next u ∧ u.hkc.memtested = true ∧ u.stepNo = 9 ∧ u.r .mbx F.MBX_STATUS_STATE = (if s.r .mbx F.MBX_BOOT_CFG_STOP_BEFORE = 9 then 4 else s.stepState 9) ∧ ∀ a, u.mem.read a = if exposedAt a then 0 else s.mem.read a)
  ∧ (∀ (s : State),
      s.onStep 10 = true →
      s.coreStart = false →
      (List.range 12).any (fun k => (List.range 160).any fun i => s.siteLeft (k * 160 + i)) = true →
      ∃ u, exec (Instr.bringupFitting [] []) s = .next u ∧ u.stepNo = 11 ∧ u.r .mbx F.MBX_STATUS_STATE = (if s.r .mbx F.MBX_BOOT_CFG_STOP_BEFORE = 11 then 4 else 0) ∧ u.r .mbx (F.MBX_STEP_RESULT 10) = 1)
  ∧ (∀ (t : Site) (a : Fin 17) (s : State),
      s.onStep 10 = true →
      s.coreStart = false →
      s.siteLeft t.g = true →
      ∃ u, exec (Instr.bringupFitting [(t, a)] []) s = .next u ∧ u.r (.tile t.g) F.ARR_SUBST_FAILED = a.val ∧ u.r (.tile t.g) F.ARR_SUBST_SPARE_FOR = (if a.val < 16 then a.val else 0x1F) ∧ u.stepNo = 11)
  ∧ (∀ (l : List ItemFail) (s : State),
      s.onStep 10 = true →
      s.coreStart = false →
      (List.range 12).any (fun k => (List.range 160).any fun i => s.siteLeft (k * 160 + i)) = false →
      ∃ u, exec (Instr.bringupFitting [] l) s = .next u ∧ u.r .mbx F.MBX_STATUS_STATE = 2 ∧ u.r .mbx F.MBX_STATUS_CODE = 0x30 ∧ u.r .mbx (F.MBX_STEP_RESULT 10) = 3)
  ∧ (∀ (s : State),
      s.onStep 11 = true →
      ∃ u, exec (Instr.bringupReady) s = .next u ∧ u.b .id F.ID_STATUS_READY = true ∧ u.r .mbx F.MBX_STATUS_STATE = 3 ∧ u.rst.wasReady = true ∧ u.mem = s.mem)
  ∧ (∀ (q : Req) (s : State),
      s.grants q .mbx F.MBX_BOOT_CFG_STOP_BEFORE.off = true →
      s.r .mbx F.MBX_STATUS_STATE = 4 →
      (s.stepNo ≠ 3 ∨ s.imageFull 1 = false) →
      ∃ u, exec (Instr.bootContinue q) s = .next u ∧ u.r .mbx F.MBX_STATUS_STATE = s.stepState s.stepNo ∧ u.r .mbx F.MBX_BOOT_CFG_STOP_BEFORE = 0 ∧ u.stepNo = s.stepNo)
  ∧ (∀ (q : Req) (s : State),
      s.grants q .mbx F.MBX_BOOT_CFG_STOP_BEFORE.off = true →
      s.r .mbx F.MBX_STATUS_STATE = 4 →
      s.stepNo = 3 →
      s.imageFull 1 = true →
      s.rst.level = 0 →
      s.rst.want = 0 →
      ∃ u, exec (Instr.bootContinue q) s = .next u ∧ u.stepNo = 4 ∧ u.r .mbx F.MBX_STATUS_STATE = 0 ∧ u.r .mbx (F.MBX_STEP_RESULT 3) = 1)

/-- SEGMENT_POST of an acceptable segment makes the mailbox busy with it; a refused one leaves it idle; a post while busy sets OVERRUN. SEGMENT_STAGED and an accepted FW_SEGMENT leave the segment's bytes in its staging area; a type 1 frame is discarded. IMAGE_VERIFY starts the HKC image, or takes the tile image, when every check passes; else its result is failed and its segments are gone. BRINGUP_TILEFW and, for a verified image, TILEFW_UNICAST_ROUND mark the tiles that matched, keep those that did not, and end step 9 when none is left or after three rounds; after a core reset a tile matches where its slice's copy is of the image last verified. -/
def Obligations.Firmware : Prop :=
  (∀ (q : Req) (val : Word) (s : State),
      s.grants q .mbx F.MBX_SEG_CTRL_POST.off = true →
      s.b .mbx F.MBX_STATUS_SEG_BUSY = false →
      (s.segRefused (fget F.MBX_SEG_CTRL_TYPE val) (fget F.MBX_SEG_CTRL_SEQ val) (s.r .mbx F.MBX_SEG_CRC_CRC) (s.mem.readN (segWinAt 0) 4096)).1 = false →
      ∃ u, exec (Instr.segmentPost q val) s = .next u ∧ u.b .mbx F.MBX_STATUS_SEG_BUSY = true ∧ u.hkc.staging = some ((fget F.MBX_SEG_CTRL_TYPE val), (fget F.MBX_SEG_CTRL_SEQ val)) ∧ u.mem = s.mem)
  ∧ (∀ (q : Req) (val : Word) (s : State),
      s.grants q .mbx F.MBX_SEG_CTRL_POST.off = true →
      s.b .mbx F.MBX_STATUS_SEG_BUSY = false →
      (s.segRefused (fget F.MBX_SEG_CTRL_TYPE val) (fget F.MBX_SEG_CTRL_SEQ val) (s.r .mbx F.MBX_SEG_CRC_CRC) (s.mem.readN (segWinAt 0) 4096)).1 = true →
      ∃ u, exec (Instr.segmentPost q val) s = .next u ∧ u.b .mbx F.MBX_STATUS_SEG_BUSY = false ∧ u.hkc.staging = s.hkc.staging ∧ u.mem = s.mem)
  ∧ (∀ (q : Req) (val : Word) (s : State),
      s.grants q .mbx F.MBX_SEG_CTRL_POST.off = true →
      s.b .mbx F.MBX_STATUS_SEG_BUSY = true →
      ∃ u, exec (Instr.segmentPost q val) s = .next u ∧ u.b .mbx F.MBX_SEG_STAT_OVERRUN = true ∧ u.hkc.staging = s.hkc.staging ∧ u.mem = s.mem)
  ∧ (∀ (ty n : Nat) (s : State),
      s.hkc.staging = some (ty, n) →
      ∃ u, exec (Instr.segmentStaged) s = .next u ∧ u.hkc.staging = none ∧ u.b .mbx F.MBX_STATUS_SEG_BUSY = false ∧ u.mem.readN (stageAt ty n) 4096 = (s.mem.readN (segWinAt 0) 4096) ∧ n ∈ u.staged ty)
  ∧ (∀ (d : MgmtDest) (ty n : Nat) (crc : Word) (l : List Byte) (s : State),
      (Instr.fwSegment d ty n crc l).wf = true →
      (s.route d 0x05 (leBytes 2 ty ++ leBytes 2 n ++ leBytes 4 crc.toNat ++ l)).1 = true →
      s.b (.fab 0) F.FAB_MGMT_CFG_FW_EN = true →
      ty ≠ 1 →
      ((s.route d 0x05 (leBytes 2 ty ++ leBytes 2 n ++ leBytes 4 crc.toNat ++ l)).2.stagePosted.segRefused ty n crc.toNat l).1 = false →
      ∃ u, exec (Instr.fwSegment d ty n crc l) s = .next u ∧ u.mem.readN (stageAt ty n) 4096 = l ∧ n ∈ u.staged ty ∧ u.hkc.verified2 = (if ty = 2 then false else (s.stagePosted).hkc.verified2))
  ∧ (∀ (d : MgmtDest) (n : Nat) (crc : Word) (l : List Byte) (s : State),
      (Instr.fwSegment d 1 n crc l).wf = true →
      exec (Instr.fwSegment d 1 n crc l) s = .next ((s.route d 0x05 (leBytes 2 1 ++ leBytes 2 n ++ leBytes 4 crc.toNat ++ l)).2))
  ∧ (∀ (s : State),
      s.onStep 4 = true →
      s.imageFull 1 = true →
      s.hkc.imageRuns = false →
      ∃ u, exec (Instr.imageVerify) s = .next u ∧ (s.verifyCode 1 = 0 → u.hkc.imageRuns = true ∧ u.b .mbx F.MBX_STATUS_ROM = false ∧ u.r .mbx F.MBX_VERIFY_HKC_RESULT = 1 ∧ u.stepNo = 5 ∧ u.pins.fault = false)
      ∧ (s.verifyCode 1 ≠ 0 → u.hkc.imageRuns = false ∧ u.r .mbx F.MBX_VERIFY_HKC_RESULT = 2 ∧ u.stepNo = 3 ∧ u.hkc.staged1 = []
        ∧ u.r .mbx F.MBX_STATUS_CODE = s.verifyCode 1))
  ∧ (∀ (s : State),
      s.rst.level = 0 →
      s.hkc.imageRuns = true →
      s.hkc.verified2 = false →
      s.imageFull 2 = true →
      ∃ u, exec (Instr.imageVerify) s = .next u ∧ (s.verifyCode 2 = 0 → u.hkc.verified2 = true ∧ u.r .mbx F.MBX_VERIFY_TILE_RESULT = 1 ∧ u.hkc.fwMeas = s.imageMeas 2)
      ∧ (s.verifyCode 2 ≠ 0 → u.hkc.verified2 = false ∧ u.r .mbx F.MBX_VERIFY_TILE_RESULT = 2 ∧ u.hkc.staged2 = [] ∧ u.r .mbx F.MBX_STATUS_CODE = s.verifyCode 2))
  ∧ (∀ (s : State),
      s.onStep 9 = true →
      s.hkc.shortFw = [] →
      s.coreStart = false →
      s.hkc.verified2 = true →
      ∃ u, exec (Instr.bringupTilefw [] []) s = .next u ∧ u.stepNo = 10 ∧ u.hkc.shortFw = [] ∧ ∀ g, g < 1920 → s.siteLeft g = true → (u.tile g).fwMatch = true)
  ∧ (∀ (s : State),
      s.onStep 9 = true →
      s.hkc.shortFw = [] →
      s.coreStart = true →
      (List.range 1920).all (fun g => !s.siteLeft g || s.hkc.copies.find g == some s.hkc.fwDigest) = true →
      ∃ u, exec (Instr.bringupTilefw [] []) s = .next u ∧ u.stepNo = 10 ∧ u.hkc.shortFw = [] ∧ ∀ g, g < 1920 → s.siteLeft g = true → (u.tile g).fwMatch = true)
  ∧ (∀ (t : Site) (short : List (Site × BitVec 32)) (differ : List Site) (m : BitVec 32) (s : State),
      s.onStep 9 = true →
      s.hkc.shortFw = [] →
      (s.coreStart || s.hkc.verified2) = true →
      s.siteLeft t.g = true →
      ((short.find? fun y => y.1.g == t.g).map (·.2)) = some m →
      m ≠ 0xFFFFFFFF →
      ∃ u, exec (Instr.bringupTilefw short differ) s = .next u ∧ (t.g, m) ∈ u.hkc.shortFw ∧ (u.tile t.g).fwMatch = false ∧ (u.tile t.g).fwBitmap = m ∧ u.stepNo = 9)
  ∧ (∀ (s : State),
      s.onStep 9 = true →
      s.hkc.shortFw ≠ [] →
      s.hkc.verified2 = true →
      ∃ u, exec (Instr.tilefwUnicastRound [] []) s = .next u ∧ u.stepNo = 10 ∧ u.hkc.shortFw = [] ∧ ∀ e ∈ s.hkc.shortFw, (u.tile e.1).fwMatch = true)
  ∧ (∀ (t : Site) (short : List (Site × BitVec 32)) (differ : List Site) (m : BitVec 32) (s : State),
      s.onStep 9 = true →
      s.hkc.verified2 = true →
      s.hkc.shortFw.any (fun e => e.1 == t.g) = true →
      ((short.find? fun y => y.1.g == t.g).map (·.2)) = some m →
      m ≠ 0xFFFFFFFF →
      ∃ u, exec (Instr.tilefwUnicastRound short differ) s = .next u ∧ (u.tile t.g).fwMatch = false ∧ (s.hkc.rounds + 1 < 3 → (t.g, m) ∈ u.hkc.shortFw ∧ u.stepNo = 9 ∧ u.hkc.rounds = s.hkc.rounds + 1)
      ∧ (3 ≤ s.hkc.rounds + 1 → u.stepNo = 10 ∧ t.g ∈ u.hkc.siteFail))

/-- With the HKC image running, no command in progress and the write in scope: ATTEST with a leaf left writes the next leaf to the other slot and ends with status 0, without one with 3; READ_IDKEY puts the identity key into the response window; CLEAR_ALT sets ACTION 4 of one entry of the alteration record, or of all, and ends with 2 beyond the record; a reserved command ends with 1. While CMD_BUSY is set a command sets OVERRUN and does nothing else. -/
def Obligations.MailboxCommands : Prop :=
  (∀ (q : Req) (a : Bool) (i n : Nat) (s : State),
      s.grants q .mbx F.MBX_CMD_CMD.off = true →
      s.hkc.imageRuns = true →
      s.hkc.cmd = none →
      s.b .mbx F.MBX_STATUS_CMD_BUSY = false →
      s.store.leaf = some (a, i, n) →
      i < 65536 →
      ∃ u, exec (Instr.attest q) s = .next u ∧ u.r .mbx F.MBX_CMD_STAT_STATUS = 0 ∧ u.b .mbx F.MBX_CMD_STAT_DONE = true ∧ (if a then u.store.leafB = some (i + 1, n + 1) ∧ u.store.leafA = s.store.leafA else u.store.leafA = some (i + 1, n + 1) ∧ u.store.leafB = s.store.leafB))
  ∧ (∀ (q : Req) (s : State),
      s.grants q .mbx F.MBX_CMD_CMD.off = true →
      s.hkc.imageRuns = true →
      s.hkc.cmd = none →
      s.b .mbx F.MBX_STATUS_CMD_BUSY = false →
      s.store.leaf.all (fun x => decide (65536 ≤ x.2.1)) = true →
      ∃ u, exec (Instr.attest q) s = .next u ∧ u.r .mbx F.MBX_CMD_STAT_STATUS = 3 ∧ u.b .mbx F.MBX_CMD_STAT_DONE = true ∧ u.store.leafA = s.store.leafA ∧ u.store.leafB = s.store.leafB ∧ u.mem = s.mem)
  ∧ (∀ (q : Req) (s : State),
      s.grants q .mbx F.MBX_CMD_CMD.off = true →
      s.hkc.imageRuns = true →
      s.hkc.cmd = none →
      s.b .mbx F.MBX_STATUS_CMD_BUSY = false →
      ∃ u, exec (Instr.readIdkey q) s = .next u ∧ u.r .mbx F.MBX_CMD_STAT_STATUS = 0 ∧ u.b .mbx F.MBX_CMD_STAT_DONE = true ∧ u.mem.readN (respAt 0) 2888 = (List.range 2888).map Config.identityKey ∧ u.store = s.store)
  ∧ (∀ (q : Req) (s : State),
      s.grants q .mbx F.MBX_CMD_CMD.off = true →
      s.hkc.imageRuns = true →
      s.hkc.cmd = none →
      s.b .mbx F.MBX_STATUS_CMD_BUSY = false →
      s.r .mbx (F.MBX_ARG_ARG 0) % 2 ^ 16 = 0xFFFF →
      ∃ u, exec (Instr.clearAlt q) s = .next u ∧ u.r .mbx F.MBX_CMD_STAT_STATUS = 0 ∧ u.b .mbx F.MBX_CMD_STAT_DONE = true ∧ u.store.alts = s.store.alts.map fun e => { e with action := 4 })
  ∧ (∀ (q : Req) (s : State),
      s.grants q .mbx F.MBX_CMD_CMD.off = true →
      s.hkc.imageRuns = true →
      s.hkc.cmd = none →
      s.b .mbx F.MBX_STATUS_CMD_BUSY = false →
      s.r .mbx (F.MBX_ARG_ARG 0) % 2 ^ 16 < 512 →
      ∃ u, exec (Instr.clearAlt q) s = .next u ∧ u.r .mbx F.MBX_CMD_STAT_STATUS = 0 ∧ u.b .mbx F.MBX_CMD_STAT_DONE = true ∧ u.store.alts = s.store.alts.modify (s.r .mbx (F.MBX_ARG_ARG 0) % 2 ^ 16) fun e => { e with action := 4 })
  ∧ (∀ (q : Req) (s : State),
      s.grants q .mbx F.MBX_CMD_CMD.off = true →
      s.hkc.imageRuns = true →
      s.hkc.cmd = none →
      s.b .mbx F.MBX_STATUS_CMD_BUSY = false →
      512 ≤ s.r .mbx (F.MBX_ARG_ARG 0) % 2 ^ 16 →
      s.r .mbx (F.MBX_ARG_ARG 0) % 2 ^ 16 ≠ 0xFFFF →
      ∃ u, exec (Instr.clearAlt q) s = .next u ∧ u.r .mbx F.MBX_CMD_STAT_STATUS = 2 ∧ u.b .mbx F.MBX_CMD_STAT_DONE = true ∧ u.store = s.store)
  ∧ (∀ (q : Req) (c : Byte) (s : State),
      (Instr.mbxReservedCmd q c).wf = true →
      s.grants q .mbx F.MBX_CMD_CMD.off = true →
      s.hkc.imageRuns = true →
      s.hkc.cmd = none →
      s.b .mbx F.MBX_STATUS_CMD_BUSY = false →
      ∃ u, exec (Instr.mbxReservedCmd q c) s = .next u ∧ u.r .mbx F.MBX_CMD_STAT_STATUS = 1 ∧ u.b .mbx F.MBX_CMD_STAT_DONE = true ∧ u.mem = s.mem)
  ∧ (∀ (q : Req) (s : State),
      s.grants q .mbx F.MBX_CMD_CMD.off = true →
      s.hkc.imageRuns = true →
      s.b .mbx F.MBX_STATUS_CMD_BUSY = true →
      ∃ u, exec (Instr.attest q) s = .next u ∧ u.b .mbx F.MBX_CMD_STAT_OVERRUN = true ∧ u.hkc.cmd = s.hkc.cmd ∧ u.store = s.store ∧ u.mem = s.mem)
  ∧ (∀ (q : Req) (s : State),
      s.grants q .mbx F.MBX_CMD_CMD.off = true →
      s.hkc.imageRuns = true →
      s.b .mbx F.MBX_STATUS_CMD_BUSY = true →
      ∃ u, exec (Instr.readIdkey q) s = .next u ∧ u.b .mbx F.MBX_CMD_STAT_OVERRUN = true ∧ u.hkc.cmd = s.hkc.cmd ∧ u.store = s.store ∧ u.mem = s.mem)
  ∧ (∀ (q : Req) (s : State),
      s.grants q .mbx F.MBX_CMD_CMD.off = true →
      s.hkc.imageRuns = true →
      s.b .mbx F.MBX_STATUS_CMD_BUSY = true →
      ∃ u, exec (Instr.clearAlt q) s = .next u ∧ u.b .mbx F.MBX_CMD_STAT_OVERRUN = true ∧ u.hkc.cmd = s.hkc.cmd ∧ u.store = s.store ∧ u.mem = s.mem)
  ∧ (∀ (q : Req) (c : Byte) (s : State),
      (Instr.mbxReservedCmd q c).wf = true →
      s.grants q .mbx F.MBX_CMD_CMD.off = true →
      s.hkc.imageRuns = true →
      s.b .mbx F.MBX_STATUS_CMD_BUSY = true →
      ∃ u, exec (Instr.mbxReservedCmd q c) s = .next u ∧ u.b .mbx F.MBX_CMD_STAT_OVERRUN = true ∧ u.hkc.cmd = s.hkc.cmd ∧ u.store = s.store ∧ u.mem = s.mem)

/-- RST_CMD with the key word of a level, a RESET_FRAME taken at its destination with RESET_EN set, a low pin of 1.2 µs or more, the watchdog while the image runs, and the loss of a base-die PLL each ask for their level: merged with a request or a reset that is as deep. A core reset before the first READY is asked for as a system reset with ESCALATED. A frame that is not enabled sets BAD_RESET; a pin low for less than 1 µs only counts in RST_GLITCH. No tile, bolt or byte of memory changes at the request. -/
def Obligations.ResetRequests : Prop :=
  (∀ (q : Req) (s : State),
      s.grants q .rst F.RST_CMD_KEY.off = true →
      ∃ u, exec (Instr.rstCmdPor q) s = .next u ∧ u.rst.want = (if s.rst.level ≠ 0 ∧ s.rst.level ≤ 1 then s.rst.want else if s.rst.want = 0 then 1 else min s.rst.want 1) ∧ u.b .rst F.RST_CAUSE_CMD = true ∧ u.tape = s.tape ∧ u.mem = s.mem ∧ u.tiles = s.tiles ∧ u.bolts = s.bolts)
  ∧ (∀ (q : Req) (s : State),
      s.grants q .rst F.RST_CMD_KEY.off = true →
      ∃ u, exec (Instr.rstCmdSystem q) s = .next u ∧ u.rst.want = (if s.rst.level ≠ 0 ∧ s.rst.level ≤ 2 then s.rst.want else if s.rst.want = 0 then 2 else min s.rst.want 2) ∧ u.b .rst F.RST_CAUSE_CMD = true ∧ u.tape = s.tape ∧ u.mem = s.mem ∧ u.tiles = s.tiles ∧ u.bolts = s.bolts)
  ∧ (∀ (q : Req) (s : State),
      s.grants q .rst F.RST_CMD_KEY.off = true →
      ∃ u, exec (Instr.rstCmdCore q) s = .next u ∧ u.rst.want = (if s.rst.level ≠ 0 ∧ s.rst.level ≤ (if s.rst.wasReady then 3 else 2) then s.rst.want else if s.rst.want = 0 then (if s.rst.wasReady then 3 else 2) else min s.rst.want (if s.rst.wasReady then 3 else 2)) ∧ u.b .rst F.RST_CAUSE_CMD = true ∧ (s.rst.wasReady = false → u.b .rst F.RST_CAUSE_ESCALATED = true) ∧ u.tape = s.tape ∧ u.mem = s.mem ∧ u.tiles = s.tiles ∧ u.bolts = s.bolts)
  ∧ (∀ (d : MgmtDest) (n : Nat) (s : State),
      (s.route d 0x03 (leBytes 4 (BitVec.ofNat 32 (0x5EA30000 + n)).toNat)).1 = true →
      s.b (.fab 0) F.FAB_MGMT_CFG_RESET_EN = true →
      n = 2 ∨ n = 3 ∧ s.rst.wasReady = true →
      ∃ u, exec (Instr.resetFrame d (BitVec.ofNat 32 (0x5EA30000 + n))) s = .next u ∧ u.rst.want = (if s.rst.level ≠ 0 ∧ s.rst.level ≤ n then s.rst.want else if s.rst.want = 0 then n else min s.rst.want n) ∧ u.b .rst F.RST_CAUSE_FABRIC = true ∧ u.b (.fab 0) F.FAB_MGMT_STAT_RESET_RCVD = true ∧ u.tape = s.tape ∧ u.mem = s.mem ∧ u.tiles = s.tiles ∧ u.bolts = s.bolts)
  ∧ (∀ (d : MgmtDest) (key : Word) (s : State),
      (s.route d 0x03 (leBytes 4 key.toNat)).1 = true →
      s.b (.fab 0) F.FAB_MGMT_CFG_RESET_EN = false →
      ∃ u, exec (Instr.resetFrame d key) s = .next u ∧ u.b (.fab 0) F.FAB_MGMT_STAT_BAD_RESET = true ∧ u.rst = s.rst ∧ u.tape = s.tape ∧ u.mem = s.mem ∧ u.tiles = s.tiles ∧ u.bolts = s.bolts)
  ∧ (∀ (ns : Nat) (b : Bool) (s : State),
      1200 ≤ ns ∨ 1000 ≤ ns ∧ b = true →
      ∃ u, exec (Instr.porNLow ns b) s = .next u ∧ u.rst.want = (if s.rst.level ≠ 0 ∧ s.rst.level ≤ 1 then s.rst.want else if s.rst.want = 0 then 1 else min s.rst.want 1) ∧ u.b .rst F.RST_CAUSE_POWER = true ∧ .por ∈ u.pins.low ∧ u.tape = s.tape ∧ u.mem = s.mem ∧ u.tiles = s.tiles ∧ u.bolts = s.bolts)
  ∧ (∀ (ns : Nat) (b : Bool) (s : State),
      1200 ≤ ns ∨ 1000 ≤ ns ∧ b = true →
      ∃ u, exec (Instr.sysrstNLow ns b) s = .next u ∧ u.rst.want = (if s.rst.level ≠ 0 ∧ s.rst.level ≤ 2 then s.rst.want else if s.rst.want = 0 then 2 else min s.rst.want 2) ∧ u.b .rst F.RST_CAUSE_SYSRST = true ∧ .sysrst ∈ u.pins.low ∧ u.tape = s.tape ∧ u.mem = s.mem ∧ u.tiles = s.tiles ∧ u.bolts = s.bolts)
  ∧ (∀ (ns : Nat) (s : State),
      ns < 1000 →
      ∃ u, exec (Instr.porNLow ns true) s = .next u ∧ u.r .rst F.RST_GLITCH_POR = min 255 (s.r .rst F.RST_GLITCH_POR + 1) ∧ u.rst = s.rst ∧ u.pins = s.pins ∧ u.tape = s.tape ∧ u.mem = s.mem ∧ u.tiles = s.tiles ∧ u.bolts = s.bolts)
  ∧ (∀ (ns : Nat) (s : State),
      ns < 1000 →
      ∃ u, exec (Instr.sysrstNLow ns true) s = .next u ∧ u.r .rst F.RST_GLITCH_SYS = min 255 (s.r .rst F.RST_GLITCH_SYS + 1) ∧ u.rst = s.rst ∧ u.pins = s.pins ∧ u.tape = s.tape ∧ u.mem = s.mem ∧ u.tiles = s.tiles ∧ u.bolts = s.bolts)
  ∧ (∀ (p : ResetPin) (s : State),
      p ∈ s.pins.low →
      ∃ u, exec (Instr.resetPinHigh p) s = .next u ∧ p ∉ u.pins.low ∧ (∀ x, x ≠ p → (x ∈ u.pins.low ↔ x ∈ s.pins.low)) ∧ (p = .perst0 → (u.hport 0).perst = false) ∧ (p = .perst1 → (u.hport 1).perst = false)
      ∧ u.regs = s.regs ∧ u.tape = s.tape ∧ u.mem = s.mem ∧ u.tiles = s.tiles ∧ u.bolts = s.bolts)
  ∧ (∀ (s : State),
      s.hkc.imageRuns = true →
      ∃ u, exec (Instr.hkcWatchdog) s = .next u ∧ u.rst.want = (if s.rst.level ≠ 0 ∧ s.rst.level ≤ 2 then s.rst.want else if s.rst.want = 0 then 2 else min s.rst.want 2) ∧ u.b .rst F.RST_CAUSE_WATCHDOG = true ∧ u.tape = s.tape ∧ u.mem = s.mem ∧ u.tiles = s.tiles ∧ u.bolts = s.bolts)
  ∧ (∀ (d : Fin 4) (s : State),
      bit (s.r .rst F.RST_CLK_STATUS_DIE_LOCK) d.val = true →
      ∃ u, exec (Instr.basePllLockLoss d) s = .next u ∧ u.rst.want = (if s.rst.level ≠ 0 ∧ s.rst.level ≤ 2 then s.rst.want else if s.rst.want = 0 then 2 else min s.rst.want 2) ∧ u.b .rst F.RST_CLK_STATUS_LOCK_LOST = true ∧ bit (u.r .rst F.RST_CLK_STATUS_DIE_LOCK) d.val = false ∧ u.b .err F.ERR_STATUS_FATAL = true ∧ u.tape = s.tape ∧ u.mem = s.mem ∧ u.tiles = s.tiles ∧ u.bolts = s.bolts)
  ∧ (∀ (s : State),
      s.b .rst F.RST_CLK_STATUS_FABREF = true →
      ∃ u, exec (Instr.fabrefLoss) s = .next u ∧ u.pins.fabref = false ∧ u.b .rst F.RST_CLK_STATUS_FABREF = false ∧ u.b .rst F.RST_CLK_STATUS_HOLDOVER = true ∧ u.b .err F.ERR_STATUS_FATAL = true ∧ u.rst = s.rst ∧ u.tape = s.tape ∧ u.mem = s.mem ∧ u.tiles = s.tiles ∧ u.bolts = s.bolts)
  ∧ (∀ (s : State),
      s.pins.fabref = false →
      s.b .rst F.RST_CLK_STATUS_HOLDOVER = true →
      ∃ u, exec (Instr.fabrefReturn) s = .next u ∧ u.pins.fabref = true ∧ u.b .rst F.RST_CLK_STATUS_FABREF = true ∧ u.b .rst F.RST_CLK_STATUS_HOLDOVER = false ∧ u.rst = s.rst ∧ u.tape = s.tape ∧ u.mem = s.mem ∧ u.tiles = s.tiles ∧ u.bolts = s.bolts)

/-- POWER_ON_RESET, SYSTEM_RESET and CORE_RESET, asked for and with no record-store pulse: level and sources stand in RST_CAUSE; tiles, bolts and stitches are as after reset; a power-on or system reset also clears memory and BAR4, and only a power-on reset the tape; a core reset keeps BAR4, the error log, and every byte of DRAM. With a pulse the reset waits, DEFERRED set, until RESET_DEFERRED. RESET_RELEASE enters step 2 after a system reset, step 6 after a core reset, 10 µs after its start at the earliest, and saves the tape count. Loss of V48 resets at once; its return releases. -/
def Obligations.ResetLevels : Prop :=
  (∀ (s : State),
      s.rst.want = 1 →
      s.store.pulse ≤ s.tape →
      ∃ u, exec (Instr.powerOnReset) s = .next u ∧ u.rst.level = 1 ∧ u.rst.want = 0 ∧ u.r .rst F.RST_CAUSE_LEVEL = 1 ∧ (∀ c, c < 11 → s.rst.causes.testBit c = true → u.b .rst ⟨F.RST_CAUSE_POWER.off, c, 1⟩ = true) ∧ u.tape = 0 ∧ u.mem = [] ∧ u.bar4 = State.reset.bar4 ∧ u.store = { s.store with pulse := 0 } ∧ u.fuses = s.fuses
      ∧ (∀ g, u.tile g = Tile.reset) ∧ (∀ b, u.bolt b = Bolt.reset) ∧ u.stitched = [])
  ∧ (∀ (s : State),
      s.rst.want = 2 →
      s.store.pulse ≤ s.tape →
      ∃ u, exec (Instr.systemReset) s = .next u ∧ u.rst.level = 2 ∧ u.rst.want = 0 ∧ u.r .rst F.RST_CAUSE_LEVEL = 2 ∧ (∀ c, c < 11 → s.rst.causes.testBit c = true → u.b .rst ⟨F.RST_CAUSE_POWER.off, c, 1⟩ = true) ∧ u.tape = s.tape ∧ u.mem = [] ∧ u.bar4 = State.reset.bar4 ∧ u.store = s.store ∧ u.fuses = s.fuses ∧ u.jtag = s.jtag
      ∧ (∀ g, u.tile g = Tile.reset) ∧ (∀ b, u.bolt b = Bolt.reset) ∧ u.stitched = [])
  ∧ (∀ (s : State),
      s.rst.want = 3 →
      s.store.pulse ≤ s.tape →
      ∃ u, exec (Instr.coreReset) s = .next u ∧ u.rst.level = 3 ∧ u.rst.want = 0 ∧ u.r .rst F.RST_CAUSE_LEVEL = 3 ∧ (∀ c, c < 11 → s.rst.causes.testBit c = true → u.b .rst ⟨F.RST_CAUSE_POWER.off, c, 1⟩ = true) ∧ u.tape = s.tape ∧ u.bar4 = s.bar4 ∧ u.log = s.log ∧ u.store = s.store ∧ u.fuses = s.fuses ∧ u.hports = s.hports
      ∧ u.therm.selfRefresh = true ∧ (∀ a, u.mem.read a = if (0x200000000000 ≤ a ∧ a < 0x500000000000 ∨ 0x600000000000 ≤ a) then 0 else s.mem.read a)
      ∧ (∀ g, u.tile g = Tile.reset) ∧ (∀ b, u.bolt b = Bolt.reset) ∧ u.stitched = [])
  ∧ (∀ (s : State),
      s.rst.want = 2 →
      s.tape < s.store.pulse →
      ∃ u, exec (Instr.systemReset) s = .next u ∧ u.rst.waits = true ∧ u.rst.want = 2 ∧ u.rst.level = s.rst.level ∧ u.b .rst F.RST_CAUSE_DEFERRED = true ∧ u.tape = s.tape ∧ u.mem = s.mem ∧ u.tiles = s.tiles ∧ u.bolts = s.bolts)
  ∧ (∀ (s : State),
      s.rst.waits = true →
      s.rst.want = 2 →
      ∃ u, exec (Instr.resetDeferred) s = .next u ∧ u.rst.level = 2 ∧ u.rst.want = 0 ∧ u.r .rst F.RST_CAUSE_LEVEL = 2 ∧ (∀ c, c < 11 → s.rst.causes.testBit c = true → u.b .rst ⟨F.RST_CAUSE_POWER.off, c, 1⟩ = true) ∧ u.tape = max s.tape s.store.pulse ∧ u.mem = [] ∧ u.store = s.store ∧ (∀ g, u.tile g = Tile.reset) ∧ (∀ b, u.bolt b = Bolt.reset) ∧ u.stitched = [])
  ∧ (∀ (s : State),
      s.mayRelease = true →
      s.rst.level = 1 →
      ∃ u, exec (Instr.resetRelease) s = .next u ∧ u.rst.level = 0 ∧ u.tape = s.tape ∧ u.r2 .rst F.RST_LAST_TAPE_LO_TAPE F.RST_LAST_TAPE_HI_TAPE = s.tape % 2 ^ 64 ∧ u.mem = s.mem ∧ u.tiles = s.tiles)
  ∧ (∀ (s : State),
      s.mayRelease = true →
      s.rst.level = 2 →
      ∃ u, exec (Instr.resetRelease) s = .next u ∧ u.rst.level = 0 ∧ u.tape = max s.tape (s.rst.since + 10000) ∧ u.r2 .rst F.RST_LAST_TAPE_LO_TAPE F.RST_LAST_TAPE_HI_TAPE = u.tape % 2 ^ 64
      ∧ u.word (Blk.tape.base + F.TAPE_SYNC_CFG_OUT_EN.off) = 0 ∧ u.stepNo = 2 ∧ u.r .mbx F.MBX_STATUS_STATE = (if s.r .mbx F.MBX_BOOT_CFG_STOP_BEFORE = 2 then 4 else s.stepState 2) ∧ u.mem = s.mem ∧ u.tiles = s.tiles)
  ∧ (∀ (s : State),
      s.mayRelease = true →
      s.rst.level = 3 →
      ∃ u, exec (Instr.resetRelease) s = .next u ∧ u.rst.level = 0 ∧ u.rst.steps = true ∧ u.tape = max s.tape (s.rst.since + 10000) ∧ u.r2 .rst F.RST_LAST_TAPE_LO_TAPE F.RST_LAST_TAPE_HI_TAPE = u.tape % 2 ^ 64
      ∧ u.stepNo = 6 ∧ u.r .mbx F.MBX_STATUS_STATE = (if s.r .mbx F.MBX_BOOT_CFG_STOP_BEFORE = 6 then 4 else s.stepState 6) ∧ u.mem = s.mem ∧ u.tiles = s.tiles)
  ∧ (∀ (s : State),
      s.pins.v48 = true →
      ∃ u, exec (Instr.v48Loss) s = .next u ∧ u.rst.level = 1 ∧ u.pins.v48 = false ∧ u.tape = 0 ∧ u.mem = [] ∧ u.r .rst F.RST_CAUSE_LEVEL = 1 ∧ u.b .rst F.RST_CAUSE_POWER = true ∧ u.store = { s.store with pulse := 0 } ∧ u.out = s.out
      ∧ (∀ g, u.tile g = Tile.reset) ∧ (∀ b, u.bolt b = Bolt.reset) ∧ u.stitched = [])
  ∧ (∀ (s : State),
      s.pins.v48 = true →
      ∃ u, exec (Instr.v48Overvoltage) s = .next u ∧ u.rst.level = 1 ∧ u.pins.v48 = false ∧ u.tape = 0 ∧ u.mem = [] ∧ u.r .rst F.RST_CAUSE_LEVEL = 1 ∧ u.b .rst F.RST_CAUSE_POWER = true ∧ u.store = { s.store with pulse := 0 } ∧ u.out = s.out
      ∧ (∀ g, u.tile g = Tile.reset) ∧ (∀ b, u.bolt b = Bolt.reset) ∧ u.stitched = [])
  ∧ (∀ (s : State),
      s.pins.v48 = false →
      s.rst.level = 1 →
      s.rst.want = 0 →
      s.rst.heldShut = false →
      .por ∉ s.pins.low →
      .sysrst ∉ s.pins.low →
      ∃ u, exec (Instr.v48Return) s = .next u ∧ u.pins.v48 = true ∧ u.rst.level = 0 ∧ u.tape = s.tape ∧ u.mem = s.mem ∧ u.store = s.store)

/-- RST_BLK_CTRL.RESET with the write in scope and no block reset in progress: an unknown selection is refused (3), an unavailable block (4), a tile of a running stack (2), a block with open commands where FORCE is clear (1), and nothing else changes; otherwise the tile is halted with an empty queue and its memories kept; in an unforced reset of a drained tile that no SEND is under way to, no other tile changes and of its own state only its epoch, firmware marks, attribution and trace hem stay. BLOCK_RESET_DONE ends it 1 µs after its start. A reply with another epoch than its block's adds one to RST_STALE_COUNT. The loss of a stack's PLL clears its lock bit and is fatal. -/
def Obligations.BlockResets : Prop :=
  (∀ (q : Req) (s : State),
      s.grants q .rst F.RST_BLK_CTRL_RESET.off = true →
      s.rst.blk = none →
      s.blkSel = none →
      ∃ u, exec (Instr.blockReset q) s = .next u ∧ u.b .rst F.RST_BLK_STAT_REFUSED = true ∧ u.r .rst F.RST_BLK_STAT_REASON = 3 ∧ u.rst = s.rst ∧ u.tape = s.tape ∧ u.mem = s.mem ∧ u.tiles = s.tiles ∧ u.bolts = s.bolts)
  ∧ (∀ (q : Req) (b : BlockRef) (s : State),
      s.grants q .rst F.RST_BLK_CTRL_RESET.off = true →
      s.rst.blk = none →
      s.blkSel = some b →
      s.blkUnavailable b = true →
      ∃ u, exec (Instr.blockReset q) s = .next u ∧ u.b .rst F.RST_BLK_STAT_REFUSED = true ∧ u.r .rst F.RST_BLK_STAT_REASON = 4 ∧ u.rst = s.rst ∧ u.tape = s.tape ∧ u.mem = s.mem ∧ u.tiles = s.tiles ∧ u.bolts = s.bolts)
  ∧ (∀ (q : Req) (t : Site) (s : State),
      s.grants q .rst F.RST_BLK_CTRL_RESET.off = true →
      s.rst.blk = none →
      s.blkSel = some (.tile t) →
      s.blkUnavailable (.tile t) = false →
      s.stackRuns t.stack.val = true →
      ∃ u, exec (Instr.blockReset q) s = .next u ∧ u.b .rst F.RST_BLK_STAT_REFUSED = true ∧ u.r .rst F.RST_BLK_STAT_REASON = 2 ∧ u.rst = s.rst ∧ u.tape = s.tape ∧ u.mem = s.mem ∧ u.tiles = s.tiles ∧ u.bolts = s.bolts)
  ∧ (∀ (q : Req) (t : Site) (s : State),
      s.grants q .rst F.RST_BLK_CTRL_RESET.off = true →
      s.rst.blk = none →
      s.blkSel = some (.tile t) →
      s.blkUnavailable (.tile t) = false →
      s.stackRuns t.stack.val = false →
      (s.tile t.g).drained = false →
      ∃ u, exec (Instr.blockReset q) s = .next u ∧ u.b .rst F.RST_BLK_STAT_REFUSED = true ∧ u.r .rst F.RST_BLK_STAT_REASON = 1 ∧ u.rst = s.rst ∧ u.tape = s.tape ∧ u.mem = s.mem ∧ u.tiles = s.tiles ∧ u.bolts = s.bolts)
  ∧ (∀ (q : Req) (t : Site) (s : State),
      s.grants q .rst F.RST_BLK_CTRL_RESET.off = true →
      s.rst.blk = none →
      s.blkSel = some (.tile t) →
      s.blkUnavailable (.tile t) = false →
      s.stackRuns t.stack.val = false →
      (s.tile t.g).drained = true →
      s.sendersTo (fun g => g == t.g) = [] →
      ∃ u, exec (Instr.blockReset q) s = .next u ∧ (u.tile t.g).untraced = ({ Tile.reset with epoch := ((s.tile t.g).epoch + 1) % 256, attr := (s.tile t.g).attr, fwBitmap := (s.tile t.g).fwBitmap, fwMatch := (s.tile t.g).fwMatch, iramHost := (s.tile t.g).iramHost, code := (s.tile t.g).code, headAt := s.tape } : Tile).untraced
      ∧ (∀ g, g ≠ t.g → u.tile g = s.tile g) ∧ u.b .rst F.RST_BLK_STAT_BUSY = true ∧ u.b .rst F.RST_BLK_STAT_FORCED = false ∧ u.rst.blk = some (.tile t, s.tape) ∧ u.mem = s.mem ∧ u.tape = s.tape)
  ∧ (∀ (q : Req) (t : Site) (s : State),
      s.grants q .rst F.RST_BLK_CTRL_RESET.off = true →
      s.rst.blk = none →
      s.blkSel = some (.tile t) →
      s.blkUnavailable (.tile t) = false →
      s.stackRuns t.stack.val = false →
      ∃ u, exec (Instr.blockResetForced q) s = .next u ∧ (u.tile t.g).mode = .halted ∧ (u.tile t.g).queue = [] ∧ (u.tile t.g).flight = [] ∧ (u.tile t.g).epoch = ((s.tile t.g).epoch + 1) % 256
      ∧ u.b .rst F.RST_BLK_STAT_BUSY = true ∧ u.b .rst F.RST_BLK_STAT_FORCED = true ∧ u.rst.blk = some (.tile t, s.tape) ∧ u.tape = s.tape)
  ∧ (∀ (b : BlockRef) (x : Nat) (s : State),
      s.rst.blk = some (b, x) →
      ∃ u, exec (Instr.blockResetDone) s = .next u ∧ u.rst.blk = none ∧ u.b .rst F.RST_BLK_STAT_BUSY = false ∧ u.b .rst F.RST_BLK_STAT_DONE = true ∧ u.tape = max s.tape (x + 1000) ∧ u.mem = s.mem ∧ u.tiles = s.tiles)
  ∧ (∀ (b : BlockRef) (e : Byte) (s : State),
      e.toNat ≠ s.epochOf b →
      ∃ u, exec (Instr.staleReply b e) s = .next u ∧ u.r .rst F.RST_STALE_COUNT_COUNT = min (2 ^ 32 - 1) (s.r .rst F.RST_STALE_COUNT_COUNT + 1) ∧ u.rst = s.rst ∧ u.tape = s.tape ∧ u.mem = s.mem ∧ u.tiles = s.tiles ∧ u.bolts = s.bolts)
  ∧ (∀ (b : BlockRef) (e : Byte) (s : State),
      e.toNat = s.epochOf b →
      exec (Instr.staleReply b e) s = .next (s))
  ∧ (∀ (k : Fin 12) (s : State),
      bit (s.r .rst F.RST_CLK_STATUS_STACK_LOCK) k.val = true →
      ∃ u, exec (Instr.stackPllLockLoss k) s = .next u ∧ bit (u.r .rst F.RST_CLK_STATUS_STACK_LOCK) k.val = false ∧ u.b .rst F.RST_CLK_STATUS_LOCK_LOST = true ∧ u.b .err F.ERR_STATUS_FATAL = true
      ∧ (∀ i, i < 160 → (s.mtile (k.val * 160 + i)).isSome = true → (u.tile (k.val * 160 + i)).faulted = true) ∧ u.mem = s.mem ∧ u.rst = { s.rst with gated := Nat.lor s.rst.gated (2 ^ k.val) })

/-- By a requester with the CFG write in scope: BASTE opens its transaction, or sets NESTED where one is open; UNPICK and STITCH without one set NO_TXN; UNPICK discards what is staged with RESULT 3. A staged write replaces an earlier one to its register, takes a further entry, or sets FULL beyond 256. STITCH of writes that pass the checks makes them wait for T, the first multiple of 256 at or after 1,000 cycles on; one that fails leaves no write, RESULT 2. A lone write to an unpaired field waits in the same way. TXN_APPLY applies the next one, which writes no ring of a running bolt, whole on T with RESULT 1, or refuses it with code 6 where a block is in reset; with none stitched it does nothing. No register changes before T. -/
def Obligations.Transactions : Prop :=
  (∀ (q : Req) (s : State),
      s.grants q .cfg F.CFG_TXN_BEGIN_BASTE.off = true →
      (s.txn q.n).isOpen = false →
      ∃ u, exec (Instr.baste q) s = .next u ∧ (u.txn q.n).isOpen = true ∧ (u.txn q.n).baste = s.tape ∧ (u.txn q.n).staged = [] ∧ (u.txn q.n).result = (s.txn q.n).result ∧ u.regs = s.regs ∧ u.mem = s.mem ∧ u.tiles = s.tiles ∧ u.bolts = s.bolts ∧ u.tape = s.tape ∧ (∀ x, x ≠ q.n → u.txn x = s.txn x))
  ∧ (∀ (q : Req) (s : State),
      s.grants q .cfg F.CFG_TXN_BEGIN_BASTE.off = true →
      (s.txn q.n).isOpen = true →
      s.tape < (s.txn q.n).baste + 10000000 →
      ∃ u, exec (Instr.baste q) s = .next u ∧ u.txn q.n = (s.txn q.n).setErr 0 ∧ u.regs = s.regs ∧ u.mem = s.mem ∧ u.tiles = s.tiles ∧ u.bolts = s.bolts ∧ u.tape = s.tape ∧ (∀ x, x ≠ q.n → u.txn x = s.txn x))
  ∧ (∀ (q : Req) (s : State),
      s.grants q .cfg F.CFG_TXN_ROLLBACK_UNPICK.off = true →
      (s.txn q.n).isOpen = true →
      s.tape < (s.txn q.n).baste + 10000000 →
      ∃ u, exec (Instr.unpick q) s = .next u ∧ (u.txn q.n).isOpen = false ∧ (u.txn q.n).staged = [] ∧ (u.txn q.n).result = 3 ∧ u.regs = s.regs ∧ u.mem = s.mem ∧ u.tiles = s.tiles ∧ u.bolts = s.bolts ∧ u.tape = s.tape ∧ (∀ x, x ≠ q.n → u.txn x = s.txn x))
  ∧ (∀ (q : Req) (s : State),
      s.grants q .cfg F.CFG_TXN_ROLLBACK_UNPICK.off = true →
      (s.txn q.n).isOpen = false →
      ∃ u, exec (Instr.unpick q) s = .next u ∧ u.txn q.n = (s.txn q.n).setErr 1 ∧ u.regs = s.regs ∧ u.mem = s.mem ∧ u.tiles = s.tiles ∧ u.bolts = s.bolts ∧ u.tape = s.tape ∧ (∀ x, x ≠ q.n → u.txn x = s.txn x))
  ∧ (∀ (q : Req) (k : Blk) (r : RegSpec) (i off : Nat) (val : Word) (s : State),
      (Instr.txnStageWrite q off val).wf = true →
      s.reaches q = true →
      regAt off = some (k, r, i) →
      r.isRwt = true →
      s.inReset k = false →
      s.barred q .bus k (off - k.base) = false →
      s.mayWrite q (s.scopeOf k (off - k.base)) = true →
      (s.txn q.n).isOpen = true →
      s.tape < (s.txn q.n).baste + 10000000 →
      ∃ u, exec (Instr.txnStageWrite q off val) s = .next u ∧ ((s.txn q.n).staged.any (fun w => w.1 == off) = true → (u.txn q.n).staged = (s.txn q.n).staged.map fun w => if w.1 == off then (off, val) else w)
      ∧ ((s.txn q.n).staged.any (fun w => w.1 == off) = false → (s.txn q.n).staged.length < 256 → (u.txn q.n).staged = (s.txn q.n).staged ++ [(off, val)])
      ∧ ((s.txn q.n).staged.any (fun w => w.1 == off) = false → 256 ≤ (s.txn q.n).staged.length → (u.txn q.n).full = true ∧ (u.txn q.n).staged = (s.txn q.n).staged)
      ∧ (u.txn q.n).isOpen = true ∧ u.regs = s.regs ∧ u.mem = s.mem ∧ u.tiles = s.tiles ∧ u.bolts = s.bolts ∧ u.tape = s.tape ∧ (∀ x, x ≠ q.n → u.txn x = s.txn x))
  ∧ (∀ (q : Req) (s : State),
      s.grants q .cfg F.CFG_TXN_COMMIT_STITCH.off = true →
      (s.txn q.n).isOpen = false →
      ∃ u, exec (Instr.stitch q) s = .next u ∧ u.txn q.n = (s.txn q.n).setErr 1 ∧ u.stitched = s.stitched ∧ u.regs = s.regs ∧ u.mem = s.mem ∧ u.tiles = s.tiles ∧ u.bolts = s.bolts ∧ u.tape = s.tape ∧ (∀ x, x ≠ q.n → u.txn x = s.txn x))
  ∧ (∀ (q : Req) (s : State),
      s.grants q .cfg F.CFG_TXN_COMMIT_STITCH.off = true →
      (s.txn q.n).isOpen = true →
      s.tape < (s.txn q.n).baste + 10000000 →
      (s.txn q.n).full = true →
      ∃ u, exec (Instr.stitch q) s = .next u ∧ (u.txn q.n).isOpen = false ∧ (u.txn q.n).staged = [] ∧ (u.txn q.n).result = 2 ∧ (u.txn q.n).code = 1 ∧ u.stitched = s.stitched ∧ u.regs = s.regs ∧ u.mem = s.mem ∧ u.tiles = s.tiles ∧ u.bolts = s.bolts ∧ u.tape = s.tape ∧ (∀ x, x ≠ q.n → u.txn x = s.txn x))
  ∧ (∀ (q : Req) (x : Stitched) (s : State),
      s.grants q .cfg F.CFG_TXN_COMMIT_STITCH.off = true →
      (s.txn q.n).isOpen = true →
      s.tape < (s.txn q.n).baste + 10000000 →
      (s.txn q.n).full = false →
      (s.txnCheck q false (s.txn q.n).staged).toOption = some x →
      ∃ u, exec (Instr.stitch q) s = .next u ∧ (u.txn q.n).isOpen = false ∧ (u.txn q.n).waiting = true ∧ u.stitched = s.stitched ++ [x] ∧ x.writes = (s.txn q.n).staged
      ∧ (x.bolt = none → s.tape + 1000 ≤ x.at_ ∧ x.at_ < s.tape + 1256 ∧ x.at_ % 256 = 0) ∧ u.regs = s.regs ∧ u.mem = s.mem ∧ u.tiles = s.tiles ∧ u.bolts = s.bolts ∧ u.tape = s.tape ∧ (∀ x, x ≠ q.n → u.txn x = s.txn x))
  ∧ (∀ (q : Req) (s : State),
      s.grants q .cfg F.CFG_TXN_COMMIT_STITCH.off = true →
      (s.txn q.n).isOpen = true →
      s.tape < (s.txn q.n).baste + 10000000 →
      (s.txn q.n).full = false →
      (s.txnCheck q false (s.txn q.n).staged).toOption = none →
      ∃ u, exec (Instr.stitch q) s = .next u ∧ (u.txn q.n).isOpen = false ∧ (u.txn q.n).staged = [] ∧ (u.txn q.n).result = 2 ∧ u.stitched = s.stitched ∧ u.mem = s.mem ∧ u.tiles = s.tiles ∧ u.tape = s.tape)
  ∧ (∀ (q : Req) (k : Blk) (r : RegSpec) (i off : Nat) (val : Word) (x : Stitched) (s : State),
      (Instr.rwtLoneWrite q off val).wf = true →
      s.reaches q = true →
      regAt off = some (k, r, i) →
      r.isRwt = true →
      s.inReset k = false →
      s.barred q .bus k (off - k.base) = false →
      s.mayWrite q (s.scopeOf k (off - k.base)) = true →
      r.paired = false →
      (s.txn q.n).isOpen = false →
      (s.txnCheck q true [(off, val)]).toOption = some x →
      ∃ u, exec (Instr.rwtLoneWrite q off val) s = .next u ∧ u.stitched = s.stitched ++ [x] ∧ x.writes = [(off, val)] ∧ x.lone = true ∧ u.txn q.n = s.txn q.n ∧ u.regs = s.regs ∧ u.mem = s.mem ∧ u.tiles = s.tiles ∧ u.bolts = s.bolts ∧ u.tape = s.tape ∧ (∀ x, x ≠ q.n → u.txn x = s.txn x))
  ∧ (∀ (q : Req) (k : Blk) (r : RegSpec) (i off : Nat) (val : Word) (s : State),
      (Instr.rwtLoneWrite q off val).wf = true →
      s.reaches q = true →
      regAt off = some (k, r, i) →
      r.isRwt = true →
      s.inReset k = false →
      s.barred q .bus k (off - k.base) = false →
      s.mayWrite q (s.scopeOf k (off - k.base)) = true →
      r.paired = false →
      (s.txn q.n).isOpen = false →
      (s.txnCheck q true [(off, val)]).toOption = none →
      ∃ u, exec (Instr.rwtLoneWrite q off val) s = .next u ∧ (u.txn q.n).result = 2 ∧ (u.txn q.n).isOpen = false ∧ u.stitched = s.stitched ∧ u.mem = s.mem ∧ u.tiles = s.tiles ∧ u.tape = s.tape)
  ∧ (∀ (s : State),
      s.nextApply = none →
      exec (Instr.txnApply) s = .next (s))
  ∧ (∀ (x : Stitched) (t : Nat) (s : State),
      s.nextApply = some (x, t) →
      (x.writes.any fun w => s.nowBarred x.req w.1) = false →
      (x.writes.any fun w => (locate w.1).any s.inReset) = false →
      ∃ u, exec (Instr.txnApply) s = .next u ∧ u.tape = max s.tape t ∧ u.stitched = s.stitched.erase x ∧ (u.txn x.req.n).result = 1 ∧ (u.txn x.req.n).apply = t ∧ u.mem = s.mem ∧ u.tiles = s.tiles
      ∧ ((x.writes.all fun w => match locate w.1 with
          | some (.edge _) => false
          | some (.fab _) => false
          | _ => true) = true → u.regs = (s.withWrites x.writes).regs))
  ∧ (∀ (x : Stitched) (t : Nat) (s : State),
      s.nextApply = some (x, t) →
      (x.writes.any fun w => s.nowBarred x.req w.1) = false →
      (x.writes.any fun w => (locate w.1).any s.inReset) = true →
      ∃ u, exec (Instr.txnApply) s = .next u ∧ u.tape = max s.tape t ∧ u.stitched = s.stitched.erase x ∧ (u.txn x.req.n).result = 2 ∧ (u.txn x.req.n).code = 6 ∧ u.regs = s.regs ∧ u.mem = s.mem ∧ u.tiles = s.tiles)

/-- TXN_TIMEOUT of an open transaction: it is closed at tape baste + 10,000,000 with what was staged discarded and RESULT 4, and no register, tile or other transaction changes; a STITCH at or after that cycle by a requester that may write the register closes it in the same way, sets NO_TXN and stitches nothing. -/
def Obligations.TxnTimeout : Prop :=
  (∀ (q : Req) (s : State),
      (s.txn q.n).isOpen = true →
      s.tape ≤ (s.txn q.n).baste + 10000000 →
      ∃ u, exec (Instr.txnTimeout q) s = .next u ∧ (u.txn q.n).isOpen = false ∧ (u.txn q.n).staged = [] ∧ (u.txn q.n).result = 4 ∧ u.tape = (s.txn q.n).baste + 10000000
      ∧ u.regs = s.regs ∧ u.mem = s.mem ∧ u.tiles = s.tiles ∧ u.stitched = s.stitched ∧ (∀ x, x ≠ q.n → u.txn x = s.txn x))
  ∧ (∀ (q : Req) (s : State),
      s.grants q .cfg F.CFG_TXN_COMMIT_STITCH.off = true →
      (s.txn q.n).isOpen = true →
      (s.txn q.n).baste + 10000000 ≤ s.tape →
      ∃ u, exec (Instr.stitch q) s = .next u ∧ (u.txn q.n).isOpen = false ∧ (u.txn q.n).staged = [] ∧ (u.txn q.n).result = 4 ∧ (u.txn q.n).err = (s.txn q.n).err ||| 2 ∧ u.stitched = s.stitched ∧ u.regs = s.regs ∧ (∀ x, x ≠ q.n → u.txn x = s.txn x))

/-- Where STK_BOLT_OP of the bolt's stacks asks for it and it has not begun: BOLT_RESET leaves the bolt without a pattern, its tiles halted with empty queues, its bobbins zero; BOLT_REPAIR halts the assigned tiles and sets the lock bits of its stacks' PLLs; BOLT_REPLACE_FW halts the assigned tiles, marks those that matched and not those that did not. STK_BOLT_OP_STAT shows running. BOLT_OP_DONE clears STK_BOLT_OP and shows done, or failed with code 4. -/
def Obligations.BoltOperations : Prop :=
  (∀ (b : Fin 12) (s : State),
      s.opAsked b.val 1 = true →
      ∃ u, exec (Instr.boltReset b) s = .next u ∧ u.bolt b.val = { Bolt.reset with op := 1, retire := (s.bolt b.val).retire } ∧ u.b .rst F.RST_BLK_STAT_FORCED = true ∧ u.patState b.val = 0 ∧ (∀ k, k ∈ s.boltStacks b.val → u.r (.stk k) F.STK_BOLT_OP_STAT_STATE = 1)
      ∧ (∀ g, g ∈ s.boltSites b.val → (u.tile g).mode = .halted ∧ (u.tile g).queue = [] ∧ (u.tile g).flight = [])
      ∧ (∀ g o, g ∈ s.boltSites b.val → o < bobbinBytes → u.mem.read (bobbinAt g o) = 0))
  ∧ (∀ (b : Fin 12) (l : List Site) (a : List (Site × Fin 17)) (s : State),
      s.opAsked b.val 2 = true →
      ∃ u, exec (Instr.boltRepair b l a) s = .next u ∧ (u.bolt b.val).op = 2 ∧ (u.bolt b.val).opBad = false ∧ (∀ k, k ∈ s.boltStacks b.val → u.r (.stk k) F.STK_BOLT_OP_STAT_STATE = 1)
      ∧ (∀ g, g ∈ s.boltSites b.val → s.ltile g ≠ 0xFE → (u.tile g).mode = .halted ∧ (u.tile g).queue = [] ∧ (u.tile g).flight = [])
      ∧ (∀ k, k ∈ s.boltStacks b.val → bit (u.r .rst F.RST_CLK_STATUS_STACK_LOCK) k = true))
  ∧ (∀ (b : Fin 12) (l : List Site) (s : State),
      s.opAsked b.val 3 = true →
      ∃ u, exec (Instr.boltReplaceFw b l) s = .next u ∧ (u.bolt b.val).op = 3 ∧ (∀ k, k ∈ s.boltStacks b.val → u.r (.stk k) F.STK_BOLT_OP_STAT_STATE = 1)
      ∧ (∀ g, g ∈ s.boltSites b.val → s.ltile g ≠ 0xFE → (u.tile g).run = false ∧ ((u.tile g).fwMatch = true ↔ ∀ t ∈ l, t.g ≠ g)))
  ∧ (∀ (b : Fin 12) (s : State),
      (s.bolt b.val).op ≠ 0 →
      ∃ u, exec (Instr.boltOpDone b) s = .next u ∧ (u.bolt b.val).op = 0 ∧ (∀ k, k ∈ s.boltStacks b.val → u.r (.stk k) F.STK_BOLT_OP_OP = 0 ∧ u.r (.stk k) F.STK_BOLT_OP_STAT_STATE = if (s.bolt b.val).opBad then 3 else 2)
      ∧ u.mem = s.mem ∧ u.tiles = s.tiles ∧ u.tape = s.tape)

/-- With the HKC image running: HOUSEKEEPING_ROUND runs at its time, sets the next round 1 ms later, and gives every temperature channel it lists its reading; LIFE_COUNT_SAVE copies the life counts into the record store. HW_TRIP_SAMPLE counts a reading at its trip threshold, starts anew below it, and at the second in a row shuts down with cause 1; OVERCURRENT_TRIP with cause 8, a FLOW_IN interval beyond its bound or FLOW_TIMEOUT with cause 4. A shutdown of a ready module is a held core reset with THERMTRIP asserted, its cause in THM_SHUTDOWN, a record stored, DRAM kept. SHUTDOWN_CLEAR ends it where no warn condition stands. -/
def Obligations.ThermalAndPower : Prop :=
  (∀ (rd : List (Nat × Int)) (s : State),
      s.hkc.imageRuns = true →
      s.rst.wasReady = true →
      s.store.pulse ≤ s.tape →
      ∃ u, exec (Instr.housekeepingRound rd) s = .next u ∧ u.tape = max s.tape s.therm.nextRound ∧ u.therm.nextRound = u.tape + 1000000 ∧ u.therm.round = s.therm.round + 1 ∧ (∀ a, a < 0x200000000000 → u.mem.read a = s.mem.read a)
      ∧ (∀ c v, c < tempChans → rd.find? (fun x => x.1 == c) = some (c, v) → (u.sensor c).value = v))
  ∧ (∀ (s : State),
      s.hkc.imageRuns = true →
      ∃ u, exec (Instr.lifeCountSave) s = .next u ∧ u.store.cycles = s.therm.cyc ∧ u.therm = s.therm ∧ u.regs = s.regs ∧ u.tape = s.tape ∧ s.mem = u.mem ∧ u.rst = s.rst ∧ u.tiles = s.tiles)
  ∧ (∀ (c : Nat) (v : Int) (s : State),
      c < 4608 →
      v ≤ deg 160 →
      (s.sensor c).bad = false →
      s.rst.heldShut = false →
      s.hkc.powered = true →
      v < tripAt (if c < 3840 then c / 320 else 12 + (c - 3840) / 64) →
      ∃ u, exec (Instr.hwTripSample c v) s = .next u ∧ (u.sensor c).hits = 0 ∧ (u.sensor c).value = (s.sensor c).value ∧ u.regs = s.regs ∧ u.tape = s.tape ∧ s.mem = u.mem ∧ u.rst = s.rst ∧ u.tiles = s.tiles)
  ∧ (∀ (c : Nat) (v : Int) (s : State),
      c < 4608 →
      v ≤ deg 160 →
      (s.sensor c).bad = false →
      s.rst.heldShut = false →
      s.hkc.powered = true →
      tripAt (if c < 3840 then c / 320 else 12 + (c - 3840) / 64) ≤ v →
      (s.sensor c).hits = 0 →
      ∃ u, exec (Instr.hwTripSample c v) s = .next u ∧ (u.sensor c).hits = 1 ∧ (u.sensor c).value = (s.sensor c).value ∧ u.regs = s.regs ∧ u.tape = s.tape ∧ s.mem = u.mem ∧ u.rst = s.rst ∧ u.tiles = s.tiles)
  ∧ (∀ (c : Nat) (v : Int) (s : State),
      c < 4608 →
      v ≤ deg 160 →
      (s.sensor c).bad = false →
      s.hkc.imageRuns = true →
      s.hkc.powered = true →
      tripAt (if c < 3840 then c / 320 else 12 + (c - 3840) / 64) ≤ v →
      (s.sensor c).hits = 1 →
      s.rst.level = 0 →
      s.rst.wasReady = true →
      s.rst.heldShut = false →
      ∃ u, exec (Instr.hwTripSample c v) s = .next u ∧ u.rst.level = 3 ∧ u.rst.heldShut = true ∧ u.pins.thermtrip = true ∧ u.b .thm F.THM_SHUTDOWN_ACTIVE = true ∧ u.r .thm F.THM_SHUTDOWN_CAUSE = 1
      ∧ u.store.shutSeq = (s.store.shutSeq + 1) % 65536 ∧ u.therm.selfRefresh = true ∧ (∀ a, a < 0x200000000000 → u.mem.read a = s.mem.read a))
  ∧ (∀ (s : State),
      s.hkc.imageRuns = true →
      s.hkc.powered = true →
      s.rst.level = 0 →
      s.rst.wasReady = true →
      s.rst.heldShut = false →
      ∃ u, exec (Instr.overcurrentTrip) s = .next u ∧ u.rst.level = 3 ∧ u.rst.heldShut = true ∧ u.pins.thermtrip = true ∧ u.b .thm F.THM_SHUTDOWN_ACTIVE = true ∧ u.r .thm F.THM_SHUTDOWN_CAUSE = 8
      ∧ u.store.shutSeq = (s.store.shutSeq + 1) % 65536 ∧ u.therm.selfRefresh = true ∧ (∀ a, a < 0x200000000000 → u.mem.read a = s.mem.read a))
  ∧ (∀ (s : State),
      s.hkc.imageRuns = false →
      s.hkc.powered = true →
      s.rst.heldShut = false →
      ∃ u, exec (Instr.overcurrentTrip) s = .next u ∧ u.therm.aclkGated = true ∧ u.regs = s.regs ∧ u.tape = s.tape ∧ s.mem = u.mem ∧ u.rst = s.rst ∧ u.tiles = s.tiles)
  ∧ (∀ (h : Nat) (s : State),
      h < 20000 →
      exec (Instr.flowInEdge h) s = .next (s))
  ∧ (∀ (h : Nat) (s : State),
      s.hkc.imageRuns = true →
      s.flowOn = true →
      20000 ≤ h →
      s.therm.flowAt = none →
      ∃ u, exec (Instr.flowInEdge h) s = .next u ∧ u.therm.flowAt = some s.tape ∧ u.regs = s.regs ∧ u.tape = s.tape ∧ s.mem = u.mem ∧ u.rst = s.rst ∧ u.tiles = s.tiles)
  ∧ (∀ (h x : Nat) (s : State),
      s.hkc.imageRuns = true →
      s.flowOn = true →
      20000 ≤ h →
      s.therm.flowAt = some x →
      x < s.tape →
      s.flowMinOn = true → s.tape - x ≤ s.flowBound →
      ∃ u, exec (Instr.flowInEdge h) s = .next u ∧ u.therm.flowAt = some s.tape ∧ u.therm.flowOk = true ∧ u.therm.flow = min 0xFFFF (6000000000000 / (s.r .thm F.THM_FLOW_CFG_K * (s.tape - x)))
      ∧ u.regs = s.regs ∧ u.tape = s.tape ∧ s.mem = u.mem ∧ u.rst = s.rst ∧ u.tiles = s.tiles)
  ∧ (∀ (h x : Nat) (s : State),
      s.hkc.imageRuns = true →
      s.flowMinOn = true →
      20000 ≤ h →
      s.therm.flowAt = some x →
      x < s.tape →
      s.flowBound < s.tape - x →
      s.rst.level = 0 →
      s.rst.wasReady = true →
      s.rst.heldShut = false →
      ∃ u, exec (Instr.flowInEdge h) s = .next u ∧ u.rst.level = 3 ∧ u.rst.heldShut = true ∧ u.pins.thermtrip = true ∧ u.b .thm F.THM_SHUTDOWN_ACTIVE = true ∧ u.r .thm F.THM_SHUTDOWN_CAUSE = 4
      ∧ u.store.shutSeq = (s.store.shutSeq + 1) % 65536 ∧ u.therm.selfRefresh = true ∧ (∀ a, a < 0x200000000000 → u.mem.read a = s.mem.read a))
  ∧ (∀ (x : Nat) (s : State),
      s.hkc.imageRuns = true →
      s.flowMinOn = true →
      s.therm.flowAt = some x →
      s.store.pulse ≤ s.tape →
      s.rst.level = 0 →
      s.rst.wasReady = true →
      s.rst.heldShut = false →
      ∃ u, exec (Instr.flowTimeout) s = .next u ∧ u.tape = max s.tape (x + s.flowBound + 1)
      ∧ u.rst.level = 3 ∧ u.rst.heldShut = true ∧ u.pins.thermtrip = true ∧ u.b .thm F.THM_SHUTDOWN_ACTIVE = true ∧ u.r .thm F.THM_SHUTDOWN_CAUSE = 4
      ∧ u.store.shutSeq = (s.store.shutSeq + 1) % 65536 ∧ u.therm.selfRefresh = true ∧ (∀ a, a < 0x200000000000 → u.mem.read a = s.mem.read a))
  ∧ (∀ (q : Req) (s : State),
      s.grants q .thm F.THM_SHUTDOWN_CLEAR.off = true →
      s.rst.heldShut = true →
      ((List.range 40).any (fun d => decide (warnAt d ≤ s.domRead d)) || s.b .thm F.THM_STATUS_COOL_WARN || s.flowLow) = false →
      ∃ u, exec (Instr.shutdownClear q) s = .next u ∧ u.rst.heldShut = false ∧ u.pins.thermtrip = false ∧ u.b .thm F.THM_SHUTDOWN_ACTIVE = false ∧ u.mem = s.mem ∧ u.tiles = s.tiles
      ∧ (s.rst.level ≠ 0 → s.rst.want = 0 → s.pins.v48 = true → .por ∉ s.pins.low → .sysrst ∉ s.pins.low → u.rst.level = 0))
  ∧ (∀ (q : Req) (s : State),
      s.grants q .thm F.THM_SHUTDOWN_CLEAR.off = true →
      s.rst.heldShut = true →
      ((List.range 40).any (fun d => decide (warnAt d ≤ s.domRead d)) || s.b .thm F.THM_STATUS_COOL_WARN || s.flowLow) = true →
      ∃ u, exec (Instr.shutdownClear q) s = .next u ∧ u.rst = s.rst ∧ u.pins = s.pins ∧ u.b .err ErrClass.protocol.bitOf = true ∧ u.mem = s.mem ∧ u.tiles = s.tiles)

/-- SIDEBAND_CONNECTION_FAIL moves a signal to its other connection; with both gone and no move under way in the stack, the site moves without a copy, is retired at once where no loaded pattern holds the stack, or has no spare. VC_GROUP_TEST of a position that is not hot does nothing; of a hot one, in a window that refresh does not need, it clears the count and gives each dead connection a spare, or makes the symbol an erasure once 16 are used. MIGRATION_COPY_LINE, in idle slots, copies the next 64 bytes of a memory in canonical form, or writes the marker and counts the line lost; MIGRATION_COMPLETE ends the copy and retires the site unless a loaded pattern holds its stack. On a seam that is up, SEAM_FLIT_RECEIVE takes a good flit, counts a bad one, and the second in a row as late; a lane at fault in a replay gathers errors, and 8 within 1 ms spare its group or take its half down. SEAM_RETRAIN sets the halves that trained, or is refused while a pattern claims the seam. BASE_DIE_RESET empties and halts every tile of the die, or is refused for die 0 and for a die that a pattern touches; with FORCE only for die 0. BASE_DIE_RESET_DONE ends it. -/
def Obligations.VerticalLinks : Prop :=
  (∀ (t : Site) (g : Fin 8) (c : Fin 2) (s : State),
      (s.chan (sliceChan t.g 0)).sideband.contains (g.val, c.val) = true →
      exec (Instr.sidebandConnectionFail t g c) s = .next (s))
  ∧ (∀ (t : Site) (g : Fin 8) (c : Fin 2) (s : State),
      (s.chan (sliceChan t.g 0)).sideband.contains (g.val, c.val) = false →
      (s.chan (sliceChan t.g 0)).sideband.contains (g.val, 1 - c.val) = false →
      ∃ u, exec (Instr.sidebandConnectionFail t g c) s = .next u ∧ (u.chan (sliceChan t.g 0)).sideband = (s.chan (sliceChan t.g 0)).sideband ++ [(g.val, c.val)] ∧ u.b (.stk t.stack.val) F.VC_STATUS_SIDEBAND_SINGLE = true ∧ u.mem = s.mem ∧ u.tiles = s.tiles ∧ u.tape = s.tape)
  ∧ (∀ (t : Site) (g : Fin 8) (c : Fin 2) (d : Nat) (s : State),
      (s.chan (sliceChan t.g 0)).sideband.contains (g.val, c.val) = false →
      (s.chan (sliceChan t.g 0)).sideband.contains (g.val, 1 - c.val) = true →
      s.migUnder t.stack.val = false →
      s.migs = [] →
      s.ltile t.g ≠ 0xFE →
      s.freeSpare t.stack.val = some d →
      s.stackFree t.stack.val = false →
      ∃ u, exec (Instr.sidebandConnectionFail t g c) s = .next u ∧ u.r (.stk t.stack.val) F.VC_MIG_STATUS_STATE = 2 ∧ u.r (.stk t.stack.val) F.VC_MIG_STATUS_SRC_SITE = t.g % 160 ∧ u.r (.stk t.stack.val) F.VC_MIG_STATUS_DST_SITE = d ∧ u.mem = s.mem ∧ u.tiles = s.tiles)
  ∧ (∀ (t : Site) (g : Fin 8) (c : Fin 2) (s : State),
      (s.chan (sliceChan t.g 0)).sideband.contains (g.val, c.val) = false →
      (s.chan (sliceChan t.g 0)).sideband.contains (g.val, 1 - c.val) = true →
      s.migUnder t.stack.val = false →
      s.migs = [] →
      s.ltile t.g ≠ 0xFE →
      s.freeSpare t.stack.val = none →
      s.stackFree t.stack.val = false →
      ∃ u, exec (Instr.sidebandConnectionFail t g c) s = .next u ∧ u.r (.stk t.stack.val) F.VC_MIG_STATUS_STATE = 4 ∧ u.mem = s.mem ∧ u.tiles = s.tiles)
  ∧ (∀ (t : Site) (g : Fin 8) (c : Fin 2) (s : State),
      (s.chan (sliceChan t.g 0)).sideband.contains (g.val, c.val) = false →
      (s.chan (sliceChan t.g 0)).sideband.contains (g.val, 1 - c.val) = true →
      s.migUnder t.stack.val = false →
      s.migs = [] →
      s.ltile t.g ≠ 0xFE →
      s.stackFree t.stack.val = true →
      ∃ u, exec (Instr.sidebandConnectionFail t g c) s = .next u ∧ u.r (.stk t.stack.val) F.VC_MIG_STATUS_STATE = 3 ∧ s.ltile t.g ≠ u.ltile t.g ∧ u.ltile t.g = 0xFE ∧ u.mem = s.mem)
  ∧ (∀ (t : Site) (c : Fin 2) (p : Fin 72) (l : List (Fin 8)) (s : State),
      (s.chan (sliceChan t.g c.val)).hot p.val = false →
      exec (Instr.vcGroupTest t c p l) s = .next (s))
  ∧ (∀ (t : Site) (c : Fin 2) (p : Fin 72) (l : List (Fin 8)) (s : State),
      (s.chan (sliceChan t.g c.val)).hot p.val = true →
      s.memLive = true →
      s.idleWindow (sliceChan t.g c.val) = true →
      (s.chan (sliceChan t.g c.val)).spares.length + l.eraseDups.length ≤ 16 →
      (s.chan (sliceChan t.g c.val)).erasures.length ≤ 4 →
      ∃ u, exec (Instr.vcGroupTest t c p l) s = .next u ∧ (u.chan (sliceChan t.g c.val)).spares = (s.chan (sliceChan t.g c.val)).spares ++ l.eraseDups.map (fun i => (p.val, i.val)) ∧ (u.chan (sliceChan t.g c.val)).hot p.val = false
      ∧ (u.chan (sliceChan t.g c.val)).erasures = (s.chan (sliceChan t.g c.val)).erasures ∧ u.mem = s.mem ∧ u.tiles = s.tiles ∧ u.tape = s.tape)
  ∧ (∀ (t : Site) (c : Fin 2) (p : Fin 72) (i : Fin 8) (s : State),
      (s.chan (sliceChan t.g c.val)).hot p.val = true →
      s.memLive = true →
      s.idleWindow (sliceChan t.g c.val) = true →
      16 ≤ (s.chan (sliceChan t.g c.val)).spares.length →
      (s.chan (sliceChan t.g c.val)).erasures.contains p.val = false →
      (s.chan (sliceChan t.g c.val)).erasures.length < 4 →
      ∃ u, exec (Instr.vcGroupTest t c p [i]) s = .next u ∧ (u.chan (sliceChan t.g c.val)).spares = (s.chan (sliceChan t.g c.val)).spares ∧ (u.chan (sliceChan t.g c.val)).hot p.val = false ∧ (u.chan (sliceChan t.g c.val)).erasures = (s.chan (sliceChan t.g c.val)).erasures ++ [p.val] ∧ u.mem = s.mem ∧ u.tiles = s.tiles ∧ u.tape = s.tape)
  ∧ (∀ (k : Fin 12) (s : State),
      s.r (.stk k.val) F.VC_MIG_STATUS_STATE ≠ 1 →
      exec (Instr.migrationCopyLine k) s = .next (s))
  ∧ (∀ (k : Fin 12) (s : State),
      s.r (.stk k.val) F.VC_MIG_STATUS_STATE = 1 →
      s.r (.stk k.val) F.VC_MIG_DONE_LINES < migLines →
      s.memLive = true →
      s.idleSlot (sliceAt (s.migSrc k.val) (64 * s.r (.stk k.val) F.VC_MIG_DONE_LINES)) = true →
      s.idleSlot (sliceAt (k.val * 160 + s.r (.stk k.val) F.VC_MIG_STATUS_DST_SITE) (64 * s.r (.stk k.val) F.VC_MIG_DONE_LINES)) = true →
      (s.chan (chanOf (sliceAt (s.migSrc k.val) (64 * s.r (.stk k.val) F.VC_MIG_DONE_LINES)))).erasures.length < 9 →
      s.verdict (sliceAt (s.migSrc k.val) (64 * s.r (.stk k.val) F.VC_MIG_DONE_LINES)) = .clean →
      Mem.wf s.mem →
      ∃ u, exec (Instr.migrationCopyLine k) s = .next u ∧ u.r (.stk k.val) F.VC_MIG_DONE_LINES = s.r (.stk k.val) F.VC_MIG_DONE_LINES + 1 ∧ u.r (.stk k.val) F.VC_MIG_LOST_LINES = s.r (.stk k.val) F.VC_MIG_LOST_LINES
      ∧ (∀ i, i < 64 → u.mem.read ((sliceAt (k.val * 160 + s.r (.stk k.val) F.VC_MIG_STATUS_DST_SITE) (64 * s.r (.stk k.val) F.VC_MIG_DONE_LINES)) + i) = s.mem.read ((sliceAt (s.migSrc k.val) (64 * s.r (.stk k.val) F.VC_MIG_DONE_LINES)) + i)) ∧ (∀ a, a < (sliceAt (k.val * 160 + s.r (.stk k.val) F.VC_MIG_STATUS_DST_SITE) (64 * s.r (.stk k.val) F.VC_MIG_DONE_LINES)) ∨ (sliceAt (k.val * 160 + s.r (.stk k.val) F.VC_MIG_STATUS_DST_SITE) (64 * s.r (.stk k.val) F.VC_MIG_DONE_LINES)) + 64 ≤ a → u.mem.read a = s.mem.read a) ∧ u.tiles = s.tiles)
  ∧ (∀ (k : Fin 12) (s : State),
      s.r (.stk k.val) F.VC_MIG_STATUS_STATE = 1 →
      s.r (.stk k.val) F.VC_MIG_DONE_LINES < migLines →
      s.memLive = true →
      s.idleSlot (sliceAt (s.migSrc k.val) (64 * s.r (.stk k.val) F.VC_MIG_DONE_LINES)) = true →
      s.idleSlot (sliceAt (k.val * 160 + s.r (.stk k.val) F.VC_MIG_STATUS_DST_SITE) (64 * s.r (.stk k.val) F.VC_MIG_DONE_LINES)) = true →
      9 ≤ (s.chan (chanOf (sliceAt (s.migSrc k.val) (64 * s.r (.stk k.val) F.VC_MIG_DONE_LINES)))).erasures.length →
      ∃ u, exec (Instr.migrationCopyLine k) s = .next u ∧ u.r (.stk k.val) F.VC_MIG_DONE_LINES = s.r (.stk k.val) F.VC_MIG_DONE_LINES + 1 ∧ u.r (.stk k.val) F.VC_MIG_LOST_LINES = min (2 ^ 32 - 1) (s.r (.stk k.val) F.VC_MIG_LOST_LINES + 1)
      ∧ SMap.find u.errs (sliceAt (k.val * 160 + s.r (.stk k.val) F.VC_MIG_STATUS_DST_SITE) (64 * s.r (.stk k.val) F.VC_MIG_DONE_LINES)) = some ⟨[], true⟩ ∧ u.mem = s.mem ∧ u.tiles = s.tiles)
  ∧ (∀ (k : Fin 12) (s : State),
      s.r (.stk k.val) F.VC_MIG_STATUS_STATE = 1 →
      s.r (.stk k.val) F.VC_MIG_DONE_LINES < migLines →
      s.memLive = true →
      s.idleSlot (sliceAt (s.migSrc k.val) (64 * s.r (.stk k.val) F.VC_MIG_DONE_LINES)) = true →
      s.idleSlot (sliceAt (k.val * 160 + s.r (.stk k.val) F.VC_MIG_STATUS_DST_SITE) (64 * s.r (.stk k.val) F.VC_MIG_DONE_LINES)) = true →
      (s.chan (chanOf (sliceAt (s.migSrc k.val) (64 * s.r (.stk k.val) F.VC_MIG_DONE_LINES)))).erasures.length < 9 →
      s.verdict (sliceAt (s.migSrc k.val) (64 * s.r (.stk k.val) F.VC_MIG_DONE_LINES)) = .ue →
      ∃ u, exec (Instr.migrationCopyLine k) s = .next u ∧ u.r (.stk k.val) F.VC_MIG_DONE_LINES = s.r (.stk k.val) F.VC_MIG_DONE_LINES + 1 ∧ u.r (.stk k.val) F.VC_MIG_LOST_LINES = min (2 ^ 32 - 1) (s.r (.stk k.val) F.VC_MIG_LOST_LINES + 1)
      ∧ SMap.find u.errs (sliceAt (k.val * 160 + s.r (.stk k.val) F.VC_MIG_STATUS_DST_SITE) (64 * s.r (.stk k.val) F.VC_MIG_DONE_LINES)) = some ⟨[], true⟩ ∧ u.mem = s.mem ∧ u.tiles = s.tiles)
  ∧ (∀ (k : Fin 12) (s : State),
      s.r (.stk k.val) F.VC_MIG_STATUS_STATE = 1 →
      migLines ≤ s.r (.stk k.val) F.VC_MIG_DONE_LINES →
      s.stackFree k.val = false →
      ∃ u, exec (Instr.migrationComplete k) s = .next u ∧ u.r (.stk k.val) F.VC_MIG_STATUS_STATE = 2 ∧ u.mem = s.mem ∧ u.tiles = s.tiles ∧ u.tape = s.tape)
  ∧ (∀ (k : Fin 12) (s : State),
      s.r (.stk k.val) F.VC_MIG_STATUS_STATE = 1 →
      migLines ≤ s.r (.stk k.val) F.VC_MIG_DONE_LINES →
      s.stackFree k.val = true →
      s.migs = [] →
      ∃ u, exec (Instr.migrationComplete k) s = .next u ∧ u.r (.stk k.val) F.VC_MIG_STATUS_STATE = 3 ∧ u.ltile (s.migSrc k.val) = 0xFE ∧ u.mem = s.mem ∧ u.tape = s.tape)
  ∧ (∀ (n : Fin 4) (d : Fin 2) (x : List Byte) (l : List (Fin 128 × Fin 16)) (s : State),
      s.seamUp n.val = false →
      exec (Instr.seamFlitReceive n d x l) s = .next (s))
  ∧ (∀ (n : Fin 4) (d : Fin 2) (x : List Byte) (l : List (Fin 128 × Fin 16)) (s : State),
      s.seamUp n.val = true →
      seamOk x = true →
      (s.seam (2 * n.val + d.val)).failed.any (fun y => y != x) = false →
      ∃ u, exec (Instr.seamFlitReceive n d x l) s = .next u ∧ (u.seam (2 * n.val + d.val)).failed = none ∧ (u.seam (2 * n.val + d.val)).tries = 0 ∧ (u.seam (2 * n.val + d.val)).hits = (s.seam (2 * n.val + d.val)).hits ∧ (u.seam (2 * n.val + d.val)).spared = (s.seam (2 * n.val + d.val)).spared ∧ u.regs = s.regs ∧ u.mem = s.mem ∧ u.tiles = s.tiles)
  ∧ (∀ (n : Fin 4) (d : Fin 2) (x : List Byte) (l : List (Fin 128 × Fin 16)) (s : State),
      s.seamUp n.val = true →
      seamOk x = false →
      ∃ u, exec (Instr.seamFlitReceive n d x l) s = .next u ∧ (u.seam (2 * n.val + d.val)).failed = some x ∧ (u.seam (2 * n.val + d.val)).tries = (s.seam (2 * n.val + d.val)).tries + 1 ∧ u.r .rst (F.SEAM_CRC_COUNT_COUNT n.val) = min (2 ^ 32 - 1) (s.r .rst (F.SEAM_CRC_COUNT_COUNT n.val) + 1)
      ∧ u.r .rst (F.SEAM_LATE_COUNT_COUNT n.val) = (if (s.seam (2 * n.val + d.val)).tries = 1 then min (2 ^ 32 - 1) (s.r .rst (F.SEAM_LATE_COUNT_COUNT n.val) + 1) else s.r .rst (F.SEAM_LATE_COUNT_COUNT n.val)) ∧ u.mem = s.mem ∧ u.tiles = s.tiles)
  ∧ (∀ (n : Fin 4) (d : Fin 2) (x y : List Byte) (a : Fin 128) (b : Fin 16) (s : State),
      s.seamUp n.val = true →
      seamOk x = true →
      (s.seam (2 * n.val + d.val)).failed = some y →
      y ≠ x →
      ((s.seam (2 * n.val + d.val)).hits.get [] (a.val * 16 + b.val)).length < 7 →
      ∃ u, exec (Instr.seamFlitReceive n d x [(a, b)]) s = .next u ∧ (u.seam (2 * n.val + d.val)).failed = none ∧ (u.seam (2 * n.val + d.val)).tries = 0 ∧ (u.seam (2 * n.val + d.val)).hits.get [] (a.val * 16 + b.val) = s.tape :: (s.seam (2 * n.val + d.val)).hits.get [] (a.val * 16 + b.val) ∧ (u.seam (2 * n.val + d.val)).spared = (s.seam (2 * n.val + d.val)).spared ∧ u.regs = s.regs ∧ u.mem = s.mem ∧ u.tiles = s.tiles)
  ∧ (∀ (n : Fin 4) (d : Fin 2) (x y : List Byte) (a : Fin 128) (b : Fin 16) (s : State),
      s.seamUp n.val = true →
      seamOk x = true →
      (s.seam (2 * n.val + d.val)).failed = some y →
      y ≠ x →
      7 ≤ ((s.seam (2 * n.val + d.val)).hits.get [] (a.val * 16 + b.val)).length →
      s.tape < ((s.seam (2 * n.val + d.val)).hits.get [] (a.val * 16 + b.val)).getD 6 0 + 1000000 →
      (s.seam (2 * n.val + d.val)).spared.contains a.val = false →
      ∃ u, exec (Instr.seamFlitReceive n d x [(a, b)]) s = .next u ∧ (u.seam (2 * n.val + d.val)).failed = none ∧ (u.seam (2 * n.val + d.val)).tries = 0 ∧ (u.seam (2 * n.val + d.val)).spared = (s.seam (2 * n.val + d.val)).spared ++ [a.val] ∧ u.r .rst (F.SEAM_STATUS_WIDTH n.val) = s.r .rst (F.SEAM_STATUS_WIDTH n.val) ∧ u.mem = s.mem ∧ u.tiles = s.tiles)
  ∧ (∀ (n : Fin 4) (d : Fin 2) (x y : List Byte) (a : Fin 128) (b : Fin 16) (s : State),
      s.seamUp n.val = true →
      seamOk x = true →
      (s.seam (2 * n.val + d.val)).failed = some y →
      y ≠ x →
      7 ≤ ((s.seam (2 * n.val + d.val)).hits.get [] (a.val * 16 + b.val)).length →
      s.tape < ((s.seam (2 * n.val + d.val)).hits.get [] (a.val * 16 + b.val)).getD 6 0 + 1000000 →
      (s.seam (2 * n.val + d.val)).spared.contains a.val = true →
      ∃ u, exec (Instr.seamFlitReceive n d x [(a, b)]) s = .next u ∧ (u.seam (2 * n.val + d.val)).failed = none ∧ (u.seam (2 * n.val + d.val)).tries = 0 ∧ (u.seam (2 * n.val + d.val)).spared = (s.seam (2 * n.val + d.val)).spared ∧ (if a.val < 64 then u.b .rst (F.SEAM_STATUS_HALF_A n.val) = false else u.b .rst (F.SEAM_STATUS_HALF_B n.val) = false) ∧ u.mem = s.mem ∧ u.tiles = s.tiles)
  ∧ (∀ (q : Req) (n : Fin 4) (a b : Bool) (s : State),
      s.grants q .rst (F.SEAM_CTRL_RETRAIN n.val).off = true →
      s.seamClaimed n.val = false →
      ∃ u, exec (Instr.seamRetrain q n a b) s = .next u ∧ u.r .rst (F.SEAM_STATUS_WIDTH n.val) = b2n a + b2n b ∧ u.b .rst (F.SEAM_STATUS_HALF_A n.val) = a ∧ u.b .rst (F.SEAM_STATUS_HALF_B n.val) = b
      ∧ (∀ d, d < 2 → (u.seam (2 * n.val + d)).hits = [] ∧ (u.seam (2 * n.val + d)).failed = none ∧ (u.seam (2 * n.val + d)).tries = 0) ∧ u.mem = s.mem ∧ u.tiles = s.tiles)
  ∧ (∀ (q : Req) (n : Fin 4) (a b : Bool) (s : State),
      s.grants q .rst (F.SEAM_CTRL_RETRAIN n.val).off = true →
      s.seamClaimed n.val = true →
      ∃ u, exec (Instr.seamRetrain q n a b) s = .next u ∧ u.b .rst (F.SEAM_CTRL_REFUSED n.val) = true ∧ u.seams = s.seams ∧ u.mem = s.mem ∧ u.tiles = s.tiles)
  ∧ (∀ (q : Req) (s : State),
      s.grants q .rst (F.RST_BD_CTRL_RESET 0).off = true →
      ∃ u, exec (Instr.baseDieReset q 0) s = .next u ∧ u.b .rst (F.RST_BD_STAT_REFUSED 0) = true ∧ u.r .rst (F.RST_BD_STAT_REASON 0) = 2 ∧ u.rst = s.rst ∧ u.mem = s.mem ∧ u.tiles = s.tiles)
  ∧ (∀ (q : Req) (d : Fin 4) (s : State),
      s.grants q .rst (F.RST_BD_CTRL_RESET d.val).off = true →
      d ≠ 0 →
      s.dieHeld d.val = false →
      ((List.range 12).any (fun b => s.patBusy b && s.touches b d.val)) = false →
      ∃ u, exec (Instr.baseDieReset q d) s = .next u ∧ SMap.find u.rst.bd d.val = some s.tape ∧ u.b .rst (F.RST_BD_STAT_BUSY d.val) = true ∧ (∀ g, g / 480 = d.val → (u.tile g).mode = .halted ∧ (u.tile g).queue = [] ∧ (u.tile g).flight = []) ∧ u.tape = s.tape)
  ∧ (∀ (q : Req) (d : Fin 4) (s : State),
      s.grants q .rst (F.RST_BD_CTRL_RESET d.val).off = true →
      d ≠ 0 →
      s.dieHeld d.val = false →
      ((List.range 12).any (fun b => s.patBusy b && s.touches b d.val)) = true →
      ∃ u, exec (Instr.baseDieReset q d) s = .next u ∧ u.b .rst (F.RST_BD_STAT_REFUSED d.val) = true ∧ u.r .rst (F.RST_BD_STAT_REASON d.val) = 1 ∧ u.rst = s.rst ∧ u.mem = s.mem ∧ u.tiles = s.tiles)
  ∧ (∀ (q : Req) (s : State),
      s.grants q .rst (F.RST_BD_CTRL_RESET 0).off = true →
      ∃ u, exec (Instr.baseDieResetForced q 0) s = .next u ∧ u.b .rst (F.RST_BD_STAT_REFUSED 0) = true ∧ u.r .rst (F.RST_BD_STAT_REASON 0) = 2 ∧ u.rst = s.rst ∧ u.mem = s.mem ∧ u.tiles = s.tiles)
  ∧ (∀ (q : Req) (d : Fin 4) (s : State),
      s.grants q .rst (F.RST_BD_CTRL_RESET d.val).off = true →
      d ≠ 0 →
      s.dieHeld d.val = false →
      ∃ u, exec (Instr.baseDieResetForced q d) s = .next u ∧ SMap.find u.rst.bd d.val = some s.tape ∧ u.b .rst (F.RST_BD_STAT_BUSY d.val) = true ∧ (∀ g, g / 480 = d.val → (u.tile g).mode = .halted ∧ (u.tile g).queue = [] ∧ (u.tile g).flight = []) ∧ u.tape = s.tape)
  ∧ (∀ (d : Fin 4) (s : State),
      SMap.find s.rst.bd d.val = none →
      exec (Instr.baseDieResetDone d) s = .next (s))
  ∧ (∀ (d : Fin 4) (x : Nat) (s : State),
      SMap.find s.rst.bd d.val = some x →
      ∃ u, exec (Instr.baseDieResetDone d) s = .next u ∧ SMap.find u.rst.bd d.val = none ∧ u.b .rst (F.RST_BD_STAT_BUSY d.val) = false ∧ u.b .rst (F.RST_BD_STAT_DONE d.val) = true ∧ u.tape = max s.tape (x + 1000) ∧ u.mem = s.mem ∧ u.tiles = s.tiles)

/-- FATAL_CLEAR clears FATAL and releases FAULT_N. ERR_LOG_LATCH stands the selected record's eight words in the port's view. CHK_SUB_GO appends the described submission, or sets REFUSED for a reserved algorithm or an address outside edge memory, FULL where 16 wait. CHK_SCAN_TURN does nothing in an empty unit; of a submission that repeats the last alive count it sets REPEAT and DONE and drops it; of one that is running and whose rest is one readable access it takes the bytes into the context's value by the descriptor's algorithm, counts them, sets DONE and drops it. CHK_CTX_VAL_WRITE writes an idle context's word; in a busy one it changes no value and sets CTX_BUSY. -/
def Obligations.ErrorsAndChecks : Prop :=
  (∀ (q : Req) (s : State),
      s.grants q .err F.ERR_STATUS_FATAL.off = true →
      ∃ u, exec (Instr.fatalClear q) s = .next u ∧ u.b .err F.ERR_STATUS_FATAL = false ∧ u.pins = { s.pins with fault := false } ∧ u.mem = s.mem ∧ u.tiles = s.tiles
      ∧ (∀ o, o ≠ Blk.err.base + F.ERR_STATUS_FATAL.off → u.word o = s.word o))
  ∧ (∀ (p : Port) (val : Word) (r : ErrRec) (s : State),
      s.grants (match p with | .p0 => Req.p0 | .p1 => Req.p1) .err F.ERR_LOG_SEL_SLOT.off = true →
      SMap.find (if fget F.ERR_LOG_SEL_STORE val = 1 then s.store.fatals else s.log) (fget F.ERR_LOG_SEL_SLOT val) = some r →
      ∃ u, exec (Instr.errLogLatch p val) s = .next u ∧ (∀ i, i < 8 → SMap.get 0 u.logSel (logKey p.n (i + 1)) = BitVec.ofNat 32 (bits r.toNat (32 * i) 32)) ∧ u.log = s.log ∧ u.regs = s.regs ∧ u.mem = s.mem ∧ u.tiles = s.tiles)
  ∧ (∀ (q : Req) (d : Fin 4) (val : Word) (s : State),
      s.grants q (.chk d.val) F.CHK_SUB_CTRL_GO.off = true →
      (s.r2 (.chk d.val) F.CHK_SUB_ADDR_LO_DPA F.CHK_SUB_ADDR_HI_DPA) < edgeEnd →
      fget F.CHK_SUB_CTRL_ALG val ≠ 3 →
      (s.chkU d.val).waiting < 16 →
      ∃ u, exec (Instr.chkSubGo q d val) s = .next u ∧ ∃ j, (u.chkU d.val).jobs = (s.chkU d.val).jobs ++ [j] ∧ j.id = (s.chkU d.val).nextId ∧ (u.chkU d.val).nextId = (s.chkU d.val).nextId + 1 ∧ j.tile = none ∧ j.resume = none ∧ j.addr = (s.r2 (.chk d.val) F.CHK_SUB_ADDR_LO_DPA F.CHK_SUB_ADDR_HI_DPA) ∧ j.len = s.r2 (.chk d.val) F.CHK_SUB_LEN_LO_LEN F.CHK_SUB_LEN_HI_LEN
        ∧ j.alg = fget F.CHK_SUB_CTRL_ALG val ∧ j.ctx = fget F.CHK_SUB_CTRL_CTX val ∧ j.alive = fget F.CHK_SUB_CTRL_ALIVE val ∧ j.load = false ∧ j.begun = false ∧ u.mem = s.mem ∧ u.tiles = s.tiles)
  ∧ (∀ (q : Req) (d : Fin 4) (val : Word) (s : State),
      s.grants q (.chk d.val) F.CHK_SUB_CTRL_GO.off = true →
      (edgeEnd ≤ (s.r2 (.chk d.val) F.CHK_SUB_ADDR_LO_DPA F.CHK_SUB_ADDR_HI_DPA) ∨ fget F.CHK_SUB_CTRL_ALG val = 3) →
      ∃ u, exec (Instr.chkSubGo q d val) s = .next u ∧ u.b (.chk d.val) F.CHK_SUB_STAT_REFUSED = true ∧ u.chks = s.chks ∧ u.mem = s.mem ∧ u.tiles = s.tiles)
  ∧ (∀ (q : Req) (d : Fin 4) (val : Word) (s : State),
      s.grants q (.chk d.val) F.CHK_SUB_CTRL_GO.off = true →
      (s.r2 (.chk d.val) F.CHK_SUB_ADDR_LO_DPA F.CHK_SUB_ADDR_HI_DPA) < edgeEnd →
      fget F.CHK_SUB_CTRL_ALG val ≠ 3 →
      16 ≤ (s.chkU d.val).waiting →
      ∃ u, exec (Instr.chkSubGo q d val) s = .next u ∧ u.b (.chk d.val) F.CHK_SUB_STAT_FULL = true ∧ u.chks = s.chks ∧ u.mem = s.mem ∧ u.tiles = s.tiles)
  ∧ (∀ (d : Fin 4) (s : State),
      (s.chkU d.val).turn = none →
      exec (Instr.chkScanTurn d) s = .next (s))
  ∧ (∀ (d : Fin 4) (j : ChkJob) (s : State),
      s.live = true →
      s.chkHeld d.val = false →
      (s.chkU d.val).turn = some j →
      j.begun = false →
      j.resume = none →
      j.tile = none →
      j.load = false →
      s.r (.chk d.val) (F.CHK_CTX_STAT_LAST_ALIVE j.ctx) = j.alive →
      ∃ u, exec (Instr.chkScanTurn d) s = .next u ∧ u.b (.chk d.val) (F.CHK_CTX_STAT_REPEAT j.ctx) = true ∧ u.b (.chk d.val) (F.CHK_CTX_STAT_DONE j.ctx) = true ∧ u.ctxVal d.val j.ctx = s.ctxVal d.val j.ctx
      ∧ (u.chkU d.val).jobs = (s.chkU d.val).jobs.filter (fun x => x.id != j.id) ∧ u.mem = s.mem ∧ u.tiles = s.tiles)
  ∧ (∀ (d : Fin 4) (j : ChkJob) (l : List (BitVec 8)) (s : State),
      s.live = true →
      s.chkHeld d.val = false →
      (s.chkU d.val).turn = some j →
      j.begun = true →
      j.tile = none →
      j.len < 2 ^ 40 →
      s.ctxBytes d.val j.ctx < j.len →
      j.len - s.ctxBytes d.val j.ctx ≤ lineLeft (j.addr + s.ctxBytes d.val j.ctx) →
      j.addr + j.len ≤ edgeEnd →
      s.cutOff d.val (j.addr + s.ctxBytes d.val j.ctx) = false →
      (s.fetch (j.addr + s.ctxBytes d.val j.ctx) (j.len - s.ctxBytes d.val j.ctx)).1.toOption = some l →
      ∃ u, exec (Instr.chkScanTurn d) s = .next u ∧ u.ctxVal d.val j.ctx = crcAlg j.alg (s.ctxVal d.val j.ctx) l % 2 ^ 64 ∧ u.ctxBytes d.val j.ctx = j.len ∧ u.b (.chk d.val) (F.CHK_CTX_STAT_DONE j.ctx) = true
      ∧ (u.chkU d.val).jobs = (s.chkU d.val).jobs.filter (fun x => x.id != j.id) ∧ (u.chkU d.val).lastCtx = j.ctx)
  ∧ (∀ (q : Req) (d : Fin 4) (n : Fin 16) (hi : Bool) (val : Word) (s : State),
      s.grants q (.chk d.val) (if hi then F.CHK_CTX_VAL_HI_VALUE n.val else F.CHK_CTX_VAL_LO_VALUE n.val).off = true →
      (s.chkU d.val).busy n.val = false →
      ∃ u, exec (Instr.chkCtxValWrite q d n hi val) s = .next u ∧ u.ctxVal d.val n.val = (if hi then s.ctxVal d.val n.val % 2 ^ 32 + val.toNat * 2 ^ 32 else s.ctxVal d.val n.val / 2 ^ 32 * 2 ^ 32 + val.toNat) ∧ u.chks = s.chks ∧ u.mem = s.mem ∧ u.tiles = s.tiles)
  ∧ (∀ (q : Req) (d : Fin 4) (n : Fin 16) (hi : Bool) (val : Word) (s : State),
      s.grants q (.chk d.val) (if hi then F.CHK_CTX_VAL_HI_VALUE n.val else F.CHK_CTX_VAL_LO_VALUE n.val).off = true →
      (s.chkU d.val).busy n.val = true →
      ∃ u, exec (Instr.chkCtxValWrite q d n hi val) s = .next u ∧ u.b (.chk d.val) (F.CHK_CTX_STAT_CTX_BUSY n.val) = true ∧ u.ctxVal d.val n.val = s.ctxVal d.val n.val ∧ u.chks = s.chks ∧ u.mem = s.mem ∧ u.tiles = s.tiles)

/-- HEM_ENABLE starts an empty hem, or refuses spill to a bad ring. HEM_LATCH stands a slot in TRC_HEM_DATA, which keeps what it holds where the slot is uncorrectable. HEM_SPILL_LINE, in an idle slot, writes four records and advances. HEM_FREEZE_AT_TAPE freezes. XTRIG_FRAME is recorded and may arm a stop; CROSS_TRIGGER_ARRIVE fires the units it meets. ATTR_LATCH and ATTR_CLEAR read and clear the table. GLOBAL_STOP_ARM arms a stop, or cancels one not triggered; GLOBAL_STOP takes the armed stop; DUMP writes only its area, or is refused; DUMP_DONE ends it. With V48 present IDCODE and BYPASS drive TDO, SAMPLE/PRELOAD captures the pins' levels and EXTEST drives the outputs from the boundary register, DBG_REG performs its access and DBG_RESET asks for its level, the last three only with JTAG_EN; without V48 no scan does anything. TAP_RESET selects IDCODE. GPIO_INPUT_CHANGE sets the edge bits while the HKC's cycles go on. -/
def Obligations.TraceAndDebug : Prop :=
  (∀ (q : Req) (t : Site) (val : Word) (s : State),
      s.grants q (.tile t.g) F.TRC_HEM_CFG_EN.off = true →
      s.b (.tile t.g) F.TRC_HEM_CFG_EN = false →
      (fget F.TRC_HEM_CFG_MODE val = 3 → s.spillBad t.g (s.privClaim t.g) = false) →
      ∃ u, exec (Instr.hemEnable q t val) s = .next u ∧ (u.tile t.g).hem.hstate = 1 ∧ (u.tile t.g).hem.lost = 0 ∧ u.b (.tile t.g) F.TRC_HEM_CFG_EN = true ∧ u.r (.tile t.g) F.TRC_SPILL_PTR_NEXT = 0 ∧ (u.tile t.g).queue = (s.tile t.g).queue ∧ (u.tile t.g).flight = (s.tile t.g).flight ∧ u.mem = s.mem ∧ u.tape = s.tape)
  ∧ (∀ (q : Req) (t : Site) (val : Word) (s : State),
      s.grants q (.tile t.g) F.TRC_HEM_CFG_EN.off = true →
      s.b (.tile t.g) F.TRC_HEM_CFG_EN = false →
      fget F.TRC_HEM_CFG_MODE val = 3 →
      s.spillBad t.g (s.privClaim t.g) = true →
      ∃ u, exec (Instr.hemEnable q t val) s = .next u ∧ (u.tile t.g).hem.hstate = 0 ∧ u.b (.tile t.g) F.TRC_HEM_CFG_EN = false ∧ u.b (.tile t.g) F.TRC_HEM_STAT_SPILL_REFUSED = true ∧ u.mem = s.mem ∧ u.tape = s.tape)
  ∧ (∀ (q : Req) (t : Site) (val : Word) (s : State),
      s.grants q (.tile t.g) F.TRC_HEM_SEL_SLOT.off = true →
      (s.tile t.g).hem.runLost = 0 →
      (s.tile t.g).hem.words = [] →
      ∃ u, exec (Instr.hemLatch q t val) s = .next u ∧ (∀ i, i < 4 → u.r (.tile t.g) (F.TRC_HEM_DATA_DATA i) = bits ((s.tile t.g).hem.slots.get 0 (fget F.TRC_HEM_SEL_SLOT val)).toNat (32 * i) 32)
      ∧ (∀ i, (u.tile t.g).hem.slots.get 0 i = (s.tile t.g).hem.slots.get 0 i) ∧ (u.tile t.g).hem.next = (s.tile t.g).hem.next ∧ (u.tile t.g).queue = (s.tile t.g).queue ∧ (u.tile t.g).flight = (s.tile t.g).flight ∧ u.mem = s.mem ∧ u.tape = s.tape)
  ∧ (∀ (q : Req) (t : Site) (val : Word) (s : State),
      s.grants q (.tile t.g) F.TRC_HEM_SEL_SLOT.off = true →
      (s.tile t.g).hem.runLost = 0 →
      SMap.find (s.tile t.g).hem.words (2 * fget F.TRC_HEM_SEL_SLOT val) = some ⟨[], true⟩ →
      ∃ u, exec (Instr.hemLatch q t val) s = .next u ∧ (∀ i, i < 4 → u.r (.tile t.g) (F.TRC_HEM_DATA_DATA i) = s.r (.tile t.g) (F.TRC_HEM_DATA_DATA i)) ∧ u.tiles = s.tiles ∧ u.mem = s.mem ∧ u.tape = s.tape)
  ∧ (∀ (t : Site) (s : State),
      Mem.wf s.mem →
      s.live = true →
      (s.tile t.g).hem.hstate ≠ 0 →
      (s.tile t.g).hem.mode = 3 →
      s.spillBad t.g (s.privClaim t.g) = false →
      4 ≤ (s.tile t.g).hem.queued →
      (s.r (.tile t.g) F.TRC_SPILL_PTR_NEXT) + 4 ≤ (s.r (.tile t.g) F.TRC_SPILL_LEN_LEN * 4096) →
      s.idleSlot (sliceAt t.g (s.r (.tile t.g) F.TRC_SPILL_BASE_BASE * 65536 + 16 * (s.r (.tile t.g) F.TRC_SPILL_PTR_NEXT))) = true →
      s.sidebandDead t.g = false →
      (s.tile t.g).hem.runLost = 0 →
      (s.tile t.g).hem.words = [] →
      ∃ u, exec (Instr.hemSpillLine t) s = .next u ∧ (u.tile t.g).hem.queued = (s.tile t.g).hem.queued - 4 ∧ u.r (.tile t.g) F.TRC_SPILL_PTR_NEXT = (if fget F.TRC_HEM_CFG_SPILL_WRAP (s.tile t.g).hem.cfg = 1 ∧ (s.r (.tile t.g) F.TRC_SPILL_PTR_NEXT) + 4 = (s.r (.tile t.g) F.TRC_SPILL_LEN_LEN * 4096) then 0 else ((s.r (.tile t.g) F.TRC_SPILL_PTR_NEXT) + 4) % 2 ^ F.TRC_SPILL_PTR_NEXT.w)
      ∧ ((s.r (.tile t.g) F.TRC_SPILL_PTR_NEXT) % 4 = 0 → u.mem.readN (sliceAt t.g (s.r (.tile t.g) F.TRC_SPILL_BASE_BASE * 65536 + 16 * (s.r (.tile t.g) F.TRC_SPILL_PTR_NEXT))) 64 = ((List.range 4).flatMap fun i => leBytes 16 (((s.tile t.g).hem.slots.get 0 ((((s.tile t.g).hem.next + 1024 - (s.tile t.g).hem.queued) % 1024 + i) % 1024)).toNat))) ∧ u.tape = s.tape)
  ∧ (∀ (t : Site) (x : Nat) (s : State),
      (s.tile t.g).hem.freezeAt = some x →
      s.trace.stopped = false →
      ∃ u, exec (Instr.hemFreezeAtTape t) s = .next u ∧ (u.tile t.g).hem.freezeAt = none ∧ (u.tile t.g).hem.hstate = (if (s.tile t.g).hem.hstate = 0 then 0 else 3) ∧ u.tape = max s.tape x ∧ u.regs = s.regs ∧ u.mem = s.mem)
  ∧ (∀ (d : MgmtDest) (tx : Nat) (id : Byte) (stop : Bool) (s : State),
      (s.route d 0x04 (leBytes 8 tx ++ [id] ++ leBytes 1 (b2n stop))).1 = true →
      s.b (.fab 0) F.FAB_MGMT_CFG_XTRIG_EN = true →
      ∃ u, exec (Instr.xtrigFrame d tx id stop) s = .next u ∧ u.b .trc F.TRC_XTRIG_STAT_RCVD = true ∧ u.b .trc F.TRC_XTRIG_STAT_STOP = stop ∧ u.r .trc F.TRC_XTRIG_STAT_LAST_ID = id.toNat ∧ u.trace.xtrigs = s.trace.xtrigs ++ [(tx, id)]
      ∧ (stop = true → s.b .trc F.TRC_XTRIG_CFG_XSTOP_EN = true → s.r .trc F.TRC_STOP_STATUS_STATE = 0 → u.trace.armed = some (tx + s.r .trc F.TRC_XTRIG_POST_CYCLES) ∧ u.r .trc F.TRC_STOP_STATUS_STATE = 1)
      ∧ (stop = false → u.trace.armed = s.trace.armed ∧ u.r .trc F.TRC_STOP_STATUS_STATE = s.r .trc F.TRC_STOP_STATUS_STATE) ∧ u.mem = s.mem ∧ u.tiles = s.tiles)
  ∧ (∀ (d : MgmtDest) (tx : Nat) (id : Byte) (stop : Bool) (s : State),
      (s.route d 0x04 (leBytes 8 tx ++ [id] ++ leBytes 1 (b2n stop))).1 = true →
      s.b (.fab 0) F.FAB_MGMT_CFG_XTRIG_EN = false →
      exec (Instr.xtrigFrame d tx id stop) s = .next ((s.route d 0x04 (leBytes 8 tx ++ [id] ++ leBytes 1 (b2n stop))).2))
  ∧ (∀ (t : Site) (tx : Nat) (id : Byte) (s : State),
      s.live = true →
      s.tileHeld t.g = false →
      s.trace.xtrigs.contains (tx, id) = true →
      ∃ u, exec (Instr.crossTriggerArrive t tx id) s = .next u ∧ (∀ v, v < 4 → (u.b (.tile t.g) (F.TRC_TRIG_CFG_FIRED v) = true ↔ s.b (.tile t.g) (F.TRC_TRIG_CFG_FIRED v) = true
          ∨ (TEv.xtrig id.toNat).hits (s.r (.tile t.g) (F.TRC_TRIG_CFG_KIND v)) (s.r (.tile t.g) (F.TRC_TRIG_VAL_VALUE v)) (s.r (.tile t.g) (F.TRC_TRIG_CFG_CNT v)) = true)) ∧ u.mem = s.mem ∧ u.tape = s.tape)
  ∧ (∀ (q : Req) (val : Word) (a : AttrAcc) (s : State),
      s.grants q .trc F.TRC_ATTR_SEL_ENTRY.off = true →
      s.trace.attr[fget F.TRC_ATTR_SEL_ENTRY val]? = some a →
      ∃ u, exec (Instr.attrLatch q val) s = .next u ∧ u.r .trc (F.TRC_ATTR_DATA_DATA 0) = a.layer % 2 ^ 16 + a.operator % 2 ^ 16 * 2 ^ 16
      ∧ u.r .trc (F.TRC_ATTR_DATA_DATA 1) = min a.retired (2 ^ 31 - 1) + (if fget F.TRC_ATTR_SEL_ENTRY val = 4095 then 2 ^ 31 else 0)
      ∧ u.r2 .trc (F.TRC_ATTR_DATA_DATA 2) (F.TRC_ATTR_DATA_DATA 3) = a.array % 2 ^ 64 ∧ u.r2 .trc (F.TRC_ATTR_DATA_DATA 4) (F.TRC_ATTR_DATA_DATA 5) = a.vector % 2 ^ 64
      ∧ u.r2 .trc (F.TRC_ATTR_DATA_DATA 6) (F.TRC_ATTR_DATA_DATA 7) = a.moved % 2 ^ 64 ∧ u.trace = s.trace ∧ u.mem = s.mem ∧ u.tiles = s.tiles)
  ∧ (∀ (q : Req) (s : State),
      s.grants q .trc F.TRC_ATTR_CTRL_CLEAR.off = true →
      ∃ u, exec (Instr.attrClear q) s = .next u ∧ u.trace = { s.trace with attr := [] } ∧ u.mem = s.mem ∧ u.tiles = s.tiles)
  ∧ (∀ (s : State),
      s.b .trc F.TRC_STOP_CTRL_ARM = true →
      s.r .trc F.TRC_STOP_STATUS_STATE = 0 →
      s.tape < s.r2 .trc F.TRC_STOP_TAPE_LO_TAPE F.TRC_STOP_TAPE_HI_TAPE →
      ∃ u, exec (Instr.globalStopArm) s = .next u ∧ u.r .trc F.TRC_STOP_STATUS_STATE = 1 ∧ u.trace.armed = some (s.r2 .trc F.TRC_STOP_TAPE_LO_TAPE F.TRC_STOP_TAPE_HI_TAPE) ∧ u.trace.stopped = s.trace.stopped ∧ u.mem = s.mem ∧ u.tiles = s.tiles ∧ u.tape = s.tape)
  ∧ (∀ (x : Nat) (s : State),
      s.b .trc F.TRC_STOP_CTRL_ARM = false →
      s.r .trc F.TRC_STOP_STATUS_STATE = 1 →
      s.b .trc F.TRC_STOP_STATUS_TRIGGERED = false →
      s.trace.armed = some x →
      s.tape < x →
      ∃ u, exec (Instr.globalStopArm) s = .next u ∧ u.r .trc F.TRC_STOP_STATUS_STATE = 0 ∧ u.trace.armed = none ∧ u.trace.stopped = s.trace.stopped ∧ u.mem = s.mem ∧ u.tiles = s.tiles ∧ u.tape = s.tape)
  ∧ (∀ (x : Nat) (s : State),
      s.trace.armed = some x →
      s.r .trc F.TRC_STOP_STATUS_STATE = 1 →
      ∃ u, exec (Instr.globalStop) s = .next u ∧ u.r .trc F.TRC_STOP_STATUS_STATE = 2 ∧ u.trace.stopped = true ∧ u.trace.armed = none ∧ u.live = false ∧ u.tape = max s.tape x ∧ u.trace.stopTape = u.tape
      ∧ u.r2 .trc F.TRC_STOP_AT_LO_TAPE F.TRC_STOP_AT_HI_TAPE = x % 2 ^ 64 ∧ u.r .trc F.TRC_STOP_SMEAR_P0 ≤ 1000 ∧ u.r .trc F.TRC_STOP_SMEAR_P1 ≤ 1000 ∧ u.r .trc F.TRC_STOP_SMEAR_HKC ≤ 1000
      ∧ u.mem = s.mem)
  ∧ (∀ (s : State),
      s.b .trc F.TRC_STOP_CTRL_DUMP = true →
      s.r .trc F.TRC_STOP_STATUS_STATE = 2 →
      edgeEnd < s.dumpBase + s.dumpLen →
      ∃ u, exec (Instr.dump) s = .next u ∧ u.r .trc F.TRC_STOP_STATUS_STATE = 5 ∧ u.b .trc F.TRC_STOP_CTRL_DUMP = false ∧ u.trace = s.trace ∧ u.mem = s.mem ∧ u.tiles = s.tiles ∧ u.tape = s.tape)
  ∧ (∀ (s : State),
      s.b .trc F.TRC_STOP_CTRL_DUMP = true →
      s.r .trc F.TRC_STOP_STATUS_STATE = 2 →
      s.dumpBase + s.dumpLen ≤ edgeEnd →
      ∃ u, exec (Instr.dump) s = .next u ∧ u.r .trc F.TRC_STOP_STATUS_STATE = 3 ∧ u.trace = s.trace ∧ u.mem.readLE s.dumpBase 4 = 0x51544458 ∧ (∀ a, a < s.dumpBase ∨ s.dumpBase + s.dumpLen ≤ a → u.mem.read a = s.mem.read a) ∧ u.tape = s.tape)
  ∧ (∀ (s : State),
      s.r .trc F.TRC_STOP_STATUS_STATE = 3 →
      ∃ u, exec (Instr.dumpDone) s = .next u ∧ u.r .trc F.TRC_STOP_STATUS_STATE = 4 ∧ u.b .trc F.TRC_STOP_CTRL_DUMP = false ∧ u.trace = s.trace ∧ u.mem = s.mem ∧ u.tiles = s.tiles ∧ u.tape = s.tape)
  ∧ (∀ (s : State),
      ∃ u, exec (Instr.tapReset) s = .next u ∧ u.jtag = { s.jtag with ir := 1 } ∧ u.out = s.out ∧ u.regs = s.regs ∧ u.mem = s.mem ∧ u.tiles = s.tiles ∧ u.tape = s.tape)
  ∧ (∀ (s : State),
      s.pins.v48 = false →
      exec (Instr.idcode) s = .next (s))
  ∧ (∀ (s : State),
      s.pins.v48 = false →
      exec (Instr.bypass) s = .next (s))
  ∧ (∀ (l : List Bool) (s : State),
      s.pins.v48 = false →
      exec (Instr.samplePreload l) s = .next (s))
  ∧ (∀ (l : List Bool) (s : State),
      s.pins.v48 = false →
      exec (Instr.extest l) s = .next (s))
  ∧ (∀ (v : DWord) (s : State),
      s.pins.v48 = false →
      exec (Instr.dbgReg v) s = .next (s))
  ∧ (∀ (v : Byte) (s : State),
      s.pins.v48 = false →
      exec (Instr.dbgReset v) s = .next (s))
  ∧ (∀ (s : State),
      s.pins.v48 = true →
      ∃ u, exec (Instr.idcode) s = .next u ∧ u.jtag = { s.jtag with ir := 1 } ∧ u.out = s.out ++ [.tdo ((List.range 32).map fun i => s.idcode.testBit i)] ∧ u.regs = s.regs ∧ u.mem = s.mem ∧ u.tiles = s.tiles ∧ u.tape = s.tape)
  ∧ (∀ (s : State),
      s.pins.v48 = true →
      ∃ u, exec (Instr.bypass) s = .next u ∧ u.jtag = { s.jtag with ir := 0xFF } ∧ u.out = s.out ++ [.tdo [false]] ∧ u.regs = s.regs ∧ u.mem = s.mem ∧ u.tiles = s.tiles ∧ u.tape = s.tape)
  ∧ (∀ (l : List Bool) (s : State),
      s.pins.v48 = true →
      ∃ u, exec (Instr.samplePreload l) s = .next u ∧ ∃ now : List Bool, now.length = 20 ∧ now[4]? = some (!s.pins.thermtrip) ∧ now[5]? = some (!s.pins.thermalert) ∧ now[6]? = some (!s.pins.fault) ∧ (∀ i, i < 8 → now[12 + i]? = some (s.gpioIn.getLsbD i))
      ∧ u.jtag = { s.jtag with ir := 2, boundary := (now ++ l).drop l.length } ∧ u.out = s.out ++ [.tdo ((now ++ l).take l.length)] ∧ u.regs = s.regs ∧ u.mem = s.mem ∧ u.tiles = s.tiles ∧ u.tape = s.tape)
  ∧ (∀ (l : List Bool) (s : State),
      s.pins.v48 = true →
      s.jtagOn = true →
      ∃ u, exec (Instr.extest l) s = .next u ∧ ∃ now : List Bool, now.length = 20 ∧ now[4]? = some (!s.pins.thermtrip) ∧ now[5]? = some (!s.pins.thermalert) ∧ now[6]? = some (!s.pins.fault) ∧ (∀ i, i < 8 → now[12 + i]? = some (s.gpioIn.getLsbD i))
      ∧ u.jtag = { s.jtag with ir := 0, boundary := (now ++ l).drop l.length }
      ∧ u.out = s.out ++ .tdo ((now ++ l).take l.length) :: outCells.map (fun i => .pin (scanCells.getD i "") (u.jtag.boundary.getD i false)) ∧ u.regs = s.regs ∧ u.mem = s.mem ∧ u.tiles = s.tiles ∧ u.tape = s.tape)
  ∧ (∀ (l : List Bool) (s : State),
      s.pins.v48 = true →
      s.jtagOn = false →
      ∃ u, exec (Instr.extest l) s = .next u ∧ u.b .trc F.TRC_DBG_STAT_JTAG_REFUSED = true ∧ u.out = s.out ++ [.tdo [false]] ∧ u.jtag = { s.jtag with ir := 0 } ∧ u.mem = s.mem ∧ u.tiles = s.tiles)
  ∧ (∀ (v : DWord) (s : State),
      s.pins.v48 = true →
      s.jtagOn = true →
      v.getLsbD 58 = false →
      ∃ u, exec (Instr.dbgReg v) s = .next u ∧ u.jtag.ir = 0x10 ∧ (∃ rest, u.out = s.out ++ .tdo ((List.range 64).map fun i => s.jtag.capture.toNat.testBit i) :: rest) ∧ u.jtag.capture.getLsbD 60 = !u.jtag.capture.getLsbD 59
      ∧ bits u.jtag.capture.toNat 32 27 = bits v.toNat 32 27 ∧ ((∀ g, g < 1920 → bits v.toNat 32 26 ≠ (Blk.tile g).base + F.CC_MEM_DATA_DATA.off) → u.jtag.capture.getLsbD 59 = true))
  ∧ (∀ (v : DWord) (s : State),
      s.pins.v48 = true →
      s.jtagOn = true →
      v.getLsbD 58 = true →
      s.jtagBad (bits v.toNat 32 26) (v.truncate 32) = true →
      ∃ u, exec (Instr.dbgReg v) s = .next u ∧ u.jtag.ir = 0x10 ∧ u.jtag.capture.getLsbD 60 = true ∧ u.jtag.capture.getLsbD 59 = false ∧ bits u.jtag.capture.toNat 0 59 = bits v.toNat 0 59 ∧ u.mem = s.mem ∧ u.tiles = s.tiles)
  ∧ (∀ (v : DWord) (s : State),
      s.pins.v48 = true →
      s.jtagOn = true →
      v.getLsbD 58 = true →
      s.jtagBad (bits v.toNat 32 26) (v.truncate 32) = false →
      bits v.toNat 32 26 ≠ Blk.trc.base + F.TRC_DBG_CFG_JTAG_EN.off →
      ∃ u, exec (Instr.dbgReg v) s = .next u ∧ u.jtag.ir = 0x10 ∧ u.jtag.capture.getLsbD 59 = true ∧ u.jtag.capture.getLsbD 60 = false ∧ bits u.jtag.capture.toNat 0 59 = bits v.toNat 0 59 ∧ u.b .trc F.TRC_DBG_STAT_JTAG_WRITE = true)
  ∧ (∀ (v : DWord) (s : State),
      s.pins.v48 = true →
      s.jtagOn = false →
      ∃ u, exec (Instr.dbgReg v) s = .next u ∧ u.b .trc F.TRC_DBG_STAT_JTAG_REFUSED = true ∧ u.out = s.out ++ [.tdo [false]] ∧ u.jtag = { s.jtag with ir := 0x10 } ∧ u.mem = s.mem ∧ u.tiles = s.tiles)
  ∧ (∀ (v : Byte) (s : State),
      s.pins.v48 = true →
      s.jtagOn = true →
      v.toNat % 4 ≠ 0 →
      v.toNat % 4 < 3 ∨ s.rst.wasReady = true →
      ∃ u, exec (Instr.dbgReset v) s = .next u ∧ u.jtag.ir = 0x11 ∧ u.b .rst F.RST_CAUSE_DEBUG = true ∧ u.mem = s.mem ∧ u.tiles = s.tiles
      ∧ u.rst.want = (if s.rst.level ≠ 0 ∧ s.rst.level ≤ v.toNat % 4 then s.rst.want else if s.rst.want = 0 then v.toNat % 4 else min s.rst.want (v.toNat % 4)))
  ∧ (∀ (v : Byte) (s : State),
      s.pins.v48 = true →
      s.jtagOn = true →
      v.toNat % 4 = 0 →
      ∃ u, exec (Instr.dbgReset v) s = .next u ∧ u.jtag.ir = 0x11 ∧ u.out.length = s.out.length + 1 ∧ u.rst = s.rst ∧ u.regs = s.regs ∧ u.mem = s.mem ∧ u.tiles = s.tiles)
  ∧ (∀ (v : Byte) (s : State),
      s.pins.v48 = true →
      s.jtagOn = false →
      ∃ u, exec (Instr.dbgReset v) s = .next u ∧ u.b .trc F.TRC_DBG_STAT_JTAG_REFUSED = true ∧ u.out = s.out ++ [.tdo [false]] ∧ u.jtag = { s.jtag with ir := 0x11 } ∧ u.mem = s.mem ∧ u.tiles = s.tiles ∧ u.rst = s.rst)
  ∧ (∀ (l : Byte) (s : State),
      s.hkcCycles = true →
      ∃ u, exec (Instr.gpioInputChange l) s = .next u ∧ u.pins = { s.pins with gpio := l } ∧ u.r .rst F.RST_GPIO_EDGE_RISE = (BitVec.ofNat 8 (s.r .rst F.RST_GPIO_EDGE_RISE) ||| (u.gpioIn &&& ~~~s.gpioIn)).toNat
      ∧ u.r .rst F.RST_GPIO_EDGE_FALL = (BitVec.ofNat 8 (s.r .rst F.RST_GPIO_EDGE_FALL) ||| (s.gpioIn &&& ~~~u.gpioIn)).toNat ∧ u.mem = s.mem ∧ u.tiles = s.tiles ∧ u.tape = s.tape)
  ∧ (∀ (l : Byte) (s : State),
      s.hkcCycles = false →
      exec (Instr.gpioInputChange l) s = .next ({ s with pins := { s.pins with gpio := l } }))

end
end

