-- ==== Sys2Proof/Laws/State.lean ====
section
/-! SUPPORT. One lemma per field, and per accessor, per update of the state, each true by rfl, so that no proof unfolds a record update. -/
namespace Sys2Proof.Machine.State

variable (s : State)

/-! setWord -/
@[simp] theorem setWord_pending (o : Nat) (v : BitVec 32) : (s.setWord o v).pending = s.pending := rfl
@[simp] theorem setWord_tape (o : Nat) (v : BitVec 32) : (s.setWord o v).tape = s.tape := rfl
@[simp] theorem setWord_bar4 (o : Nat) (v : BitVec 32) : (s.setWord o v).bar4 = s.bar4 := rfl
@[simp] theorem setWord_latch (o : Nat) (v : BitVec 32) : (s.setWord o v).latch = s.latch := rfl
@[simp] theorem setWord_mem (o : Nat) (v : BitVec 32) : (s.setWord o v).mem = s.mem := rfl
@[simp] theorem setWord_errs (o : Nat) (v : BitVec 32) : (s.setWord o v).errs = s.errs := rfl
@[simp] theorem setWord_chans (o : Nat) (v : BitVec 32) : (s.setWord o v).chans = s.chans := rfl
@[simp] theorem setWord_scrubs (o : Nat) (v : BitVec 32) : (s.setWord o v).scrubs = s.scrubs := rfl
@[simp] theorem setWord_migs (o : Nat) (v : BitVec 32) : (s.setWord o v).migs = s.migs := rfl
@[simp] theorem setWord_needle (o : Nat) (v : BitVec 32) : (s.setWord o v).needle = s.needle := rfl
@[simp] theorem setWord_tiles (o : Nat) (v : BitVec 32) : (s.setWord o v).tiles = s.tiles := rfl
@[simp] theorem setWord_mesh (o : Nat) (v : BitVec 32) : (s.setWord o v).mesh = s.mesh := rfl
@[simp] theorem setWord_meshId (o : Nat) (v : BitVec 32) : (s.setWord o v).meshId = s.meshId := rfl
@[simp] theorem setWord_bolts (o : Nat) (v : BitVec 32) : (s.setWord o v).bolts = s.bolts := rfl
@[simp] theorem setWord_txns (o : Nat) (v : BitVec 32) : (s.setWord o v).txns = s.txns := rfl
@[simp] theorem setWord_stitched (o : Nat) (v : BitVec 32) : (s.setWord o v).stitched = s.stitched := rfl
@[simp] theorem setWord_log (o : Nat) (v : BitVec 32) : (s.setWord o v).log = s.log := rfl
@[simp] theorem setWord_logSel (o : Nat) (v : BitVec 32) : (s.setWord o v).logSel = s.logSel := rfl
@[simp] theorem setWord_qps (o : Nat) (v : BitVec 32) : (s.setWord o v).qps = s.qps := rfl
@[simp] theorem setWord_hports (o : Nat) (v : BitVec 32) : (s.setWord o v).hports = s.hports := rfl
@[simp] theorem setWord_nbus (o : Nat) (v : BitVec 32) : (s.setWord o v).nbus = s.nbus := rfl
@[simp] theorem setWord_chks (o : Nat) (v : BitVec 32) : (s.setWord o v).chks = s.chks := rfl
@[simp] theorem setWord_seams (o : Nat) (v : BitVec 32) : (s.setWord o v).seams = s.seams := rfl
@[simp] theorem setWord_fab (o : Nat) (v : BitVec 32) : (s.setWord o v).fab = s.fab := rfl
@[simp] theorem setWord_hkc (o : Nat) (v : BitVec 32) : (s.setWord o v).hkc = s.hkc := rfl
@[simp] theorem setWord_store (o : Nat) (v : BitVec 32) : (s.setWord o v).store = s.store := rfl
@[simp] theorem setWord_fuses (o : Nat) (v : BitVec 32) : (s.setWord o v).fuses = s.fuses := rfl
@[simp] theorem setWord_therm (o : Nat) (v : BitVec 32) : (s.setWord o v).therm = s.therm := rfl
@[simp] theorem setWord_pins (o : Nat) (v : BitVec 32) : (s.setWord o v).pins = s.pins := rfl
@[simp] theorem setWord_rst (o : Nat) (v : BitVec 32) : (s.setWord o v).rst = s.rst := rfl
@[simp] theorem setWord_jtag (o : Nat) (v : BitVec 32) : (s.setWord o v).jtag = s.jtag := rfl
@[simp] theorem setWord_trace (o : Nat) (v : BitVec 32) : (s.setWord o v).trace = s.trace := rfl
@[simp] theorem setWord_mgmt (o : Nat) (v : BitVec 32) : (s.setWord o v).mgmt = s.mgmt := rfl
@[simp] theorem setWord_slewTo (o : Nat) (v : BitVec 32) : (s.setWord o v).slewTo = s.slewTo := rfl
@[simp] theorem setWord_timingAt (o : Nat) (v : BitVec 32) : (s.setWord o v).timingAt = s.timingAt := rfl
@[simp] theorem setWord_out (o : Nat) (v : BitVec 32) : (s.setWord o v).out = s.out := rfl
@[simp] theorem setWord_free (o : Nat) (v : BitVec 32) : (s.setWord o v).free = s.free := rfl
@[simp] theorem setWord_acc_word4 (o : Nat) (v : BitVec 32) (p' o' : Nat) : (s.setWord o v).word4 p' o' = s.word4 p' o' := rfl
@[simp] theorem setWord_acc_r4 (o : Nat) (v : BitVec 32) (p' : Nat) (f' : Fld) : (s.setWord o v).r4 p' f' = s.r4 p' f' := rfl
@[simp] theorem setWord_acc_tile (o : Nat) (v : BitVec 32) (g' : Nat) : (s.setWord o v).tile g' = s.tile g' := rfl
@[simp] theorem setWord_acc_bolt (o : Nat) (v : BitVec 32) (b' : Nat) : (s.setWord o v).bolt b' = s.bolt b' := rfl
@[simp] theorem setWord_acc_txn (o : Nat) (v : BitVec 32) (q' : Nat) : (s.setWord o v).txn q' = s.txn q' := rfl
@[simp] theorem setWord_acc_qp (o : Nat) (v : BitVec 32) (p' n' : Nat) : (s.setWord o v).qp p' n' = s.qp p' n' := rfl
@[simp] theorem setWord_acc_hport (o : Nat) (v : BitVec 32) (p' : Nat) : (s.setWord o v).hport p' = s.hport p' := rfl
@[simp] theorem setWord_acc_nbu (o : Nat) (v : BitVec 32) (k' : Nat) : (s.setWord o v).nbu k' = s.nbu k' := rfl
@[simp] theorem setWord_acc_chkU (o : Nat) (v : BitVec 32) (d' : Nat) : (s.setWord o v).chkU d' = s.chkU d' := rfl
@[simp] theorem setWord_acc_chan (o : Nat) (v : BitVec 32) (c' : Nat) : (s.setWord o v).chan c' = s.chan c' := rfl
@[simp] theorem setWord_acc_fport (o : Nat) (v : BitVec 32) (f' : Nat) : (s.setWord o v).fport f' = s.fport f' := rfl
@[simp] theorem setWord_acc_seam (o : Nat) (v : BitVec 32) (k' : Nat) : (s.setWord o v).seam k' = s.seam k' := rfl
@[simp] theorem setWord_acc_thr (o : Nat) (v : BitVec 32) (k' : Nat) : (s.setWord o v).thr k' = s.thr k' := rfl
@[simp] theorem setWord_acc_live (o : Nat) (v : BitVec 32) : (s.setWord o v).live = s.live := rfl
@[simp] theorem setWord_acc_owner (o : Nat) (v : BitVec 32) (b' : Nat) : (s.setWord o v).owner b' = s.owner b' := rfl
@[simp] theorem setWord_acc_portAvail (o : Nat) (v : BitVec 32) (p' : Nat) : (s.setWord o v).portAvail p' = s.portAvail p' := rfl
@[simp] theorem setWord_acc_ctrlPort (o : Nat) (v : BitVec 32) : (s.setWord o v).ctrlPort = s.ctrlPort := rfl
@[simp] theorem setWord_acc_schedTape (o : Nat) (v : BitVec 32) : (s.setWord o v).schedTape = s.schedTape := rfl
/-! w -/
@[simp] theorem w_pending (k : Blk) (f : Fld) (v : Nat) : (s.w k f v).pending = s.pending := rfl
@[simp] theorem w_tape (k : Blk) (f : Fld) (v : Nat) : (s.w k f v).tape = s.tape := rfl
@[simp] theorem w_bar4 (k : Blk) (f : Fld) (v : Nat) : (s.w k f v).bar4 = s.bar4 := rfl
@[simp] theorem w_latch (k : Blk) (f : Fld) (v : Nat) : (s.w k f v).latch = s.latch := rfl
@[simp] theorem w_mem (k : Blk) (f : Fld) (v : Nat) : (s.w k f v).mem = s.mem := rfl
@[simp] theorem w_errs (k : Blk) (f : Fld) (v : Nat) : (s.w k f v).errs = s.errs := rfl
@[simp] theorem w_chans (k : Blk) (f : Fld) (v : Nat) : (s.w k f v).chans = s.chans := rfl
@[simp] theorem w_scrubs (k : Blk) (f : Fld) (v : Nat) : (s.w k f v).scrubs = s.scrubs := rfl
@[simp] theorem w_migs (k : Blk) (f : Fld) (v : Nat) : (s.w k f v).migs = s.migs := rfl
@[simp] theorem w_needle (k : Blk) (f : Fld) (v : Nat) : (s.w k f v).needle = s.needle := rfl
@[simp] theorem w_tiles (k : Blk) (f : Fld) (v : Nat) : (s.w k f v).tiles = s.tiles := rfl
@[simp] theorem w_mesh (k : Blk) (f : Fld) (v : Nat) : (s.w k f v).mesh = s.mesh := rfl
@[simp] theorem w_meshId (k : Blk) (f : Fld) (v : Nat) : (s.w k f v).meshId = s.meshId := rfl
@[simp] theorem w_bolts (k : Blk) (f : Fld) (v : Nat) : (s.w k f v).bolts = s.bolts := rfl
@[simp] theorem w_txns (k : Blk) (f : Fld) (v : Nat) : (s.w k f v).txns = s.txns := rfl
@[simp] theorem w_stitched (k : Blk) (f : Fld) (v : Nat) : (s.w k f v).stitched = s.stitched := rfl
@[simp] theorem w_log (k : Blk) (f : Fld) (v : Nat) : (s.w k f v).log = s.log := rfl
@[simp] theorem w_logSel (k : Blk) (f : Fld) (v : Nat) : (s.w k f v).logSel = s.logSel := rfl
@[simp] theorem w_qps (k : Blk) (f : Fld) (v : Nat) : (s.w k f v).qps = s.qps := rfl
@[simp] theorem w_hports (k : Blk) (f : Fld) (v : Nat) : (s.w k f v).hports = s.hports := rfl
@[simp] theorem w_nbus (k : Blk) (f : Fld) (v : Nat) : (s.w k f v).nbus = s.nbus := rfl
@[simp] theorem w_chks (k : Blk) (f : Fld) (v : Nat) : (s.w k f v).chks = s.chks := rfl
@[simp] theorem w_seams (k : Blk) (f : Fld) (v : Nat) : (s.w k f v).seams = s.seams := rfl
@[simp] theorem w_fab (k : Blk) (f : Fld) (v : Nat) : (s.w k f v).fab = s.fab := rfl
@[simp] theorem w_hkc (k : Blk) (f : Fld) (v : Nat) : (s.w k f v).hkc = s.hkc := rfl
@[simp] theorem w_store (k : Blk) (f : Fld) (v : Nat) : (s.w k f v).store = s.store := rfl
@[simp] theorem w_fuses (k : Blk) (f : Fld) (v : Nat) : (s.w k f v).fuses = s.fuses := rfl
@[simp] theorem w_therm (k : Blk) (f : Fld) (v : Nat) : (s.w k f v).therm = s.therm := rfl
@[simp] theorem w_pins (k : Blk) (f : Fld) (v : Nat) : (s.w k f v).pins = s.pins := rfl
@[simp] theorem w_rst (k : Blk) (f : Fld) (v : Nat) : (s.w k f v).rst = s.rst := rfl
@[simp] theorem w_jtag (k : Blk) (f : Fld) (v : Nat) : (s.w k f v).jtag = s.jtag := rfl
@[simp] theorem w_trace (k : Blk) (f : Fld) (v : Nat) : (s.w k f v).trace = s.trace := rfl
@[simp] theorem w_mgmt (k : Blk) (f : Fld) (v : Nat) : (s.w k f v).mgmt = s.mgmt := rfl
@[simp] theorem w_slewTo (k : Blk) (f : Fld) (v : Nat) : (s.w k f v).slewTo = s.slewTo := rfl
@[simp] theorem w_timingAt (k : Blk) (f : Fld) (v : Nat) : (s.w k f v).timingAt = s.timingAt := rfl
@[simp] theorem w_out (k : Blk) (f : Fld) (v : Nat) : (s.w k f v).out = s.out := rfl
@[simp] theorem w_free (k : Blk) (f : Fld) (v : Nat) : (s.w k f v).free = s.free := rfl
@[simp] theorem w_acc_word4 (k : Blk) (f : Fld) (v : Nat) (p' o' : Nat) : (s.w k f v).word4 p' o' = s.word4 p' o' := rfl
@[simp] theorem w_acc_r4 (k : Blk) (f : Fld) (v : Nat) (p' : Nat) (f' : Fld) : (s.w k f v).r4 p' f' = s.r4 p' f' := rfl
@[simp] theorem w_acc_tile (k : Blk) (f : Fld) (v : Nat) (g' : Nat) : (s.w k f v).tile g' = s.tile g' := rfl
@[simp] theorem w_acc_bolt (k : Blk) (f : Fld) (v : Nat) (b' : Nat) : (s.w k f v).bolt b' = s.bolt b' := rfl
@[simp] theorem w_acc_txn (k : Blk) (f : Fld) (v : Nat) (q' : Nat) : (s.w k f v).txn q' = s.txn q' := rfl
@[simp] theorem w_acc_qp (k : Blk) (f : Fld) (v : Nat) (p' n' : Nat) : (s.w k f v).qp p' n' = s.qp p' n' := rfl
@[simp] theorem w_acc_hport (k : Blk) (f : Fld) (v : Nat) (p' : Nat) : (s.w k f v).hport p' = s.hport p' := rfl
@[simp] theorem w_acc_nbu (k : Blk) (f : Fld) (v : Nat) (k' : Nat) : (s.w k f v).nbu k' = s.nbu k' := rfl
@[simp] theorem w_acc_chkU (k : Blk) (f : Fld) (v : Nat) (d' : Nat) : (s.w k f v).chkU d' = s.chkU d' := rfl
@[simp] theorem w_acc_chan (k : Blk) (f : Fld) (v : Nat) (c' : Nat) : (s.w k f v).chan c' = s.chan c' := rfl
@[simp] theorem w_acc_fport (k : Blk) (f : Fld) (v : Nat) (f' : Nat) : (s.w k f v).fport f' = s.fport f' := rfl
@[simp] theorem w_acc_seam (k : Blk) (f : Fld) (v : Nat) (k' : Nat) : (s.w k f v).seam k' = s.seam k' := rfl
@[simp] theorem w_acc_thr (k : Blk) (f : Fld) (v : Nat) (k' : Nat) : (s.w k f v).thr k' = s.thr k' := rfl
@[simp] theorem w_acc_live (k : Blk) (f : Fld) (v : Nat) : (s.w k f v).live = s.live := rfl
@[simp] theorem w_acc_owner (k : Blk) (f : Fld) (v : Nat) (b' : Nat) : (s.w k f v).owner b' = s.owner b' := rfl
@[simp] theorem w_acc_portAvail (k : Blk) (f : Fld) (v : Nat) (p' : Nat) : (s.w k f v).portAvail p' = s.portAvail p' := rfl
@[simp] theorem w_acc_ctrlPort (k : Blk) (f : Fld) (v : Nat) : (s.w k f v).ctrlPort = s.ctrlPort := rfl
@[simp] theorem w_acc_schedTape (k : Blk) (f : Fld) (v : Nat) : (s.w k f v).schedTape = s.schedTape := rfl
/-! wb -/
@[simp] theorem wb_pending (k : Blk) (f : Fld) (v : Bool) : (s.wb k f v).pending = s.pending := rfl
@[simp] theorem wb_tape (k : Blk) (f : Fld) (v : Bool) : (s.wb k f v).tape = s.tape := rfl
@[simp] theorem wb_bar4 (k : Blk) (f : Fld) (v : Bool) : (s.wb k f v).bar4 = s.bar4 := rfl
@[simp] theorem wb_latch (k : Blk) (f : Fld) (v : Bool) : (s.wb k f v).latch = s.latch := rfl
@[simp] theorem wb_mem (k : Blk) (f : Fld) (v : Bool) : (s.wb k f v).mem = s.mem := rfl
@[simp] theorem wb_errs (k : Blk) (f : Fld) (v : Bool) : (s.wb k f v).errs = s.errs := rfl
@[simp] theorem wb_chans (k : Blk) (f : Fld) (v : Bool) : (s.wb k f v).chans = s.chans := rfl
@[simp] theorem wb_scrubs (k : Blk) (f : Fld) (v : Bool) : (s.wb k f v).scrubs = s.scrubs := rfl
@[simp] theorem wb_migs (k : Blk) (f : Fld) (v : Bool) : (s.wb k f v).migs = s.migs := rfl
@[simp] theorem wb_needle (k : Blk) (f : Fld) (v : Bool) : (s.wb k f v).needle = s.needle := rfl
@[simp] theorem wb_tiles (k : Blk) (f : Fld) (v : Bool) : (s.wb k f v).tiles = s.tiles := rfl
@[simp] theorem wb_mesh (k : Blk) (f : Fld) (v : Bool) : (s.wb k f v).mesh = s.mesh := rfl
@[simp] theorem wb_meshId (k : Blk) (f : Fld) (v : Bool) : (s.wb k f v).meshId = s.meshId := rfl
@[simp] theorem wb_bolts (k : Blk) (f : Fld) (v : Bool) : (s.wb k f v).bolts = s.bolts := rfl
@[simp] theorem wb_txns (k : Blk) (f : Fld) (v : Bool) : (s.wb k f v).txns = s.txns := rfl
@[simp] theorem wb_stitched (k : Blk) (f : Fld) (v : Bool) : (s.wb k f v).stitched = s.stitched := rfl
@[simp] theorem wb_log (k : Blk) (f : Fld) (v : Bool) : (s.wb k f v).log = s.log := rfl
@[simp] theorem wb_logSel (k : Blk) (f : Fld) (v : Bool) : (s.wb k f v).logSel = s.logSel := rfl
@[simp] theorem wb_qps (k : Blk) (f : Fld) (v : Bool) : (s.wb k f v).qps = s.qps := rfl
@[simp] theorem wb_hports (k : Blk) (f : Fld) (v : Bool) : (s.wb k f v).hports = s.hports := rfl
@[simp] theorem wb_nbus (k : Blk) (f : Fld) (v : Bool) : (s.wb k f v).nbus = s.nbus := rfl
@[simp] theorem wb_chks (k : Blk) (f : Fld) (v : Bool) : (s.wb k f v).chks = s.chks := rfl
@[simp] theorem wb_seams (k : Blk) (f : Fld) (v : Bool) : (s.wb k f v).seams = s.seams := rfl
@[simp] theorem wb_fab (k : Blk) (f : Fld) (v : Bool) : (s.wb k f v).fab = s.fab := rfl
@[simp] theorem wb_hkc (k : Blk) (f : Fld) (v : Bool) : (s.wb k f v).hkc = s.hkc := rfl
@[simp] theorem wb_store (k : Blk) (f : Fld) (v : Bool) : (s.wb k f v).store = s.store := rfl
@[simp] theorem wb_fuses (k : Blk) (f : Fld) (v : Bool) : (s.wb k f v).fuses = s.fuses := rfl
@[simp] theorem wb_therm (k : Blk) (f : Fld) (v : Bool) : (s.wb k f v).therm = s.therm := rfl
@[simp] theorem wb_pins (k : Blk) (f : Fld) (v : Bool) : (s.wb k f v).pins = s.pins := rfl
@[simp] theorem wb_rst (k : Blk) (f : Fld) (v : Bool) : (s.wb k f v).rst = s.rst := rfl
@[simp] theorem wb_jtag (k : Blk) (f : Fld) (v : Bool) : (s.wb k f v).jtag = s.jtag := rfl
@[simp] theorem wb_trace (k : Blk) (f : Fld) (v : Bool) : (s.wb k f v).trace = s.trace := rfl
@[simp] theorem wb_mgmt (k : Blk) (f : Fld) (v : Bool) : (s.wb k f v).mgmt = s.mgmt := rfl
@[simp] theorem wb_slewTo (k : Blk) (f : Fld) (v : Bool) : (s.wb k f v).slewTo = s.slewTo := rfl
@[simp] theorem wb_timingAt (k : Blk) (f : Fld) (v : Bool) : (s.wb k f v).timingAt = s.timingAt := rfl
@[simp] theorem wb_out (k : Blk) (f : Fld) (v : Bool) : (s.wb k f v).out = s.out := rfl
@[simp] theorem wb_free (k : Blk) (f : Fld) (v : Bool) : (s.wb k f v).free = s.free := rfl
@[simp] theorem wb_acc_word4 (k : Blk) (f : Fld) (v : Bool) (p' o' : Nat) : (s.wb k f v).word4 p' o' = s.word4 p' o' := rfl
@[simp] theorem wb_acc_r4 (k : Blk) (f : Fld) (v : Bool) (p' : Nat) (f' : Fld) : (s.wb k f v).r4 p' f' = s.r4 p' f' := rfl
@[simp] theorem wb_acc_tile (k : Blk) (f : Fld) (v : Bool) (g' : Nat) : (s.wb k f v).tile g' = s.tile g' := rfl
@[simp] theorem wb_acc_bolt (k : Blk) (f : Fld) (v : Bool) (b' : Nat) : (s.wb k f v).bolt b' = s.bolt b' := rfl
@[simp] theorem wb_acc_txn (k : Blk) (f : Fld) (v : Bool) (q' : Nat) : (s.wb k f v).txn q' = s.txn q' := rfl
@[simp] theorem wb_acc_qp (k : Blk) (f : Fld) (v : Bool) (p' n' : Nat) : (s.wb k f v).qp p' n' = s.qp p' n' := rfl
@[simp] theorem wb_acc_hport (k : Blk) (f : Fld) (v : Bool) (p' : Nat) : (s.wb k f v).hport p' = s.hport p' := rfl
@[simp] theorem wb_acc_nbu (k : Blk) (f : Fld) (v : Bool) (k' : Nat) : (s.wb k f v).nbu k' = s.nbu k' := rfl
@[simp] theorem wb_acc_chkU (k : Blk) (f : Fld) (v : Bool) (d' : Nat) : (s.wb k f v).chkU d' = s.chkU d' := rfl
@[simp] theorem wb_acc_chan (k : Blk) (f : Fld) (v : Bool) (c' : Nat) : (s.wb k f v).chan c' = s.chan c' := rfl
@[simp] theorem wb_acc_fport (k : Blk) (f : Fld) (v : Bool) (f' : Nat) : (s.wb k f v).fport f' = s.fport f' := rfl
@[simp] theorem wb_acc_seam (k : Blk) (f : Fld) (v : Bool) (k' : Nat) : (s.wb k f v).seam k' = s.seam k' := rfl
@[simp] theorem wb_acc_thr (k : Blk) (f : Fld) (v : Bool) (k' : Nat) : (s.wb k f v).thr k' = s.thr k' := rfl
@[simp] theorem wb_acc_live (k : Blk) (f : Fld) (v : Bool) : (s.wb k f v).live = s.live := rfl
@[simp] theorem wb_acc_owner (k : Blk) (f : Fld) (v : Bool) (b' : Nat) : (s.wb k f v).owner b' = s.owner b' := rfl
@[simp] theorem wb_acc_portAvail (k : Blk) (f : Fld) (v : Bool) (p' : Nat) : (s.wb k f v).portAvail p' = s.portAvail p' := rfl
@[simp] theorem wb_acc_ctrlPort (k : Blk) (f : Fld) (v : Bool) : (s.wb k f v).ctrlPort = s.ctrlPort := rfl
@[simp] theorem wb_acc_schedTape (k : Blk) (f : Fld) (v : Bool) : (s.wb k f v).schedTape = s.schedTape := rfl
/-! inc -/
@[simp] theorem inc_pending (k : Blk) (f : Fld) (n : Nat) : (s.inc k f n).pending = s.pending := rfl
@[simp] theorem inc_tape (k : Blk) (f : Fld) (n : Nat) : (s.inc k f n).tape = s.tape := rfl
@[simp] theorem inc_bar4 (k : Blk) (f : Fld) (n : Nat) : (s.inc k f n).bar4 = s.bar4 := rfl
@[simp] theorem inc_latch (k : Blk) (f : Fld) (n : Nat) : (s.inc k f n).latch = s.latch := rfl
@[simp] theorem inc_mem (k : Blk) (f : Fld) (n : Nat) : (s.inc k f n).mem = s.mem := rfl
@[simp] theorem inc_errs (k : Blk) (f : Fld) (n : Nat) : (s.inc k f n).errs = s.errs := rfl
@[simp] theorem inc_chans (k : Blk) (f : Fld) (n : Nat) : (s.inc k f n).chans = s.chans := rfl
@[simp] theorem inc_scrubs (k : Blk) (f : Fld) (n : Nat) : (s.inc k f n).scrubs = s.scrubs := rfl
@[simp] theorem inc_migs (k : Blk) (f : Fld) (n : Nat) : (s.inc k f n).migs = s.migs := rfl
@[simp] theorem inc_needle (k : Blk) (f : Fld) (n : Nat) : (s.inc k f n).needle = s.needle := rfl
@[simp] theorem inc_tiles (k : Blk) (f : Fld) (n : Nat) : (s.inc k f n).tiles = s.tiles := rfl
@[simp] theorem inc_mesh (k : Blk) (f : Fld) (n : Nat) : (s.inc k f n).mesh = s.mesh := rfl
@[simp] theorem inc_meshId (k : Blk) (f : Fld) (n : Nat) : (s.inc k f n).meshId = s.meshId := rfl
@[simp] theorem inc_bolts (k : Blk) (f : Fld) (n : Nat) : (s.inc k f n).bolts = s.bolts := rfl
@[simp] theorem inc_txns (k : Blk) (f : Fld) (n : Nat) : (s.inc k f n).txns = s.txns := rfl
@[simp] theorem inc_stitched (k : Blk) (f : Fld) (n : Nat) : (s.inc k f n).stitched = s.stitched := rfl
@[simp] theorem inc_log (k : Blk) (f : Fld) (n : Nat) : (s.inc k f n).log = s.log := rfl
@[simp] theorem inc_logSel (k : Blk) (f : Fld) (n : Nat) : (s.inc k f n).logSel = s.logSel := rfl
@[simp] theorem inc_qps (k : Blk) (f : Fld) (n : Nat) : (s.inc k f n).qps = s.qps := rfl
@[simp] theorem inc_hports (k : Blk) (f : Fld) (n : Nat) : (s.inc k f n).hports = s.hports := rfl
@[simp] theorem inc_nbus (k : Blk) (f : Fld) (n : Nat) : (s.inc k f n).nbus = s.nbus := rfl
@[simp] theorem inc_chks (k : Blk) (f : Fld) (n : Nat) : (s.inc k f n).chks = s.chks := rfl
@[simp] theorem inc_seams (k : Blk) (f : Fld) (n : Nat) : (s.inc k f n).seams = s.seams := rfl
@[simp] theorem inc_fab (k : Blk) (f : Fld) (n : Nat) : (s.inc k f n).fab = s.fab := rfl
@[simp] theorem inc_hkc (k : Blk) (f : Fld) (n : Nat) : (s.inc k f n).hkc = s.hkc := rfl
@[simp] theorem inc_store (k : Blk) (f : Fld) (n : Nat) : (s.inc k f n).store = s.store := rfl
@[simp] theorem inc_fuses (k : Blk) (f : Fld) (n : Nat) : (s.inc k f n).fuses = s.fuses := rfl
@[simp] theorem inc_therm (k : Blk) (f : Fld) (n : Nat) : (s.inc k f n).therm = s.therm := rfl
@[simp] theorem inc_pins (k : Blk) (f : Fld) (n : Nat) : (s.inc k f n).pins = s.pins := rfl
@[simp] theorem inc_rst (k : Blk) (f : Fld) (n : Nat) : (s.inc k f n).rst = s.rst := rfl
@[simp] theorem inc_jtag (k : Blk) (f : Fld) (n : Nat) : (s.inc k f n).jtag = s.jtag := rfl
@[simp] theorem inc_trace (k : Blk) (f : Fld) (n : Nat) : (s.inc k f n).trace = s.trace := rfl
@[simp] theorem inc_mgmt (k : Blk) (f : Fld) (n : Nat) : (s.inc k f n).mgmt = s.mgmt := rfl
@[simp] theorem inc_slewTo (k : Blk) (f : Fld) (n : Nat) : (s.inc k f n).slewTo = s.slewTo := rfl
@[simp] theorem inc_timingAt (k : Blk) (f : Fld) (n : Nat) : (s.inc k f n).timingAt = s.timingAt := rfl
@[simp] theorem inc_out (k : Blk) (f : Fld) (n : Nat) : (s.inc k f n).out = s.out := rfl
@[simp] theorem inc_free (k : Blk) (f : Fld) (n : Nat) : (s.inc k f n).free = s.free := rfl
@[simp] theorem inc_acc_word4 (k : Blk) (f : Fld) (n : Nat) (p' o' : Nat) : (s.inc k f n).word4 p' o' = s.word4 p' o' := rfl
@[simp] theorem inc_acc_r4 (k : Blk) (f : Fld) (n : Nat) (p' : Nat) (f' : Fld) : (s.inc k f n).r4 p' f' = s.r4 p' f' := rfl
@[simp] theorem inc_acc_tile (k : Blk) (f : Fld) (n : Nat) (g' : Nat) : (s.inc k f n).tile g' = s.tile g' := rfl
@[simp] theorem inc_acc_bolt (k : Blk) (f : Fld) (n : Nat) (b' : Nat) : (s.inc k f n).bolt b' = s.bolt b' := rfl
@[simp] theorem inc_acc_txn (k : Blk) (f : Fld) (n : Nat) (q' : Nat) : (s.inc k f n).txn q' = s.txn q' := rfl
@[simp] theorem inc_acc_qp (k : Blk) (f : Fld) (n : Nat) (p' n' : Nat) : (s.inc k f n).qp p' n' = s.qp p' n' := rfl
@[simp] theorem inc_acc_hport (k : Blk) (f : Fld) (n : Nat) (p' : Nat) : (s.inc k f n).hport p' = s.hport p' := rfl
@[simp] theorem inc_acc_nbu (k : Blk) (f : Fld) (n : Nat) (k' : Nat) : (s.inc k f n).nbu k' = s.nbu k' := rfl
@[simp] theorem inc_acc_chkU (k : Blk) (f : Fld) (n : Nat) (d' : Nat) : (s.inc k f n).chkU d' = s.chkU d' := rfl
@[simp] theorem inc_acc_chan (k : Blk) (f : Fld) (n : Nat) (c' : Nat) : (s.inc k f n).chan c' = s.chan c' := rfl
@[simp] theorem inc_acc_fport (k : Blk) (f : Fld) (n : Nat) (f' : Nat) : (s.inc k f n).fport f' = s.fport f' := rfl
@[simp] theorem inc_acc_seam (k : Blk) (f : Fld) (n : Nat) (k' : Nat) : (s.inc k f n).seam k' = s.seam k' := rfl
@[simp] theorem inc_acc_thr (k : Blk) (f : Fld) (n : Nat) (k' : Nat) : (s.inc k f n).thr k' = s.thr k' := rfl
@[simp] theorem inc_acc_live (k : Blk) (f : Fld) (n : Nat) : (s.inc k f n).live = s.live := rfl
@[simp] theorem inc_acc_owner (k : Blk) (f : Fld) (n : Nat) (b' : Nat) : (s.inc k f n).owner b' = s.owner b' := rfl
@[simp] theorem inc_acc_portAvail (k : Blk) (f : Fld) (n : Nat) (p' : Nat) : (s.inc k f n).portAvail p' = s.portAvail p' := rfl
@[simp] theorem inc_acc_ctrlPort (k : Blk) (f : Fld) (n : Nat) : (s.inc k f n).ctrlPort = s.ctrlPort := rfl
@[simp] theorem inc_acc_schedTape (k : Blk) (f : Fld) (n : Nat) : (s.inc k f n).schedTape = s.schedTape := rfl
/-! wrapInc -/
@[simp] theorem wrapInc_pending (k : Blk) (f : Fld) : (s.wrapInc k f).pending = s.pending := rfl
@[simp] theorem wrapInc_tape (k : Blk) (f : Fld) : (s.wrapInc k f).tape = s.tape := rfl
@[simp] theorem wrapInc_bar4 (k : Blk) (f : Fld) : (s.wrapInc k f).bar4 = s.bar4 := rfl
@[simp] theorem wrapInc_latch (k : Blk) (f : Fld) : (s.wrapInc k f).latch = s.latch := rfl
@[simp] theorem wrapInc_mem (k : Blk) (f : Fld) : (s.wrapInc k f).mem = s.mem := rfl
@[simp] theorem wrapInc_errs (k : Blk) (f : Fld) : (s.wrapInc k f).errs = s.errs := rfl
@[simp] theorem wrapInc_chans (k : Blk) (f : Fld) : (s.wrapInc k f).chans = s.chans := rfl
@[simp] theorem wrapInc_scrubs (k : Blk) (f : Fld) : (s.wrapInc k f).scrubs = s.scrubs := rfl
@[simp] theorem wrapInc_migs (k : Blk) (f : Fld) : (s.wrapInc k f).migs = s.migs := rfl
@[simp] theorem wrapInc_needle (k : Blk) (f : Fld) : (s.wrapInc k f).needle = s.needle := rfl
@[simp] theorem wrapInc_tiles (k : Blk) (f : Fld) : (s.wrapInc k f).tiles = s.tiles := rfl
@[simp] theorem wrapInc_mesh (k : Blk) (f : Fld) : (s.wrapInc k f).mesh = s.mesh := rfl
@[simp] theorem wrapInc_meshId (k : Blk) (f : Fld) : (s.wrapInc k f).meshId = s.meshId := rfl
@[simp] theorem wrapInc_bolts (k : Blk) (f : Fld) : (s.wrapInc k f).bolts = s.bolts := rfl
@[simp] theorem wrapInc_txns (k : Blk) (f : Fld) : (s.wrapInc k f).txns = s.txns := rfl
@[simp] theorem wrapInc_stitched (k : Blk) (f : Fld) : (s.wrapInc k f).stitched = s.stitched := rfl
@[simp] theorem wrapInc_log (k : Blk) (f : Fld) : (s.wrapInc k f).log = s.log := rfl
@[simp] theorem wrapInc_logSel (k : Blk) (f : Fld) : (s.wrapInc k f).logSel = s.logSel := rfl
@[simp] theorem wrapInc_qps (k : Blk) (f : Fld) : (s.wrapInc k f).qps = s.qps := rfl
@[simp] theorem wrapInc_hports (k : Blk) (f : Fld) : (s.wrapInc k f).hports = s.hports := rfl
@[simp] theorem wrapInc_nbus (k : Blk) (f : Fld) : (s.wrapInc k f).nbus = s.nbus := rfl
@[simp] theorem wrapInc_chks (k : Blk) (f : Fld) : (s.wrapInc k f).chks = s.chks := rfl
@[simp] theorem wrapInc_seams (k : Blk) (f : Fld) : (s.wrapInc k f).seams = s.seams := rfl
@[simp] theorem wrapInc_fab (k : Blk) (f : Fld) : (s.wrapInc k f).fab = s.fab := rfl
@[simp] theorem wrapInc_hkc (k : Blk) (f : Fld) : (s.wrapInc k f).hkc = s.hkc := rfl
@[simp] theorem wrapInc_store (k : Blk) (f : Fld) : (s.wrapInc k f).store = s.store := rfl
@[simp] theorem wrapInc_fuses (k : Blk) (f : Fld) : (s.wrapInc k f).fuses = s.fuses := rfl
@[simp] theorem wrapInc_therm (k : Blk) (f : Fld) : (s.wrapInc k f).therm = s.therm := rfl
@[simp] theorem wrapInc_pins (k : Blk) (f : Fld) : (s.wrapInc k f).pins = s.pins := rfl
@[simp] theorem wrapInc_rst (k : Blk) (f : Fld) : (s.wrapInc k f).rst = s.rst := rfl
@[simp] theorem wrapInc_jtag (k : Blk) (f : Fld) : (s.wrapInc k f).jtag = s.jtag := rfl
@[simp] theorem wrapInc_trace (k : Blk) (f : Fld) : (s.wrapInc k f).trace = s.trace := rfl
@[simp] theorem wrapInc_mgmt (k : Blk) (f : Fld) : (s.wrapInc k f).mgmt = s.mgmt := rfl
@[simp] theorem wrapInc_slewTo (k : Blk) (f : Fld) : (s.wrapInc k f).slewTo = s.slewTo := rfl
@[simp] theorem wrapInc_timingAt (k : Blk) (f : Fld) : (s.wrapInc k f).timingAt = s.timingAt := rfl
@[simp] theorem wrapInc_out (k : Blk) (f : Fld) : (s.wrapInc k f).out = s.out := rfl
@[simp] theorem wrapInc_free (k : Blk) (f : Fld) : (s.wrapInc k f).free = s.free := rfl
@[simp] theorem wrapInc_acc_word4 (k : Blk) (f : Fld) (p' o' : Nat) : (s.wrapInc k f).word4 p' o' = s.word4 p' o' := rfl
@[simp] theorem wrapInc_acc_r4 (k : Blk) (f : Fld) (p' : Nat) (f' : Fld) : (s.wrapInc k f).r4 p' f' = s.r4 p' f' := rfl
@[simp] theorem wrapInc_acc_tile (k : Blk) (f : Fld) (g' : Nat) : (s.wrapInc k f).tile g' = s.tile g' := rfl
@[simp] theorem wrapInc_acc_bolt (k : Blk) (f : Fld) (b' : Nat) : (s.wrapInc k f).bolt b' = s.bolt b' := rfl
@[simp] theorem wrapInc_acc_txn (k : Blk) (f : Fld) (q' : Nat) : (s.wrapInc k f).txn q' = s.txn q' := rfl
@[simp] theorem wrapInc_acc_qp (k : Blk) (f : Fld) (p' n' : Nat) : (s.wrapInc k f).qp p' n' = s.qp p' n' := rfl
@[simp] theorem wrapInc_acc_hport (k : Blk) (f : Fld) (p' : Nat) : (s.wrapInc k f).hport p' = s.hport p' := rfl
@[simp] theorem wrapInc_acc_nbu (k : Blk) (f : Fld) (k' : Nat) : (s.wrapInc k f).nbu k' = s.nbu k' := rfl
@[simp] theorem wrapInc_acc_chkU (k : Blk) (f : Fld) (d' : Nat) : (s.wrapInc k f).chkU d' = s.chkU d' := rfl
@[simp] theorem wrapInc_acc_chan (k : Blk) (f : Fld) (c' : Nat) : (s.wrapInc k f).chan c' = s.chan c' := rfl
@[simp] theorem wrapInc_acc_fport (k : Blk) (f : Fld) (f' : Nat) : (s.wrapInc k f).fport f' = s.fport f' := rfl
@[simp] theorem wrapInc_acc_seam (k : Blk) (f : Fld) (k' : Nat) : (s.wrapInc k f).seam k' = s.seam k' := rfl
@[simp] theorem wrapInc_acc_thr (k : Blk) (f : Fld) (k' : Nat) : (s.wrapInc k f).thr k' = s.thr k' := rfl
@[simp] theorem wrapInc_acc_live (k : Blk) (f : Fld) : (s.wrapInc k f).live = s.live := rfl
@[simp] theorem wrapInc_acc_owner (k : Blk) (f : Fld) (b' : Nat) : (s.wrapInc k f).owner b' = s.owner b' := rfl
@[simp] theorem wrapInc_acc_portAvail (k : Blk) (f : Fld) (p' : Nat) : (s.wrapInc k f).portAvail p' = s.portAvail p' := rfl
@[simp] theorem wrapInc_acc_ctrlPort (k : Blk) (f : Fld) : (s.wrapInc k f).ctrlPort = s.ctrlPort := rfl
@[simp] theorem wrapInc_acc_schedTape (k : Blk) (f : Fld) : (s.wrapInc k f).schedTape = s.schedTape := rfl
/-! w2 -/
@[simp] theorem w2_pending (k : Blk) (a b : Fld) (v : Nat) : (s.w2 k a b v).pending = s.pending := rfl
@[simp] theorem w2_tape (k : Blk) (a b : Fld) (v : Nat) : (s.w2 k a b v).tape = s.tape := rfl
@[simp] theorem w2_bar4 (k : Blk) (a b : Fld) (v : Nat) : (s.w2 k a b v).bar4 = s.bar4 := rfl
@[simp] theorem w2_latch (k : Blk) (a b : Fld) (v : Nat) : (s.w2 k a b v).latch = s.latch := rfl
@[simp] theorem w2_mem (k : Blk) (a b : Fld) (v : Nat) : (s.w2 k a b v).mem = s.mem := rfl
@[simp] theorem w2_errs (k : Blk) (a b : Fld) (v : Nat) : (s.w2 k a b v).errs = s.errs := rfl
@[simp] theorem w2_chans (k : Blk) (a b : Fld) (v : Nat) : (s.w2 k a b v).chans = s.chans := rfl
@[simp] theorem w2_scrubs (k : Blk) (a b : Fld) (v : Nat) : (s.w2 k a b v).scrubs = s.scrubs := rfl
@[simp] theorem w2_migs (k : Blk) (a b : Fld) (v : Nat) : (s.w2 k a b v).migs = s.migs := rfl
@[simp] theorem w2_needle (k : Blk) (a b : Fld) (v : Nat) : (s.w2 k a b v).needle = s.needle := rfl
@[simp] theorem w2_tiles (k : Blk) (a b : Fld) (v : Nat) : (s.w2 k a b v).tiles = s.tiles := rfl
@[simp] theorem w2_mesh (k : Blk) (a b : Fld) (v : Nat) : (s.w2 k a b v).mesh = s.mesh := rfl
@[simp] theorem w2_meshId (k : Blk) (a b : Fld) (v : Nat) : (s.w2 k a b v).meshId = s.meshId := rfl
@[simp] theorem w2_bolts (k : Blk) (a b : Fld) (v : Nat) : (s.w2 k a b v).bolts = s.bolts := rfl
@[simp] theorem w2_txns (k : Blk) (a b : Fld) (v : Nat) : (s.w2 k a b v).txns = s.txns := rfl
@[simp] theorem w2_stitched (k : Blk) (a b : Fld) (v : Nat) : (s.w2 k a b v).stitched = s.stitched := rfl
@[simp] theorem w2_log (k : Blk) (a b : Fld) (v : Nat) : (s.w2 k a b v).log = s.log := rfl
@[simp] theorem w2_logSel (k : Blk) (a b : Fld) (v : Nat) : (s.w2 k a b v).logSel = s.logSel := rfl
@[simp] theorem w2_qps (k : Blk) (a b : Fld) (v : Nat) : (s.w2 k a b v).qps = s.qps := rfl
@[simp] theorem w2_hports (k : Blk) (a b : Fld) (v : Nat) : (s.w2 k a b v).hports = s.hports := rfl
@[simp] theorem w2_nbus (k : Blk) (a b : Fld) (v : Nat) : (s.w2 k a b v).nbus = s.nbus := rfl
@[simp] theorem w2_chks (k : Blk) (a b : Fld) (v : Nat) : (s.w2 k a b v).chks = s.chks := rfl
@[simp] theorem w2_seams (k : Blk) (a b : Fld) (v : Nat) : (s.w2 k a b v).seams = s.seams := rfl
@[simp] theorem w2_fab (k : Blk) (a b : Fld) (v : Nat) : (s.w2 k a b v).fab = s.fab := rfl
@[simp] theorem w2_hkc (k : Blk) (a b : Fld) (v : Nat) : (s.w2 k a b v).hkc = s.hkc := rfl
@[simp] theorem w2_store (k : Blk) (a b : Fld) (v : Nat) : (s.w2 k a b v).store = s.store := rfl
@[simp] theorem w2_fuses (k : Blk) (a b : Fld) (v : Nat) : (s.w2 k a b v).fuses = s.fuses := rfl
@[simp] theorem w2_therm (k : Blk) (a b : Fld) (v : Nat) : (s.w2 k a b v).therm = s.therm := rfl
@[simp] theorem w2_pins (k : Blk) (a b : Fld) (v : Nat) : (s.w2 k a b v).pins = s.pins := rfl
@[simp] theorem w2_rst (k : Blk) (a b : Fld) (v : Nat) : (s.w2 k a b v).rst = s.rst := rfl
@[simp] theorem w2_jtag (k : Blk) (a b : Fld) (v : Nat) : (s.w2 k a b v).jtag = s.jtag := rfl
@[simp] theorem w2_trace (k : Blk) (a b : Fld) (v : Nat) : (s.w2 k a b v).trace = s.trace := rfl
@[simp] theorem w2_mgmt (k : Blk) (a b : Fld) (v : Nat) : (s.w2 k a b v).mgmt = s.mgmt := rfl
@[simp] theorem w2_slewTo (k : Blk) (a b : Fld) (v : Nat) : (s.w2 k a b v).slewTo = s.slewTo := rfl
@[simp] theorem w2_timingAt (k : Blk) (a b : Fld) (v : Nat) : (s.w2 k a b v).timingAt = s.timingAt := rfl
@[simp] theorem w2_out (k : Blk) (a b : Fld) (v : Nat) : (s.w2 k a b v).out = s.out := rfl
@[simp] theorem w2_free (k : Blk) (a b : Fld) (v : Nat) : (s.w2 k a b v).free = s.free := rfl
@[simp] theorem w2_acc_word4 (k : Blk) (a b : Fld) (v : Nat) (p' o' : Nat) : (s.w2 k a b v).word4 p' o' = s.word4 p' o' := rfl
@[simp] theorem w2_acc_r4 (k : Blk) (a b : Fld) (v : Nat) (p' : Nat) (f' : Fld) : (s.w2 k a b v).r4 p' f' = s.r4 p' f' := rfl
@[simp] theorem w2_acc_tile (k : Blk) (a b : Fld) (v : Nat) (g' : Nat) : (s.w2 k a b v).tile g' = s.tile g' := rfl
@[simp] theorem w2_acc_bolt (k : Blk) (a b : Fld) (v : Nat) (b' : Nat) : (s.w2 k a b v).bolt b' = s.bolt b' := rfl
@[simp] theorem w2_acc_txn (k : Blk) (a b : Fld) (v : Nat) (q' : Nat) : (s.w2 k a b v).txn q' = s.txn q' := rfl
@[simp] theorem w2_acc_qp (k : Blk) (a b : Fld) (v : Nat) (p' n' : Nat) : (s.w2 k a b v).qp p' n' = s.qp p' n' := rfl
@[simp] theorem w2_acc_hport (k : Blk) (a b : Fld) (v : Nat) (p' : Nat) : (s.w2 k a b v).hport p' = s.hport p' := rfl
@[simp] theorem w2_acc_nbu (k : Blk) (a b : Fld) (v : Nat) (k' : Nat) : (s.w2 k a b v).nbu k' = s.nbu k' := rfl
@[simp] theorem w2_acc_chkU (k : Blk) (a b : Fld) (v : Nat) (d' : Nat) : (s.w2 k a b v).chkU d' = s.chkU d' := rfl
@[simp] theorem w2_acc_chan (k : Blk) (a b : Fld) (v : Nat) (c' : Nat) : (s.w2 k a b v).chan c' = s.chan c' := rfl
@[simp] theorem w2_acc_fport (k : Blk) (a b : Fld) (v : Nat) (f' : Nat) : (s.w2 k a b v).fport f' = s.fport f' := rfl
@[simp] theorem w2_acc_seam (k : Blk) (a b : Fld) (v : Nat) (k' : Nat) : (s.w2 k a b v).seam k' = s.seam k' := rfl
@[simp] theorem w2_acc_thr (k : Blk) (a b : Fld) (v : Nat) (k' : Nat) : (s.w2 k a b v).thr k' = s.thr k' := rfl
@[simp] theorem w2_acc_live (k : Blk) (a b : Fld) (v : Nat) : (s.w2 k a b v).live = s.live := rfl
@[simp] theorem w2_acc_owner (k : Blk) (a b : Fld) (v : Nat) (b' : Nat) : (s.w2 k a b v).owner b' = s.owner b' := rfl
@[simp] theorem w2_acc_portAvail (k : Blk) (a b : Fld) (v : Nat) (p' : Nat) : (s.w2 k a b v).portAvail p' = s.portAvail p' := rfl
@[simp] theorem w2_acc_ctrlPort (k : Blk) (a b : Fld) (v : Nat) : (s.w2 k a b v).ctrlPort = s.ctrlPort := rfl
@[simp] theorem w2_acc_schedTape (k : Blk) (a b : Fld) (v : Nat) : (s.w2 k a b v).schedTape = s.schedTape := rfl
/-! setWord4 -/
@[simp] theorem setWord4_pending (p o : Nat) (v : BitVec 32) : (s.setWord4 p o v).pending = s.pending := rfl
@[simp] theorem setWord4_tape (p o : Nat) (v : BitVec 32) : (s.setWord4 p o v).tape = s.tape := rfl
@[simp] theorem setWord4_regs (p o : Nat) (v : BitVec 32) : (s.setWord4 p o v).regs = s.regs := rfl
@[simp] theorem setWord4_latch (p o : Nat) (v : BitVec 32) : (s.setWord4 p o v).latch = s.latch := rfl
@[simp] theorem setWord4_mem (p o : Nat) (v : BitVec 32) : (s.setWord4 p o v).mem = s.mem := rfl
@[simp] theorem setWord4_errs (p o : Nat) (v : BitVec 32) : (s.setWord4 p o v).errs = s.errs := rfl
@[simp] theorem setWord4_chans (p o : Nat) (v : BitVec 32) : (s.setWord4 p o v).chans = s.chans := rfl
@[simp] theorem setWord4_scrubs (p o : Nat) (v : BitVec 32) : (s.setWord4 p o v).scrubs = s.scrubs := rfl
@[simp] theorem setWord4_migs (p o : Nat) (v : BitVec 32) : (s.setWord4 p o v).migs = s.migs := rfl
@[simp] theorem setWord4_needle (p o : Nat) (v : BitVec 32) : (s.setWord4 p o v).needle = s.needle := rfl
@[simp] theorem setWord4_tiles (p o : Nat) (v : BitVec 32) : (s.setWord4 p o v).tiles = s.tiles := rfl
@[simp] theorem setWord4_mesh (p o : Nat) (v : BitVec 32) : (s.setWord4 p o v).mesh = s.mesh := rfl
@[simp] theorem setWord4_meshId (p o : Nat) (v : BitVec 32) : (s.setWord4 p o v).meshId = s.meshId := rfl
@[simp] theorem setWord4_bolts (p o : Nat) (v : BitVec 32) : (s.setWord4 p o v).bolts = s.bolts := rfl
@[simp] theorem setWord4_txns (p o : Nat) (v : BitVec 32) : (s.setWord4 p o v).txns = s.txns := rfl
@[simp] theorem setWord4_stitched (p o : Nat) (v : BitVec 32) : (s.setWord4 p o v).stitched = s.stitched := rfl
@[simp] theorem setWord4_log (p o : Nat) (v : BitVec 32) : (s.setWord4 p o v).log = s.log := rfl
@[simp] theorem setWord4_logSel (p o : Nat) (v : BitVec 32) : (s.setWord4 p o v).logSel = s.logSel := rfl
@[simp] theorem setWord4_qps (p o : Nat) (v : BitVec 32) : (s.setWord4 p o v).qps = s.qps := rfl
@[simp] theorem setWord4_hports (p o : Nat) (v : BitVec 32) : (s.setWord4 p o v).hports = s.hports := rfl
@[simp] theorem setWord4_nbus (p o : Nat) (v : BitVec 32) : (s.setWord4 p o v).nbus = s.nbus := rfl
@[simp] theorem setWord4_chks (p o : Nat) (v : BitVec 32) : (s.setWord4 p o v).chks = s.chks := rfl
@[simp] theorem setWord4_seams (p o : Nat) (v : BitVec 32) : (s.setWord4 p o v).seams = s.seams := rfl
@[simp] theorem setWord4_fab (p o : Nat) (v : BitVec 32) : (s.setWord4 p o v).fab = s.fab := rfl
@[simp] theorem setWord4_hkc (p o : Nat) (v : BitVec 32) : (s.setWord4 p o v).hkc = s.hkc := rfl
@[simp] theorem setWord4_store (p o : Nat) (v : BitVec 32) : (s.setWord4 p o v).store = s.store := rfl
@[simp] theorem setWord4_fuses (p o : Nat) (v : BitVec 32) : (s.setWord4 p o v).fuses = s.fuses := rfl
@[simp] theorem setWord4_therm (p o : Nat) (v : BitVec 32) : (s.setWord4 p o v).therm = s.therm := rfl
@[simp] theorem setWord4_pins (p o : Nat) (v : BitVec 32) : (s.setWord4 p o v).pins = s.pins := rfl
@[simp] theorem setWord4_rst (p o : Nat) (v : BitVec 32) : (s.setWord4 p o v).rst = s.rst := rfl
@[simp] theorem setWord4_jtag (p o : Nat) (v : BitVec 32) : (s.setWord4 p o v).jtag = s.jtag := rfl
@[simp] theorem setWord4_trace (p o : Nat) (v : BitVec 32) : (s.setWord4 p o v).trace = s.trace := rfl
@[simp] theorem setWord4_mgmt (p o : Nat) (v : BitVec 32) : (s.setWord4 p o v).mgmt = s.mgmt := rfl
@[simp] theorem setWord4_slewTo (p o : Nat) (v : BitVec 32) : (s.setWord4 p o v).slewTo = s.slewTo := rfl
@[simp] theorem setWord4_timingAt (p o : Nat) (v : BitVec 32) : (s.setWord4 p o v).timingAt = s.timingAt := rfl
@[simp] theorem setWord4_out (p o : Nat) (v : BitVec 32) : (s.setWord4 p o v).out = s.out := rfl
@[simp] theorem setWord4_free (p o : Nat) (v : BitVec 32) : (s.setWord4 p o v).free = s.free := rfl
@[simp] theorem setWord4_acc_word (p o : Nat) (v : BitVec 32) (o' : Nat) : (s.setWord4 p o v).word o' = s.word o' := rfl
@[simp] theorem setWord4_acc_r (p o : Nat) (v : BitVec 32) (k' : Blk) (f' : Fld) : (s.setWord4 p o v).r k' f' = s.r k' f' := rfl
@[simp] theorem setWord4_acc_b (p o : Nat) (v : BitVec 32) (k' : Blk) (f' : Fld) : (s.setWord4 p o v).b k' f' = s.b k' f' := rfl
@[simp] theorem setWord4_acc_r2 (p o : Nat) (v : BitVec 32) (k' : Blk) (a' b' : Fld) : (s.setWord4 p o v).r2 k' a' b' = s.r2 k' a' b' := rfl
@[simp] theorem setWord4_acc_tile (p o : Nat) (v : BitVec 32) (g' : Nat) : (s.setWord4 p o v).tile g' = s.tile g' := rfl
@[simp] theorem setWord4_acc_bolt (p o : Nat) (v : BitVec 32) (b' : Nat) : (s.setWord4 p o v).bolt b' = s.bolt b' := rfl
@[simp] theorem setWord4_acc_txn (p o : Nat) (v : BitVec 32) (q' : Nat) : (s.setWord4 p o v).txn q' = s.txn q' := rfl
@[simp] theorem setWord4_acc_qp (p o : Nat) (v : BitVec 32) (p' n' : Nat) : (s.setWord4 p o v).qp p' n' = s.qp p' n' := rfl
@[simp] theorem setWord4_acc_hport (p o : Nat) (v : BitVec 32) (p' : Nat) : (s.setWord4 p o v).hport p' = s.hport p' := rfl
@[simp] theorem setWord4_acc_nbu (p o : Nat) (v : BitVec 32) (k' : Nat) : (s.setWord4 p o v).nbu k' = s.nbu k' := rfl
@[simp] theorem setWord4_acc_chkU (p o : Nat) (v : BitVec 32) (d' : Nat) : (s.setWord4 p o v).chkU d' = s.chkU d' := rfl
@[simp] theorem setWord4_acc_chan (p o : Nat) (v : BitVec 32) (c' : Nat) : (s.setWord4 p o v).chan c' = s.chan c' := rfl
@[simp] theorem setWord4_acc_fport (p o : Nat) (v : BitVec 32) (f' : Nat) : (s.setWord4 p o v).fport f' = s.fport f' := rfl
@[simp] theorem setWord4_acc_seam (p o : Nat) (v : BitVec 32) (k' : Nat) : (s.setWord4 p o v).seam k' = s.seam k' := rfl
@[simp] theorem setWord4_acc_thr (p o : Nat) (v : BitVec 32) (k' : Nat) : (s.setWord4 p o v).thr k' = s.thr k' := rfl
@[simp] theorem setWord4_acc_live (p o : Nat) (v : BitVec 32) : (s.setWord4 p o v).live = s.live := rfl
@[simp] theorem setWord4_acc_boltOf (p o : Nat) (v : BitVec 32) (k' : Nat) : (s.setWord4 p o v).boltOf k' = s.boltOf k' := rfl
@[simp] theorem setWord4_acc_siteOf (p o : Nat) (v : BitVec 32) (m' : Nat) : (s.setWord4 p o v).siteOf m' = s.siteOf m' := rfl
@[simp] theorem setWord4_acc_mtile (p o : Nat) (v : BitVec 32) (g' : Nat) : (s.setWord4 p o v).mtile g' = s.mtile g' := rfl
@[simp] theorem setWord4_acc_portAvail (p o : Nat) (v : BitVec 32) (p' : Nat) : (s.setWord4 p o v).portAvail p' = s.portAvail p' := rfl
@[simp] theorem setWord4_acc_tclkCycles (p o : Nat) (v : BitVec 32) (n' : Nat) : (s.setWord4 p o v).tclkCycles n' = s.tclkCycles n' := rfl
@[simp] theorem setWord4_acc_aclkCycles (p o : Nat) (v : BitVec 32) (n' : Nat) : (s.setWord4 p o v).aclkCycles n' = s.aclkCycles n' := rfl
@[simp] theorem setWord4_acc_schedTape (p o : Nat) (v : BitVec 32) : (s.setWord4 p o v).schedTape = s.schedTape := rfl
/-! w4 -/
@[simp] theorem w4_pending (p : Nat) (f : Fld) (v : Nat) : (s.w4 p f v).pending = s.pending := rfl
@[simp] theorem w4_tape (p : Nat) (f : Fld) (v : Nat) : (s.w4 p f v).tape = s.tape := rfl
@[simp] theorem w4_regs (p : Nat) (f : Fld) (v : Nat) : (s.w4 p f v).regs = s.regs := rfl
@[simp] theorem w4_latch (p : Nat) (f : Fld) (v : Nat) : (s.w4 p f v).latch = s.latch := rfl
@[simp] theorem w4_mem (p : Nat) (f : Fld) (v : Nat) : (s.w4 p f v).mem = s.mem := rfl
@[simp] theorem w4_errs (p : Nat) (f : Fld) (v : Nat) : (s.w4 p f v).errs = s.errs := rfl
@[simp] theorem w4_chans (p : Nat) (f : Fld) (v : Nat) : (s.w4 p f v).chans = s.chans := rfl
@[simp] theorem w4_scrubs (p : Nat) (f : Fld) (v : Nat) : (s.w4 p f v).scrubs = s.scrubs := rfl
@[simp] theorem w4_migs (p : Nat) (f : Fld) (v : Nat) : (s.w4 p f v).migs = s.migs := rfl
@[simp] theorem w4_needle (p : Nat) (f : Fld) (v : Nat) : (s.w4 p f v).needle = s.needle := rfl
@[simp] theorem w4_tiles (p : Nat) (f : Fld) (v : Nat) : (s.w4 p f v).tiles = s.tiles := rfl
@[simp] theorem w4_mesh (p : Nat) (f : Fld) (v : Nat) : (s.w4 p f v).mesh = s.mesh := rfl
@[simp] theorem w4_meshId (p : Nat) (f : Fld) (v : Nat) : (s.w4 p f v).meshId = s.meshId := rfl
@[simp] theorem w4_bolts (p : Nat) (f : Fld) (v : Nat) : (s.w4 p f v).bolts = s.bolts := rfl
@[simp] theorem w4_txns (p : Nat) (f : Fld) (v : Nat) : (s.w4 p f v).txns = s.txns := rfl
@[simp] theorem w4_stitched (p : Nat) (f : Fld) (v : Nat) : (s.w4 p f v).stitched = s.stitched := rfl
@[simp] theorem w4_log (p : Nat) (f : Fld) (v : Nat) : (s.w4 p f v).log = s.log := rfl
@[simp] theorem w4_logSel (p : Nat) (f : Fld) (v : Nat) : (s.w4 p f v).logSel = s.logSel := rfl
@[simp] theorem w4_qps (p : Nat) (f : Fld) (v : Nat) : (s.w4 p f v).qps = s.qps := rfl
@[simp] theorem w4_hports (p : Nat) (f : Fld) (v : Nat) : (s.w4 p f v).hports = s.hports := rfl
@[simp] theorem w4_nbus (p : Nat) (f : Fld) (v : Nat) : (s.w4 p f v).nbus = s.nbus := rfl
@[simp] theorem w4_chks (p : Nat) (f : Fld) (v : Nat) : (s.w4 p f v).chks = s.chks := rfl
@[simp] theorem w4_seams (p : Nat) (f : Fld) (v : Nat) : (s.w4 p f v).seams = s.seams := rfl
@[simp] theorem w4_fab (p : Nat) (f : Fld) (v : Nat) : (s.w4 p f v).fab = s.fab := rfl
@[simp] theorem w4_hkc (p : Nat) (f : Fld) (v : Nat) : (s.w4 p f v).hkc = s.hkc := rfl
@[simp] theorem w4_store (p : Nat) (f : Fld) (v : Nat) : (s.w4 p f v).store = s.store := rfl
@[simp] theorem w4_fuses (p : Nat) (f : Fld) (v : Nat) : (s.w4 p f v).fuses = s.fuses := rfl
@[simp] theorem w4_therm (p : Nat) (f : Fld) (v : Nat) : (s.w4 p f v).therm = s.therm := rfl
@[simp] theorem w4_pins (p : Nat) (f : Fld) (v : Nat) : (s.w4 p f v).pins = s.pins := rfl
@[simp] theorem w4_rst (p : Nat) (f : Fld) (v : Nat) : (s.w4 p f v).rst = s.rst := rfl
@[simp] theorem w4_jtag (p : Nat) (f : Fld) (v : Nat) : (s.w4 p f v).jtag = s.jtag := rfl
@[simp] theorem w4_trace (p : Nat) (f : Fld) (v : Nat) : (s.w4 p f v).trace = s.trace := rfl
@[simp] theorem w4_mgmt (p : Nat) (f : Fld) (v : Nat) : (s.w4 p f v).mgmt = s.mgmt := rfl
@[simp] theorem w4_slewTo (p : Nat) (f : Fld) (v : Nat) : (s.w4 p f v).slewTo = s.slewTo := rfl
@[simp] theorem w4_timingAt (p : Nat) (f : Fld) (v : Nat) : (s.w4 p f v).timingAt = s.timingAt := rfl
@[simp] theorem w4_out (p : Nat) (f : Fld) (v : Nat) : (s.w4 p f v).out = s.out := rfl
@[simp] theorem w4_free (p : Nat) (f : Fld) (v : Nat) : (s.w4 p f v).free = s.free := rfl
@[simp] theorem w4_acc_word (p : Nat) (f : Fld) (v : Nat) (o' : Nat) : (s.w4 p f v).word o' = s.word o' := rfl
@[simp] theorem w4_acc_r (p : Nat) (f : Fld) (v : Nat) (k' : Blk) (f' : Fld) : (s.w4 p f v).r k' f' = s.r k' f' := rfl
@[simp] theorem w4_acc_b (p : Nat) (f : Fld) (v : Nat) (k' : Blk) (f' : Fld) : (s.w4 p f v).b k' f' = s.b k' f' := rfl
@[simp] theorem w4_acc_r2 (p : Nat) (f : Fld) (v : Nat) (k' : Blk) (a' b' : Fld) : (s.w4 p f v).r2 k' a' b' = s.r2 k' a' b' := rfl
@[simp] theorem w4_acc_tile (p : Nat) (f : Fld) (v : Nat) (g' : Nat) : (s.w4 p f v).tile g' = s.tile g' := rfl
@[simp] theorem w4_acc_bolt (p : Nat) (f : Fld) (v : Nat) (b' : Nat) : (s.w4 p f v).bolt b' = s.bolt b' := rfl
@[simp] theorem w4_acc_txn (p : Nat) (f : Fld) (v : Nat) (q' : Nat) : (s.w4 p f v).txn q' = s.txn q' := rfl
@[simp] theorem w4_acc_qp (p : Nat) (f : Fld) (v : Nat) (p' n' : Nat) : (s.w4 p f v).qp p' n' = s.qp p' n' := rfl
@[simp] theorem w4_acc_hport (p : Nat) (f : Fld) (v : Nat) (p' : Nat) : (s.w4 p f v).hport p' = s.hport p' := rfl
@[simp] theorem w4_acc_nbu (p : Nat) (f : Fld) (v : Nat) (k' : Nat) : (s.w4 p f v).nbu k' = s.nbu k' := rfl
@[simp] theorem w4_acc_chkU (p : Nat) (f : Fld) (v : Nat) (d' : Nat) : (s.w4 p f v).chkU d' = s.chkU d' := rfl
@[simp] theorem w4_acc_chan (p : Nat) (f : Fld) (v : Nat) (c' : Nat) : (s.w4 p f v).chan c' = s.chan c' := rfl
@[simp] theorem w4_acc_fport (p : Nat) (f : Fld) (v : Nat) (f' : Nat) : (s.w4 p f v).fport f' = s.fport f' := rfl
@[simp] theorem w4_acc_seam (p : Nat) (f : Fld) (v : Nat) (k' : Nat) : (s.w4 p f v).seam k' = s.seam k' := rfl
@[simp] theorem w4_acc_thr (p : Nat) (f : Fld) (v : Nat) (k' : Nat) : (s.w4 p f v).thr k' = s.thr k' := rfl
@[simp] theorem w4_acc_live (p : Nat) (f : Fld) (v : Nat) : (s.w4 p f v).live = s.live := rfl
@[simp] theorem w4_acc_boltOf (p : Nat) (f : Fld) (v : Nat) (k' : Nat) : (s.w4 p f v).boltOf k' = s.boltOf k' := rfl
@[simp] theorem w4_acc_siteOf (p : Nat) (f : Fld) (v : Nat) (m' : Nat) : (s.w4 p f v).siteOf m' = s.siteOf m' := rfl
@[simp] theorem w4_acc_mtile (p : Nat) (f : Fld) (v : Nat) (g' : Nat) : (s.w4 p f v).mtile g' = s.mtile g' := rfl
@[simp] theorem w4_acc_portAvail (p : Nat) (f : Fld) (v : Nat) (p' : Nat) : (s.w4 p f v).portAvail p' = s.portAvail p' := rfl
@[simp] theorem w4_acc_tclkCycles (p : Nat) (f : Fld) (v : Nat) (n' : Nat) : (s.w4 p f v).tclkCycles n' = s.tclkCycles n' := rfl
@[simp] theorem w4_acc_aclkCycles (p : Nat) (f : Fld) (v : Nat) (n' : Nat) : (s.w4 p f v).aclkCycles n' = s.aclkCycles n' := rfl
@[simp] theorem w4_acc_schedTape (p : Nat) (f : Fld) (v : Nat) : (s.w4 p f v).schedTape = s.schedTape := rfl
/-! inc4 -/
@[simp] theorem inc4_pending (p : Nat) (f : Fld) : (s.inc4 p f).pending = s.pending := rfl
@[simp] theorem inc4_tape (p : Nat) (f : Fld) : (s.inc4 p f).tape = s.tape := rfl
@[simp] theorem inc4_regs (p : Nat) (f : Fld) : (s.inc4 p f).regs = s.regs := rfl
@[simp] theorem inc4_latch (p : Nat) (f : Fld) : (s.inc4 p f).latch = s.latch := rfl
@[simp] theorem inc4_mem (p : Nat) (f : Fld) : (s.inc4 p f).mem = s.mem := rfl
@[simp] theorem inc4_errs (p : Nat) (f : Fld) : (s.inc4 p f).errs = s.errs := rfl
@[simp] theorem inc4_chans (p : Nat) (f : Fld) : (s.inc4 p f).chans = s.chans := rfl
@[simp] theorem inc4_scrubs (p : Nat) (f : Fld) : (s.inc4 p f).scrubs = s.scrubs := rfl
@[simp] theorem inc4_migs (p : Nat) (f : Fld) : (s.inc4 p f).migs = s.migs := rfl
@[simp] theorem inc4_needle (p : Nat) (f : Fld) : (s.inc4 p f).needle = s.needle := rfl
@[simp] theorem inc4_tiles (p : Nat) (f : Fld) : (s.inc4 p f).tiles = s.tiles := rfl
@[simp] theorem inc4_mesh (p : Nat) (f : Fld) : (s.inc4 p f).mesh = s.mesh := rfl
@[simp] theorem inc4_meshId (p : Nat) (f : Fld) : (s.inc4 p f).meshId = s.meshId := rfl
@[simp] theorem inc4_bolts (p : Nat) (f : Fld) : (s.inc4 p f).bolts = s.bolts := rfl
@[simp] theorem inc4_txns (p : Nat) (f : Fld) : (s.inc4 p f).txns = s.txns := rfl
@[simp] theorem inc4_stitched (p : Nat) (f : Fld) : (s.inc4 p f).stitched = s.stitched := rfl
@[simp] theorem inc4_log (p : Nat) (f : Fld) : (s.inc4 p f).log = s.log := rfl
@[simp] theorem inc4_logSel (p : Nat) (f : Fld) : (s.inc4 p f).logSel = s.logSel := rfl
@[simp] theorem inc4_qps (p : Nat) (f : Fld) : (s.inc4 p f).qps = s.qps := rfl
@[simp] theorem inc4_hports (p : Nat) (f : Fld) : (s.inc4 p f).hports = s.hports := rfl
@[simp] theorem inc4_nbus (p : Nat) (f : Fld) : (s.inc4 p f).nbus = s.nbus := rfl
@[simp] theorem inc4_chks (p : Nat) (f : Fld) : (s.inc4 p f).chks = s.chks := rfl
@[simp] theorem inc4_seams (p : Nat) (f : Fld) : (s.inc4 p f).seams = s.seams := rfl
@[simp] theorem inc4_fab (p : Nat) (f : Fld) : (s.inc4 p f).fab = s.fab := rfl
@[simp] theorem inc4_hkc (p : Nat) (f : Fld) : (s.inc4 p f).hkc = s.hkc := rfl
@[simp] theorem inc4_store (p : Nat) (f : Fld) : (s.inc4 p f).store = s.store := rfl
@[simp] theorem inc4_fuses (p : Nat) (f : Fld) : (s.inc4 p f).fuses = s.fuses := rfl
@[simp] theorem inc4_therm (p : Nat) (f : Fld) : (s.inc4 p f).therm = s.therm := rfl
@[simp] theorem inc4_pins (p : Nat) (f : Fld) : (s.inc4 p f).pins = s.pins := rfl
@[simp] theorem inc4_rst (p : Nat) (f : Fld) : (s.inc4 p f).rst = s.rst := rfl
@[simp] theorem inc4_jtag (p : Nat) (f : Fld) : (s.inc4 p f).jtag = s.jtag := rfl
@[simp] theorem inc4_trace (p : Nat) (f : Fld) : (s.inc4 p f).trace = s.trace := rfl
@[simp] theorem inc4_mgmt (p : Nat) (f : Fld) : (s.inc4 p f).mgmt = s.mgmt := rfl
@[simp] theorem inc4_slewTo (p : Nat) (f : Fld) : (s.inc4 p f).slewTo = s.slewTo := rfl
@[simp] theorem inc4_timingAt (p : Nat) (f : Fld) : (s.inc4 p f).timingAt = s.timingAt := rfl
@[simp] theorem inc4_out (p : Nat) (f : Fld) : (s.inc4 p f).out = s.out := rfl
@[simp] theorem inc4_free (p : Nat) (f : Fld) : (s.inc4 p f).free = s.free := rfl
@[simp] theorem inc4_acc_word (p : Nat) (f : Fld) (o' : Nat) : (s.inc4 p f).word o' = s.word o' := rfl
@[simp] theorem inc4_acc_r (p : Nat) (f : Fld) (k' : Blk) (f' : Fld) : (s.inc4 p f).r k' f' = s.r k' f' := rfl
@[simp] theorem inc4_acc_b (p : Nat) (f : Fld) (k' : Blk) (f' : Fld) : (s.inc4 p f).b k' f' = s.b k' f' := rfl
@[simp] theorem inc4_acc_r2 (p : Nat) (f : Fld) (k' : Blk) (a' b' : Fld) : (s.inc4 p f).r2 k' a' b' = s.r2 k' a' b' := rfl
@[simp] theorem inc4_acc_tile (p : Nat) (f : Fld) (g' : Nat) : (s.inc4 p f).tile g' = s.tile g' := rfl
@[simp] theorem inc4_acc_bolt (p : Nat) (f : Fld) (b' : Nat) : (s.inc4 p f).bolt b' = s.bolt b' := rfl
@[simp] theorem inc4_acc_txn (p : Nat) (f : Fld) (q' : Nat) : (s.inc4 p f).txn q' = s.txn q' := rfl
@[simp] theorem inc4_acc_qp (p : Nat) (f : Fld) (p' n' : Nat) : (s.inc4 p f).qp p' n' = s.qp p' n' := rfl
@[simp] theorem inc4_acc_hport (p : Nat) (f : Fld) (p' : Nat) : (s.inc4 p f).hport p' = s.hport p' := rfl
@[simp] theorem inc4_acc_nbu (p : Nat) (f : Fld) (k' : Nat) : (s.inc4 p f).nbu k' = s.nbu k' := rfl
@[simp] theorem inc4_acc_chkU (p : Nat) (f : Fld) (d' : Nat) : (s.inc4 p f).chkU d' = s.chkU d' := rfl
@[simp] theorem inc4_acc_chan (p : Nat) (f : Fld) (c' : Nat) : (s.inc4 p f).chan c' = s.chan c' := rfl
@[simp] theorem inc4_acc_fport (p : Nat) (f : Fld) (f' : Nat) : (s.inc4 p f).fport f' = s.fport f' := rfl
@[simp] theorem inc4_acc_seam (p : Nat) (f : Fld) (k' : Nat) : (s.inc4 p f).seam k' = s.seam k' := rfl
@[simp] theorem inc4_acc_thr (p : Nat) (f : Fld) (k' : Nat) : (s.inc4 p f).thr k' = s.thr k' := rfl
@[simp] theorem inc4_acc_live (p : Nat) (f : Fld) : (s.inc4 p f).live = s.live := rfl
@[simp] theorem inc4_acc_boltOf (p : Nat) (f : Fld) (k' : Nat) : (s.inc4 p f).boltOf k' = s.boltOf k' := rfl
@[simp] theorem inc4_acc_siteOf (p : Nat) (f : Fld) (m' : Nat) : (s.inc4 p f).siteOf m' = s.siteOf m' := rfl
@[simp] theorem inc4_acc_mtile (p : Nat) (f : Fld) (g' : Nat) : (s.inc4 p f).mtile g' = s.mtile g' := rfl
@[simp] theorem inc4_acc_portAvail (p : Nat) (f : Fld) (p' : Nat) : (s.inc4 p f).portAvail p' = s.portAvail p' := rfl
@[simp] theorem inc4_acc_tclkCycles (p : Nat) (f : Fld) (n' : Nat) : (s.inc4 p f).tclkCycles n' = s.tclkCycles n' := rfl
@[simp] theorem inc4_acc_aclkCycles (p : Nat) (f : Fld) (n' : Nat) : (s.inc4 p f).aclkCycles n' = s.aclkCycles n' := rfl
@[simp] theorem inc4_acc_schedTape (p : Nat) (f : Fld) : (s.inc4 p f).schedTape = s.schedTape := rfl
/-! setTile -/
@[simp] theorem setTile_pending (g : Nat) (v : Tile) : (s.setTile g v).pending = s.pending := rfl
@[simp] theorem setTile_tape (g : Nat) (v : Tile) : (s.setTile g v).tape = s.tape := rfl
@[simp] theorem setTile_regs (g : Nat) (v : Tile) : (s.setTile g v).regs = s.regs := rfl
@[simp] theorem setTile_bar4 (g : Nat) (v : Tile) : (s.setTile g v).bar4 = s.bar4 := rfl
@[simp] theorem setTile_latch (g : Nat) (v : Tile) : (s.setTile g v).latch = s.latch := rfl
@[simp] theorem setTile_mem (g : Nat) (v : Tile) : (s.setTile g v).mem = s.mem := rfl
@[simp] theorem setTile_errs (g : Nat) (v : Tile) : (s.setTile g v).errs = s.errs := rfl
@[simp] theorem setTile_chans (g : Nat) (v : Tile) : (s.setTile g v).chans = s.chans := rfl
@[simp] theorem setTile_scrubs (g : Nat) (v : Tile) : (s.setTile g v).scrubs = s.scrubs := rfl
@[simp] theorem setTile_migs (g : Nat) (v : Tile) : (s.setTile g v).migs = s.migs := rfl
@[simp] theorem setTile_needle (g : Nat) (v : Tile) : (s.setTile g v).needle = s.needle := rfl
@[simp] theorem setTile_mesh (g : Nat) (v : Tile) : (s.setTile g v).mesh = s.mesh := rfl
@[simp] theorem setTile_meshId (g : Nat) (v : Tile) : (s.setTile g v).meshId = s.meshId := rfl
@[simp] theorem setTile_bolts (g : Nat) (v : Tile) : (s.setTile g v).bolts = s.bolts := rfl
@[simp] theorem setTile_txns (g : Nat) (v : Tile) : (s.setTile g v).txns = s.txns := rfl
@[simp] theorem setTile_stitched (g : Nat) (v : Tile) : (s.setTile g v).stitched = s.stitched := rfl
@[simp] theorem setTile_log (g : Nat) (v : Tile) : (s.setTile g v).log = s.log := rfl
@[simp] theorem setTile_logSel (g : Nat) (v : Tile) : (s.setTile g v).logSel = s.logSel := rfl
@[simp] theorem setTile_qps (g : Nat) (v : Tile) : (s.setTile g v).qps = s.qps := rfl
@[simp] theorem setTile_hports (g : Nat) (v : Tile) : (s.setTile g v).hports = s.hports := rfl
@[simp] theorem setTile_nbus (g : Nat) (v : Tile) : (s.setTile g v).nbus = s.nbus := rfl
@[simp] theorem setTile_chks (g : Nat) (v : Tile) : (s.setTile g v).chks = s.chks := rfl
@[simp] theorem setTile_seams (g : Nat) (v : Tile) : (s.setTile g v).seams = s.seams := rfl
@[simp] theorem setTile_fab (g : Nat) (v : Tile) : (s.setTile g v).fab = s.fab := rfl
@[simp] theorem setTile_hkc (g : Nat) (v : Tile) : (s.setTile g v).hkc = s.hkc := rfl
@[simp] theorem setTile_store (g : Nat) (v : Tile) : (s.setTile g v).store = s.store := rfl
@[simp] theorem setTile_fuses (g : Nat) (v : Tile) : (s.setTile g v).fuses = s.fuses := rfl
@[simp] theorem setTile_therm (g : Nat) (v : Tile) : (s.setTile g v).therm = s.therm := rfl
@[simp] theorem setTile_pins (g : Nat) (v : Tile) : (s.setTile g v).pins = s.pins := rfl
@[simp] theorem setTile_rst (g : Nat) (v : Tile) : (s.setTile g v).rst = s.rst := rfl
@[simp] theorem setTile_jtag (g : Nat) (v : Tile) : (s.setTile g v).jtag = s.jtag := rfl
@[simp] theorem setTile_trace (g : Nat) (v : Tile) : (s.setTile g v).trace = s.trace := rfl
@[simp] theorem setTile_mgmt (g : Nat) (v : Tile) : (s.setTile g v).mgmt = s.mgmt := rfl
@[simp] theorem setTile_slewTo (g : Nat) (v : Tile) : (s.setTile g v).slewTo = s.slewTo := rfl
@[simp] theorem setTile_timingAt (g : Nat) (v : Tile) : (s.setTile g v).timingAt = s.timingAt := rfl
@[simp] theorem setTile_out (g : Nat) (v : Tile) : (s.setTile g v).out = s.out := rfl
@[simp] theorem setTile_free (g : Nat) (v : Tile) : (s.setTile g v).free = s.free := rfl
@[simp] theorem setTile_acc_word (g : Nat) (v : Tile) (o' : Nat) : (s.setTile g v).word o' = s.word o' := rfl
@[simp] theorem setTile_acc_r (g : Nat) (v : Tile) (k' : Blk) (f' : Fld) : (s.setTile g v).r k' f' = s.r k' f' := rfl
@[simp] theorem setTile_acc_b (g : Nat) (v : Tile) (k' : Blk) (f' : Fld) : (s.setTile g v).b k' f' = s.b k' f' := rfl
@[simp] theorem setTile_acc_r2 (g : Nat) (v : Tile) (k' : Blk) (a' b' : Fld) : (s.setTile g v).r2 k' a' b' = s.r2 k' a' b' := rfl
@[simp] theorem setTile_acc_word4 (g : Nat) (v : Tile) (p' o' : Nat) : (s.setTile g v).word4 p' o' = s.word4 p' o' := rfl
@[simp] theorem setTile_acc_r4 (g : Nat) (v : Tile) (p' : Nat) (f' : Fld) : (s.setTile g v).r4 p' f' = s.r4 p' f' := rfl
@[simp] theorem setTile_acc_bolt (g : Nat) (v : Tile) (b' : Nat) : (s.setTile g v).bolt b' = s.bolt b' := rfl
@[simp] theorem setTile_acc_txn (g : Nat) (v : Tile) (q' : Nat) : (s.setTile g v).txn q' = s.txn q' := rfl
@[simp] theorem setTile_acc_qp (g : Nat) (v : Tile) (p' n' : Nat) : (s.setTile g v).qp p' n' = s.qp p' n' := rfl
@[simp] theorem setTile_acc_hport (g : Nat) (v : Tile) (p' : Nat) : (s.setTile g v).hport p' = s.hport p' := rfl
@[simp] theorem setTile_acc_nbu (g : Nat) (v : Tile) (k' : Nat) : (s.setTile g v).nbu k' = s.nbu k' := rfl
@[simp] theorem setTile_acc_chkU (g : Nat) (v : Tile) (d' : Nat) : (s.setTile g v).chkU d' = s.chkU d' := rfl
@[simp] theorem setTile_acc_chan (g : Nat) (v : Tile) (c' : Nat) : (s.setTile g v).chan c' = s.chan c' := rfl
@[simp] theorem setTile_acc_fport (g : Nat) (v : Tile) (f' : Nat) : (s.setTile g v).fport f' = s.fport f' := rfl
@[simp] theorem setTile_acc_seam (g : Nat) (v : Tile) (k' : Nat) : (s.setTile g v).seam k' = s.seam k' := rfl
@[simp] theorem setTile_acc_thr (g : Nat) (v : Tile) (k' : Nat) : (s.setTile g v).thr k' = s.thr k' := rfl
@[simp] theorem setTile_acc_live (g : Nat) (v : Tile) : (s.setTile g v).live = s.live := rfl
@[simp] theorem setTile_acc_boltOf (g : Nat) (v : Tile) (k' : Nat) : (s.setTile g v).boltOf k' = s.boltOf k' := rfl
@[simp] theorem setTile_acc_siteOf (g : Nat) (v : Tile) (m' : Nat) : (s.setTile g v).siteOf m' = s.siteOf m' := rfl
@[simp] theorem setTile_acc_mtile (g : Nat) (v : Tile) (g' : Nat) : (s.setTile g v).mtile g' = s.mtile g' := rfl
@[simp] theorem setTile_acc_owner (g : Nat) (v : Tile) (b' : Nat) : (s.setTile g v).owner b' = s.owner b' := rfl
@[simp] theorem setTile_acc_portAvail (g : Nat) (v : Tile) (p' : Nat) : (s.setTile g v).portAvail p' = s.portAvail p' := rfl
@[simp] theorem setTile_acc_tclkCycles (g : Nat) (v : Tile) (n' : Nat) : (s.setTile g v).tclkCycles n' = s.tclkCycles n' := rfl
@[simp] theorem setTile_acc_aclkCycles (g : Nat) (v : Tile) (n' : Nat) : (s.setTile g v).aclkCycles n' = s.aclkCycles n' := rfl
@[simp] theorem setTile_acc_ctrlPort (g : Nat) (v : Tile) : (s.setTile g v).ctrlPort = s.ctrlPort := rfl
@[simp] theorem setTile_acc_schedTape (g : Nat) (v : Tile) : (s.setTile g v).schedTape = s.schedTape := rfl
/-! modTile -/
@[simp] theorem modTile_pending (g : Nat) (f : Tile → Tile) : (s.modTile g f).pending = s.pending := rfl
@[simp] theorem modTile_tape (g : Nat) (f : Tile → Tile) : (s.modTile g f).tape = s.tape := rfl
@[simp] theorem modTile_regs (g : Nat) (f : Tile → Tile) : (s.modTile g f).regs = s.regs := rfl
@[simp] theorem modTile_bar4 (g : Nat) (f : Tile → Tile) : (s.modTile g f).bar4 = s.bar4 := rfl
@[simp] theorem modTile_latch (g : Nat) (f : Tile → Tile) : (s.modTile g f).latch = s.latch := rfl
@[simp] theorem modTile_mem (g : Nat) (f : Tile → Tile) : (s.modTile g f).mem = s.mem := rfl
@[simp] theorem modTile_errs (g : Nat) (f : Tile → Tile) : (s.modTile g f).errs = s.errs := rfl
@[simp] theorem modTile_chans (g : Nat) (f : Tile → Tile) : (s.modTile g f).chans = s.chans := rfl
@[simp] theorem modTile_scrubs (g : Nat) (f : Tile → Tile) : (s.modTile g f).scrubs = s.scrubs := rfl
@[simp] theorem modTile_migs (g : Nat) (f : Tile → Tile) : (s.modTile g f).migs = s.migs := rfl
@[simp] theorem modTile_needle (g : Nat) (f : Tile → Tile) : (s.modTile g f).needle = s.needle := rfl
@[simp] theorem modTile_mesh (g : Nat) (f : Tile → Tile) : (s.modTile g f).mesh = s.mesh := rfl
@[simp] theorem modTile_meshId (g : Nat) (f : Tile → Tile) : (s.modTile g f).meshId = s.meshId := rfl
@[simp] theorem modTile_bolts (g : Nat) (f : Tile → Tile) : (s.modTile g f).bolts = s.bolts := rfl
@[simp] theorem modTile_txns (g : Nat) (f : Tile → Tile) : (s.modTile g f).txns = s.txns := rfl
@[simp] theorem modTile_stitched (g : Nat) (f : Tile → Tile) : (s.modTile g f).stitched = s.stitched := rfl
@[simp] theorem modTile_log (g : Nat) (f : Tile → Tile) : (s.modTile g f).log = s.log := rfl
@[simp] theorem modTile_logSel (g : Nat) (f : Tile → Tile) : (s.modTile g f).logSel = s.logSel := rfl
@[simp] theorem modTile_qps (g : Nat) (f : Tile → Tile) : (s.modTile g f).qps = s.qps := rfl
@[simp] theorem modTile_hports (g : Nat) (f : Tile → Tile) : (s.modTile g f).hports = s.hports := rfl
@[simp] theorem modTile_nbus (g : Nat) (f : Tile → Tile) : (s.modTile g f).nbus = s.nbus := rfl
@[simp] theorem modTile_chks (g : Nat) (f : Tile → Tile) : (s.modTile g f).chks = s.chks := rfl
@[simp] theorem modTile_seams (g : Nat) (f : Tile → Tile) : (s.modTile g f).seams = s.seams := rfl
@[simp] theorem modTile_fab (g : Nat) (f : Tile → Tile) : (s.modTile g f).fab = s.fab := rfl
@[simp] theorem modTile_hkc (g : Nat) (f : Tile → Tile) : (s.modTile g f).hkc = s.hkc := rfl
@[simp] theorem modTile_store (g : Nat) (f : Tile → Tile) : (s.modTile g f).store = s.store := rfl
@[simp] theorem modTile_fuses (g : Nat) (f : Tile → Tile) : (s.modTile g f).fuses = s.fuses := rfl
@[simp] theorem modTile_therm (g : Nat) (f : Tile → Tile) : (s.modTile g f).therm = s.therm := rfl
@[simp] theorem modTile_pins (g : Nat) (f : Tile → Tile) : (s.modTile g f).pins = s.pins := rfl
@[simp] theorem modTile_rst (g : Nat) (f : Tile → Tile) : (s.modTile g f).rst = s.rst := rfl
@[simp] theorem modTile_jtag (g : Nat) (f : Tile → Tile) : (s.modTile g f).jtag = s.jtag := rfl
@[simp] theorem modTile_trace (g : Nat) (f : Tile → Tile) : (s.modTile g f).trace = s.trace := rfl
@[simp] theorem modTile_mgmt (g : Nat) (f : Tile → Tile) : (s.modTile g f).mgmt = s.mgmt := rfl
@[simp] theorem modTile_slewTo (g : Nat) (f : Tile → Tile) : (s.modTile g f).slewTo = s.slewTo := rfl
@[simp] theorem modTile_timingAt (g : Nat) (f : Tile → Tile) : (s.modTile g f).timingAt = s.timingAt := rfl
@[simp] theorem modTile_out (g : Nat) (f : Tile → Tile) : (s.modTile g f).out = s.out := rfl
@[simp] theorem modTile_free (g : Nat) (f : Tile → Tile) : (s.modTile g f).free = s.free := rfl
@[simp] theorem modTile_acc_word (g : Nat) (f : Tile → Tile) (o' : Nat) : (s.modTile g f).word o' = s.word o' := rfl
@[simp] theorem modTile_acc_r (g : Nat) (f : Tile → Tile) (k' : Blk) (f' : Fld) : (s.modTile g f).r k' f' = s.r k' f' := rfl
@[simp] theorem modTile_acc_b (g : Nat) (f : Tile → Tile) (k' : Blk) (f' : Fld) : (s.modTile g f).b k' f' = s.b k' f' := rfl
@[simp] theorem modTile_acc_r2 (g : Nat) (f : Tile → Tile) (k' : Blk) (a' b' : Fld) : (s.modTile g f).r2 k' a' b' = s.r2 k' a' b' := rfl
@[simp] theorem modTile_acc_word4 (g : Nat) (f : Tile → Tile) (p' o' : Nat) : (s.modTile g f).word4 p' o' = s.word4 p' o' := rfl
@[simp] theorem modTile_acc_r4 (g : Nat) (f : Tile → Tile) (p' : Nat) (f' : Fld) : (s.modTile g f).r4 p' f' = s.r4 p' f' := rfl
@[simp] theorem modTile_acc_bolt (g : Nat) (f : Tile → Tile) (b' : Nat) : (s.modTile g f).bolt b' = s.bolt b' := rfl
@[simp] theorem modTile_acc_txn (g : Nat) (f : Tile → Tile) (q' : Nat) : (s.modTile g f).txn q' = s.txn q' := rfl
@[simp] theorem modTile_acc_qp (g : Nat) (f : Tile → Tile) (p' n' : Nat) : (s.modTile g f).qp p' n' = s.qp p' n' := rfl
@[simp] theorem modTile_acc_hport (g : Nat) (f : Tile → Tile) (p' : Nat) : (s.modTile g f).hport p' = s.hport p' := rfl
@[simp] theorem modTile_acc_nbu (g : Nat) (f : Tile → Tile) (k' : Nat) : (s.modTile g f).nbu k' = s.nbu k' := rfl
@[simp] theorem modTile_acc_chkU (g : Nat) (f : Tile → Tile) (d' : Nat) : (s.modTile g f).chkU d' = s.chkU d' := rfl
@[simp] theorem modTile_acc_chan (g : Nat) (f : Tile → Tile) (c' : Nat) : (s.modTile g f).chan c' = s.chan c' := rfl
@[simp] theorem modTile_acc_fport (g : Nat) (f : Tile → Tile) (f' : Nat) : (s.modTile g f).fport f' = s.fport f' := rfl
@[simp] theorem modTile_acc_seam (g : Nat) (f : Tile → Tile) (k' : Nat) : (s.modTile g f).seam k' = s.seam k' := rfl
@[simp] theorem modTile_acc_thr (g : Nat) (f : Tile → Tile) (k' : Nat) : (s.modTile g f).thr k' = s.thr k' := rfl
@[simp] theorem modTile_acc_live (g : Nat) (f : Tile → Tile) : (s.modTile g f).live = s.live := rfl
@[simp] theorem modTile_acc_boltOf (g : Nat) (f : Tile → Tile) (k' : Nat) : (s.modTile g f).boltOf k' = s.boltOf k' := rfl
@[simp] theorem modTile_acc_siteOf (g : Nat) (f : Tile → Tile) (m' : Nat) : (s.modTile g f).siteOf m' = s.siteOf m' := rfl
@[simp] theorem modTile_acc_mtile (g : Nat) (f : Tile → Tile) (g' : Nat) : (s.modTile g f).mtile g' = s.mtile g' := rfl
@[simp] theorem modTile_acc_owner (g : Nat) (f : Tile → Tile) (b' : Nat) : (s.modTile g f).owner b' = s.owner b' := rfl
@[simp] theorem modTile_acc_portAvail (g : Nat) (f : Tile → Tile) (p' : Nat) : (s.modTile g f).portAvail p' = s.portAvail p' := rfl
@[simp] theorem modTile_acc_tclkCycles (g : Nat) (f : Tile → Tile) (n' : Nat) : (s.modTile g f).tclkCycles n' = s.tclkCycles n' := rfl
@[simp] theorem modTile_acc_aclkCycles (g : Nat) (f : Tile → Tile) (n' : Nat) : (s.modTile g f).aclkCycles n' = s.aclkCycles n' := rfl
@[simp] theorem modTile_acc_ctrlPort (g : Nat) (f : Tile → Tile) : (s.modTile g f).ctrlPort = s.ctrlPort := rfl
@[simp] theorem modTile_acc_schedTape (g : Nat) (f : Tile → Tile) : (s.modTile g f).schedTape = s.schedTape := rfl
/-! fly -/
@[simp] theorem fly_pending (g : Nat) (f : Flight) : (s.fly g f).pending = s.pending := rfl
@[simp] theorem fly_tape (g : Nat) (f : Flight) : (s.fly g f).tape = s.tape := rfl
@[simp] theorem fly_regs (g : Nat) (f : Flight) : (s.fly g f).regs = s.regs := rfl
@[simp] theorem fly_bar4 (g : Nat) (f : Flight) : (s.fly g f).bar4 = s.bar4 := rfl
@[simp] theorem fly_latch (g : Nat) (f : Flight) : (s.fly g f).latch = s.latch := rfl
@[simp] theorem fly_mem (g : Nat) (f : Flight) : (s.fly g f).mem = s.mem := rfl
@[simp] theorem fly_errs (g : Nat) (f : Flight) : (s.fly g f).errs = s.errs := rfl
@[simp] theorem fly_chans (g : Nat) (f : Flight) : (s.fly g f).chans = s.chans := rfl
@[simp] theorem fly_scrubs (g : Nat) (f : Flight) : (s.fly g f).scrubs = s.scrubs := rfl
@[simp] theorem fly_migs (g : Nat) (f : Flight) : (s.fly g f).migs = s.migs := rfl
@[simp] theorem fly_needle (g : Nat) (f : Flight) : (s.fly g f).needle = s.needle := rfl
@[simp] theorem fly_mesh (g : Nat) (f : Flight) : (s.fly g f).mesh = s.mesh := rfl
@[simp] theorem fly_meshId (g : Nat) (f : Flight) : (s.fly g f).meshId = s.meshId := rfl
@[simp] theorem fly_bolts (g : Nat) (f : Flight) : (s.fly g f).bolts = s.bolts := rfl
@[simp] theorem fly_txns (g : Nat) (f : Flight) : (s.fly g f).txns = s.txns := rfl
@[simp] theorem fly_stitched (g : Nat) (f : Flight) : (s.fly g f).stitched = s.stitched := rfl
@[simp] theorem fly_log (g : Nat) (f : Flight) : (s.fly g f).log = s.log := rfl
@[simp] theorem fly_logSel (g : Nat) (f : Flight) : (s.fly g f).logSel = s.logSel := rfl
@[simp] theorem fly_qps (g : Nat) (f : Flight) : (s.fly g f).qps = s.qps := rfl
@[simp] theorem fly_hports (g : Nat) (f : Flight) : (s.fly g f).hports = s.hports := rfl
@[simp] theorem fly_nbus (g : Nat) (f : Flight) : (s.fly g f).nbus = s.nbus := rfl
@[simp] theorem fly_chks (g : Nat) (f : Flight) : (s.fly g f).chks = s.chks := rfl
@[simp] theorem fly_seams (g : Nat) (f : Flight) : (s.fly g f).seams = s.seams := rfl
@[simp] theorem fly_fab (g : Nat) (f : Flight) : (s.fly g f).fab = s.fab := rfl
@[simp] theorem fly_hkc (g : Nat) (f : Flight) : (s.fly g f).hkc = s.hkc := rfl
@[simp] theorem fly_store (g : Nat) (f : Flight) : (s.fly g f).store = s.store := rfl
@[simp] theorem fly_fuses (g : Nat) (f : Flight) : (s.fly g f).fuses = s.fuses := rfl
@[simp] theorem fly_therm (g : Nat) (f : Flight) : (s.fly g f).therm = s.therm := rfl
@[simp] theorem fly_pins (g : Nat) (f : Flight) : (s.fly g f).pins = s.pins := rfl
@[simp] theorem fly_rst (g : Nat) (f : Flight) : (s.fly g f).rst = s.rst := rfl
@[simp] theorem fly_jtag (g : Nat) (f : Flight) : (s.fly g f).jtag = s.jtag := rfl
@[simp] theorem fly_trace (g : Nat) (f : Flight) : (s.fly g f).trace = s.trace := rfl
@[simp] theorem fly_mgmt (g : Nat) (f : Flight) : (s.fly g f).mgmt = s.mgmt := rfl
@[simp] theorem fly_slewTo (g : Nat) (f : Flight) : (s.fly g f).slewTo = s.slewTo := rfl
@[simp] theorem fly_timingAt (g : Nat) (f : Flight) : (s.fly g f).timingAt = s.timingAt := rfl
@[simp] theorem fly_out (g : Nat) (f : Flight) : (s.fly g f).out = s.out := rfl
@[simp] theorem fly_free (g : Nat) (f : Flight) : (s.fly g f).free = s.free := rfl
@[simp] theorem fly_acc_word (g : Nat) (f : Flight) (o' : Nat) : (s.fly g f).word o' = s.word o' := rfl
@[simp] theorem fly_acc_r (g : Nat) (f : Flight) (k' : Blk) (f' : Fld) : (s.fly g f).r k' f' = s.r k' f' := rfl
@[simp] theorem fly_acc_b (g : Nat) (f : Flight) (k' : Blk) (f' : Fld) : (s.fly g f).b k' f' = s.b k' f' := rfl
@[simp] theorem fly_acc_r2 (g : Nat) (f : Flight) (k' : Blk) (a' b' : Fld) : (s.fly g f).r2 k' a' b' = s.r2 k' a' b' := rfl
@[simp] theorem fly_acc_word4 (g : Nat) (f : Flight) (p' o' : Nat) : (s.fly g f).word4 p' o' = s.word4 p' o' := rfl
@[simp] theorem fly_acc_r4 (g : Nat) (f : Flight) (p' : Nat) (f' : Fld) : (s.fly g f).r4 p' f' = s.r4 p' f' := rfl
@[simp] theorem fly_acc_bolt (g : Nat) (f : Flight) (b' : Nat) : (s.fly g f).bolt b' = s.bolt b' := rfl
@[simp] theorem fly_acc_txn (g : Nat) (f : Flight) (q' : Nat) : (s.fly g f).txn q' = s.txn q' := rfl
@[simp] theorem fly_acc_qp (g : Nat) (f : Flight) (p' n' : Nat) : (s.fly g f).qp p' n' = s.qp p' n' := rfl
@[simp] theorem fly_acc_hport (g : Nat) (f : Flight) (p' : Nat) : (s.fly g f).hport p' = s.hport p' := rfl
@[simp] theorem fly_acc_nbu (g : Nat) (f : Flight) (k' : Nat) : (s.fly g f).nbu k' = s.nbu k' := rfl
@[simp] theorem fly_acc_chkU (g : Nat) (f : Flight) (d' : Nat) : (s.fly g f).chkU d' = s.chkU d' := rfl
@[simp] theorem fly_acc_chan (g : Nat) (f : Flight) (c' : Nat) : (s.fly g f).chan c' = s.chan c' := rfl
@[simp] theorem fly_acc_fport (g : Nat) (f : Flight) (f' : Nat) : (s.fly g f).fport f' = s.fport f' := rfl
@[simp] theorem fly_acc_seam (g : Nat) (f : Flight) (k' : Nat) : (s.fly g f).seam k' = s.seam k' := rfl
@[simp] theorem fly_acc_thr (g : Nat) (f : Flight) (k' : Nat) : (s.fly g f).thr k' = s.thr k' := rfl
@[simp] theorem fly_acc_live (g : Nat) (f : Flight) : (s.fly g f).live = s.live := rfl
@[simp] theorem fly_acc_boltOf (g : Nat) (f : Flight) (k' : Nat) : (s.fly g f).boltOf k' = s.boltOf k' := rfl
@[simp] theorem fly_acc_siteOf (g : Nat) (f : Flight) (m' : Nat) : (s.fly g f).siteOf m' = s.siteOf m' := rfl
@[simp] theorem fly_acc_mtile (g : Nat) (f : Flight) (g' : Nat) : (s.fly g f).mtile g' = s.mtile g' := rfl
@[simp] theorem fly_acc_owner (g : Nat) (f : Flight) (b' : Nat) : (s.fly g f).owner b' = s.owner b' := rfl
@[simp] theorem fly_acc_portAvail (g : Nat) (f : Flight) (p' : Nat) : (s.fly g f).portAvail p' = s.portAvail p' := rfl
@[simp] theorem fly_acc_tclkCycles (g : Nat) (f : Flight) (n' : Nat) : (s.fly g f).tclkCycles n' = s.tclkCycles n' := rfl
@[simp] theorem fly_acc_aclkCycles (g : Nat) (f : Flight) (n' : Nat) : (s.fly g f).aclkCycles n' = s.aclkCycles n' := rfl
@[simp] theorem fly_acc_ctrlPort (g : Nat) (f : Flight) : (s.fly g f).ctrlPort = s.ctrlPort := rfl
@[simp] theorem fly_acc_schedTape (g : Nat) (f : Flight) : (s.fly g f).schedTape = s.schedTape := rfl
/-! modFlight -/
@[simp] theorem modFlight_pending (g u : Nat) (f : Flight → Flight) : (s.modFlight g u f).pending = s.pending := rfl
@[simp] theorem modFlight_tape (g u : Nat) (f : Flight → Flight) : (s.modFlight g u f).tape = s.tape := rfl
@[simp] theorem modFlight_regs (g u : Nat) (f : Flight → Flight) : (s.modFlight g u f).regs = s.regs := rfl
@[simp] theorem modFlight_bar4 (g u : Nat) (f : Flight → Flight) : (s.modFlight g u f).bar4 = s.bar4 := rfl
@[simp] theorem modFlight_latch (g u : Nat) (f : Flight → Flight) : (s.modFlight g u f).latch = s.latch := rfl
@[simp] theorem modFlight_mem (g u : Nat) (f : Flight → Flight) : (s.modFlight g u f).mem = s.mem := rfl
@[simp] theorem modFlight_errs (g u : Nat) (f : Flight → Flight) : (s.modFlight g u f).errs = s.errs := rfl
@[simp] theorem modFlight_chans (g u : Nat) (f : Flight → Flight) : (s.modFlight g u f).chans = s.chans := rfl
@[simp] theorem modFlight_scrubs (g u : Nat) (f : Flight → Flight) : (s.modFlight g u f).scrubs = s.scrubs := rfl
@[simp] theorem modFlight_migs (g u : Nat) (f : Flight → Flight) : (s.modFlight g u f).migs = s.migs := rfl
@[simp] theorem modFlight_needle (g u : Nat) (f : Flight → Flight) : (s.modFlight g u f).needle = s.needle := rfl
@[simp] theorem modFlight_mesh (g u : Nat) (f : Flight → Flight) : (s.modFlight g u f).mesh = s.mesh := rfl
@[simp] theorem modFlight_meshId (g u : Nat) (f : Flight → Flight) : (s.modFlight g u f).meshId = s.meshId := rfl
@[simp] theorem modFlight_bolts (g u : Nat) (f : Flight → Flight) : (s.modFlight g u f).bolts = s.bolts := rfl
@[simp] theorem modFlight_txns (g u : Nat) (f : Flight → Flight) : (s.modFlight g u f).txns = s.txns := rfl
@[simp] theorem modFlight_stitched (g u : Nat) (f : Flight → Flight) : (s.modFlight g u f).stitched = s.stitched := rfl
@[simp] theorem modFlight_log (g u : Nat) (f : Flight → Flight) : (s.modFlight g u f).log = s.log := rfl
@[simp] theorem modFlight_logSel (g u : Nat) (f : Flight → Flight) : (s.modFlight g u f).logSel = s.logSel := rfl
@[simp] theorem modFlight_qps (g u : Nat) (f : Flight → Flight) : (s.modFlight g u f).qps = s.qps := rfl
@[simp] theorem modFlight_hports (g u : Nat) (f : Flight → Flight) : (s.modFlight g u f).hports = s.hports := rfl
@[simp] theorem modFlight_nbus (g u : Nat) (f : Flight → Flight) : (s.modFlight g u f).nbus = s.nbus := rfl
@[simp] theorem modFlight_chks (g u : Nat) (f : Flight → Flight) : (s.modFlight g u f).chks = s.chks := rfl
@[simp] theorem modFlight_seams (g u : Nat) (f : Flight → Flight) : (s.modFlight g u f).seams = s.seams := rfl
@[simp] theorem modFlight_fab (g u : Nat) (f : Flight → Flight) : (s.modFlight g u f).fab = s.fab := rfl
@[simp] theorem modFlight_hkc (g u : Nat) (f : Flight → Flight) : (s.modFlight g u f).hkc = s.hkc := rfl
@[simp] theorem modFlight_store (g u : Nat) (f : Flight → Flight) : (s.modFlight g u f).store = s.store := rfl
@[simp] theorem modFlight_fuses (g u : Nat) (f : Flight → Flight) : (s.modFlight g u f).fuses = s.fuses := rfl
@[simp] theorem modFlight_therm (g u : Nat) (f : Flight → Flight) : (s.modFlight g u f).therm = s.therm := rfl
@[simp] theorem modFlight_pins (g u : Nat) (f : Flight → Flight) : (s.modFlight g u f).pins = s.pins := rfl
@[simp] theorem modFlight_rst (g u : Nat) (f : Flight → Flight) : (s.modFlight g u f).rst = s.rst := rfl
@[simp] theorem modFlight_jtag (g u : Nat) (f : Flight → Flight) : (s.modFlight g u f).jtag = s.jtag := rfl
@[simp] theorem modFlight_trace (g u : Nat) (f : Flight → Flight) : (s.modFlight g u f).trace = s.trace := rfl
@[simp] theorem modFlight_mgmt (g u : Nat) (f : Flight → Flight) : (s.modFlight g u f).mgmt = s.mgmt := rfl
@[simp] theorem modFlight_slewTo (g u : Nat) (f : Flight → Flight) : (s.modFlight g u f).slewTo = s.slewTo := rfl
@[simp] theorem modFlight_timingAt (g u : Nat) (f : Flight → Flight) : (s.modFlight g u f).timingAt = s.timingAt := rfl
@[simp] theorem modFlight_out (g u : Nat) (f : Flight → Flight) : (s.modFlight g u f).out = s.out := rfl
@[simp] theorem modFlight_free (g u : Nat) (f : Flight → Flight) : (s.modFlight g u f).free = s.free := rfl
@[simp] theorem modFlight_acc_word (g u : Nat) (f : Flight → Flight) (o' : Nat) : (s.modFlight g u f).word o' = s.word o' := rfl
@[simp] theorem modFlight_acc_r (g u : Nat) (f : Flight → Flight) (k' : Blk) (f' : Fld) : (s.modFlight g u f).r k' f' = s.r k' f' := rfl
@[simp] theorem modFlight_acc_b (g u : Nat) (f : Flight → Flight) (k' : Blk) (f' : Fld) : (s.modFlight g u f).b k' f' = s.b k' f' := rfl
@[simp] theorem modFlight_acc_r2 (g u : Nat) (f : Flight → Flight) (k' : Blk) (a' b' : Fld) : (s.modFlight g u f).r2 k' a' b' = s.r2 k' a' b' := rfl
@[simp] theorem modFlight_acc_word4 (g u : Nat) (f : Flight → Flight) (p' o' : Nat) : (s.modFlight g u f).word4 p' o' = s.word4 p' o' := rfl
@[simp] theorem modFlight_acc_r4 (g u : Nat) (f : Flight → Flight) (p' : Nat) (f' : Fld) : (s.modFlight g u f).r4 p' f' = s.r4 p' f' := rfl
@[simp] theorem modFlight_acc_bolt (g u : Nat) (f : Flight → Flight) (b' : Nat) : (s.modFlight g u f).bolt b' = s.bolt b' := rfl
@[simp] theorem modFlight_acc_txn (g u : Nat) (f : Flight → Flight) (q' : Nat) : (s.modFlight g u f).txn q' = s.txn q' := rfl
@[simp] theorem modFlight_acc_qp (g u : Nat) (f : Flight → Flight) (p' n' : Nat) : (s.modFlight g u f).qp p' n' = s.qp p' n' := rfl
@[simp] theorem modFlight_acc_hport (g u : Nat) (f : Flight → Flight) (p' : Nat) : (s.modFlight g u f).hport p' = s.hport p' := rfl
@[simp] theorem modFlight_acc_nbu (g u : Nat) (f : Flight → Flight) (k' : Nat) : (s.modFlight g u f).nbu k' = s.nbu k' := rfl
@[simp] theorem modFlight_acc_chkU (g u : Nat) (f : Flight → Flight) (d' : Nat) : (s.modFlight g u f).chkU d' = s.chkU d' := rfl
@[simp] theorem modFlight_acc_chan (g u : Nat) (f : Flight → Flight) (c' : Nat) : (s.modFlight g u f).chan c' = s.chan c' := rfl
@[simp] theorem modFlight_acc_fport (g u : Nat) (f : Flight → Flight) (f' : Nat) : (s.modFlight g u f).fport f' = s.fport f' := rfl
@[simp] theorem modFlight_acc_seam (g u : Nat) (f : Flight → Flight) (k' : Nat) : (s.modFlight g u f).seam k' = s.seam k' := rfl
@[simp] theorem modFlight_acc_thr (g u : Nat) (f : Flight → Flight) (k' : Nat) : (s.modFlight g u f).thr k' = s.thr k' := rfl
@[simp] theorem modFlight_acc_live (g u : Nat) (f : Flight → Flight) : (s.modFlight g u f).live = s.live := rfl
@[simp] theorem modFlight_acc_boltOf (g u : Nat) (f : Flight → Flight) (k' : Nat) : (s.modFlight g u f).boltOf k' = s.boltOf k' := rfl
@[simp] theorem modFlight_acc_siteOf (g u : Nat) (f : Flight → Flight) (m' : Nat) : (s.modFlight g u f).siteOf m' = s.siteOf m' := rfl
@[simp] theorem modFlight_acc_mtile (g u : Nat) (f : Flight → Flight) (g' : Nat) : (s.modFlight g u f).mtile g' = s.mtile g' := rfl
@[simp] theorem modFlight_acc_owner (g u : Nat) (f : Flight → Flight) (b' : Nat) : (s.modFlight g u f).owner b' = s.owner b' := rfl
@[simp] theorem modFlight_acc_portAvail (g u : Nat) (f : Flight → Flight) (p' : Nat) : (s.modFlight g u f).portAvail p' = s.portAvail p' := rfl
@[simp] theorem modFlight_acc_tclkCycles (g u : Nat) (f : Flight → Flight) (n' : Nat) : (s.modFlight g u f).tclkCycles n' = s.tclkCycles n' := rfl
@[simp] theorem modFlight_acc_aclkCycles (g u : Nat) (f : Flight → Flight) (n' : Nat) : (s.modFlight g u f).aclkCycles n' = s.aclkCycles n' := rfl
@[simp] theorem modFlight_acc_ctrlPort (g u : Nat) (f : Flight → Flight) : (s.modFlight g u f).ctrlPort = s.ctrlPort := rfl
@[simp] theorem modFlight_acc_schedTape (g u : Nat) (f : Flight → Flight) : (s.modFlight g u f).schedTape = s.schedTape := rfl
/-! setBolt -/
@[simp] theorem setBolt_pending (b : Nat) (v : Bolt) : (s.setBolt b v).pending = s.pending := rfl
@[simp] theorem setBolt_tape (b : Nat) (v : Bolt) : (s.setBolt b v).tape = s.tape := rfl
@[simp] theorem setBolt_regs (b : Nat) (v : Bolt) : (s.setBolt b v).regs = s.regs := rfl
@[simp] theorem setBolt_bar4 (b : Nat) (v : Bolt) : (s.setBolt b v).bar4 = s.bar4 := rfl
@[simp] theorem setBolt_latch (b : Nat) (v : Bolt) : (s.setBolt b v).latch = s.latch := rfl
@[simp] theorem setBolt_mem (b : Nat) (v : Bolt) : (s.setBolt b v).mem = s.mem := rfl
@[simp] theorem setBolt_errs (b : Nat) (v : Bolt) : (s.setBolt b v).errs = s.errs := rfl
@[simp] theorem setBolt_chans (b : Nat) (v : Bolt) : (s.setBolt b v).chans = s.chans := rfl
@[simp] theorem setBolt_scrubs (b : Nat) (v : Bolt) : (s.setBolt b v).scrubs = s.scrubs := rfl
@[simp] theorem setBolt_migs (b : Nat) (v : Bolt) : (s.setBolt b v).migs = s.migs := rfl
@[simp] theorem setBolt_needle (b : Nat) (v : Bolt) : (s.setBolt b v).needle = s.needle := rfl
@[simp] theorem setBolt_tiles (b : Nat) (v : Bolt) : (s.setBolt b v).tiles = s.tiles := rfl
@[simp] theorem setBolt_mesh (b : Nat) (v : Bolt) : (s.setBolt b v).mesh = s.mesh := rfl
@[simp] theorem setBolt_meshId (b : Nat) (v : Bolt) : (s.setBolt b v).meshId = s.meshId := rfl
@[simp] theorem setBolt_txns (b : Nat) (v : Bolt) : (s.setBolt b v).txns = s.txns := rfl
@[simp] theorem setBolt_stitched (b : Nat) (v : Bolt) : (s.setBolt b v).stitched = s.stitched := rfl
@[simp] theorem setBolt_log (b : Nat) (v : Bolt) : (s.setBolt b v).log = s.log := rfl
@[simp] theorem setBolt_logSel (b : Nat) (v : Bolt) : (s.setBolt b v).logSel = s.logSel := rfl
@[simp] theorem setBolt_qps (b : Nat) (v : Bolt) : (s.setBolt b v).qps = s.qps := rfl
@[simp] theorem setBolt_hports (b : Nat) (v : Bolt) : (s.setBolt b v).hports = s.hports := rfl
@[simp] theorem setBolt_nbus (b : Nat) (v : Bolt) : (s.setBolt b v).nbus = s.nbus := rfl
@[simp] theorem setBolt_chks (b : Nat) (v : Bolt) : (s.setBolt b v).chks = s.chks := rfl
@[simp] theorem setBolt_seams (b : Nat) (v : Bolt) : (s.setBolt b v).seams = s.seams := rfl
@[simp] theorem setBolt_fab (b : Nat) (v : Bolt) : (s.setBolt b v).fab = s.fab := rfl
@[simp] theorem setBolt_hkc (b : Nat) (v : Bolt) : (s.setBolt b v).hkc = s.hkc := rfl
@[simp] theorem setBolt_store (b : Nat) (v : Bolt) : (s.setBolt b v).store = s.store := rfl
@[simp] theorem setBolt_fuses (b : Nat) (v : Bolt) : (s.setBolt b v).fuses = s.fuses := rfl
@[simp] theorem setBolt_therm (b : Nat) (v : Bolt) : (s.setBolt b v).therm = s.therm := rfl
@[simp] theorem setBolt_pins (b : Nat) (v : Bolt) : (s.setBolt b v).pins = s.pins := rfl
@[simp] theorem setBolt_rst (b : Nat) (v : Bolt) : (s.setBolt b v).rst = s.rst := rfl
@[simp] theorem setBolt_jtag (b : Nat) (v : Bolt) : (s.setBolt b v).jtag = s.jtag := rfl
@[simp] theorem setBolt_trace (b : Nat) (v : Bolt) : (s.setBolt b v).trace = s.trace := rfl
@[simp] theorem setBolt_mgmt (b : Nat) (v : Bolt) : (s.setBolt b v).mgmt = s.mgmt := rfl
@[simp] theorem setBolt_slewTo (b : Nat) (v : Bolt) : (s.setBolt b v).slewTo = s.slewTo := rfl
@[simp] theorem setBolt_timingAt (b : Nat) (v : Bolt) : (s.setBolt b v).timingAt = s.timingAt := rfl
@[simp] theorem setBolt_out (b : Nat) (v : Bolt) : (s.setBolt b v).out = s.out := rfl
@[simp] theorem setBolt_free (b : Nat) (v : Bolt) : (s.setBolt b v).free = s.free := rfl
@[simp] theorem setBolt_acc_word (b : Nat) (v : Bolt) (o' : Nat) : (s.setBolt b v).word o' = s.word o' := rfl
@[simp] theorem setBolt_acc_r (b : Nat) (v : Bolt) (k' : Blk) (f' : Fld) : (s.setBolt b v).r k' f' = s.r k' f' := rfl
@[simp] theorem setBolt_acc_b (b : Nat) (v : Bolt) (k' : Blk) (f' : Fld) : (s.setBolt b v).b k' f' = s.b k' f' := rfl
@[simp] theorem setBolt_acc_r2 (b : Nat) (v : Bolt) (k' : Blk) (a' b' : Fld) : (s.setBolt b v).r2 k' a' b' = s.r2 k' a' b' := rfl
@[simp] theorem setBolt_acc_word4 (b : Nat) (v : Bolt) (p' o' : Nat) : (s.setBolt b v).word4 p' o' = s.word4 p' o' := rfl
@[simp] theorem setBolt_acc_r4 (b : Nat) (v : Bolt) (p' : Nat) (f' : Fld) : (s.setBolt b v).r4 p' f' = s.r4 p' f' := rfl
@[simp] theorem setBolt_acc_tile (b : Nat) (v : Bolt) (g' : Nat) : (s.setBolt b v).tile g' = s.tile g' := rfl
@[simp] theorem setBolt_acc_txn (b : Nat) (v : Bolt) (q' : Nat) : (s.setBolt b v).txn q' = s.txn q' := rfl
@[simp] theorem setBolt_acc_qp (b : Nat) (v : Bolt) (p' n' : Nat) : (s.setBolt b v).qp p' n' = s.qp p' n' := rfl
@[simp] theorem setBolt_acc_hport (b : Nat) (v : Bolt) (p' : Nat) : (s.setBolt b v).hport p' = s.hport p' := rfl
@[simp] theorem setBolt_acc_nbu (b : Nat) (v : Bolt) (k' : Nat) : (s.setBolt b v).nbu k' = s.nbu k' := rfl
@[simp] theorem setBolt_acc_chkU (b : Nat) (v : Bolt) (d' : Nat) : (s.setBolt b v).chkU d' = s.chkU d' := rfl
@[simp] theorem setBolt_acc_chan (b : Nat) (v : Bolt) (c' : Nat) : (s.setBolt b v).chan c' = s.chan c' := rfl
@[simp] theorem setBolt_acc_fport (b : Nat) (v : Bolt) (f' : Nat) : (s.setBolt b v).fport f' = s.fport f' := rfl
@[simp] theorem setBolt_acc_seam (b : Nat) (v : Bolt) (k' : Nat) : (s.setBolt b v).seam k' = s.seam k' := rfl
@[simp] theorem setBolt_acc_thr (b : Nat) (v : Bolt) (k' : Nat) : (s.setBolt b v).thr k' = s.thr k' := rfl
@[simp] theorem setBolt_acc_live (b : Nat) (v : Bolt) : (s.setBolt b v).live = s.live := rfl
@[simp] theorem setBolt_acc_boltOf (b : Nat) (v : Bolt) (k' : Nat) : (s.setBolt b v).boltOf k' = s.boltOf k' := rfl
@[simp] theorem setBolt_acc_siteOf (b : Nat) (v : Bolt) (m' : Nat) : (s.setBolt b v).siteOf m' = s.siteOf m' := rfl
@[simp] theorem setBolt_acc_mtile (b : Nat) (v : Bolt) (g' : Nat) : (s.setBolt b v).mtile g' = s.mtile g' := rfl
@[simp] theorem setBolt_acc_owner (b : Nat) (v : Bolt) (b' : Nat) : (s.setBolt b v).owner b' = s.owner b' := rfl
@[simp] theorem setBolt_acc_portAvail (b : Nat) (v : Bolt) (p' : Nat) : (s.setBolt b v).portAvail p' = s.portAvail p' := rfl
@[simp] theorem setBolt_acc_tclkCycles (b : Nat) (v : Bolt) (n' : Nat) : (s.setBolt b v).tclkCycles n' = s.tclkCycles n' := rfl
@[simp] theorem setBolt_acc_aclkCycles (b : Nat) (v : Bolt) (n' : Nat) : (s.setBolt b v).aclkCycles n' = s.aclkCycles n' := rfl
@[simp] theorem setBolt_acc_ctrlPort (b : Nat) (v : Bolt) : (s.setBolt b v).ctrlPort = s.ctrlPort := rfl
@[simp] theorem setBolt_acc_schedTape (b : Nat) (v : Bolt) : (s.setBolt b v).schedTape = s.schedTape := rfl
/-! modBolt -/
@[simp] theorem modBolt_pending (b : Nat) (f : Bolt → Bolt) : (s.modBolt b f).pending = s.pending := rfl
@[simp] theorem modBolt_tape (b : Nat) (f : Bolt → Bolt) : (s.modBolt b f).tape = s.tape := rfl
@[simp] theorem modBolt_regs (b : Nat) (f : Bolt → Bolt) : (s.modBolt b f).regs = s.regs := rfl
@[simp] theorem modBolt_bar4 (b : Nat) (f : Bolt → Bolt) : (s.modBolt b f).bar4 = s.bar4 := rfl
@[simp] theorem modBolt_latch (b : Nat) (f : Bolt → Bolt) : (s.modBolt b f).latch = s.latch := rfl
@[simp] theorem modBolt_mem (b : Nat) (f : Bolt → Bolt) : (s.modBolt b f).mem = s.mem := rfl
@[simp] theorem modBolt_errs (b : Nat) (f : Bolt → Bolt) : (s.modBolt b f).errs = s.errs := rfl
@[simp] theorem modBolt_chans (b : Nat) (f : Bolt → Bolt) : (s.modBolt b f).chans = s.chans := rfl
@[simp] theorem modBolt_scrubs (b : Nat) (f : Bolt → Bolt) : (s.modBolt b f).scrubs = s.scrubs := rfl
@[simp] theorem modBolt_migs (b : Nat) (f : Bolt → Bolt) : (s.modBolt b f).migs = s.migs := rfl
@[simp] theorem modBolt_needle (b : Nat) (f : Bolt → Bolt) : (s.modBolt b f).needle = s.needle := rfl
@[simp] theorem modBolt_tiles (b : Nat) (f : Bolt → Bolt) : (s.modBolt b f).tiles = s.tiles := rfl
@[simp] theorem modBolt_mesh (b : Nat) (f : Bolt → Bolt) : (s.modBolt b f).mesh = s.mesh := rfl
@[simp] theorem modBolt_meshId (b : Nat) (f : Bolt → Bolt) : (s.modBolt b f).meshId = s.meshId := rfl
@[simp] theorem modBolt_txns (b : Nat) (f : Bolt → Bolt) : (s.modBolt b f).txns = s.txns := rfl
@[simp] theorem modBolt_stitched (b : Nat) (f : Bolt → Bolt) : (s.modBolt b f).stitched = s.stitched := rfl
@[simp] theorem modBolt_log (b : Nat) (f : Bolt → Bolt) : (s.modBolt b f).log = s.log := rfl
@[simp] theorem modBolt_logSel (b : Nat) (f : Bolt → Bolt) : (s.modBolt b f).logSel = s.logSel := rfl
@[simp] theorem modBolt_qps (b : Nat) (f : Bolt → Bolt) : (s.modBolt b f).qps = s.qps := rfl
@[simp] theorem modBolt_hports (b : Nat) (f : Bolt → Bolt) : (s.modBolt b f).hports = s.hports := rfl
@[simp] theorem modBolt_nbus (b : Nat) (f : Bolt → Bolt) : (s.modBolt b f).nbus = s.nbus := rfl
@[simp] theorem modBolt_chks (b : Nat) (f : Bolt → Bolt) : (s.modBolt b f).chks = s.chks := rfl
@[simp] theorem modBolt_seams (b : Nat) (f : Bolt → Bolt) : (s.modBolt b f).seams = s.seams := rfl
@[simp] theorem modBolt_fab (b : Nat) (f : Bolt → Bolt) : (s.modBolt b f).fab = s.fab := rfl
@[simp] theorem modBolt_hkc (b : Nat) (f : Bolt → Bolt) : (s.modBolt b f).hkc = s.hkc := rfl
@[simp] theorem modBolt_store (b : Nat) (f : Bolt → Bolt) : (s.modBolt b f).store = s.store := rfl
@[simp] theorem modBolt_fuses (b : Nat) (f : Bolt → Bolt) : (s.modBolt b f).fuses = s.fuses := rfl
@[simp] theorem modBolt_therm (b : Nat) (f : Bolt → Bolt) : (s.modBolt b f).therm = s.therm := rfl
@[simp] theorem modBolt_pins (b : Nat) (f : Bolt → Bolt) : (s.modBolt b f).pins = s.pins := rfl
@[simp] theorem modBolt_rst (b : Nat) (f : Bolt → Bolt) : (s.modBolt b f).rst = s.rst := rfl
@[simp] theorem modBolt_jtag (b : Nat) (f : Bolt → Bolt) : (s.modBolt b f).jtag = s.jtag := rfl
@[simp] theorem modBolt_trace (b : Nat) (f : Bolt → Bolt) : (s.modBolt b f).trace = s.trace := rfl
@[simp] theorem modBolt_mgmt (b : Nat) (f : Bolt → Bolt) : (s.modBolt b f).mgmt = s.mgmt := rfl
@[simp] theorem modBolt_slewTo (b : Nat) (f : Bolt → Bolt) : (s.modBolt b f).slewTo = s.slewTo := rfl
@[simp] theorem modBolt_timingAt (b : Nat) (f : Bolt → Bolt) : (s.modBolt b f).timingAt = s.timingAt := rfl
@[simp] theorem modBolt_out (b : Nat) (f : Bolt → Bolt) : (s.modBolt b f).out = s.out := rfl
@[simp] theorem modBolt_free (b : Nat) (f : Bolt → Bolt) : (s.modBolt b f).free = s.free := rfl
@[simp] theorem modBolt_acc_word (b : Nat) (f : Bolt → Bolt) (o' : Nat) : (s.modBolt b f).word o' = s.word o' := rfl
@[simp] theorem modBolt_acc_r (b : Nat) (f : Bolt → Bolt) (k' : Blk) (f' : Fld) : (s.modBolt b f).r k' f' = s.r k' f' := rfl
@[simp] theorem modBolt_acc_b (b : Nat) (f : Bolt → Bolt) (k' : Blk) (f' : Fld) : (s.modBolt b f).b k' f' = s.b k' f' := rfl
@[simp] theorem modBolt_acc_r2 (b : Nat) (f : Bolt → Bolt) (k' : Blk) (a' b' : Fld) : (s.modBolt b f).r2 k' a' b' = s.r2 k' a' b' := rfl
@[simp] theorem modBolt_acc_word4 (b : Nat) (f : Bolt → Bolt) (p' o' : Nat) : (s.modBolt b f).word4 p' o' = s.word4 p' o' := rfl
@[simp] theorem modBolt_acc_r4 (b : Nat) (f : Bolt → Bolt) (p' : Nat) (f' : Fld) : (s.modBolt b f).r4 p' f' = s.r4 p' f' := rfl
@[simp] theorem modBolt_acc_tile (b : Nat) (f : Bolt → Bolt) (g' : Nat) : (s.modBolt b f).tile g' = s.tile g' := rfl
@[simp] theorem modBolt_acc_txn (b : Nat) (f : Bolt → Bolt) (q' : Nat) : (s.modBolt b f).txn q' = s.txn q' := rfl
@[simp] theorem modBolt_acc_qp (b : Nat) (f : Bolt → Bolt) (p' n' : Nat) : (s.modBolt b f).qp p' n' = s.qp p' n' := rfl
@[simp] theorem modBolt_acc_hport (b : Nat) (f : Bolt → Bolt) (p' : Nat) : (s.modBolt b f).hport p' = s.hport p' := rfl
@[simp] theorem modBolt_acc_nbu (b : Nat) (f : Bolt → Bolt) (k' : Nat) : (s.modBolt b f).nbu k' = s.nbu k' := rfl
@[simp] theorem modBolt_acc_chkU (b : Nat) (f : Bolt → Bolt) (d' : Nat) : (s.modBolt b f).chkU d' = s.chkU d' := rfl
@[simp] theorem modBolt_acc_chan (b : Nat) (f : Bolt → Bolt) (c' : Nat) : (s.modBolt b f).chan c' = s.chan c' := rfl
@[simp] theorem modBolt_acc_fport (b : Nat) (f : Bolt → Bolt) (f' : Nat) : (s.modBolt b f).fport f' = s.fport f' := rfl
@[simp] theorem modBolt_acc_seam (b : Nat) (f : Bolt → Bolt) (k' : Nat) : (s.modBolt b f).seam k' = s.seam k' := rfl
@[simp] theorem modBolt_acc_thr (b : Nat) (f : Bolt → Bolt) (k' : Nat) : (s.modBolt b f).thr k' = s.thr k' := rfl
@[simp] theorem modBolt_acc_live (b : Nat) (f : Bolt → Bolt) : (s.modBolt b f).live = s.live := rfl
@[simp] theorem modBolt_acc_boltOf (b : Nat) (f : Bolt → Bolt) (k' : Nat) : (s.modBolt b f).boltOf k' = s.boltOf k' := rfl
@[simp] theorem modBolt_acc_siteOf (b : Nat) (f : Bolt → Bolt) (m' : Nat) : (s.modBolt b f).siteOf m' = s.siteOf m' := rfl
@[simp] theorem modBolt_acc_mtile (b : Nat) (f : Bolt → Bolt) (g' : Nat) : (s.modBolt b f).mtile g' = s.mtile g' := rfl
@[simp] theorem modBolt_acc_owner (b : Nat) (f : Bolt → Bolt) (b' : Nat) : (s.modBolt b f).owner b' = s.owner b' := rfl
@[simp] theorem modBolt_acc_portAvail (b : Nat) (f : Bolt → Bolt) (p' : Nat) : (s.modBolt b f).portAvail p' = s.portAvail p' := rfl
@[simp] theorem modBolt_acc_tclkCycles (b : Nat) (f : Bolt → Bolt) (n' : Nat) : (s.modBolt b f).tclkCycles n' = s.tclkCycles n' := rfl
@[simp] theorem modBolt_acc_aclkCycles (b : Nat) (f : Bolt → Bolt) (n' : Nat) : (s.modBolt b f).aclkCycles n' = s.aclkCycles n' := rfl
@[simp] theorem modBolt_acc_ctrlPort (b : Nat) (f : Bolt → Bolt) : (s.modBolt b f).ctrlPort = s.ctrlPort := rfl
@[simp] theorem modBolt_acc_schedTape (b : Nat) (f : Bolt → Bolt) : (s.modBolt b f).schedTape = s.schedTape := rfl
/-! setTxn -/
@[simp] theorem setTxn_pending (q : Nat) (v : Txn) : (s.setTxn q v).pending = s.pending := rfl
@[simp] theorem setTxn_tape (q : Nat) (v : Txn) : (s.setTxn q v).tape = s.tape := rfl
@[simp] theorem setTxn_regs (q : Nat) (v : Txn) : (s.setTxn q v).regs = s.regs := rfl
@[simp] theorem setTxn_bar4 (q : Nat) (v : Txn) : (s.setTxn q v).bar4 = s.bar4 := rfl
@[simp] theorem setTxn_latch (q : Nat) (v : Txn) : (s.setTxn q v).latch = s.latch := rfl
@[simp] theorem setTxn_mem (q : Nat) (v : Txn) : (s.setTxn q v).mem = s.mem := rfl
@[simp] theorem setTxn_errs (q : Nat) (v : Txn) : (s.setTxn q v).errs = s.errs := rfl
@[simp] theorem setTxn_chans (q : Nat) (v : Txn) : (s.setTxn q v).chans = s.chans := rfl
@[simp] theorem setTxn_scrubs (q : Nat) (v : Txn) : (s.setTxn q v).scrubs = s.scrubs := rfl
@[simp] theorem setTxn_migs (q : Nat) (v : Txn) : (s.setTxn q v).migs = s.migs := rfl
@[simp] theorem setTxn_needle (q : Nat) (v : Txn) : (s.setTxn q v).needle = s.needle := rfl
@[simp] theorem setTxn_tiles (q : Nat) (v : Txn) : (s.setTxn q v).tiles = s.tiles := rfl
@[simp] theorem setTxn_mesh (q : Nat) (v : Txn) : (s.setTxn q v).mesh = s.mesh := rfl
@[simp] theorem setTxn_meshId (q : Nat) (v : Txn) : (s.setTxn q v).meshId = s.meshId := rfl
@[simp] theorem setTxn_bolts (q : Nat) (v : Txn) : (s.setTxn q v).bolts = s.bolts := rfl
@[simp] theorem setTxn_stitched (q : Nat) (v : Txn) : (s.setTxn q v).stitched = s.stitched := rfl
@[simp] theorem setTxn_log (q : Nat) (v : Txn) : (s.setTxn q v).log = s.log := rfl
@[simp] theorem setTxn_logSel (q : Nat) (v : Txn) : (s.setTxn q v).logSel = s.logSel := rfl
@[simp] theorem setTxn_qps (q : Nat) (v : Txn) : (s.setTxn q v).qps = s.qps := rfl
@[simp] theorem setTxn_hports (q : Nat) (v : Txn) : (s.setTxn q v).hports = s.hports := rfl
@[simp] theorem setTxn_nbus (q : Nat) (v : Txn) : (s.setTxn q v).nbus = s.nbus := rfl
@[simp] theorem setTxn_chks (q : Nat) (v : Txn) : (s.setTxn q v).chks = s.chks := rfl
@[simp] theorem setTxn_seams (q : Nat) (v : Txn) : (s.setTxn q v).seams = s.seams := rfl
@[simp] theorem setTxn_fab (q : Nat) (v : Txn) : (s.setTxn q v).fab = s.fab := rfl
@[simp] theorem setTxn_hkc (q : Nat) (v : Txn) : (s.setTxn q v).hkc = s.hkc := rfl
@[simp] theorem setTxn_store (q : Nat) (v : Txn) : (s.setTxn q v).store = s.store := rfl
@[simp] theorem setTxn_fuses (q : Nat) (v : Txn) : (s.setTxn q v).fuses = s.fuses := rfl
@[simp] theorem setTxn_therm (q : Nat) (v : Txn) : (s.setTxn q v).therm = s.therm := rfl
@[simp] theorem setTxn_pins (q : Nat) (v : Txn) : (s.setTxn q v).pins = s.pins := rfl
@[simp] theorem setTxn_rst (q : Nat) (v : Txn) : (s.setTxn q v).rst = s.rst := rfl
@[simp] theorem setTxn_jtag (q : Nat) (v : Txn) : (s.setTxn q v).jtag = s.jtag := rfl
@[simp] theorem setTxn_trace (q : Nat) (v : Txn) : (s.setTxn q v).trace = s.trace := rfl
@[simp] theorem setTxn_mgmt (q : Nat) (v : Txn) : (s.setTxn q v).mgmt = s.mgmt := rfl
@[simp] theorem setTxn_slewTo (q : Nat) (v : Txn) : (s.setTxn q v).slewTo = s.slewTo := rfl
@[simp] theorem setTxn_timingAt (q : Nat) (v : Txn) : (s.setTxn q v).timingAt = s.timingAt := rfl
@[simp] theorem setTxn_out (q : Nat) (v : Txn) : (s.setTxn q v).out = s.out := rfl
@[simp] theorem setTxn_free (q : Nat) (v : Txn) : (s.setTxn q v).free = s.free := rfl
@[simp] theorem setTxn_acc_word (q : Nat) (v : Txn) (o' : Nat) : (s.setTxn q v).word o' = s.word o' := rfl
@[simp] theorem setTxn_acc_r (q : Nat) (v : Txn) (k' : Blk) (f' : Fld) : (s.setTxn q v).r k' f' = s.r k' f' := rfl
@[simp] theorem setTxn_acc_b (q : Nat) (v : Txn) (k' : Blk) (f' : Fld) : (s.setTxn q v).b k' f' = s.b k' f' := rfl
@[simp] theorem setTxn_acc_r2 (q : Nat) (v : Txn) (k' : Blk) (a' b' : Fld) : (s.setTxn q v).r2 k' a' b' = s.r2 k' a' b' := rfl
@[simp] theorem setTxn_acc_word4 (q : Nat) (v : Txn) (p' o' : Nat) : (s.setTxn q v).word4 p' o' = s.word4 p' o' := rfl
@[simp] theorem setTxn_acc_r4 (q : Nat) (v : Txn) (p' : Nat) (f' : Fld) : (s.setTxn q v).r4 p' f' = s.r4 p' f' := rfl
@[simp] theorem setTxn_acc_tile (q : Nat) (v : Txn) (g' : Nat) : (s.setTxn q v).tile g' = s.tile g' := rfl
@[simp] theorem setTxn_acc_bolt (q : Nat) (v : Txn) (b' : Nat) : (s.setTxn q v).bolt b' = s.bolt b' := rfl
@[simp] theorem setTxn_acc_qp (q : Nat) (v : Txn) (p' n' : Nat) : (s.setTxn q v).qp p' n' = s.qp p' n' := rfl
@[simp] theorem setTxn_acc_hport (q : Nat) (v : Txn) (p' : Nat) : (s.setTxn q v).hport p' = s.hport p' := rfl
@[simp] theorem setTxn_acc_nbu (q : Nat) (v : Txn) (k' : Nat) : (s.setTxn q v).nbu k' = s.nbu k' := rfl
@[simp] theorem setTxn_acc_chkU (q : Nat) (v : Txn) (d' : Nat) : (s.setTxn q v).chkU d' = s.chkU d' := rfl
@[simp] theorem setTxn_acc_chan (q : Nat) (v : Txn) (c' : Nat) : (s.setTxn q v).chan c' = s.chan c' := rfl
@[simp] theorem setTxn_acc_fport (q : Nat) (v : Txn) (f' : Nat) : (s.setTxn q v).fport f' = s.fport f' := rfl
@[simp] theorem setTxn_acc_seam (q : Nat) (v : Txn) (k' : Nat) : (s.setTxn q v).seam k' = s.seam k' := rfl
@[simp] theorem setTxn_acc_thr (q : Nat) (v : Txn) (k' : Nat) : (s.setTxn q v).thr k' = s.thr k' := rfl
@[simp] theorem setTxn_acc_live (q : Nat) (v : Txn) : (s.setTxn q v).live = s.live := rfl
@[simp] theorem setTxn_acc_boltOf (q : Nat) (v : Txn) (k' : Nat) : (s.setTxn q v).boltOf k' = s.boltOf k' := rfl
@[simp] theorem setTxn_acc_siteOf (q : Nat) (v : Txn) (m' : Nat) : (s.setTxn q v).siteOf m' = s.siteOf m' := rfl
@[simp] theorem setTxn_acc_mtile (q : Nat) (v : Txn) (g' : Nat) : (s.setTxn q v).mtile g' = s.mtile g' := rfl
@[simp] theorem setTxn_acc_owner (q : Nat) (v : Txn) (b' : Nat) : (s.setTxn q v).owner b' = s.owner b' := rfl
@[simp] theorem setTxn_acc_portAvail (q : Nat) (v : Txn) (p' : Nat) : (s.setTxn q v).portAvail p' = s.portAvail p' := rfl
@[simp] theorem setTxn_acc_tclkCycles (q : Nat) (v : Txn) (n' : Nat) : (s.setTxn q v).tclkCycles n' = s.tclkCycles n' := rfl
@[simp] theorem setTxn_acc_aclkCycles (q : Nat) (v : Txn) (n' : Nat) : (s.setTxn q v).aclkCycles n' = s.aclkCycles n' := rfl
@[simp] theorem setTxn_acc_ctrlPort (q : Nat) (v : Txn) : (s.setTxn q v).ctrlPort = s.ctrlPort := rfl
@[simp] theorem setTxn_acc_schedTape (q : Nat) (v : Txn) : (s.setTxn q v).schedTape = s.schedTape := rfl
/-! setQp -/
@[simp] theorem setQp_pending (p n : Nat) (v : QPair) : (s.setQp p n v).pending = s.pending := rfl
@[simp] theorem setQp_tape (p n : Nat) (v : QPair) : (s.setQp p n v).tape = s.tape := rfl
@[simp] theorem setQp_regs (p n : Nat) (v : QPair) : (s.setQp p n v).regs = s.regs := rfl
@[simp] theorem setQp_bar4 (p n : Nat) (v : QPair) : (s.setQp p n v).bar4 = s.bar4 := rfl
@[simp] theorem setQp_latch (p n : Nat) (v : QPair) : (s.setQp p n v).latch = s.latch := rfl
@[simp] theorem setQp_mem (p n : Nat) (v : QPair) : (s.setQp p n v).mem = s.mem := rfl
@[simp] theorem setQp_errs (p n : Nat) (v : QPair) : (s.setQp p n v).errs = s.errs := rfl
@[simp] theorem setQp_chans (p n : Nat) (v : QPair) : (s.setQp p n v).chans = s.chans := rfl
@[simp] theorem setQp_scrubs (p n : Nat) (v : QPair) : (s.setQp p n v).scrubs = s.scrubs := rfl
@[simp] theorem setQp_migs (p n : Nat) (v : QPair) : (s.setQp p n v).migs = s.migs := rfl
@[simp] theorem setQp_needle (p n : Nat) (v : QPair) : (s.setQp p n v).needle = s.needle := rfl
@[simp] theorem setQp_tiles (p n : Nat) (v : QPair) : (s.setQp p n v).tiles = s.tiles := rfl
@[simp] theorem setQp_mesh (p n : Nat) (v : QPair) : (s.setQp p n v).mesh = s.mesh := rfl
@[simp] theorem setQp_meshId (p n : Nat) (v : QPair) : (s.setQp p n v).meshId = s.meshId := rfl
@[simp] theorem setQp_bolts (p n : Nat) (v : QPair) : (s.setQp p n v).bolts = s.bolts := rfl
@[simp] theorem setQp_txns (p n : Nat) (v : QPair) : (s.setQp p n v).txns = s.txns := rfl
@[simp] theorem setQp_stitched (p n : Nat) (v : QPair) : (s.setQp p n v).stitched = s.stitched := rfl
@[simp] theorem setQp_log (p n : Nat) (v : QPair) : (s.setQp p n v).log = s.log := rfl
@[simp] theorem setQp_logSel (p n : Nat) (v : QPair) : (s.setQp p n v).logSel = s.logSel := rfl
@[simp] theorem setQp_hports (p n : Nat) (v : QPair) : (s.setQp p n v).hports = s.hports := rfl
@[simp] theorem setQp_nbus (p n : Nat) (v : QPair) : (s.setQp p n v).nbus = s.nbus := rfl
@[simp] theorem setQp_chks (p n : Nat) (v : QPair) : (s.setQp p n v).chks = s.chks := rfl
@[simp] theorem setQp_seams (p n : Nat) (v : QPair) : (s.setQp p n v).seams = s.seams := rfl
@[simp] theorem setQp_fab (p n : Nat) (v : QPair) : (s.setQp p n v).fab = s.fab := rfl
@[simp] theorem setQp_hkc (p n : Nat) (v : QPair) : (s.setQp p n v).hkc = s.hkc := rfl
@[simp] theorem setQp_store (p n : Nat) (v : QPair) : (s.setQp p n v).store = s.store := rfl
@[simp] theorem setQp_fuses (p n : Nat) (v : QPair) : (s.setQp p n v).fuses = s.fuses := rfl
@[simp] theorem setQp_therm (p n : Nat) (v : QPair) : (s.setQp p n v).therm = s.therm := rfl
@[simp] theorem setQp_pins (p n : Nat) (v : QPair) : (s.setQp p n v).pins = s.pins := rfl
@[simp] theorem setQp_rst (p n : Nat) (v : QPair) : (s.setQp p n v).rst = s.rst := rfl
@[simp] theorem setQp_jtag (p n : Nat) (v : QPair) : (s.setQp p n v).jtag = s.jtag := rfl
@[simp] theorem setQp_trace (p n : Nat) (v : QPair) : (s.setQp p n v).trace = s.trace := rfl
@[simp] theorem setQp_mgmt (p n : Nat) (v : QPair) : (s.setQp p n v).mgmt = s.mgmt := rfl
@[simp] theorem setQp_slewTo (p n : Nat) (v : QPair) : (s.setQp p n v).slewTo = s.slewTo := rfl
@[simp] theorem setQp_timingAt (p n : Nat) (v : QPair) : (s.setQp p n v).timingAt = s.timingAt := rfl
@[simp] theorem setQp_out (p n : Nat) (v : QPair) : (s.setQp p n v).out = s.out := rfl
@[simp] theorem setQp_free (p n : Nat) (v : QPair) : (s.setQp p n v).free = s.free := rfl
@[simp] theorem setQp_acc_word (p n : Nat) (v : QPair) (o' : Nat) : (s.setQp p n v).word o' = s.word o' := rfl
@[simp] theorem setQp_acc_r (p n : Nat) (v : QPair) (k' : Blk) (f' : Fld) : (s.setQp p n v).r k' f' = s.r k' f' := rfl
@[simp] theorem setQp_acc_b (p n : Nat) (v : QPair) (k' : Blk) (f' : Fld) : (s.setQp p n v).b k' f' = s.b k' f' := rfl
@[simp] theorem setQp_acc_r2 (p n : Nat) (v : QPair) (k' : Blk) (a' b' : Fld) : (s.setQp p n v).r2 k' a' b' = s.r2 k' a' b' := rfl
@[simp] theorem setQp_acc_word4 (p n : Nat) (v : QPair) (p' o' : Nat) : (s.setQp p n v).word4 p' o' = s.word4 p' o' := rfl
@[simp] theorem setQp_acc_r4 (p n : Nat) (v : QPair) (p' : Nat) (f' : Fld) : (s.setQp p n v).r4 p' f' = s.r4 p' f' := rfl
@[simp] theorem setQp_acc_tile (p n : Nat) (v : QPair) (g' : Nat) : (s.setQp p n v).tile g' = s.tile g' := rfl
@[simp] theorem setQp_acc_bolt (p n : Nat) (v : QPair) (b' : Nat) : (s.setQp p n v).bolt b' = s.bolt b' := rfl
@[simp] theorem setQp_acc_txn (p n : Nat) (v : QPair) (q' : Nat) : (s.setQp p n v).txn q' = s.txn q' := rfl
@[simp] theorem setQp_acc_hport (p n : Nat) (v : QPair) (p' : Nat) : (s.setQp p n v).hport p' = s.hport p' := rfl
@[simp] theorem setQp_acc_nbu (p n : Nat) (v : QPair) (k' : Nat) : (s.setQp p n v).nbu k' = s.nbu k' := rfl
@[simp] theorem setQp_acc_chkU (p n : Nat) (v : QPair) (d' : Nat) : (s.setQp p n v).chkU d' = s.chkU d' := rfl
@[simp] theorem setQp_acc_chan (p n : Nat) (v : QPair) (c' : Nat) : (s.setQp p n v).chan c' = s.chan c' := rfl
@[simp] theorem setQp_acc_fport (p n : Nat) (v : QPair) (f' : Nat) : (s.setQp p n v).fport f' = s.fport f' := rfl
@[simp] theorem setQp_acc_seam (p n : Nat) (v : QPair) (k' : Nat) : (s.setQp p n v).seam k' = s.seam k' := rfl
@[simp] theorem setQp_acc_thr (p n : Nat) (v : QPair) (k' : Nat) : (s.setQp p n v).thr k' = s.thr k' := rfl
@[simp] theorem setQp_acc_live (p n : Nat) (v : QPair) : (s.setQp p n v).live = s.live := rfl
@[simp] theorem setQp_acc_boltOf (p n : Nat) (v : QPair) (k' : Nat) : (s.setQp p n v).boltOf k' = s.boltOf k' := rfl
@[simp] theorem setQp_acc_siteOf (p n : Nat) (v : QPair) (m' : Nat) : (s.setQp p n v).siteOf m' = s.siteOf m' := rfl
@[simp] theorem setQp_acc_mtile (p n : Nat) (v : QPair) (g' : Nat) : (s.setQp p n v).mtile g' = s.mtile g' := rfl
@[simp] theorem setQp_acc_owner (p n : Nat) (v : QPair) (b' : Nat) : (s.setQp p n v).owner b' = s.owner b' := rfl
@[simp] theorem setQp_acc_portAvail (p n : Nat) (v : QPair) (p' : Nat) : (s.setQp p n v).portAvail p' = s.portAvail p' := rfl
@[simp] theorem setQp_acc_tclkCycles (p n : Nat) (v : QPair) (n' : Nat) : (s.setQp p n v).tclkCycles n' = s.tclkCycles n' := rfl
@[simp] theorem setQp_acc_aclkCycles (p n : Nat) (v : QPair) (n' : Nat) : (s.setQp p n v).aclkCycles n' = s.aclkCycles n' := rfl
@[simp] theorem setQp_acc_ctrlPort (p n : Nat) (v : QPair) : (s.setQp p n v).ctrlPort = s.ctrlPort := rfl
@[simp] theorem setQp_acc_schedTape (p n : Nat) (v : QPair) : (s.setQp p n v).schedTape = s.schedTape := rfl
/-! setHport -/
@[simp] theorem setHport_pending (p : Nat) (v : HostPort) : (s.setHport p v).pending = s.pending := rfl
@[simp] theorem setHport_tape (p : Nat) (v : HostPort) : (s.setHport p v).tape = s.tape := rfl
@[simp] theorem setHport_regs (p : Nat) (v : HostPort) : (s.setHport p v).regs = s.regs := rfl
@[simp] theorem setHport_bar4 (p : Nat) (v : HostPort) : (s.setHport p v).bar4 = s.bar4 := rfl
@[simp] theorem setHport_latch (p : Nat) (v : HostPort) : (s.setHport p v).latch = s.latch := rfl
@[simp] theorem setHport_mem (p : Nat) (v : HostPort) : (s.setHport p v).mem = s.mem := rfl
@[simp] theorem setHport_errs (p : Nat) (v : HostPort) : (s.setHport p v).errs = s.errs := rfl
@[simp] theorem setHport_chans (p : Nat) (v : HostPort) : (s.setHport p v).chans = s.chans := rfl
@[simp] theorem setHport_scrubs (p : Nat) (v : HostPort) : (s.setHport p v).scrubs = s.scrubs := rfl
@[simp] theorem setHport_migs (p : Nat) (v : HostPort) : (s.setHport p v).migs = s.migs := rfl
@[simp] theorem setHport_needle (p : Nat) (v : HostPort) : (s.setHport p v).needle = s.needle := rfl
@[simp] theorem setHport_tiles (p : Nat) (v : HostPort) : (s.setHport p v).tiles = s.tiles := rfl
@[simp] theorem setHport_mesh (p : Nat) (v : HostPort) : (s.setHport p v).mesh = s.mesh := rfl
@[simp] theorem setHport_meshId (p : Nat) (v : HostPort) : (s.setHport p v).meshId = s.meshId := rfl
@[simp] theorem setHport_bolts (p : Nat) (v : HostPort) : (s.setHport p v).bolts = s.bolts := rfl
@[simp] theorem setHport_txns (p : Nat) (v : HostPort) : (s.setHport p v).txns = s.txns := rfl
@[simp] theorem setHport_stitched (p : Nat) (v : HostPort) : (s.setHport p v).stitched = s.stitched := rfl
@[simp] theorem setHport_log (p : Nat) (v : HostPort) : (s.setHport p v).log = s.log := rfl
@[simp] theorem setHport_logSel (p : Nat) (v : HostPort) : (s.setHport p v).logSel = s.logSel := rfl
@[simp] theorem setHport_qps (p : Nat) (v : HostPort) : (s.setHport p v).qps = s.qps := rfl
@[simp] theorem setHport_nbus (p : Nat) (v : HostPort) : (s.setHport p v).nbus = s.nbus := rfl
@[simp] theorem setHport_chks (p : Nat) (v : HostPort) : (s.setHport p v).chks = s.chks := rfl
@[simp] theorem setHport_seams (p : Nat) (v : HostPort) : (s.setHport p v).seams = s.seams := rfl
@[simp] theorem setHport_fab (p : Nat) (v : HostPort) : (s.setHport p v).fab = s.fab := rfl
@[simp] theorem setHport_hkc (p : Nat) (v : HostPort) : (s.setHport p v).hkc = s.hkc := rfl
@[simp] theorem setHport_store (p : Nat) (v : HostPort) : (s.setHport p v).store = s.store := rfl
@[simp] theorem setHport_fuses (p : Nat) (v : HostPort) : (s.setHport p v).fuses = s.fuses := rfl
@[simp] theorem setHport_therm (p : Nat) (v : HostPort) : (s.setHport p v).therm = s.therm := rfl
@[simp] theorem setHport_pins (p : Nat) (v : HostPort) : (s.setHport p v).pins = s.pins := rfl
@[simp] theorem setHport_rst (p : Nat) (v : HostPort) : (s.setHport p v).rst = s.rst := rfl
@[simp] theorem setHport_jtag (p : Nat) (v : HostPort) : (s.setHport p v).jtag = s.jtag := rfl
@[simp] theorem setHport_trace (p : Nat) (v : HostPort) : (s.setHport p v).trace = s.trace := rfl
@[simp] theorem setHport_mgmt (p : Nat) (v : HostPort) : (s.setHport p v).mgmt = s.mgmt := rfl
@[simp] theorem setHport_slewTo (p : Nat) (v : HostPort) : (s.setHport p v).slewTo = s.slewTo := rfl
@[simp] theorem setHport_timingAt (p : Nat) (v : HostPort) : (s.setHport p v).timingAt = s.timingAt := rfl
@[simp] theorem setHport_out (p : Nat) (v : HostPort) : (s.setHport p v).out = s.out := rfl
@[simp] theorem setHport_free (p : Nat) (v : HostPort) : (s.setHport p v).free = s.free := rfl
@[simp] theorem setHport_acc_word (p : Nat) (v : HostPort) (o' : Nat) : (s.setHport p v).word o' = s.word o' := rfl
@[simp] theorem setHport_acc_r (p : Nat) (v : HostPort) (k' : Blk) (f' : Fld) : (s.setHport p v).r k' f' = s.r k' f' := rfl
@[simp] theorem setHport_acc_b (p : Nat) (v : HostPort) (k' : Blk) (f' : Fld) : (s.setHport p v).b k' f' = s.b k' f' := rfl
@[simp] theorem setHport_acc_r2 (p : Nat) (v : HostPort) (k' : Blk) (a' b' : Fld) : (s.setHport p v).r2 k' a' b' = s.r2 k' a' b' := rfl
@[simp] theorem setHport_acc_word4 (p : Nat) (v : HostPort) (p' o' : Nat) : (s.setHport p v).word4 p' o' = s.word4 p' o' := rfl
@[simp] theorem setHport_acc_r4 (p : Nat) (v : HostPort) (p' : Nat) (f' : Fld) : (s.setHport p v).r4 p' f' = s.r4 p' f' := rfl
@[simp] theorem setHport_acc_tile (p : Nat) (v : HostPort) (g' : Nat) : (s.setHport p v).tile g' = s.tile g' := rfl
@[simp] theorem setHport_acc_bolt (p : Nat) (v : HostPort) (b' : Nat) : (s.setHport p v).bolt b' = s.bolt b' := rfl
@[simp] theorem setHport_acc_txn (p : Nat) (v : HostPort) (q' : Nat) : (s.setHport p v).txn q' = s.txn q' := rfl
@[simp] theorem setHport_acc_qp (p : Nat) (v : HostPort) (p' n' : Nat) : (s.setHport p v).qp p' n' = s.qp p' n' := rfl
@[simp] theorem setHport_acc_nbu (p : Nat) (v : HostPort) (k' : Nat) : (s.setHport p v).nbu k' = s.nbu k' := rfl
@[simp] theorem setHport_acc_chkU (p : Nat) (v : HostPort) (d' : Nat) : (s.setHport p v).chkU d' = s.chkU d' := rfl
@[simp] theorem setHport_acc_chan (p : Nat) (v : HostPort) (c' : Nat) : (s.setHport p v).chan c' = s.chan c' := rfl
@[simp] theorem setHport_acc_fport (p : Nat) (v : HostPort) (f' : Nat) : (s.setHport p v).fport f' = s.fport f' := rfl
@[simp] theorem setHport_acc_seam (p : Nat) (v : HostPort) (k' : Nat) : (s.setHport p v).seam k' = s.seam k' := rfl
@[simp] theorem setHport_acc_thr (p : Nat) (v : HostPort) (k' : Nat) : (s.setHport p v).thr k' = s.thr k' := rfl
@[simp] theorem setHport_acc_live (p : Nat) (v : HostPort) : (s.setHport p v).live = s.live := rfl
@[simp] theorem setHport_acc_boltOf (p : Nat) (v : HostPort) (k' : Nat) : (s.setHport p v).boltOf k' = s.boltOf k' := rfl
@[simp] theorem setHport_acc_siteOf (p : Nat) (v : HostPort) (m' : Nat) : (s.setHport p v).siteOf m' = s.siteOf m' := rfl
@[simp] theorem setHport_acc_mtile (p : Nat) (v : HostPort) (g' : Nat) : (s.setHport p v).mtile g' = s.mtile g' := rfl
@[simp] theorem setHport_acc_owner (p : Nat) (v : HostPort) (b' : Nat) : (s.setHport p v).owner b' = s.owner b' := rfl
@[simp] theorem setHport_acc_tclkCycles (p : Nat) (v : HostPort) (n' : Nat) : (s.setHport p v).tclkCycles n' = s.tclkCycles n' := rfl
@[simp] theorem setHport_acc_aclkCycles (p : Nat) (v : HostPort) (n' : Nat) : (s.setHport p v).aclkCycles n' = s.aclkCycles n' := rfl
@[simp] theorem setHport_acc_ctrlPort (p : Nat) (v : HostPort) : (s.setHport p v).ctrlPort = s.ctrlPort := rfl
@[simp] theorem setHport_acc_schedTape (p : Nat) (v : HostPort) : (s.setHport p v).schedTape = s.schedTape := rfl
/-! setNbu -/
@[simp] theorem setNbu_pending (k : Nat) (v : Nbu) : (s.setNbu k v).pending = s.pending := rfl
@[simp] theorem setNbu_tape (k : Nat) (v : Nbu) : (s.setNbu k v).tape = s.tape := rfl
@[simp] theorem setNbu_regs (k : Nat) (v : Nbu) : (s.setNbu k v).regs = s.regs := rfl
@[simp] theorem setNbu_bar4 (k : Nat) (v : Nbu) : (s.setNbu k v).bar4 = s.bar4 := rfl
@[simp] theorem setNbu_latch (k : Nat) (v : Nbu) : (s.setNbu k v).latch = s.latch := rfl
@[simp] theorem setNbu_mem (k : Nat) (v : Nbu) : (s.setNbu k v).mem = s.mem := rfl
@[simp] theorem setNbu_errs (k : Nat) (v : Nbu) : (s.setNbu k v).errs = s.errs := rfl
@[simp] theorem setNbu_chans (k : Nat) (v : Nbu) : (s.setNbu k v).chans = s.chans := rfl
@[simp] theorem setNbu_scrubs (k : Nat) (v : Nbu) : (s.setNbu k v).scrubs = s.scrubs := rfl
@[simp] theorem setNbu_migs (k : Nat) (v : Nbu) : (s.setNbu k v).migs = s.migs := rfl
@[simp] theorem setNbu_needle (k : Nat) (v : Nbu) : (s.setNbu k v).needle = s.needle := rfl
@[simp] theorem setNbu_tiles (k : Nat) (v : Nbu) : (s.setNbu k v).tiles = s.tiles := rfl
@[simp] theorem setNbu_mesh (k : Nat) (v : Nbu) : (s.setNbu k v).mesh = s.mesh := rfl
@[simp] theorem setNbu_meshId (k : Nat) (v : Nbu) : (s.setNbu k v).meshId = s.meshId := rfl
@[simp] theorem setNbu_bolts (k : Nat) (v : Nbu) : (s.setNbu k v).bolts = s.bolts := rfl
@[simp] theorem setNbu_txns (k : Nat) (v : Nbu) : (s.setNbu k v).txns = s.txns := rfl
@[simp] theorem setNbu_stitched (k : Nat) (v : Nbu) : (s.setNbu k v).stitched = s.stitched := rfl
@[simp] theorem setNbu_log (k : Nat) (v : Nbu) : (s.setNbu k v).log = s.log := rfl
@[simp] theorem setNbu_logSel (k : Nat) (v : Nbu) : (s.setNbu k v).logSel = s.logSel := rfl
@[simp] theorem setNbu_qps (k : Nat) (v : Nbu) : (s.setNbu k v).qps = s.qps := rfl
@[simp] theorem setNbu_hports (k : Nat) (v : Nbu) : (s.setNbu k v).hports = s.hports := rfl
@[simp] theorem setNbu_chks (k : Nat) (v : Nbu) : (s.setNbu k v).chks = s.chks := rfl
@[simp] theorem setNbu_seams (k : Nat) (v : Nbu) : (s.setNbu k v).seams = s.seams := rfl
@[simp] theorem setNbu_fab (k : Nat) (v : Nbu) : (s.setNbu k v).fab = s.fab := rfl
@[simp] theorem setNbu_hkc (k : Nat) (v : Nbu) : (s.setNbu k v).hkc = s.hkc := rfl
@[simp] theorem setNbu_store (k : Nat) (v : Nbu) : (s.setNbu k v).store = s.store := rfl
@[simp] theorem setNbu_fuses (k : Nat) (v : Nbu) : (s.setNbu k v).fuses = s.fuses := rfl
@[simp] theorem setNbu_therm (k : Nat) (v : Nbu) : (s.setNbu k v).therm = s.therm := rfl
@[simp] theorem setNbu_pins (k : Nat) (v : Nbu) : (s.setNbu k v).pins = s.pins := rfl
@[simp] theorem setNbu_rst (k : Nat) (v : Nbu) : (s.setNbu k v).rst = s.rst := rfl
@[simp] theorem setNbu_jtag (k : Nat) (v : Nbu) : (s.setNbu k v).jtag = s.jtag := rfl
@[simp] theorem setNbu_trace (k : Nat) (v : Nbu) : (s.setNbu k v).trace = s.trace := rfl
@[simp] theorem setNbu_mgmt (k : Nat) (v : Nbu) : (s.setNbu k v).mgmt = s.mgmt := rfl
@[simp] theorem setNbu_slewTo (k : Nat) (v : Nbu) : (s.setNbu k v).slewTo = s.slewTo := rfl
@[simp] theorem setNbu_timingAt (k : Nat) (v : Nbu) : (s.setNbu k v).timingAt = s.timingAt := rfl
@[simp] theorem setNbu_out (k : Nat) (v : Nbu) : (s.setNbu k v).out = s.out := rfl
@[simp] theorem setNbu_free (k : Nat) (v : Nbu) : (s.setNbu k v).free = s.free := rfl
@[simp] theorem setNbu_acc_word (k : Nat) (v : Nbu) (o' : Nat) : (s.setNbu k v).word o' = s.word o' := rfl
@[simp] theorem setNbu_acc_r (k : Nat) (v : Nbu) (k' : Blk) (f' : Fld) : (s.setNbu k v).r k' f' = s.r k' f' := rfl
@[simp] theorem setNbu_acc_b (k : Nat) (v : Nbu) (k' : Blk) (f' : Fld) : (s.setNbu k v).b k' f' = s.b k' f' := rfl
@[simp] theorem setNbu_acc_r2 (k : Nat) (v : Nbu) (k' : Blk) (a' b' : Fld) : (s.setNbu k v).r2 k' a' b' = s.r2 k' a' b' := rfl
@[simp] theorem setNbu_acc_word4 (k : Nat) (v : Nbu) (p' o' : Nat) : (s.setNbu k v).word4 p' o' = s.word4 p' o' := rfl
@[simp] theorem setNbu_acc_r4 (k : Nat) (v : Nbu) (p' : Nat) (f' : Fld) : (s.setNbu k v).r4 p' f' = s.r4 p' f' := rfl
@[simp] theorem setNbu_acc_tile (k : Nat) (v : Nbu) (g' : Nat) : (s.setNbu k v).tile g' = s.tile g' := rfl
@[simp] theorem setNbu_acc_bolt (k : Nat) (v : Nbu) (b' : Nat) : (s.setNbu k v).bolt b' = s.bolt b' := rfl
@[simp] theorem setNbu_acc_txn (k : Nat) (v : Nbu) (q' : Nat) : (s.setNbu k v).txn q' = s.txn q' := rfl
@[simp] theorem setNbu_acc_qp (k : Nat) (v : Nbu) (p' n' : Nat) : (s.setNbu k v).qp p' n' = s.qp p' n' := rfl
@[simp] theorem setNbu_acc_hport (k : Nat) (v : Nbu) (p' : Nat) : (s.setNbu k v).hport p' = s.hport p' := rfl
@[simp] theorem setNbu_acc_chkU (k : Nat) (v : Nbu) (d' : Nat) : (s.setNbu k v).chkU d' = s.chkU d' := rfl
@[simp] theorem setNbu_acc_chan (k : Nat) (v : Nbu) (c' : Nat) : (s.setNbu k v).chan c' = s.chan c' := rfl
@[simp] theorem setNbu_acc_fport (k : Nat) (v : Nbu) (f' : Nat) : (s.setNbu k v).fport f' = s.fport f' := rfl
@[simp] theorem setNbu_acc_seam (k : Nat) (v : Nbu) (k' : Nat) : (s.setNbu k v).seam k' = s.seam k' := rfl
@[simp] theorem setNbu_acc_thr (k : Nat) (v : Nbu) (k' : Nat) : (s.setNbu k v).thr k' = s.thr k' := rfl
@[simp] theorem setNbu_acc_live (k : Nat) (v : Nbu) : (s.setNbu k v).live = s.live := rfl
@[simp] theorem setNbu_acc_boltOf (k : Nat) (v : Nbu) (k' : Nat) : (s.setNbu k v).boltOf k' = s.boltOf k' := rfl
@[simp] theorem setNbu_acc_siteOf (k : Nat) (v : Nbu) (m' : Nat) : (s.setNbu k v).siteOf m' = s.siteOf m' := rfl
@[simp] theorem setNbu_acc_mtile (k : Nat) (v : Nbu) (g' : Nat) : (s.setNbu k v).mtile g' = s.mtile g' := rfl
@[simp] theorem setNbu_acc_owner (k : Nat) (v : Nbu) (b' : Nat) : (s.setNbu k v).owner b' = s.owner b' := rfl
@[simp] theorem setNbu_acc_portAvail (k : Nat) (v : Nbu) (p' : Nat) : (s.setNbu k v).portAvail p' = s.portAvail p' := rfl
@[simp] theorem setNbu_acc_tclkCycles (k : Nat) (v : Nbu) (n' : Nat) : (s.setNbu k v).tclkCycles n' = s.tclkCycles n' := rfl
@[simp] theorem setNbu_acc_aclkCycles (k : Nat) (v : Nbu) (n' : Nat) : (s.setNbu k v).aclkCycles n' = s.aclkCycles n' := rfl
@[simp] theorem setNbu_acc_ctrlPort (k : Nat) (v : Nbu) : (s.setNbu k v).ctrlPort = s.ctrlPort := rfl
@[simp] theorem setNbu_acc_schedTape (k : Nat) (v : Nbu) : (s.setNbu k v).schedTape = s.schedTape := rfl
/-! setChkU -/
@[simp] theorem setChkU_pending (d : Nat) (v : ChkUnit) : (s.setChkU d v).pending = s.pending := rfl
@[simp] theorem setChkU_tape (d : Nat) (v : ChkUnit) : (s.setChkU d v).tape = s.tape := rfl
@[simp] theorem setChkU_regs (d : Nat) (v : ChkUnit) : (s.setChkU d v).regs = s.regs := rfl
@[simp] theorem setChkU_bar4 (d : Nat) (v : ChkUnit) : (s.setChkU d v).bar4 = s.bar4 := rfl
@[simp] theorem setChkU_latch (d : Nat) (v : ChkUnit) : (s.setChkU d v).latch = s.latch := rfl
@[simp] theorem setChkU_mem (d : Nat) (v : ChkUnit) : (s.setChkU d v).mem = s.mem := rfl
@[simp] theorem setChkU_errs (d : Nat) (v : ChkUnit) : (s.setChkU d v).errs = s.errs := rfl
@[simp] theorem setChkU_chans (d : Nat) (v : ChkUnit) : (s.setChkU d v).chans = s.chans := rfl
@[simp] theorem setChkU_scrubs (d : Nat) (v : ChkUnit) : (s.setChkU d v).scrubs = s.scrubs := rfl
@[simp] theorem setChkU_migs (d : Nat) (v : ChkUnit) : (s.setChkU d v).migs = s.migs := rfl
@[simp] theorem setChkU_needle (d : Nat) (v : ChkUnit) : (s.setChkU d v).needle = s.needle := rfl
@[simp] theorem setChkU_tiles (d : Nat) (v : ChkUnit) : (s.setChkU d v).tiles = s.tiles := rfl
@[simp] theorem setChkU_mesh (d : Nat) (v : ChkUnit) : (s.setChkU d v).mesh = s.mesh := rfl
@[simp] theorem setChkU_meshId (d : Nat) (v : ChkUnit) : (s.setChkU d v).meshId = s.meshId := rfl
@[simp] theorem setChkU_bolts (d : Nat) (v : ChkUnit) : (s.setChkU d v).bolts = s.bolts := rfl
@[simp] theorem setChkU_txns (d : Nat) (v : ChkUnit) : (s.setChkU d v).txns = s.txns := rfl
@[simp] theorem setChkU_stitched (d : Nat) (v : ChkUnit) : (s.setChkU d v).stitched = s.stitched := rfl
@[simp] theorem setChkU_log (d : Nat) (v : ChkUnit) : (s.setChkU d v).log = s.log := rfl
@[simp] theorem setChkU_logSel (d : Nat) (v : ChkUnit) : (s.setChkU d v).logSel = s.logSel := rfl
@[simp] theorem setChkU_qps (d : Nat) (v : ChkUnit) : (s.setChkU d v).qps = s.qps := rfl
@[simp] theorem setChkU_hports (d : Nat) (v : ChkUnit) : (s.setChkU d v).hports = s.hports := rfl
@[simp] theorem setChkU_nbus (d : Nat) (v : ChkUnit) : (s.setChkU d v).nbus = s.nbus := rfl
@[simp] theorem setChkU_seams (d : Nat) (v : ChkUnit) : (s.setChkU d v).seams = s.seams := rfl
@[simp] theorem setChkU_fab (d : Nat) (v : ChkUnit) : (s.setChkU d v).fab = s.fab := rfl
@[simp] theorem setChkU_hkc (d : Nat) (v : ChkUnit) : (s.setChkU d v).hkc = s.hkc := rfl
@[simp] theorem setChkU_store (d : Nat) (v : ChkUnit) : (s.setChkU d v).store = s.store := rfl
@[simp] theorem setChkU_fuses (d : Nat) (v : ChkUnit) : (s.setChkU d v).fuses = s.fuses := rfl
@[simp] theorem setChkU_therm (d : Nat) (v : ChkUnit) : (s.setChkU d v).therm = s.therm := rfl
@[simp] theorem setChkU_pins (d : Nat) (v : ChkUnit) : (s.setChkU d v).pins = s.pins := rfl
@[simp] theorem setChkU_rst (d : Nat) (v : ChkUnit) : (s.setChkU d v).rst = s.rst := rfl
@[simp] theorem setChkU_jtag (d : Nat) (v : ChkUnit) : (s.setChkU d v).jtag = s.jtag := rfl
@[simp] theorem setChkU_trace (d : Nat) (v : ChkUnit) : (s.setChkU d v).trace = s.trace := rfl
@[simp] theorem setChkU_mgmt (d : Nat) (v : ChkUnit) : (s.setChkU d v).mgmt = s.mgmt := rfl
@[simp] theorem setChkU_slewTo (d : Nat) (v : ChkUnit) : (s.setChkU d v).slewTo = s.slewTo := rfl
@[simp] theorem setChkU_timingAt (d : Nat) (v : ChkUnit) : (s.setChkU d v).timingAt = s.timingAt := rfl
@[simp] theorem setChkU_out (d : Nat) (v : ChkUnit) : (s.setChkU d v).out = s.out := rfl
@[simp] theorem setChkU_free (d : Nat) (v : ChkUnit) : (s.setChkU d v).free = s.free := rfl
@[simp] theorem setChkU_acc_word (d : Nat) (v : ChkUnit) (o' : Nat) : (s.setChkU d v).word o' = s.word o' := rfl
@[simp] theorem setChkU_acc_r (d : Nat) (v : ChkUnit) (k' : Blk) (f' : Fld) : (s.setChkU d v).r k' f' = s.r k' f' := rfl
@[simp] theorem setChkU_acc_b (d : Nat) (v : ChkUnit) (k' : Blk) (f' : Fld) : (s.setChkU d v).b k' f' = s.b k' f' := rfl
@[simp] theorem setChkU_acc_r2 (d : Nat) (v : ChkUnit) (k' : Blk) (a' b' : Fld) : (s.setChkU d v).r2 k' a' b' = s.r2 k' a' b' := rfl
@[simp] theorem setChkU_acc_word4 (d : Nat) (v : ChkUnit) (p' o' : Nat) : (s.setChkU d v).word4 p' o' = s.word4 p' o' := rfl
@[simp] theorem setChkU_acc_r4 (d : Nat) (v : ChkUnit) (p' : Nat) (f' : Fld) : (s.setChkU d v).r4 p' f' = s.r4 p' f' := rfl
@[simp] theorem setChkU_acc_tile (d : Nat) (v : ChkUnit) (g' : Nat) : (s.setChkU d v).tile g' = s.tile g' := rfl
@[simp] theorem setChkU_acc_bolt (d : Nat) (v : ChkUnit) (b' : Nat) : (s.setChkU d v).bolt b' = s.bolt b' := rfl
@[simp] theorem setChkU_acc_txn (d : Nat) (v : ChkUnit) (q' : Nat) : (s.setChkU d v).txn q' = s.txn q' := rfl
@[simp] theorem setChkU_acc_qp (d : Nat) (v : ChkUnit) (p' n' : Nat) : (s.setChkU d v).qp p' n' = s.qp p' n' := rfl
@[simp] theorem setChkU_acc_hport (d : Nat) (v : ChkUnit) (p' : Nat) : (s.setChkU d v).hport p' = s.hport p' := rfl
@[simp] theorem setChkU_acc_nbu (d : Nat) (v : ChkUnit) (k' : Nat) : (s.setChkU d v).nbu k' = s.nbu k' := rfl
@[simp] theorem setChkU_acc_chan (d : Nat) (v : ChkUnit) (c' : Nat) : (s.setChkU d v).chan c' = s.chan c' := rfl
@[simp] theorem setChkU_acc_fport (d : Nat) (v : ChkUnit) (f' : Nat) : (s.setChkU d v).fport f' = s.fport f' := rfl
@[simp] theorem setChkU_acc_seam (d : Nat) (v : ChkUnit) (k' : Nat) : (s.setChkU d v).seam k' = s.seam k' := rfl
@[simp] theorem setChkU_acc_thr (d : Nat) (v : ChkUnit) (k' : Nat) : (s.setChkU d v).thr k' = s.thr k' := rfl
@[simp] theorem setChkU_acc_live (d : Nat) (v : ChkUnit) : (s.setChkU d v).live = s.live := rfl
@[simp] theorem setChkU_acc_boltOf (d : Nat) (v : ChkUnit) (k' : Nat) : (s.setChkU d v).boltOf k' = s.boltOf k' := rfl
@[simp] theorem setChkU_acc_siteOf (d : Nat) (v : ChkUnit) (m' : Nat) : (s.setChkU d v).siteOf m' = s.siteOf m' := rfl
@[simp] theorem setChkU_acc_mtile (d : Nat) (v : ChkUnit) (g' : Nat) : (s.setChkU d v).mtile g' = s.mtile g' := rfl
@[simp] theorem setChkU_acc_owner (d : Nat) (v : ChkUnit) (b' : Nat) : (s.setChkU d v).owner b' = s.owner b' := rfl
@[simp] theorem setChkU_acc_portAvail (d : Nat) (v : ChkUnit) (p' : Nat) : (s.setChkU d v).portAvail p' = s.portAvail p' := rfl
@[simp] theorem setChkU_acc_tclkCycles (d : Nat) (v : ChkUnit) (n' : Nat) : (s.setChkU d v).tclkCycles n' = s.tclkCycles n' := rfl
@[simp] theorem setChkU_acc_aclkCycles (d : Nat) (v : ChkUnit) (n' : Nat) : (s.setChkU d v).aclkCycles n' = s.aclkCycles n' := rfl
@[simp] theorem setChkU_acc_ctrlPort (d : Nat) (v : ChkUnit) : (s.setChkU d v).ctrlPort = s.ctrlPort := rfl
@[simp] theorem setChkU_acc_schedTape (d : Nat) (v : ChkUnit) : (s.setChkU d v).schedTape = s.schedTape := rfl
/-! setChan -/
@[simp] theorem setChan_pending (c : Nat) (v : Chan) : (s.setChan c v).pending = s.pending := rfl
@[simp] theorem setChan_tape (c : Nat) (v : Chan) : (s.setChan c v).tape = s.tape := rfl
@[simp] theorem setChan_regs (c : Nat) (v : Chan) : (s.setChan c v).regs = s.regs := rfl
@[simp] theorem setChan_bar4 (c : Nat) (v : Chan) : (s.setChan c v).bar4 = s.bar4 := rfl
@[simp] theorem setChan_latch (c : Nat) (v : Chan) : (s.setChan c v).latch = s.latch := rfl
@[simp] theorem setChan_mem (c : Nat) (v : Chan) : (s.setChan c v).mem = s.mem := rfl
@[simp] theorem setChan_errs (c : Nat) (v : Chan) : (s.setChan c v).errs = s.errs := rfl
@[simp] theorem setChan_scrubs (c : Nat) (v : Chan) : (s.setChan c v).scrubs = s.scrubs := rfl
@[simp] theorem setChan_migs (c : Nat) (v : Chan) : (s.setChan c v).migs = s.migs := rfl
@[simp] theorem setChan_needle (c : Nat) (v : Chan) : (s.setChan c v).needle = s.needle := rfl
@[simp] theorem setChan_tiles (c : Nat) (v : Chan) : (s.setChan c v).tiles = s.tiles := rfl
@[simp] theorem setChan_mesh (c : Nat) (v : Chan) : (s.setChan c v).mesh = s.mesh := rfl
@[simp] theorem setChan_meshId (c : Nat) (v : Chan) : (s.setChan c v).meshId = s.meshId := rfl
@[simp] theorem setChan_bolts (c : Nat) (v : Chan) : (s.setChan c v).bolts = s.bolts := rfl
@[simp] theorem setChan_txns (c : Nat) (v : Chan) : (s.setChan c v).txns = s.txns := rfl
@[simp] theorem setChan_stitched (c : Nat) (v : Chan) : (s.setChan c v).stitched = s.stitched := rfl
@[simp] theorem setChan_log (c : Nat) (v : Chan) : (s.setChan c v).log = s.log := rfl
@[simp] theorem setChan_logSel (c : Nat) (v : Chan) : (s.setChan c v).logSel = s.logSel := rfl
@[simp] theorem setChan_qps (c : Nat) (v : Chan) : (s.setChan c v).qps = s.qps := rfl
@[simp] theorem setChan_hports (c : Nat) (v : Chan) : (s.setChan c v).hports = s.hports := rfl
@[simp] theorem setChan_nbus (c : Nat) (v : Chan) : (s.setChan c v).nbus = s.nbus := rfl
@[simp] theorem setChan_chks (c : Nat) (v : Chan) : (s.setChan c v).chks = s.chks := rfl
@[simp] theorem setChan_seams (c : Nat) (v : Chan) : (s.setChan c v).seams = s.seams := rfl
@[simp] theorem setChan_fab (c : Nat) (v : Chan) : (s.setChan c v).fab = s.fab := rfl
@[simp] theorem setChan_hkc (c : Nat) (v : Chan) : (s.setChan c v).hkc = s.hkc := rfl
@[simp] theorem setChan_store (c : Nat) (v : Chan) : (s.setChan c v).store = s.store := rfl
@[simp] theorem setChan_fuses (c : Nat) (v : Chan) : (s.setChan c v).fuses = s.fuses := rfl
@[simp] theorem setChan_therm (c : Nat) (v : Chan) : (s.setChan c v).therm = s.therm := rfl
@[simp] theorem setChan_pins (c : Nat) (v : Chan) : (s.setChan c v).pins = s.pins := rfl
@[simp] theorem setChan_rst (c : Nat) (v : Chan) : (s.setChan c v).rst = s.rst := rfl
@[simp] theorem setChan_jtag (c : Nat) (v : Chan) : (s.setChan c v).jtag = s.jtag := rfl
@[simp] theorem setChan_trace (c : Nat) (v : Chan) : (s.setChan c v).trace = s.trace := rfl
@[simp] theorem setChan_mgmt (c : Nat) (v : Chan) : (s.setChan c v).mgmt = s.mgmt := rfl
@[simp] theorem setChan_slewTo (c : Nat) (v : Chan) : (s.setChan c v).slewTo = s.slewTo := rfl
@[simp] theorem setChan_timingAt (c : Nat) (v : Chan) : (s.setChan c v).timingAt = s.timingAt := rfl
@[simp] theorem setChan_out (c : Nat) (v : Chan) : (s.setChan c v).out = s.out := rfl
@[simp] theorem setChan_free (c : Nat) (v : Chan) : (s.setChan c v).free = s.free := rfl
@[simp] theorem setChan_acc_word (c : Nat) (v : Chan) (o' : Nat) : (s.setChan c v).word o' = s.word o' := rfl
@[simp] theorem setChan_acc_r (c : Nat) (v : Chan) (k' : Blk) (f' : Fld) : (s.setChan c v).r k' f' = s.r k' f' := rfl
@[simp] theorem setChan_acc_b (c : Nat) (v : Chan) (k' : Blk) (f' : Fld) : (s.setChan c v).b k' f' = s.b k' f' := rfl
@[simp] theorem setChan_acc_r2 (c : Nat) (v : Chan) (k' : Blk) (a' b' : Fld) : (s.setChan c v).r2 k' a' b' = s.r2 k' a' b' := rfl
@[simp] theorem setChan_acc_word4 (c : Nat) (v : Chan) (p' o' : Nat) : (s.setChan c v).word4 p' o' = s.word4 p' o' := rfl
@[simp] theorem setChan_acc_r4 (c : Nat) (v : Chan) (p' : Nat) (f' : Fld) : (s.setChan c v).r4 p' f' = s.r4 p' f' := rfl
@[simp] theorem setChan_acc_tile (c : Nat) (v : Chan) (g' : Nat) : (s.setChan c v).tile g' = s.tile g' := rfl
@[simp] theorem setChan_acc_bolt (c : Nat) (v : Chan) (b' : Nat) : (s.setChan c v).bolt b' = s.bolt b' := rfl
@[simp] theorem setChan_acc_txn (c : Nat) (v : Chan) (q' : Nat) : (s.setChan c v).txn q' = s.txn q' := rfl
@[simp] theorem setChan_acc_qp (c : Nat) (v : Chan) (p' n' : Nat) : (s.setChan c v).qp p' n' = s.qp p' n' := rfl
@[simp] theorem setChan_acc_hport (c : Nat) (v : Chan) (p' : Nat) : (s.setChan c v).hport p' = s.hport p' := rfl
@[simp] theorem setChan_acc_nbu (c : Nat) (v : Chan) (k' : Nat) : (s.setChan c v).nbu k' = s.nbu k' := rfl
@[simp] theorem setChan_acc_chkU (c : Nat) (v : Chan) (d' : Nat) : (s.setChan c v).chkU d' = s.chkU d' := rfl
@[simp] theorem setChan_acc_fport (c : Nat) (v : Chan) (f' : Nat) : (s.setChan c v).fport f' = s.fport f' := rfl
@[simp] theorem setChan_acc_seam (c : Nat) (v : Chan) (k' : Nat) : (s.setChan c v).seam k' = s.seam k' := rfl
@[simp] theorem setChan_acc_thr (c : Nat) (v : Chan) (k' : Nat) : (s.setChan c v).thr k' = s.thr k' := rfl
@[simp] theorem setChan_acc_live (c : Nat) (v : Chan) : (s.setChan c v).live = s.live := rfl
@[simp] theorem setChan_acc_boltOf (c : Nat) (v : Chan) (k' : Nat) : (s.setChan c v).boltOf k' = s.boltOf k' := rfl
@[simp] theorem setChan_acc_siteOf (c : Nat) (v : Chan) (m' : Nat) : (s.setChan c v).siteOf m' = s.siteOf m' := rfl
@[simp] theorem setChan_acc_mtile (c : Nat) (v : Chan) (g' : Nat) : (s.setChan c v).mtile g' = s.mtile g' := rfl
@[simp] theorem setChan_acc_owner (c : Nat) (v : Chan) (b' : Nat) : (s.setChan c v).owner b' = s.owner b' := rfl
@[simp] theorem setChan_acc_portAvail (c : Nat) (v : Chan) (p' : Nat) : (s.setChan c v).portAvail p' = s.portAvail p' := rfl
@[simp] theorem setChan_acc_tclkCycles (c : Nat) (v : Chan) (n' : Nat) : (s.setChan c v).tclkCycles n' = s.tclkCycles n' := rfl
@[simp] theorem setChan_acc_aclkCycles (c : Nat) (v : Chan) (n' : Nat) : (s.setChan c v).aclkCycles n' = s.aclkCycles n' := rfl
@[simp] theorem setChan_acc_ctrlPort (c : Nat) (v : Chan) : (s.setChan c v).ctrlPort = s.ctrlPort := rfl
@[simp] theorem setChan_acc_schedTape (c : Nat) (v : Chan) : (s.setChan c v).schedTape = s.schedTape := rfl
/-! setFport -/
@[simp] theorem setFport_pending (f : Nat) (v : FabPort) : (s.setFport f v).pending = s.pending := rfl
@[simp] theorem setFport_tape (f : Nat) (v : FabPort) : (s.setFport f v).tape = s.tape := rfl
@[simp] theorem setFport_regs (f : Nat) (v : FabPort) : (s.setFport f v).regs = s.regs := rfl
@[simp] theorem setFport_bar4 (f : Nat) (v : FabPort) : (s.setFport f v).bar4 = s.bar4 := rfl
@[simp] theorem setFport_latch (f : Nat) (v : FabPort) : (s.setFport f v).latch = s.latch := rfl
@[simp] theorem setFport_mem (f : Nat) (v : FabPort) : (s.setFport f v).mem = s.mem := rfl
@[simp] theorem setFport_errs (f : Nat) (v : FabPort) : (s.setFport f v).errs = s.errs := rfl
@[simp] theorem setFport_chans (f : Nat) (v : FabPort) : (s.setFport f v).chans = s.chans := rfl
@[simp] theorem setFport_scrubs (f : Nat) (v : FabPort) : (s.setFport f v).scrubs = s.scrubs := rfl
@[simp] theorem setFport_migs (f : Nat) (v : FabPort) : (s.setFport f v).migs = s.migs := rfl
@[simp] theorem setFport_needle (f : Nat) (v : FabPort) : (s.setFport f v).needle = s.needle := rfl
@[simp] theorem setFport_tiles (f : Nat) (v : FabPort) : (s.setFport f v).tiles = s.tiles := rfl
@[simp] theorem setFport_mesh (f : Nat) (v : FabPort) : (s.setFport f v).mesh = s.mesh := rfl
@[simp] theorem setFport_meshId (f : Nat) (v : FabPort) : (s.setFport f v).meshId = s.meshId := rfl
@[simp] theorem setFport_bolts (f : Nat) (v : FabPort) : (s.setFport f v).bolts = s.bolts := rfl
@[simp] theorem setFport_txns (f : Nat) (v : FabPort) : (s.setFport f v).txns = s.txns := rfl
@[simp] theorem setFport_stitched (f : Nat) (v : FabPort) : (s.setFport f v).stitched = s.stitched := rfl
@[simp] theorem setFport_log (f : Nat) (v : FabPort) : (s.setFport f v).log = s.log := rfl
@[simp] theorem setFport_logSel (f : Nat) (v : FabPort) : (s.setFport f v).logSel = s.logSel := rfl
@[simp] theorem setFport_qps (f : Nat) (v : FabPort) : (s.setFport f v).qps = s.qps := rfl
@[simp] theorem setFport_hports (f : Nat) (v : FabPort) : (s.setFport f v).hports = s.hports := rfl
@[simp] theorem setFport_nbus (f : Nat) (v : FabPort) : (s.setFport f v).nbus = s.nbus := rfl
@[simp] theorem setFport_chks (f : Nat) (v : FabPort) : (s.setFport f v).chks = s.chks := rfl
@[simp] theorem setFport_seams (f : Nat) (v : FabPort) : (s.setFport f v).seams = s.seams := rfl
@[simp] theorem setFport_hkc (f : Nat) (v : FabPort) : (s.setFport f v).hkc = s.hkc := rfl
@[simp] theorem setFport_store (f : Nat) (v : FabPort) : (s.setFport f v).store = s.store := rfl
@[simp] theorem setFport_fuses (f : Nat) (v : FabPort) : (s.setFport f v).fuses = s.fuses := rfl
@[simp] theorem setFport_therm (f : Nat) (v : FabPort) : (s.setFport f v).therm = s.therm := rfl
@[simp] theorem setFport_pins (f : Nat) (v : FabPort) : (s.setFport f v).pins = s.pins := rfl
@[simp] theorem setFport_rst (f : Nat) (v : FabPort) : (s.setFport f v).rst = s.rst := rfl
@[simp] theorem setFport_jtag (f : Nat) (v : FabPort) : (s.setFport f v).jtag = s.jtag := rfl
@[simp] theorem setFport_trace (f : Nat) (v : FabPort) : (s.setFport f v).trace = s.trace := rfl
@[simp] theorem setFport_mgmt (f : Nat) (v : FabPort) : (s.setFport f v).mgmt = s.mgmt := rfl
@[simp] theorem setFport_slewTo (f : Nat) (v : FabPort) : (s.setFport f v).slewTo = s.slewTo := rfl
@[simp] theorem setFport_timingAt (f : Nat) (v : FabPort) : (s.setFport f v).timingAt = s.timingAt := rfl
@[simp] theorem setFport_out (f : Nat) (v : FabPort) : (s.setFport f v).out = s.out := rfl
@[simp] theorem setFport_free (f : Nat) (v : FabPort) : (s.setFport f v).free = s.free := rfl
@[simp] theorem setFport_acc_word (f : Nat) (v : FabPort) (o' : Nat) : (s.setFport f v).word o' = s.word o' := rfl
@[simp] theorem setFport_acc_r (f : Nat) (v : FabPort) (k' : Blk) (f' : Fld) : (s.setFport f v).r k' f' = s.r k' f' := rfl
@[simp] theorem setFport_acc_b (f : Nat) (v : FabPort) (k' : Blk) (f' : Fld) : (s.setFport f v).b k' f' = s.b k' f' := rfl
@[simp] theorem setFport_acc_r2 (f : Nat) (v : FabPort) (k' : Blk) (a' b' : Fld) : (s.setFport f v).r2 k' a' b' = s.r2 k' a' b' := rfl
@[simp] theorem setFport_acc_word4 (f : Nat) (v : FabPort) (p' o' : Nat) : (s.setFport f v).word4 p' o' = s.word4 p' o' := rfl
@[simp] theorem setFport_acc_r4 (f : Nat) (v : FabPort) (p' : Nat) (f' : Fld) : (s.setFport f v).r4 p' f' = s.r4 p' f' := rfl
@[simp] theorem setFport_acc_tile (f : Nat) (v : FabPort) (g' : Nat) : (s.setFport f v).tile g' = s.tile g' := rfl
@[simp] theorem setFport_acc_bolt (f : Nat) (v : FabPort) (b' : Nat) : (s.setFport f v).bolt b' = s.bolt b' := rfl
@[simp] theorem setFport_acc_txn (f : Nat) (v : FabPort) (q' : Nat) : (s.setFport f v).txn q' = s.txn q' := rfl
@[simp] theorem setFport_acc_qp (f : Nat) (v : FabPort) (p' n' : Nat) : (s.setFport f v).qp p' n' = s.qp p' n' := rfl
@[simp] theorem setFport_acc_hport (f : Nat) (v : FabPort) (p' : Nat) : (s.setFport f v).hport p' = s.hport p' := rfl
@[simp] theorem setFport_acc_nbu (f : Nat) (v : FabPort) (k' : Nat) : (s.setFport f v).nbu k' = s.nbu k' := rfl
@[simp] theorem setFport_acc_chkU (f : Nat) (v : FabPort) (d' : Nat) : (s.setFport f v).chkU d' = s.chkU d' := rfl
@[simp] theorem setFport_acc_chan (f : Nat) (v : FabPort) (c' : Nat) : (s.setFport f v).chan c' = s.chan c' := rfl
@[simp] theorem setFport_acc_seam (f : Nat) (v : FabPort) (k' : Nat) : (s.setFport f v).seam k' = s.seam k' := rfl
@[simp] theorem setFport_acc_thr (f : Nat) (v : FabPort) (k' : Nat) : (s.setFport f v).thr k' = s.thr k' := rfl
@[simp] theorem setFport_acc_live (f : Nat) (v : FabPort) : (s.setFport f v).live = s.live := rfl
@[simp] theorem setFport_acc_boltOf (f : Nat) (v : FabPort) (k' : Nat) : (s.setFport f v).boltOf k' = s.boltOf k' := rfl
@[simp] theorem setFport_acc_siteOf (f : Nat) (v : FabPort) (m' : Nat) : (s.setFport f v).siteOf m' = s.siteOf m' := rfl
@[simp] theorem setFport_acc_mtile (f : Nat) (v : FabPort) (g' : Nat) : (s.setFport f v).mtile g' = s.mtile g' := rfl
@[simp] theorem setFport_acc_owner (f : Nat) (v : FabPort) (b' : Nat) : (s.setFport f v).owner b' = s.owner b' := rfl
@[simp] theorem setFport_acc_portAvail (f : Nat) (v : FabPort) (p' : Nat) : (s.setFport f v).portAvail p' = s.portAvail p' := rfl
@[simp] theorem setFport_acc_tclkCycles (f : Nat) (v : FabPort) (n' : Nat) : (s.setFport f v).tclkCycles n' = s.tclkCycles n' := rfl
@[simp] theorem setFport_acc_aclkCycles (f : Nat) (v : FabPort) (n' : Nat) : (s.setFport f v).aclkCycles n' = s.aclkCycles n' := rfl
@[simp] theorem setFport_acc_ctrlPort (f : Nat) (v : FabPort) : (s.setFport f v).ctrlPort = s.ctrlPort := rfl
@[simp] theorem setFport_acc_schedTape (f : Nat) (v : FabPort) : (s.setFport f v).schedTape = s.schedTape := rfl
/-! setSeam -/
@[simp] theorem setSeam_pending (k : Nat) (v : Seam) : (s.setSeam k v).pending = s.pending := rfl
@[simp] theorem setSeam_tape (k : Nat) (v : Seam) : (s.setSeam k v).tape = s.tape := rfl
@[simp] theorem setSeam_regs (k : Nat) (v : Seam) : (s.setSeam k v).regs = s.regs := rfl
@[simp] theorem setSeam_bar4 (k : Nat) (v : Seam) : (s.setSeam k v).bar4 = s.bar4 := rfl
@[simp] theorem setSeam_latch (k : Nat) (v : Seam) : (s.setSeam k v).latch = s.latch := rfl
@[simp] theorem setSeam_mem (k : Nat) (v : Seam) : (s.setSeam k v).mem = s.mem := rfl
@[simp] theorem setSeam_errs (k : Nat) (v : Seam) : (s.setSeam k v).errs = s.errs := rfl
@[simp] theorem setSeam_chans (k : Nat) (v : Seam) : (s.setSeam k v).chans = s.chans := rfl
@[simp] theorem setSeam_scrubs (k : Nat) (v : Seam) : (s.setSeam k v).scrubs = s.scrubs := rfl
@[simp] theorem setSeam_migs (k : Nat) (v : Seam) : (s.setSeam k v).migs = s.migs := rfl
@[simp] theorem setSeam_needle (k : Nat) (v : Seam) : (s.setSeam k v).needle = s.needle := rfl
@[simp] theorem setSeam_tiles (k : Nat) (v : Seam) : (s.setSeam k v).tiles = s.tiles := rfl
@[simp] theorem setSeam_mesh (k : Nat) (v : Seam) : (s.setSeam k v).mesh = s.mesh := rfl
@[simp] theorem setSeam_meshId (k : Nat) (v : Seam) : (s.setSeam k v).meshId = s.meshId := rfl
@[simp] theorem setSeam_bolts (k : Nat) (v : Seam) : (s.setSeam k v).bolts = s.bolts := rfl
@[simp] theorem setSeam_txns (k : Nat) (v : Seam) : (s.setSeam k v).txns = s.txns := rfl
@[simp] theorem setSeam_stitched (k : Nat) (v : Seam) : (s.setSeam k v).stitched = s.stitched := rfl
@[simp] theorem setSeam_log (k : Nat) (v : Seam) : (s.setSeam k v).log = s.log := rfl
@[simp] theorem setSeam_logSel (k : Nat) (v : Seam) : (s.setSeam k v).logSel = s.logSel := rfl
@[simp] theorem setSeam_qps (k : Nat) (v : Seam) : (s.setSeam k v).qps = s.qps := rfl
@[simp] theorem setSeam_hports (k : Nat) (v : Seam) : (s.setSeam k v).hports = s.hports := rfl
@[simp] theorem setSeam_nbus (k : Nat) (v : Seam) : (s.setSeam k v).nbus = s.nbus := rfl
@[simp] theorem setSeam_chks (k : Nat) (v : Seam) : (s.setSeam k v).chks = s.chks := rfl
@[simp] theorem setSeam_fab (k : Nat) (v : Seam) : (s.setSeam k v).fab = s.fab := rfl
@[simp] theorem setSeam_hkc (k : Nat) (v : Seam) : (s.setSeam k v).hkc = s.hkc := rfl
@[simp] theorem setSeam_store (k : Nat) (v : Seam) : (s.setSeam k v).store = s.store := rfl
@[simp] theorem setSeam_fuses (k : Nat) (v : Seam) : (s.setSeam k v).fuses = s.fuses := rfl
@[simp] theorem setSeam_therm (k : Nat) (v : Seam) : (s.setSeam k v).therm = s.therm := rfl
@[simp] theorem setSeam_pins (k : Nat) (v : Seam) : (s.setSeam k v).pins = s.pins := rfl
@[simp] theorem setSeam_rst (k : Nat) (v : Seam) : (s.setSeam k v).rst = s.rst := rfl
@[simp] theorem setSeam_jtag (k : Nat) (v : Seam) : (s.setSeam k v).jtag = s.jtag := rfl
@[simp] theorem setSeam_trace (k : Nat) (v : Seam) : (s.setSeam k v).trace = s.trace := rfl
@[simp] theorem setSeam_mgmt (k : Nat) (v : Seam) : (s.setSeam k v).mgmt = s.mgmt := rfl
@[simp] theorem setSeam_slewTo (k : Nat) (v : Seam) : (s.setSeam k v).slewTo = s.slewTo := rfl
@[simp] theorem setSeam_timingAt (k : Nat) (v : Seam) : (s.setSeam k v).timingAt = s.timingAt := rfl
@[simp] theorem setSeam_out (k : Nat) (v : Seam) : (s.setSeam k v).out = s.out := rfl
@[simp] theorem setSeam_free (k : Nat) (v : Seam) : (s.setSeam k v).free = s.free := rfl
@[simp] theorem setSeam_acc_word (k : Nat) (v : Seam) (o' : Nat) : (s.setSeam k v).word o' = s.word o' := rfl
@[simp] theorem setSeam_acc_r (k : Nat) (v : Seam) (k' : Blk) (f' : Fld) : (s.setSeam k v).r k' f' = s.r k' f' := rfl
@[simp] theorem setSeam_acc_b (k : Nat) (v : Seam) (k' : Blk) (f' : Fld) : (s.setSeam k v).b k' f' = s.b k' f' := rfl
@[simp] theorem setSeam_acc_r2 (k : Nat) (v : Seam) (k' : Blk) (a' b' : Fld) : (s.setSeam k v).r2 k' a' b' = s.r2 k' a' b' := rfl
@[simp] theorem setSeam_acc_word4 (k : Nat) (v : Seam) (p' o' : Nat) : (s.setSeam k v).word4 p' o' = s.word4 p' o' := rfl
@[simp] theorem setSeam_acc_r4 (k : Nat) (v : Seam) (p' : Nat) (f' : Fld) : (s.setSeam k v).r4 p' f' = s.r4 p' f' := rfl
@[simp] theorem setSeam_acc_tile (k : Nat) (v : Seam) (g' : Nat) : (s.setSeam k v).tile g' = s.tile g' := rfl
@[simp] theorem setSeam_acc_bolt (k : Nat) (v : Seam) (b' : Nat) : (s.setSeam k v).bolt b' = s.bolt b' := rfl
@[simp] theorem setSeam_acc_txn (k : Nat) (v : Seam) (q' : Nat) : (s.setSeam k v).txn q' = s.txn q' := rfl
@[simp] theorem setSeam_acc_qp (k : Nat) (v : Seam) (p' n' : Nat) : (s.setSeam k v).qp p' n' = s.qp p' n' := rfl
@[simp] theorem setSeam_acc_hport (k : Nat) (v : Seam) (p' : Nat) : (s.setSeam k v).hport p' = s.hport p' := rfl
@[simp] theorem setSeam_acc_nbu (k : Nat) (v : Seam) (k' : Nat) : (s.setSeam k v).nbu k' = s.nbu k' := rfl
@[simp] theorem setSeam_acc_chkU (k : Nat) (v : Seam) (d' : Nat) : (s.setSeam k v).chkU d' = s.chkU d' := rfl
@[simp] theorem setSeam_acc_chan (k : Nat) (v : Seam) (c' : Nat) : (s.setSeam k v).chan c' = s.chan c' := rfl
@[simp] theorem setSeam_acc_fport (k : Nat) (v : Seam) (f' : Nat) : (s.setSeam k v).fport f' = s.fport f' := rfl
@[simp] theorem setSeam_acc_thr (k : Nat) (v : Seam) (k' : Nat) : (s.setSeam k v).thr k' = s.thr k' := rfl
@[simp] theorem setSeam_acc_live (k : Nat) (v : Seam) : (s.setSeam k v).live = s.live := rfl
@[simp] theorem setSeam_acc_boltOf (k : Nat) (v : Seam) (k' : Nat) : (s.setSeam k v).boltOf k' = s.boltOf k' := rfl
@[simp] theorem setSeam_acc_siteOf (k : Nat) (v : Seam) (m' : Nat) : (s.setSeam k v).siteOf m' = s.siteOf m' := rfl
@[simp] theorem setSeam_acc_mtile (k : Nat) (v : Seam) (g' : Nat) : (s.setSeam k v).mtile g' = s.mtile g' := rfl
@[simp] theorem setSeam_acc_owner (k : Nat) (v : Seam) (b' : Nat) : (s.setSeam k v).owner b' = s.owner b' := rfl
@[simp] theorem setSeam_acc_portAvail (k : Nat) (v : Seam) (p' : Nat) : (s.setSeam k v).portAvail p' = s.portAvail p' := rfl
@[simp] theorem setSeam_acc_tclkCycles (k : Nat) (v : Seam) (n' : Nat) : (s.setSeam k v).tclkCycles n' = s.tclkCycles n' := rfl
@[simp] theorem setSeam_acc_aclkCycles (k : Nat) (v : Seam) (n' : Nat) : (s.setSeam k v).aclkCycles n' = s.aclkCycles n' := rfl
@[simp] theorem setSeam_acc_ctrlPort (k : Nat) (v : Seam) : (s.setSeam k v).ctrlPort = s.ctrlPort := rfl
@[simp] theorem setSeam_acc_schedTape (k : Nat) (v : Seam) : (s.setSeam k v).schedTape = s.schedTape := rfl
/-! setThr -/
@[simp] theorem setThr_pending (k : Nat) (v : Throttle) : (s.setThr k v).pending = s.pending := rfl
@[simp] theorem setThr_tape (k : Nat) (v : Throttle) : (s.setThr k v).tape = s.tape := rfl
@[simp] theorem setThr_regs (k : Nat) (v : Throttle) : (s.setThr k v).regs = s.regs := rfl
@[simp] theorem setThr_bar4 (k : Nat) (v : Throttle) : (s.setThr k v).bar4 = s.bar4 := rfl
@[simp] theorem setThr_latch (k : Nat) (v : Throttle) : (s.setThr k v).latch = s.latch := rfl
@[simp] theorem setThr_mem (k : Nat) (v : Throttle) : (s.setThr k v).mem = s.mem := rfl
@[simp] theorem setThr_errs (k : Nat) (v : Throttle) : (s.setThr k v).errs = s.errs := rfl
@[simp] theorem setThr_chans (k : Nat) (v : Throttle) : (s.setThr k v).chans = s.chans := rfl
@[simp] theorem setThr_scrubs (k : Nat) (v : Throttle) : (s.setThr k v).scrubs = s.scrubs := rfl
@[simp] theorem setThr_migs (k : Nat) (v : Throttle) : (s.setThr k v).migs = s.migs := rfl
@[simp] theorem setThr_needle (k : Nat) (v : Throttle) : (s.setThr k v).needle = s.needle := rfl
@[simp] theorem setThr_tiles (k : Nat) (v : Throttle) : (s.setThr k v).tiles = s.tiles := rfl
@[simp] theorem setThr_mesh (k : Nat) (v : Throttle) : (s.setThr k v).mesh = s.mesh := rfl
@[simp] theorem setThr_meshId (k : Nat) (v : Throttle) : (s.setThr k v).meshId = s.meshId := rfl
@[simp] theorem setThr_bolts (k : Nat) (v : Throttle) : (s.setThr k v).bolts = s.bolts := rfl
@[simp] theorem setThr_txns (k : Nat) (v : Throttle) : (s.setThr k v).txns = s.txns := rfl
@[simp] theorem setThr_stitched (k : Nat) (v : Throttle) : (s.setThr k v).stitched = s.stitched := rfl
@[simp] theorem setThr_log (k : Nat) (v : Throttle) : (s.setThr k v).log = s.log := rfl
@[simp] theorem setThr_logSel (k : Nat) (v : Throttle) : (s.setThr k v).logSel = s.logSel := rfl
@[simp] theorem setThr_qps (k : Nat) (v : Throttle) : (s.setThr k v).qps = s.qps := rfl
@[simp] theorem setThr_hports (k : Nat) (v : Throttle) : (s.setThr k v).hports = s.hports := rfl
@[simp] theorem setThr_nbus (k : Nat) (v : Throttle) : (s.setThr k v).nbus = s.nbus := rfl
@[simp] theorem setThr_chks (k : Nat) (v : Throttle) : (s.setThr k v).chks = s.chks := rfl
@[simp] theorem setThr_seams (k : Nat) (v : Throttle) : (s.setThr k v).seams = s.seams := rfl
@[simp] theorem setThr_fab (k : Nat) (v : Throttle) : (s.setThr k v).fab = s.fab := rfl
@[simp] theorem setThr_hkc (k : Nat) (v : Throttle) : (s.setThr k v).hkc = s.hkc := rfl
@[simp] theorem setThr_store (k : Nat) (v : Throttle) : (s.setThr k v).store = s.store := rfl
@[simp] theorem setThr_fuses (k : Nat) (v : Throttle) : (s.setThr k v).fuses = s.fuses := rfl
@[simp] theorem setThr_pins (k : Nat) (v : Throttle) : (s.setThr k v).pins = s.pins := rfl
@[simp] theorem setThr_rst (k : Nat) (v : Throttle) : (s.setThr k v).rst = s.rst := rfl
@[simp] theorem setThr_jtag (k : Nat) (v : Throttle) : (s.setThr k v).jtag = s.jtag := rfl
@[simp] theorem setThr_trace (k : Nat) (v : Throttle) : (s.setThr k v).trace = s.trace := rfl
@[simp] theorem setThr_mgmt (k : Nat) (v : Throttle) : (s.setThr k v).mgmt = s.mgmt := rfl
@[simp] theorem setThr_slewTo (k : Nat) (v : Throttle) : (s.setThr k v).slewTo = s.slewTo := rfl
@[simp] theorem setThr_timingAt (k : Nat) (v : Throttle) : (s.setThr k v).timingAt = s.timingAt := rfl
@[simp] theorem setThr_out (k : Nat) (v : Throttle) : (s.setThr k v).out = s.out := rfl
@[simp] theorem setThr_free (k : Nat) (v : Throttle) : (s.setThr k v).free = s.free := rfl
@[simp] theorem setThr_acc_word (k : Nat) (v : Throttle) (o' : Nat) : (s.setThr k v).word o' = s.word o' := rfl
@[simp] theorem setThr_acc_r (k : Nat) (v : Throttle) (k' : Blk) (f' : Fld) : (s.setThr k v).r k' f' = s.r k' f' := rfl
@[simp] theorem setThr_acc_b (k : Nat) (v : Throttle) (k' : Blk) (f' : Fld) : (s.setThr k v).b k' f' = s.b k' f' := rfl
@[simp] theorem setThr_acc_r2 (k : Nat) (v : Throttle) (k' : Blk) (a' b' : Fld) : (s.setThr k v).r2 k' a' b' = s.r2 k' a' b' := rfl
@[simp] theorem setThr_acc_word4 (k : Nat) (v : Throttle) (p' o' : Nat) : (s.setThr k v).word4 p' o' = s.word4 p' o' := rfl
@[simp] theorem setThr_acc_r4 (k : Nat) (v : Throttle) (p' : Nat) (f' : Fld) : (s.setThr k v).r4 p' f' = s.r4 p' f' := rfl
@[simp] theorem setThr_acc_tile (k : Nat) (v : Throttle) (g' : Nat) : (s.setThr k v).tile g' = s.tile g' := rfl
@[simp] theorem setThr_acc_bolt (k : Nat) (v : Throttle) (b' : Nat) : (s.setThr k v).bolt b' = s.bolt b' := rfl
@[simp] theorem setThr_acc_txn (k : Nat) (v : Throttle) (q' : Nat) : (s.setThr k v).txn q' = s.txn q' := rfl
@[simp] theorem setThr_acc_qp (k : Nat) (v : Throttle) (p' n' : Nat) : (s.setThr k v).qp p' n' = s.qp p' n' := rfl
@[simp] theorem setThr_acc_hport (k : Nat) (v : Throttle) (p' : Nat) : (s.setThr k v).hport p' = s.hport p' := rfl
@[simp] theorem setThr_acc_nbu (k : Nat) (v : Throttle) (k' : Nat) : (s.setThr k v).nbu k' = s.nbu k' := rfl
@[simp] theorem setThr_acc_chkU (k : Nat) (v : Throttle) (d' : Nat) : (s.setThr k v).chkU d' = s.chkU d' := rfl
@[simp] theorem setThr_acc_chan (k : Nat) (v : Throttle) (c' : Nat) : (s.setThr k v).chan c' = s.chan c' := rfl
@[simp] theorem setThr_acc_fport (k : Nat) (v : Throttle) (f' : Nat) : (s.setThr k v).fport f' = s.fport f' := rfl
@[simp] theorem setThr_acc_seam (k : Nat) (v : Throttle) (k' : Nat) : (s.setThr k v).seam k' = s.seam k' := rfl
@[simp] theorem setThr_acc_boltOf (k : Nat) (v : Throttle) (k' : Nat) : (s.setThr k v).boltOf k' = s.boltOf k' := rfl
@[simp] theorem setThr_acc_siteOf (k : Nat) (v : Throttle) (m' : Nat) : (s.setThr k v).siteOf m' = s.siteOf m' := rfl
@[simp] theorem setThr_acc_mtile (k : Nat) (v : Throttle) (g' : Nat) : (s.setThr k v).mtile g' = s.mtile g' := rfl
@[simp] theorem setThr_acc_owner (k : Nat) (v : Throttle) (b' : Nat) : (s.setThr k v).owner b' = s.owner b' := rfl
@[simp] theorem setThr_acc_portAvail (k : Nat) (v : Throttle) (p' : Nat) : (s.setThr k v).portAvail p' = s.portAvail p' := rfl
@[simp] theorem setThr_acc_tclkCycles (k : Nat) (v : Throttle) (n' : Nat) : (s.setThr k v).tclkCycles n' = s.tclkCycles n' := rfl
@[simp] theorem setThr_acc_aclkCycles (k : Nat) (v : Throttle) (n' : Nat) : (s.setThr k v).aclkCycles n' = s.aclkCycles n' := rfl
@[simp] theorem setThr_acc_ctrlPort (k : Nat) (v : Throttle) : (s.setThr k v).ctrlPort = s.ctrlPort := rfl
@[simp] theorem setThr_acc_schedTape (k : Nat) (v : Throttle) : (s.setThr k v).schedTape = s.schedTape := rfl
/-! send -/
@[simp] theorem send_pending (o : Output) : (s.send o).pending = s.pending := rfl
@[simp] theorem send_tape (o : Output) : (s.send o).tape = s.tape := rfl
@[simp] theorem send_regs (o : Output) : (s.send o).regs = s.regs := rfl
@[simp] theorem send_bar4 (o : Output) : (s.send o).bar4 = s.bar4 := rfl
@[simp] theorem send_latch (o : Output) : (s.send o).latch = s.latch := rfl
@[simp] theorem send_mem (o : Output) : (s.send o).mem = s.mem := rfl
@[simp] theorem send_errs (o : Output) : (s.send o).errs = s.errs := rfl
@[simp] theorem send_chans (o : Output) : (s.send o).chans = s.chans := rfl
@[simp] theorem send_scrubs (o : Output) : (s.send o).scrubs = s.scrubs := rfl
@[simp] theorem send_migs (o : Output) : (s.send o).migs = s.migs := rfl
@[simp] theorem send_needle (o : Output) : (s.send o).needle = s.needle := rfl
@[simp] theorem send_tiles (o : Output) : (s.send o).tiles = s.tiles := rfl
@[simp] theorem send_mesh (o : Output) : (s.send o).mesh = s.mesh := rfl
@[simp] theorem send_meshId (o : Output) : (s.send o).meshId = s.meshId := rfl
@[simp] theorem send_bolts (o : Output) : (s.send o).bolts = s.bolts := rfl
@[simp] theorem send_txns (o : Output) : (s.send o).txns = s.txns := rfl
@[simp] theorem send_stitched (o : Output) : (s.send o).stitched = s.stitched := rfl
@[simp] theorem send_log (o : Output) : (s.send o).log = s.log := rfl
@[simp] theorem send_logSel (o : Output) : (s.send o).logSel = s.logSel := rfl
@[simp] theorem send_qps (o : Output) : (s.send o).qps = s.qps := rfl
@[simp] theorem send_hports (o : Output) : (s.send o).hports = s.hports := rfl
@[simp] theorem send_nbus (o : Output) : (s.send o).nbus = s.nbus := rfl
@[simp] theorem send_chks (o : Output) : (s.send o).chks = s.chks := rfl
@[simp] theorem send_seams (o : Output) : (s.send o).seams = s.seams := rfl
@[simp] theorem send_fab (o : Output) : (s.send o).fab = s.fab := rfl
@[simp] theorem send_hkc (o : Output) : (s.send o).hkc = s.hkc := rfl
@[simp] theorem send_store (o : Output) : (s.send o).store = s.store := rfl
@[simp] theorem send_fuses (o : Output) : (s.send o).fuses = s.fuses := rfl
@[simp] theorem send_therm (o : Output) : (s.send o).therm = s.therm := rfl
@[simp] theorem send_pins (o : Output) : (s.send o).pins = s.pins := rfl
@[simp] theorem send_rst (o : Output) : (s.send o).rst = s.rst := rfl
@[simp] theorem send_jtag (o : Output) : (s.send o).jtag = s.jtag := rfl
@[simp] theorem send_trace (o : Output) : (s.send o).trace = s.trace := rfl
@[simp] theorem send_mgmt (o : Output) : (s.send o).mgmt = s.mgmt := rfl
@[simp] theorem send_slewTo (o : Output) : (s.send o).slewTo = s.slewTo := rfl
@[simp] theorem send_timingAt (o : Output) : (s.send o).timingAt = s.timingAt := rfl
@[simp] theorem send_free (o : Output) : (s.send o).free = s.free := rfl
@[simp] theorem send_acc_word (o : Output) (o' : Nat) : (s.send o).word o' = s.word o' := rfl
@[simp] theorem send_acc_r (o : Output) (k' : Blk) (f' : Fld) : (s.send o).r k' f' = s.r k' f' := rfl
@[simp] theorem send_acc_b (o : Output) (k' : Blk) (f' : Fld) : (s.send o).b k' f' = s.b k' f' := rfl
@[simp] theorem send_acc_r2 (o : Output) (k' : Blk) (a' b' : Fld) : (s.send o).r2 k' a' b' = s.r2 k' a' b' := rfl
@[simp] theorem send_acc_word4 (o : Output) (p' o' : Nat) : (s.send o).word4 p' o' = s.word4 p' o' := rfl
@[simp] theorem send_acc_r4 (o : Output) (p' : Nat) (f' : Fld) : (s.send o).r4 p' f' = s.r4 p' f' := rfl
@[simp] theorem send_acc_tile (o : Output) (g' : Nat) : (s.send o).tile g' = s.tile g' := rfl
@[simp] theorem send_acc_bolt (o : Output) (b' : Nat) : (s.send o).bolt b' = s.bolt b' := rfl
@[simp] theorem send_acc_txn (o : Output) (q' : Nat) : (s.send o).txn q' = s.txn q' := rfl
@[simp] theorem send_acc_qp (o : Output) (p' n' : Nat) : (s.send o).qp p' n' = s.qp p' n' := rfl
@[simp] theorem send_acc_hport (o : Output) (p' : Nat) : (s.send o).hport p' = s.hport p' := rfl
@[simp] theorem send_acc_nbu (o : Output) (k' : Nat) : (s.send o).nbu k' = s.nbu k' := rfl
@[simp] theorem send_acc_chkU (o : Output) (d' : Nat) : (s.send o).chkU d' = s.chkU d' := rfl
@[simp] theorem send_acc_chan (o : Output) (c' : Nat) : (s.send o).chan c' = s.chan c' := rfl
@[simp] theorem send_acc_fport (o : Output) (f' : Nat) : (s.send o).fport f' = s.fport f' := rfl
@[simp] theorem send_acc_seam (o : Output) (k' : Nat) : (s.send o).seam k' = s.seam k' := rfl
@[simp] theorem send_acc_thr (o : Output) (k' : Nat) : (s.send o).thr k' = s.thr k' := rfl
@[simp] theorem send_acc_live (o : Output) : (s.send o).live = s.live := rfl
@[simp] theorem send_acc_boltOf (o : Output) (k' : Nat) : (s.send o).boltOf k' = s.boltOf k' := rfl
@[simp] theorem send_acc_siteOf (o : Output) (m' : Nat) : (s.send o).siteOf m' = s.siteOf m' := rfl
@[simp] theorem send_acc_mtile (o : Output) (g' : Nat) : (s.send o).mtile g' = s.mtile g' := rfl
@[simp] theorem send_acc_owner (o : Output) (b' : Nat) : (s.send o).owner b' = s.owner b' := rfl
@[simp] theorem send_acc_portAvail (o : Output) (p' : Nat) : (s.send o).portAvail p' = s.portAvail p' := rfl
@[simp] theorem send_acc_tclkCycles (o : Output) (n' : Nat) : (s.send o).tclkCycles n' = s.tclkCycles n' := rfl
@[simp] theorem send_acc_aclkCycles (o : Output) (n' : Nat) : (s.send o).aclkCycles n' = s.aclkCycles n' := rfl
@[simp] theorem send_acc_ctrlPort (o : Output) : (s.send o).ctrlPort = s.ctrlPort := rfl
@[simp] theorem send_acc_schedTape (o : Output) : (s.send o).schedTape = s.schedTape := rfl
/-! advanceTo -/
@[simp] theorem advanceTo_pending (n : Nat) : (s.advanceTo n).pending = s.pending := rfl
@[simp] theorem advanceTo_regs (n : Nat) : (s.advanceTo n).regs = s.regs := rfl
@[simp] theorem advanceTo_bar4 (n : Nat) : (s.advanceTo n).bar4 = s.bar4 := rfl
@[simp] theorem advanceTo_latch (n : Nat) : (s.advanceTo n).latch = s.latch := rfl
@[simp] theorem advanceTo_mem (n : Nat) : (s.advanceTo n).mem = s.mem := rfl
@[simp] theorem advanceTo_errs (n : Nat) : (s.advanceTo n).errs = s.errs := rfl
@[simp] theorem advanceTo_chans (n : Nat) : (s.advanceTo n).chans = s.chans := rfl
@[simp] theorem advanceTo_scrubs (n : Nat) : (s.advanceTo n).scrubs = s.scrubs := rfl
@[simp] theorem advanceTo_migs (n : Nat) : (s.advanceTo n).migs = s.migs := rfl
@[simp] theorem advanceTo_needle (n : Nat) : (s.advanceTo n).needle = s.needle := rfl
@[simp] theorem advanceTo_tiles (n : Nat) : (s.advanceTo n).tiles = s.tiles := rfl
@[simp] theorem advanceTo_mesh (n : Nat) : (s.advanceTo n).mesh = s.mesh := rfl
@[simp] theorem advanceTo_meshId (n : Nat) : (s.advanceTo n).meshId = s.meshId := rfl
@[simp] theorem advanceTo_bolts (n : Nat) : (s.advanceTo n).bolts = s.bolts := rfl
@[simp] theorem advanceTo_txns (n : Nat) : (s.advanceTo n).txns = s.txns := rfl
@[simp] theorem advanceTo_stitched (n : Nat) : (s.advanceTo n).stitched = s.stitched := rfl
@[simp] theorem advanceTo_log (n : Nat) : (s.advanceTo n).log = s.log := rfl
@[simp] theorem advanceTo_logSel (n : Nat) : (s.advanceTo n).logSel = s.logSel := rfl
@[simp] theorem advanceTo_qps (n : Nat) : (s.advanceTo n).qps = s.qps := rfl
@[simp] theorem advanceTo_hports (n : Nat) : (s.advanceTo n).hports = s.hports := rfl
@[simp] theorem advanceTo_nbus (n : Nat) : (s.advanceTo n).nbus = s.nbus := rfl
@[simp] theorem advanceTo_chks (n : Nat) : (s.advanceTo n).chks = s.chks := rfl
@[simp] theorem advanceTo_seams (n : Nat) : (s.advanceTo n).seams = s.seams := rfl
@[simp] theorem advanceTo_fab (n : Nat) : (s.advanceTo n).fab = s.fab := rfl
@[simp] theorem advanceTo_hkc (n : Nat) : (s.advanceTo n).hkc = s.hkc := rfl
@[simp] theorem advanceTo_store (n : Nat) : (s.advanceTo n).store = s.store := rfl
@[simp] theorem advanceTo_fuses (n : Nat) : (s.advanceTo n).fuses = s.fuses := rfl
@[simp] theorem advanceTo_therm (n : Nat) : (s.advanceTo n).therm = s.therm := rfl
@[simp] theorem advanceTo_pins (n : Nat) : (s.advanceTo n).pins = s.pins := rfl
@[simp] theorem advanceTo_rst (n : Nat) : (s.advanceTo n).rst = s.rst := rfl
@[simp] theorem advanceTo_jtag (n : Nat) : (s.advanceTo n).jtag = s.jtag := rfl
@[simp] theorem advanceTo_trace (n : Nat) : (s.advanceTo n).trace = s.trace := rfl
@[simp] theorem advanceTo_mgmt (n : Nat) : (s.advanceTo n).mgmt = s.mgmt := rfl
@[simp] theorem advanceTo_slewTo (n : Nat) : (s.advanceTo n).slewTo = s.slewTo := rfl
@[simp] theorem advanceTo_timingAt (n : Nat) : (s.advanceTo n).timingAt = s.timingAt := rfl
@[simp] theorem advanceTo_out (n : Nat) : (s.advanceTo n).out = s.out := rfl
@[simp] theorem advanceTo_free (n : Nat) : (s.advanceTo n).free = s.free := rfl
@[simp] theorem advanceTo_acc_word (n : Nat) (o' : Nat) : (s.advanceTo n).word o' = s.word o' := rfl
@[simp] theorem advanceTo_acc_r (n : Nat) (k' : Blk) (f' : Fld) : (s.advanceTo n).r k' f' = s.r k' f' := rfl
@[simp] theorem advanceTo_acc_b (n : Nat) (k' : Blk) (f' : Fld) : (s.advanceTo n).b k' f' = s.b k' f' := rfl
@[simp] theorem advanceTo_acc_r2 (n : Nat) (k' : Blk) (a' b' : Fld) : (s.advanceTo n).r2 k' a' b' = s.r2 k' a' b' := rfl
@[simp] theorem advanceTo_acc_word4 (n : Nat) (p' o' : Nat) : (s.advanceTo n).word4 p' o' = s.word4 p' o' := rfl
@[simp] theorem advanceTo_acc_r4 (n : Nat) (p' : Nat) (f' : Fld) : (s.advanceTo n).r4 p' f' = s.r4 p' f' := rfl
@[simp] theorem advanceTo_acc_tile (n : Nat) (g' : Nat) : (s.advanceTo n).tile g' = s.tile g' := rfl
@[simp] theorem advanceTo_acc_bolt (n : Nat) (b' : Nat) : (s.advanceTo n).bolt b' = s.bolt b' := rfl
@[simp] theorem advanceTo_acc_txn (n : Nat) (q' : Nat) : (s.advanceTo n).txn q' = s.txn q' := rfl
@[simp] theorem advanceTo_acc_qp (n : Nat) (p' n' : Nat) : (s.advanceTo n).qp p' n' = s.qp p' n' := rfl
@[simp] theorem advanceTo_acc_hport (n : Nat) (p' : Nat) : (s.advanceTo n).hport p' = s.hport p' := rfl
@[simp] theorem advanceTo_acc_nbu (n : Nat) (k' : Nat) : (s.advanceTo n).nbu k' = s.nbu k' := rfl
@[simp] theorem advanceTo_acc_chkU (n : Nat) (d' : Nat) : (s.advanceTo n).chkU d' = s.chkU d' := rfl
@[simp] theorem advanceTo_acc_chan (n : Nat) (c' : Nat) : (s.advanceTo n).chan c' = s.chan c' := rfl
@[simp] theorem advanceTo_acc_fport (n : Nat) (f' : Nat) : (s.advanceTo n).fport f' = s.fport f' := rfl
@[simp] theorem advanceTo_acc_seam (n : Nat) (k' : Nat) : (s.advanceTo n).seam k' = s.seam k' := rfl
@[simp] theorem advanceTo_acc_thr (n : Nat) (k' : Nat) : (s.advanceTo n).thr k' = s.thr k' := rfl
@[simp] theorem advanceTo_acc_live (n : Nat) : (s.advanceTo n).live = s.live := rfl
@[simp] theorem advanceTo_acc_boltOf (n : Nat) (k' : Nat) : (s.advanceTo n).boltOf k' = s.boltOf k' := rfl
@[simp] theorem advanceTo_acc_siteOf (n : Nat) (m' : Nat) : (s.advanceTo n).siteOf m' = s.siteOf m' := rfl
@[simp] theorem advanceTo_acc_mtile (n : Nat) (g' : Nat) : (s.advanceTo n).mtile g' = s.mtile g' := rfl
@[simp] theorem advanceTo_acc_owner (n : Nat) (b' : Nat) : (s.advanceTo n).owner b' = s.owner b' := rfl
@[simp] theorem advanceTo_acc_portAvail (n : Nat) (p' : Nat) : (s.advanceTo n).portAvail p' = s.portAvail p' := rfl
@[simp] theorem advanceTo_acc_tclkCycles (n : Nat) (n' : Nat) : (s.advanceTo n).tclkCycles n' = s.tclkCycles n' := rfl
@[simp] theorem advanceTo_acc_aclkCycles (n : Nat) (n' : Nat) : (s.advanceTo n).aclkCycles n' = s.aclkCycles n' := rfl
@[simp] theorem advanceTo_acc_ctrlPort (n : Nat) : (s.advanceTo n).ctrlPort = s.ctrlPort := rfl

end Sys2Proof.Machine.State
end

