-- ==== Sys2Proof/Laws/Maps.lean ====
section
/-! SUPPORT. Sparse maps, register fields and the parts of the state: what is read after a write, at the place written and elsewhere. -/
namespace Sys2Proof.Machine

/-! ### Sparse maps -/

variable {α : Type}

@[simp] theorem SMap.get_nil (d : α) (k : Nat) : SMap.get d [] k = d := rfl

@[simp] theorem SMap.get_set_same (d : α) (m : SMap α) (k : Nat) (v : α) : SMap.get d (m.set k v) k = v := by
  induction m with
  | nil => simp [SMap.set, SMap.get]
  | cons e m ih =>
    obtain ⟨k', v'⟩ := e
    simp only [SMap.set]
    split
    · simp [SMap.get]
    · split
      · simp [SMap.get]
      · rename_i h _; simp [SMap.get, h, ih]

theorem SMap.get_set_ne (d : α) (m : SMap α) (k j : Nat) (v : α) (h : j ≠ k) :
    SMap.get d (m.set k v) j = SMap.get d m j := by
  induction m with
  | nil => simp [SMap.set, SMap.get, Ne.symm h]
  | cons e m ih =>
    obtain ⟨k', v'⟩ := e
    simp only [SMap.set]
    split
    · rename_i e; subst e; simp [SMap.get, Ne.symm h]
    · split
      · simp [SMap.get, Ne.symm h]
      · simp [SMap.get, ih]

theorem SMap.get_set (d : α) (m : SMap α) (k j : Nat) (v : α) :
    SMap.get d (m.set k v) j = if j = k then v else SMap.get d m j := by
  by_cases h : j = k
  · simp [h]
  · simp [h, SMap.get_set_ne]

@[simp] theorem SMap.find_set_same (m : SMap α) (k : Nat) (v : α) : SMap.find (m.set k v) k = some v := by
  induction m with
  | nil => simp [SMap.set, SMap.find]
  | cons e m ih =>
    obtain ⟨k', v'⟩ := e
    simp only [SMap.set]
    split
    · simp [SMap.find]
    · split
      · simp [SMap.find]
      · rename_i h _; simp [SMap.find, h, ih]

theorem SMap.find_set_ne (m : SMap α) (k j : Nat) (v : α) (h : j ≠ k) : SMap.find (m.set k v) j = SMap.find m j := by
  induction m with
  | nil => simp [SMap.set, SMap.find, Ne.symm h]
  | cons e m ih =>
    obtain ⟨k', v'⟩ := e
    simp only [SMap.set]
    split
    · rename_i e; subst e; simp [SMap.find, Ne.symm h]
    · split
      · simp [SMap.find, Ne.symm h]
      · simp [SMap.find, ih]

theorem SMap.get_erase (d : α) (m : SMap α) (k j : Nat) :
    SMap.get d (SMap.erase m k) j = if j = k then d else SMap.get d m j := by
  induction m with
  | nil => simp [SMap.erase]
  | cons e m ih =>
    obtain ⟨k', v'⟩ := e
    simp only [SMap.erase] at ih
    by_cases hj : j = k
    · subst hj
      simp only [if_true] at ih ⊢
      by_cases hk : k' = j
      · simpa [SMap.erase, hk] using ih
      · simpa [SMap.erase, SMap.get, hk] using ih
    · simp only [hj, if_false] at ih ⊢
      by_cases hk : k' = k
      · have : ¬ k = j := fun e => hj e.symm
        simpa [SMap.erase, SMap.get, hk, this] using ih
      · simp [SMap.erase, SMap.get, hk, ih]

/-! ### Fields of a word -/

/-- The bits of a word after a field is put into it. -/
theorem testBit_fput (f : Fld) (w : BitVec 32) (v i : Nat) (hi : i < 32) :
    (fput f w v).toNat.testBit i = if f.lo ≤ i ∧ i < f.lo + f.w then v.testBit (i - f.lo) else w.toNat.testBit i := by
  have e : w.toNat / 2 ^ (f.lo + f.w) * 2 ^ (f.lo + f.w) + v % 2 ^ f.w * 2 ^ f.lo + w.toNat % 2 ^ f.lo
      = 2 ^ f.lo * (2 ^ f.w * (w.toNat / 2 ^ (f.lo + f.w)) + v % 2 ^ f.w) + w.toNat % 2 ^ f.lo := by
    rw [Nat.pow_add, Nat.mul_add, ← Nat.mul_assoc (2 ^ f.lo), Nat.mul_comm (w.toNat / _), Nat.mul_comm (2 ^ f.lo) (v % _)]
  have h1 : w.toNat % 2 ^ f.lo < 2 ^ f.lo := Nat.mod_lt _ (Nat.two_pow_pos _)
  have h2 : v % 2 ^ f.w < 2 ^ f.w := Nat.mod_lt _ (Nat.two_pow_pos _)
  unfold fput
  rw [e, BitVec.toNat_ofNat, Nat.testBit_mod_two_pow, Nat.testBit_two_pow_mul_add _ h1, Nat.testBit_two_pow_mul_add _ h2]
  simp only [hi, decide_true, Bool.true_and]
  by_cases a : i < f.lo
  · have : ¬ f.lo ≤ i := by omega
    simp [a, Nat.testBit_mod_two_pow] <;> (intro h; omega)
  · have a' : f.lo ≤ i := by omega
    by_cases b : i < f.lo + f.w
    · have : i - f.lo < f.w := by omega
      simp [a, a', b, this, Nat.testBit_mod_two_pow]
    · have : ¬ i - f.lo < f.w := by omega
      have e2 : i - f.lo - f.w + (f.lo + f.w) = i := by omega
      simp [a, b, this, Nat.testBit_div_two_pow, e2]

theorem testBit_fget (f : Fld) (w : BitVec 32) (i : Nat) :
    (fget f w).testBit i = (decide (i < f.w) && w.toNat.testBit (f.lo + i)) := by
  simp [fget, Nat.testBit_mod_two_pow, Nat.testBit_div_two_pow, Nat.add_comm]

/-- The field just written reads as what was written, cut to its width. -/
theorem fget_fput_same (f : Fld) (w : BitVec 32) (v : Nat) (h : f.lo + f.w ≤ 32) : fget f (fput f w v) = v % 2 ^ f.w := by
  apply Nat.eq_of_testBit_eq
  intro i
  rw [testBit_fget, Nat.testBit_mod_two_pow]
  by_cases hi : i < f.w
  · rw [testBit_fput _ _ _ _ (by omega)]
    have h2 : f.lo + i < f.lo + f.w := by omega
    simp [hi]
  · simp [hi]

/-- A field that shares no bit with the one written keeps its value. -/
theorem fget_fput_disjoint (f f' : Fld) (w : BitVec 32) (v : Nat) (h : f'.lo + f'.w ≤ 32)
    (hd : f'.lo + f'.w ≤ f.lo ∨ f.lo + f.w ≤ f'.lo) : fget f' (fput f w v) = fget f' w := by
  apply Nat.eq_of_testBit_eq
  intro i
  rw [testBit_fget, testBit_fget]
  by_cases hi : i < f'.w
  · rw [testBit_fput _ _ _ _ (by omega)]
    have : ¬ (f.lo ≤ f'.lo + i ∧ f'.lo + i < f.lo + f.w) := by omega
    simp [this]
  · simp [hi]

theorem fget_lt (f : Fld) (w : BitVec 32) : fget f w < 2 ^ f.w := Nat.mod_lt _ (Nat.two_pow_pos _)

/-! ### Registers -/

namespace State
variable (s : State)

@[simp] theorem word_setWord_same (o : Nat) (v : BitVec 32) : (s.setWord o v).word o = v := by simp [word, setWord]
theorem word_setWord_ne (o o' : Nat) (v : BitVec 32) (h : o' ≠ o) : (s.setWord o v).word o' = s.word o' := by
  simp [word, setWord, SMap.get_set_ne _ _ _ _ _ h]

theorem word_w_ne (k : Blk) (f : Fld) (v o : Nat) (h : o ≠ k.base + f.off) : (s.w k f v).word o = s.word o :=
  word_setWord_ne _ _ _ _ h
@[simp] theorem word_w_same (k : Blk) (f : Fld) (v : Nat) : (s.w k f v).word (k.base + f.off) = fput f (s.word (k.base + f.off)) v :=
  word_setWord_same _ _ _

/-- A field just written. -/
theorem r_w_same (k : Blk) (f : Fld) (v : Nat) (h : f.lo + f.w ≤ 32) : (s.w k f v).r k f = v % 2 ^ f.w := by
  simp [r, fget_fput_same f _ v h]
/-- A field of another register. -/
theorem r_w_ne (k k' : Blk) (f f' : Fld) (v : Nat) (h : k'.base + f'.off ≠ k.base + f.off) : (s.w k f v).r k' f' = s.r k' f' := by
  simp [r, word_w_ne s k f v _ h]
/-- Another field of the same register. -/
theorem r_w_disjoint (k : Blk) (f f' : Fld) (v : Nat) (ho : f'.off = f.off) (h : f'.lo + f'.w ≤ 32)
    (hd : f'.lo + f'.w ≤ f.lo ∨ f.lo + f.w ≤ f'.lo) : (s.w k f v).r k f' = s.r k f' := by
  simp [r, ho, fget_fput_disjoint f f' _ v h hd]

theorem r_lt (k : Blk) (f : Fld) : s.r k f < 2 ^ f.w := fget_lt _ _

theorem word4_setWord4 (p o p' o' : Nat) (v : BitVec 32) (h : bar4Key p' o' ≠ bar4Key p o) : (s.setWord4 p o v).word4 p' o' = s.word4 p' o' := by
  simp [word4, setWord4, SMap.get_set_ne _ _ _ _ _ h]
@[simp] theorem word4_setWord4_same (p o : Nat) (v : BitVec 32) : (s.setWord4 p o v).word4 p o = v := by simp [word4, setWord4]
theorem r4_w4_same (p : Nat) (f : Fld) (v : Nat) (h : f.lo + f.w ≤ 32) : (s.w4 p f v).r4 p f = v % 2 ^ f.w := by
  simp [r4, w4, fget_fput_same f _ v h]
theorem r4_w4_ne (p p' : Nat) (f f' : Fld) (v : Nat) (h : bar4Key p' f'.off ≠ bar4Key p f.off) : (s.w4 p f v).r4 p' f' = s.r4 p' f' := by
  simp [r4, w4, word4_setWord4 s p f.off p' f'.off _ h]
theorem r4_w4_disjoint (p : Nat) (f f' : Fld) (v : Nat) (ho : f'.off = f.off) (h : f'.lo + f'.w ≤ 32)
    (hd : f'.lo + f'.w ≤ f.lo ∨ f.lo + f.w ≤ f'.lo) : (s.w4 p f v).r4 p f' = s.r4 p f' := by
  simp [r4, w4, ho, fget_fput_disjoint f f' _ v h hd]

/-! ### Parts by index -/

@[simp] theorem tile_setTile_same (g : Nat) (t : Tile) : (s.setTile g t).tile g = t := by simp [tile, setTile]
theorem tile_setTile (g g' : Nat) (t : Tile) : (s.setTile g t).tile g' = if g' = g then t else s.tile g' := by
  simp [tile, setTile, SMap.get_set]
@[simp] theorem tile_modTile_same (g : Nat) (f : Tile → Tile) : (s.modTile g f).tile g = f (s.tile g) := by simp [modTile]
theorem tile_modTile (g g' : Nat) (f : Tile → Tile) : (s.modTile g f).tile g' = if g' = g then f (s.tile g) else s.tile g' := by
  simp [modTile, tile_setTile]
@[simp] theorem tile_fly_same (g : Nat) (f : Flight) : (s.fly g f).tile g = { s.tile g with flight := (s.tile g).flight ++ [f] } := by
  simp [fly]
@[simp] theorem tile_modFlight_same (g u : Nat) (f : Flight → Flight) : (s.modFlight g u f).tile g = (s.tile g).modFlight u f := by
  simp [modFlight]
@[simp] theorem bolt_setBolt_same (b : Nat) (v : Bolt) : (s.setBolt b v).bolt b = v := by simp [bolt, setBolt]
theorem bolt_setBolt (b b' : Nat) (v : Bolt) : (s.setBolt b v).bolt b' = if b' = b then v else s.bolt b' := by
  simp [bolt, setBolt, SMap.get_set]
@[simp] theorem bolt_modBolt_same (b : Nat) (f : Bolt → Bolt) : (s.modBolt b f).bolt b = f (s.bolt b) := by simp [modBolt]
@[simp] theorem txn_setTxn_same (q : Nat) (v : Txn) : (s.setTxn q v).txn q = v := by simp [txn, setTxn]
theorem txn_setTxn (q q' : Nat) (v : Txn) : (s.setTxn q v).txn q' = if q' = q then v else s.txn q' := by
  simp [txn, setTxn, SMap.get_set]
@[simp] theorem qp_setQp_same (p n : Nat) (v : QPair) : (s.setQp p n v).qp p n = v := by simp [qp, setQp]
@[simp] theorem hport_setHport_same (p : Nat) (v : HostPort) : (s.setHport p v).hport p = v := by simp [hport, setHport]
theorem hport_setHport (p p' : Nat) (v : HostPort) : (s.setHport p v).hport p' = if p' = p then v else s.hport p' := by
  simp [hport, setHport, SMap.get_set]
@[simp] theorem nbu_setNbu_same (k : Nat) (v : Nbu) : (s.setNbu k v).nbu k = v := by simp [nbu, setNbu]
@[simp] theorem chkU_setChkU_same (d : Nat) (v : ChkUnit) : (s.setChkU d v).chkU d = v := by simp [chkU, setChkU]
@[simp] theorem chan_setChan_same (c : Nat) (v : Chan) : (s.setChan c v).chan c = v := by simp [chan, setChan]
@[simp] theorem fport_setFport_same (f : Nat) (v : FabPort) : (s.setFport f v).fport f = v := by simp [fport, setFport]
theorem fport_setFport (f f' : Nat) (v : FabPort) : (s.setFport f v).fport f' = if f' = f then v else s.fport f' := by
  simp [fport, setFport, SMap.get_set]
@[simp] theorem seam_setSeam_same (k : Nat) (v : Seam) : (s.setSeam k v).seam k = v := by simp [seam, setSeam]
@[simp] theorem thr_setThr_same (k : Nat) (v : Throttle) : (s.setThr k v).thr k = v := by simp [thr, setThr]
@[simp] theorem advanceTo_tape_eq (n : Nat) : (s.advanceTo n).tape = max s.tape n := rfl
@[simp] theorem send_out_eq (o : Output) : (s.send o).out = s.out ++ [o] := rfl

end State
end Sys2Proof.Machine
end

