-- ==== Sys2Proof/Laws/Log.lean ====
section
/-! SUPPORT. What the error log's operation may change (R433 to R436): one lemma for logEv, which every report of an error goes through. -/
namespace Sys2Proof.Machine

theorem LogOnly.refl (s : State) : LogOnly s s := by
  constructor <;> first | rfl | (intros; rfl) | exact ⟨[], by simp, by simp⟩ | exact ⟨rfl, rfl, rfl, rfl, rfl, rfl, rfl, rfl⟩

theorem LogOnly.trans {s t u : State} (a : LogOnly s t) (b : LogOnly t u) : LogOnly s u := by
  constructor
  case pending => exact b.pending.trans a.pending
  case tape => exact b.tape.trans a.tape
  case words => exact fun o h => (b.words o h).trans (a.words o h)
  case words4 => exact fun p o h hp => (b.words4 p o h hp).trans (a.words4 p o h hp)
  case latch => exact b.latch.trans a.latch
  case mem => exact b.mem.trans a.mem
  case errs => exact b.errs.trans a.errs
  case chans => exact b.chans.trans a.chans
  case scrubs => exact b.scrubs.trans a.scrubs
  case migs => exact b.migs.trans a.migs
  case needle => exact b.needle.trans a.needle
  case tiles => exact b.tiles.trans a.tiles
  case mesh => exact b.mesh.trans a.mesh
  case meshId => exact b.meshId.trans a.meshId
  case bolts => exact b.bolts.trans a.bolts
  case txns => exact b.txns.trans a.txns
  case stitched => exact b.stitched.trans a.stitched
  case logSel => exact b.logSel.trans a.logSel
  case qps => exact b.qps.trans a.qps
  case hports => exact b.hports.trans a.hports
  case nbus => exact b.nbus.trans a.nbus
  case chks => exact b.chks.trans a.chks
  case seams => exact b.seams.trans a.seams
  case fab => exact b.fab.trans a.fab
  case hkc => exact b.hkc.trans a.hkc
  case fuses => exact b.fuses.trans a.fuses
  case therm => exact b.therm.trans a.therm
  case pins => rw [b.pins, a.pins]
  case rst => exact b.rst.trans a.rst
  case jtag => exact b.jtag.trans a.jtag
  case trace => exact b.trace.trans a.trace
  case mgmt => exact b.mgmt.trans a.mgmt
  case slewTo => exact b.slewTo.trans a.slewTo
  case timingAt => exact b.timingAt.trans a.timingAt
  case out =>
    obtain ⟨l, h, hl⟩ := a.out
    obtain ⟨m, h', hm⟩ := b.out
    refine ⟨l ++ m, by rw [h', h, List.append_assoc], fun o ho => ?_⟩
    rcases List.mem_append.1 ho with ho | ho
    · exact hl o ho
    · exact hm o ho
  case store =>
    obtain ⟨a1, a2, a3, a4, a5, a6, a7, a8⟩ := a.store
    obtain ⟨b1, b2, b3, b4, b5, b6, b7, b8⟩ := b.store
    exact ⟨b1.trans a1, b2.trans a2, b3.trans a3, b4.trans a4, b5.trans a5, b6.trans a6, b7.trans a7, b8.trans a8⟩

theorem LogOnly.ite {s a b : State} {p : Prop} [Decidable p] (ha : LogOnly s a) (hb : LogOnly s b) : LogOnly s (if p then a else b) := by
  split <;> assumption

/-- A further operation under a condition. -/
theorem LogOnly.iteStep {s a b : State} {p : Prop} [Decidable p] (ha : LogOnly s a) (hb : LogOnly a b) :
    LogOnly s (if p then b else a) := .ite (ha.trans hb) ha

theorem LogOnly.fold {β : Type} (step : State → β → State) (l : List β) (s : State) (h : ∀ x, ∀ b ∈ l, LogOnly x (step x b)) :
    LogOnly s (l.foldl step s) := by
  induction l generalizing s with
  | nil => exact LogOnly.refl s
  | cons b l ih => exact (h s b List.mem_cons_self).trans (ih _ fun x c hc => h x c (List.mem_cons_of_mem _ hc))

/-- A register of the ERR block written. -/
theorem LogOnly.wErr (s : State) (f : Fld) (v : Nat) (h : f.off < 0x10000) : LogOnly s (s.w .err f v) := by
  constructor
  case words =>
    intro o ho
    apply State.word_w_ne
    have e : (Blk.err).base = 0x50000 := rfl
    omega
  all_goals first | rfl | (intros; rfl) | exact ⟨[], by simp, by simp⟩ | exact ⟨rfl, rfl, rfl, rfl, rfl, rfl, rfl, rfl⟩

/-- A record put into the log. -/
theorem LogOnly.setLog (s : State) (l : SMap ErrRec) : LogOnly s { s with log := l } := by
  constructor
  all_goals first | rfl | (intros; rfl) | exact ⟨[], by simp, by simp⟩ | exact ⟨rfl, rfl, rfl, rfl, rfl, rfl, rfl, rfl⟩

/-- A record put into the record store, with FAULT_N. -/
theorem LogOnly.setFatal (s : State) (l : SMap ErrRec) (n : Nat) :
    LogOnly s { s with pins := { s.pins with fault := true }, store := { s.store with fatals := l, fseq := n } } := by
  constructor
  all_goals first | rfl | (intros; rfl) | exact ⟨[], by simp, by simp⟩ | exact ⟨rfl, rfl, rfl, rfl, rfl, rfl, rfl, rfl⟩

theorem LogOnly.pulse (s : State) : LogOnly s s.pulse := by
  constructor
  all_goals first | rfl | (intros; rfl) | exact ⟨[], by simp [State.pulse, State.draw], by simp⟩ | exact ⟨rfl, rfl, rfl, rfl, rfl, rfl, rfl, rfl⟩

/-- An MSI-X message, or its pending bit. -/
theorem LogOnly.msix (s : State) (p v : Nat) (hp : p < 2) (hv : v < 256) : LogOnly s (s.msix p v) := by
  unfold State.msix
  refine .ite ?_ ?_
  · constructor
    case words4 =>
      intro q o ho hq
      apply State.word4_setWord4
      have := hp
      unfold bar4Key
      split <;> split <;> omega
    all_goals first | rfl | (intros; rfl) | exact ⟨[], by simp, by simp⟩ | exact ⟨rfl, rfl, rfl, rfl, rfl, rfl, rfl, rfl⟩
  · constructor
    case out => exact ⟨[.msix (if p = 0 then .p0 else .p1) v], rfl, by intro o h; rw [List.mem_singleton] at h; exact ⟨_, _, h⟩⟩
    all_goals first | rfl | (intros; rfl) | exact ⟨rfl, rfl, rfl, rfl, rfl, rfl, rfl, rfl⟩

theorem owner_lt (s : State) (b p : Nat) (h : s.owner b = some p) : p < 2 := by
  unfold State.owner at h
  split at h
  · cases h; omega
  · cases h; omega
  · cases h

theorem ctrlPort_lt (s : State) : s.ctrlPort < 2 := fget_lt _ _

theorem errPorts_lt (s : State) (e : Ev) : ∀ p ∈ s.errPorts e, p < 2 := by
  intro p hp
  have hd : ∀ o : Option Nat, (o = none ∨ ∃ b, o = s.owner b) → o.getD s.ctrlPort < 2 := by
    intro o ho
    rcases ho with rfl | ⟨b, rfl⟩
    · exact ctrlPort_lt s
    · cases hb : s.owner b with
      | none => exact ctrlPort_lt s
      | some q => exact owner_lt s b q hb
  have hb : e.bolt.bind s.owner = none ∨ ∃ b, e.bolt.bind s.owner = s.owner b := by
    cases e.bolt with
    | none => exact .inl rfl
    | some b => exact .inr ⟨b, rfl⟩
  unfold State.errPorts at hp
  split at hp
  · simp only [List.mem_cons, List.not_mem_nil, or_false] at hp; omega
  · rw [List.mem_singleton] at hp; rw [hp]; exact ctrlPort_lt s
  · rw [List.mem_singleton] at hp; rw [hp]; exact ctrlPort_lt s
  · rw [List.mem_singleton] at hp; rw [hp]; exact hd _ hb

theorem errIrq_log (s : State) (e : Ev) : LogOnly s (s.errIrq e) := by
  unfold State.errIrq
  refine .ite (.refl s) (.fold _ _ _ ?_)
  intro x p hp
  exact .ite (.msix x p _ (errPorts_lt s e p hp) (fget_lt F.HST_INTR_ERR_VEC _)) (.refl x)

theorem newRecord_log (s : State) (e : Ev) : LogOnly s (s.newRecord e) := by
  unfold State.newRecord
  refine .trans ?_ (errIrq_log _ e)
  refine .iteStep (.trans ?_ (.wErr _ F.ERR_LOG_SEQ_SEQ _ (by decide))) (.trans ?_ (.pulse _))
  · exact .setLog s _
  · exact .setFatal _ _ _

/-- Everything an event of the error log can change. -/
theorem logEv_log (s : State) (e : Ev) : LogOnly s (s.logEv e) := by
  unfold State.logEv
  have hc : ∀ c : ErrClass, (F.ERR_CLASS_COUNT_COUNT c.n).off < 0x10000 ∧ c.bitOf.off < 0x10000 := by intro c; cases c <;> decide
  refine LogOnly.trans (t := (s.inc .err (F.ERR_CLASS_COUNT_COUNT e.cls.n)).wb .err e.cls.bitOf true)
    (.trans (.wErr s _ _ (hc e.cls).1) (.wErr _ _ _ (hc e.cls).2)) ?_
  dsimp only
  split
  · exact .setLog _ _
  · exact newRecord_log _ _

end Sys2Proof.Machine
end

