-- ==== Sys2Proof/Laws/Trace.lean ====
section
/-! SUPPORT. What the operations of observation may change: each changes the tracing of its site and nothing else (R447). -/
namespace Sys2Proof.Machine

theorem TraceOnly.refl (g : Nat) (s : State) : TraceOnly g s s := by
  constructor <;> first | rfl | (intros; rfl) | exact ⟨rfl, rfl, rfl, rfl, rfl⟩ | exact fun f => ⟨[], by simp, by simp⟩

theorem TraceOnly.trans {g : Nat} {s t u : State} (a : TraceOnly g s t) (b : TraceOnly g t u) : TraceOnly g s u where
  pending := b.pending.trans a.pending
  tape := b.tape.trans a.tape
  words o h := (b.words o h).trans (a.words o h)
  bar4 := b.bar4.trans a.bar4
  latch := b.latch.trans a.latch
  mem := b.mem.trans a.mem
  errs := b.errs.trans a.errs
  chans := b.chans.trans a.chans
  scrubs := b.scrubs.trans a.scrubs
  migs := b.migs.trans a.migs
  needle := b.needle.trans a.needle
  others g' h := (b.others g' h).trans (a.others g' h)
  tile := b.tile.trans a.tile
  mesh := b.mesh.trans a.mesh
  meshId := b.meshId.trans a.meshId
  bolts := b.bolts.trans a.bolts
  txns := b.txns.trans a.txns
  stitched := b.stitched.trans a.stitched
  log := b.log.trans a.log
  logSel := b.logSel.trans a.logSel
  qps := b.qps.trans a.qps
  hports := b.hports.trans a.hports
  nbus := b.nbus.trans a.nbus
  chks := b.chks.trans a.chks
  seams := b.seams.trans a.seams
  ports f := by
    obtain ⟨l, h, hl⟩ := a.ports f
    obtain ⟨m, h', hm⟩ := b.ports f
    refine ⟨l ++ m, by rw [h', h, List.append_assoc], fun w hw => ?_⟩
    rcases List.mem_append.1 hw with hw | hw
    · exact hl w hw
    · exact hm w hw
  hkc := b.hkc.trans a.hkc
  store := b.store.trans a.store
  fuses := b.fuses.trans a.fuses
  therm := b.therm.trans a.therm
  pins := b.pins.trans a.pins
  rst := b.rst.trans a.rst
  jtag := b.jtag.trans a.jtag
  mgmt := b.mgmt.trans a.mgmt
  slewTo := b.slewTo.trans a.slewTo
  timingAt := b.timingAt.trans a.timingAt
  free := b.free.trans a.free
  traceFix := ⟨b.traceFix.1.trans a.traceFix.1, b.traceFix.2.1.trans a.traceFix.2.1, b.traceFix.2.2.1.trans a.traceFix.2.2.1,
    b.traceFix.2.2.2.1.trans a.traceFix.2.2.2.1, b.traceFix.2.2.2.2.trans a.traceFix.2.2.2.2⟩
  out := b.out.trans a.out

/-- A register of the site's TRC window or of the TRC block written. -/
theorem TraceOnly.setWord (g : Nat) (s : State) (o : Nat) (v : BitVec 32) (h : traceWord g o = true) : TraceOnly g s (s.setWord o v) where
  words o' h' := State.word_setWord_ne _ _ _ _ (fun e => by rw [e, h] at h'; exact Bool.noConfusion h')
  pending := rfl
  tape := rfl
  bar4 := rfl
  latch := rfl
  mem := rfl
  errs := rfl
  chans := rfl
  scrubs := rfl
  migs := rfl
  needle := rfl
  others _ _ := rfl
  tile := rfl
  mesh := rfl
  meshId := rfl
  bolts := rfl
  txns := rfl
  stitched := rfl
  log := rfl
  logSel := rfl
  qps := rfl
  hports := rfl
  nbus := rfl
  chks := rfl
  seams := rfl
  ports f := ⟨[], by simp [State.fport], by simp⟩
  hkc := rfl
  store := rfl
  fuses := rfl
  therm := rfl
  pins := rfl
  rst := rfl
  jtag := rfl
  mgmt := rfl
  slewTo := rfl
  timingAt := rfl
  free := rfl
  traceFix := ⟨rfl, rfl, rfl, rfl, rfl⟩
  out := rfl

theorem TraceOnly.wTile (g : Nat) (s : State) (f : Fld) (v : Nat) (h : 0x400 ≤ f.off ∧ f.off < 0x600) :
    TraceOnly g s (s.w (.tile g) f v) :=
  TraceOnly.setWord g s _ _ (by simp only [traceWord, Bool.or_eq_true, decide_eq_true_eq]; omega)

theorem TraceOnly.wbTile (g : Nat) (s : State) (f : Fld) (v : Bool) (h : 0x400 ≤ f.off ∧ f.off < 0x600) :
    TraceOnly g s (s.wb (.tile g) f v) := TraceOnly.wTile g s f _ h

theorem TraceOnly.wTrc (g : Nat) (s : State) (f : Fld) (v : Nat) (h : f.off < 0x20000) : TraceOnly g s (s.w .trc f v) :=
  TraceOnly.setWord g s _ _ (by
    have e : (Blk.trc).base = 0x60000 := rfl
    simp only [traceWord, Bool.or_eq_true, decide_eq_true_eq]; omega)

theorem TraceOnly.wbTrc (g : Nat) (s : State) (f : Fld) (v : Bool) (h : f.off < 0x20000) : TraceOnly g s (s.wb .trc f v) :=
  TraceOnly.wTrc g s f _ h

/-- The site's tile with another hem or clock count. -/
theorem TraceOnly.setTile (g : Nat) (s : State) (t : Tile) (h : t.untraced = (s.tile g).untraced) : TraceOnly g s (s.setTile g t) where
  tile := by rw [State.tile_setTile_same]; exact h
  others g' h' := by rw [State.tile_setTile, if_neg h']
  words _ _ := rfl
  pending := rfl
  tape := rfl
  bar4 := rfl
  latch := rfl
  mem := rfl
  errs := rfl
  chans := rfl
  scrubs := rfl
  migs := rfl
  needle := rfl
  mesh := rfl
  meshId := rfl
  bolts := rfl
  txns := rfl
  stitched := rfl
  log := rfl
  logSel := rfl
  qps := rfl
  hports := rfl
  nbus := rfl
  chks := rfl
  seams := rfl
  ports f := ⟨[], by simp [State.fport], by simp⟩
  hkc := rfl
  store := rfl
  fuses := rfl
  therm := rfl
  pins := rfl
  rst := rfl
  jtag := rfl
  mgmt := rfl
  slewTo := rfl
  timingAt := rfl
  free := rfl
  traceFix := ⟨rfl, rfl, rfl, rfl, rfl⟩
  out := rfl

/-- An armed stop or a further cross-trigger. -/
theorem TraceOnly.setTrace (g : Nat) (s : State) (x : Option Nat) (l : List (Nat × BitVec 8)) :
    TraceOnly g s { s with trace := { s.trace with armed := x, xtrigs := l } } where
  tile := rfl
  others _ _ := rfl
  words _ _ := rfl
  pending := rfl
  tape := rfl
  bar4 := rfl
  latch := rfl
  mem := rfl
  errs := rfl
  chans := rfl
  scrubs := rfl
  migs := rfl
  needle := rfl
  mesh := rfl
  meshId := rfl
  bolts := rfl
  txns := rfl
  stitched := rfl
  log := rfl
  logSel := rfl
  qps := rfl
  hports := rfl
  nbus := rfl
  chks := rfl
  seams := rfl
  ports f := ⟨[], by simp [State.fport], by simp⟩
  hkc := rfl
  store := rfl
  fuses := rfl
  therm := rfl
  pins := rfl
  rst := rfl
  jtag := rfl
  mgmt := rfl
  slewTo := rfl
  timingAt := rfl
  free := rfl
  traceFix := ⟨rfl, rfl, rfl, rfl, rfl⟩
  out := rfl

/-- Flits of a cross-trigger's frame wait at a port. -/
theorem TraceOnly.setFport (g : Nat) (s : State) (f : Nat) (l : List Waiting) (h : ∀ w ∈ l, XtrigFlit w.flit) :
    TraceOnly g s (s.setFport f { s.fport f with resv := (s.fport f).resv ++ l }) where
  tile := rfl
  others _ _ := rfl
  words _ _ := rfl
  pending := rfl
  tape := rfl
  bar4 := rfl
  latch := rfl
  mem := rfl
  errs := rfl
  chans := rfl
  scrubs := rfl
  migs := rfl
  needle := rfl
  mesh := rfl
  meshId := rfl
  bolts := rfl
  txns := rfl
  stitched := rfl
  log := rfl
  logSel := rfl
  qps := rfl
  hports := rfl
  nbus := rfl
  chks := rfl
  seams := rfl
  ports f' := by
    by_cases e : f' = f
    · subst e; exact ⟨l, by simp, h⟩
    · exact ⟨[], by rw [State.fport_setFport, if_neg e]; simp, by simp⟩
  hkc := rfl
  store := rfl
  fuses := rfl
  therm := rfl
  pins := rfl
  rst := rfl
  jtag := rfl
  mgmt := rfl
  slewTo := rfl
  timingAt := rfl
  free := rfl
  traceFix := ⟨rfl, rfl, rfl, rfl, rfl⟩
  out := rfl

/-- A fold whose every step only traces only traces. -/
theorem TraceOnly.fold {β : Type} (g : Nat) (step : State → β → State) (l : List β) (s : State)
    (h : ∀ x, ∀ b ∈ l, TraceOnly g x (step x b)) : TraceOnly g s (l.foldl step s) := by
  induction l generalizing s with
  | nil => exact TraceOnly.refl g s
  | cons b l ih =>
    exact (h s b List.mem_cons_self).trans (ih _ fun x c hc => h x c (List.mem_cons_of_mem _ hc))

theorem TraceOnly.ite {g : Nat} {s a b : State} {p : Prop} [Decidable p] (ha : TraceOnly g s a) (hb : TraceOnly g s b) :
    TraceOnly g s (if p then a else b) := by split <;> assumption

/-- A further operation under a condition. -/
theorem TraceOnly.iteStep {g : Nat} {s a b : State} {p : Prop} [Decidable p] (ha : TraceOnly g s a) (hb : TraceOnly g a b) :
    TraceOnly g s (if p then b else a) := .ite (ha.trans hb) ha

/-- The same register, outside the trace registers, written in both states. -/
theorem TraceOnly.wBoth {g : Nat} {s t : State} (h : TraceOnly g s t) (k : Blk) (f : Fld) (v : Nat)
    (ho : traceWord g (k.base + f.off) = false) : TraceOnly g (s.w k f v) (t.w k f v) := by
  constructor
  case words =>
    intro o ho'
    by_cases e : o = k.base + f.off
    · subst e; simp [h.words _ ho]
    · rw [State.word_w_ne _ _ _ _ _ e, State.word_w_ne _ _ _ _ _ e, h.words o ho']
  all_goals first
    | exact h.out | exact h.traceFix | exact h.others | exact h.tile | exact h.pending | exact h.tape | exact h.bar4
    | exact h.latch | exact h.mem | exact h.errs | exact h.chans | exact h.scrubs | exact h.migs | exact h.needle | exact h.mesh | exact h.meshId | exact h.bolts | exact h.txns
    | exact h.stitched | exact h.log | exact h.logSel | exact h.qps | exact h.hports | exact h.nbus | exact h.chks | exact h.seams
    | exact h.ports | exact h.hkc | exact h.store | exact h.fuses | exact h.therm | exact h.pins | exact h.rst | exact h.jtag
    | exact h.mgmt | exact h.slewTo | exact h.timingAt | exact h.free

/-- The same change of the site's tile, blind to its tracing, made in both states. -/
theorem TraceOnly.modTileBoth {g : Nat} {s t : State} (h : TraceOnly g s t) (f : Tile → Tile)
    (hf : ∀ a b : Tile, a.untraced = b.untraced → (f a).untraced = (f b).untraced) : TraceOnly g (s.modTile g f) (t.modTile g f) := by
  constructor
  case tile => rw [State.tile_modTile_same, State.tile_modTile_same]; exact hf _ _ h.tile
  case others =>
    intro g' hg
    rw [State.tile_modTile, State.tile_modTile, if_neg hg, if_neg hg]; exact h.others g' hg
  all_goals first
    | exact h.out | exact h.traceFix | exact h.words | exact h.pending | exact h.tape | exact h.bar4
    | exact h.latch | exact h.mem | exact h.errs | exact h.chans | exact h.scrubs | exact h.migs | exact h.needle | exact h.mesh | exact h.meshId | exact h.bolts | exact h.txns
    | exact h.stitched | exact h.log | exact h.logSel | exact h.qps | exact h.hports | exact h.nbus | exact h.chks | exact h.seams
    | exact h.ports | exact h.hkc | exact h.store | exact h.fuses | exact h.therm | exact h.pins | exact h.rst | exact h.jtag
    | exact h.mgmt | exact h.slewTo | exact h.timingAt | exact h.free

/-- The same tape reached in both states. -/
theorem TraceOnly.advanceBoth {g : Nat} {s t : State} (h : TraceOnly g s t) (n : Nat) : TraceOnly g (s.advanceTo n) (t.advanceTo n) := by
  constructor
  case tape => rw [State.advanceTo_tape_eq, State.advanceTo_tape_eq, h.tape]
  all_goals first
    | exact h.out | exact h.traceFix | exact h.words | exact h.others | exact h.tile | exact h.pending | exact h.bar4
    | exact h.latch | exact h.mem | exact h.errs | exact h.chans | exact h.scrubs | exact h.migs | exact h.needle | exact h.mesh | exact h.meshId | exact h.bolts | exact h.txns
    | exact h.stitched | exact h.log | exact h.logSel | exact h.qps | exact h.hports | exact h.nbus | exact h.chks | exact h.seams
    | exact h.ports | exact h.hkc | exact h.store | exact h.fuses | exact h.therm | exact h.pins | exact h.rst | exact h.jtag
    | exact h.mgmt | exact h.slewTo | exact h.timingAt | exact h.free

/-! ### The operations -/

theorem cntAdd_trace (s : State) (g ev n layer op : Nat) : TraceOnly g s (s.cntAdd g ev n layer op) := by
  unfold State.cntAdd
  apply TraceOnly.fold
  intro x i hi
  have hi : i < 16 := List.mem_range.1 hi
  simp only
  split
  · exact (TraceOnly.wTile g x _ _ ⟨by simp only; omega, by simp only; omega⟩).trans
      (TraceOnly.wTile g _ _ _ ⟨by simp only; omega, by simp only; omega⟩)
  · exact TraceOnly.refl g x

theorem cnt_trace (s : State) (g ev n : Nat) : TraceOnly g s (s.cnt g ev n) := cntAdd_trace _ _ _ _ _ _

theorem setHem_trace (s : State) (g : Nat) (h : Hem) : TraceOnly g s (s.setHem g h) := by
  unfold State.setHem State.modTile
  have a : TraceOnly g s (s.setTile g { s.tile g with hem := h }) := TraceOnly.setTile g s _ rfl
  exact .ite a (a.trans (TraceOnly.wbTile g _ F.TRC_HEM_STAT_OVERFLOW _ (by decide)))

theorem hemSettle_trace (s : State) (g from_ : Nat) : TraceOnly g s (s.hemSettle g from_) := by
  unfold State.hemSettle
  exact .ite (.refl g s) (setHem_trace _ _ _)

theorem hemRaw_trace (s : State) (g : Nat) (k : HemKind) (tape payload : Nat) (also : Bool) : TraceOnly g s (s.hemRaw g k tape payload also) := by
  unfold State.hemRaw
  refine (hemSettle_trace s g 0).trans ?_
  exact .ite (.refl _ _) (.ite (setHem_trace _ _ _) (.ite (setHem_trace _ _ _) (setHem_trace _ _ _)))

theorem hemDue_trace (s : State) (g : Nat) : TraceOnly g s (s.hemDue g) := by
  unfold State.hemDue
  exact .ite (.refl _ _) (setHem_trace _ _ _)

theorem hemPut_trace (s : State) (g : Nat) (k : HemKind) (tape payload : Nat) : TraceOnly g s (s.hemPut g k tape payload) :=
  (hemRaw_trace s g k tape payload false).trans (hemDue_trace _ _)

theorem hemFreeze_trace (s : State) (g : Nat) : TraceOnly g s (s.hemFreeze g) := by
  unfold State.hemFreeze
  simp only
  split
  · split
    · exact TraceOnly.setTile g s _ rfl
    · exact TraceOnly.setTile g s _ rfl
  · exact TraceOnly.refl g s

/-- A flit of a cross-trigger's frame sent out of a port. -/
theorem enqueue_trace (g : Nat) (s : State) (f prec : Nat) (fl : Flit) (h : XtrigFlit fl) : TraceOnly g s (s.enqueue f prec fl) := by
  unfold State.enqueue
  refine .ite (.refl g s) ?_
  refine TraceOnly.setFport g s f [_] fun w hw => ?_
  rw [List.mem_singleton.1 hw]; exact h

theorem broadcast_trace (s : State) (g : Nat) (p : List (BitVec 8)) : TraceOnly g s (s.broadcast 0x04 p) := by
  unfold State.broadcast
  apply TraceOnly.fold
  intro x f _
  unfold State.frameTo
  apply TraceOnly.fold
  intro y fl hf
  exact enqueue_trace g y f _ fl ⟨_, _, hf⟩

theorem xmod_trace (s : State) (g tx id : Nat) : TraceOnly g s (s.xmod tx id) := by
  unfold State.xmod
  exact ((TraceOnly.wTrc g s F.TRC_XTRIG_STAT_LAST_ID id (by decide)).trans
    ((TraceOnly.wTrc g _ F.TRC_XTRIG_TAPE_LO_TAPE tx (by decide)).trans
      (TraceOnly.wTrc g _ F.TRC_XTRIG_TAPE_HI_TAPE (tx / 2 ^ 32) (by decide)))).trans (TraceOnly.setTrace g _ _ _)

theorem stopReq_trace (s : State) (g t : Nat) (late : Bool) : TraceOnly g s (s.stopReq t late) := by
  unfold State.stopReq
  split
  · refine TraceOnly.trans (TraceOnly.trans ((TraceOnly.wTrc g s F.TRC_STOP_STATUS_STATE 1 (by decide)).trans
      (TraceOnly.wbTrc g _ F.TRC_STOP_STATUS_TRIGGERED true (by decide))) ?_) (TraceOnly.setTrace g _ _ _)
    split
    · exact TraceOnly.wbTrc g _ F.TRC_STOP_STATUS_LATE true (by decide)
    · exact TraceOnly.refl g _
  · exact TraceOnly.refl g s

theorem fireFreeze_trace (s : State) (g : Nat) (es : List TEv) (tape : Nat) : TraceOnly g s (s.fireFreeze g es tape) := by
  unfold State.fireFreeze
  split
  · refine .ite (.refl _ _) (.ite ?_ (.setTile g _ _ rfl))
    refine TraceOnly.trans ?_ (TraceOnly.wbTile g _ F.TRC_HEM_STAT_XLATE true (by decide))
    exact TraceOnly.setTile g _ _ rfl
  · exact hemFreeze_trace _ _

theorem fire_trace (s : State) (g : Nat) (us : List Nat) (hu : ∀ u ∈ us, u < 4) (es : List TEv) (tape : Nat) :
    TraceOnly g s (s.fire g us es tape) := by
  unfold State.fire
  refine .iteStep (.iteStep (.iteStep (.trans (.trans (.iteStep (.fold g _ us s ?_) (fireFreeze_trace _ _ _ _)) (hemDue_trace _ _))
    (TraceOnly.setTile g _ _ rfl)) (broadcast_trace _ _ _)) (xmod_trace _ _ _ _)) (stopReq_trace _ _ _ _)
  intro x u h
  have := hu u h
  exact (TraceOnly.wbTile g x (F.TRC_TRIG_CFG_FIRED u) true ⟨by dsimp only; omega, by dsimp only; omega⟩).trans (hemRaw_trace _ _ _ _ _ _)

theorem trigger_trace (s : State) (g : Nat) (es : List TEv) (tape : Nat) : TraceOnly g s (s.trigger g es tape) := by
  unfold State.trigger
  exact .ite (.refl g s) (fire_trace s g _ (fun u h => List.mem_range.1 (List.mem_filter.1 h).1) es tape)

theorem trigCounts_trace (s : State) (g e n : Nat) : TraceOnly g s (s.trigCounts g e n) := by
  unfold State.trigCounts
  apply TraceOnly.fold
  intro x u _
  exact .ite (trigger_trace _ _ _ _) (.refl _ _)

theorem ev_trace (s : State) (g e n : Nat) : TraceOnly g s (s.ev g e n) := by
  unfold State.ev
  split
  · exact TraceOnly.refl g s
  · exact (cnt_trace _ _ _ _).trans (trigCounts_trace _ _ _ _)

theorem evSpan_trace (s : State) (g e n layer op : Nat) : TraceOnly g s (s.evSpan g e n layer op) := by
  unfold State.evSpan
  split
  · exact TraceOnly.refl g s
  · exact (cntAdd_trace _ _ _ _ _ _).trans (trigCounts_trace _ _ _ _)

theorem engSettle_trace (s : State) (g : Nat) (e : Eng) (n : Nat) : TraceOnly g s (s.engSettle g e n) := by
  unfold State.engSettle
  simp only
  split
  · exact .ite (evSpan_trace _ _ _ _ _ _) (.refl _ _)
  · exact TraceOnly.refl g s

theorem evIds_trace (s : State) (g e n layer op : Nat) : TraceOnly g s (s.evIds g e n layer op) := by
  unfold State.evIds
  split
  · exact TraceOnly.refl g s
  · exact (cntAdd_trace _ _ _ _ _ _).trans (trigCounts_trace _ _ _ _)

theorem clkSettle_trace (s : State) (g : Nat) : TraceOnly g s (s.clkSettle g) := by
  unfold State.clkSettle State.modTile
  refine TraceOnly.trans ?_ (TraceOnly.setTile g _ _ rfl)
  have a : TraceOnly g s ((((s.evSpan g 0x01 (s.spanFrom g 0) (s.r (.tile g) F.TRC_IDS_LAYER) (s.r (.tile g) F.TRC_IDS_OPERATOR)).engSettle g .array 0x05).engSettle g
      .vector 0x06).engSettle g .shuttle 0x07) :=
    (((evSpan_trace _ _ _ _ _ _).trans (engSettle_trace _ _ _ _)).trans (engSettle_trace _ _ _ _)).trans (engSettle_trace _ _ _ _)
  exact .ite (.ite a (a.trans (evSpan_trace _ _ _ _ _ _))) ((TraceOnly.ite a (a.trans (evSpan_trace _ _ _ _ _ _))).trans (ev_trace _ _ _ _))

theorem hemResume_trace (s : State) (g : Nat) : TraceOnly g s (s.hemResume g) := by
  unfold State.hemResume State.modTile
  split
  · exact TraceOnly.refl g s
  · refine TraceOnly.trans (TraceOnly.trans ?_ (hemSettle_trace _ g _)) (setHem_trace _ _ _)
    exact TraceOnly.setTile g s _ rfl

end Sys2Proof.Machine
end

