-- ==== Sys2Proof/Laws/Issue.lean ====
section
/-! SUPPORT. The shared operations of a tile's queue: a descriptor handed on, the issue of the head, completion. -/
namespace Sys2Proof.Machine

/-- Handing a descriptor on changes the queue, the issue count and CQ_ISSUED, and the tracing of the site; it answers the issue's number. -/
theorem pop_trace (x : State) (g : Nat) (d : BitVec 512) :
    (x.pop g d).1 = (x.tile g).nextUid ∧ TraceOnly g (x.handOn g d) (x.pop g d).2 := by
  have h1 : TraceOnly g x (x.clkSettle g) := clkSettle_trace x g
  unfold State.pop
  dsimp only
  generalize x.clkSettle g = y at h1 ⊢
  have hn : (y.tile g).untraced.nextUid = (x.tile g).untraced.nextUid := congrArg Tile.nextUid h1.tile
  refine ⟨hn, ?_⟩
  have hh : x.handOn g d = (x.modTile g fun t => { t with queue := t.queue.tail, nextUid := t.nextUid + 1, headAt := x.tape }).w (.tile g)
      F.CQ_ISSUED_SEQ (seqOf d) := rfl
  have h2 : TraceOnly g (x.handOn g d) ((y.modTile g fun t => { t with queue := t.queue.tail, nextUid := t.nextUid + 1, headAt := y.tape }).w
      (.tile g) F.CQ_ISSUED_SEQ (seqOf d)) := by
    rw [hh, h1.tape]
    refine TraceOnly.wBoth (h1.modTileBoth _ ?_) _ _ _ ?_
    · intro a b e
      have q : a.untraced.queue = b.untraced.queue := congrArg Tile.queue e
      have n : a.untraced.nextUid = b.untraced.nextUid := congrArg Tile.nextUid e
      show ({ a.untraced with queue := a.untraced.queue.tail, nextUid := a.untraced.nextUid + 1, headAt := x.tape } : Tile)
        = { b.untraced with queue := b.untraced.queue.tail, nextUid := b.untraced.nextUid + 1, headAt := x.tape }
      rw [e]
    · have e : (F.CQ_ISSUED_SEQ).off < 0x400 := by decide
      have l : 0x2000000 ≤ (Blk.tile g).base := by simp only [Blk.base]; omega
      simp only [traceWord, Bool.or_eq_false_iff, decide_eq_false_iff_not]
      omega
  refine h2.trans ?_
  generalize (y.modTile g fun t => { t with queue := t.queue.tail, nextUid := t.nextUid + 1, headAt := y.tape }).w
      (.tile g) F.CQ_ISSUED_SEQ (seqOf d) = z
  refine TraceOnly.trans ?_ (trigger_trace _ _ _ _)
  exact .iteStep (.trans (.trans (.wTile g _ F.TRC_IDS_LAYER _ (by decide)) (.wTile g _ F.TRC_IDS_OPERATOR _ (by decide))) (ev_trace _ _ _ _))
    (hemPut_trace _ _ _ _ _)

/-- A head that may be handed on and whose check passes is handed on and does what its kind does then. -/
theorem issue_head (s : State) (g : Nat) (kind : BitVec 512 → Bool) (chk : State → BitVec 512 → Check × State)
    (go : State → Nat → BitVec 512 → State) (d : BitVec 512) (x y : State) (h : s.head g kind = some (d, x)) (hc : chk x d = (.ok, y)) :
    s.issue g kind chk go = go (y.pop g d).2 (y.pop g d).1 d := by
  unfold State.head at h
  unfold State.issue
  split at h
  · cases h
  · rename_i d0 rest hq
    try rw [hq]
    dsimp only
    split at h
    · rename_i hk
      simp only [Bool.and_eq_true] at hk
      rw [if_neg (by simp [hk.1, hk.2])]
      split at h
      · rename_i e x' hr
        rw [hr]
        dsimp only
        split at h
        · cases h
        · rename_i hf
          injection h with h
          injection h with h1 h2
          subst h1 h2
          rw [if_neg (by simpa using hf), hc]
      · cases h
    · cases h

/-- A command that completes is done, with the tape of its completion, and nothing else changes but the tracing of its site (R73). -/
theorem complete_trace (s : State) (g uid : Nat) (h : ((s.tile g).flightOf uid).isSome) :
    TraceOnly g (s.modFlight g uid fun f => { f with phase := .done, due := s.tape }) (s.complete g uid) := by
  unfold State.complete
  split
  · rename_i e; rw [e] at h; cases h
  · have h1 : TraceOnly g s (s.clkSettle g) := clkSettle_trace s g
    generalize s.clkSettle g = y at h1 ⊢
    have h2 : TraceOnly g (s.modFlight g uid fun f => { f with phase := .done, due := s.tape })
        (y.modFlight g uid fun f => { f with phase := .done, due := s.tape }) := by
      refine h1.modTileBoth _ fun a b e => ?_
      show ({ a.untraced with flight := a.untraced.flight.map fun x => if x.uid = uid then { x with phase := .done, due := s.tape } else x } : Tile)
        = { b.untraced with flight := b.untraced.flight.map fun x => if x.uid = uid then { x with phase := .done, due := s.tape } else x }
      rw [e]
    exact .iteStep h2 (hemPut_trace _ _ _ _ _)

end Sys2Proof.Machine
end

