-- ==== Sys2Proof/Laws/Mem.lean ====
section
/-! SUPPORT. Memory: a byte reads as it was last written, and every memory operation keeps the canonical form. -/
namespace Sys2Proof.Machine

/-! ### Reading after writing -/

theorem Mem.read_write (m : Mem) (a b : Nat) (v : BitVec 8) : (m.write a v).read b = if b = a then v else m.read b := by
  by_cases h : v = Mem.unlisted
  · simp [Mem.write, Mem.read, h, SMap.get_erase]
  · simp [Mem.write, Mem.read, h, SMap.get_set]

@[simp] theorem Mem.read_write_same (m : Mem) (a : Nat) (v : BitVec 8) : (m.write a v).read a = v := by simp [Mem.read_write]

theorem Mem.read_writeN_ne (m : Mem) (a b : Nat) (l : List (BitVec 8)) (h : b < a ∨ a + l.length ≤ b) :
    (m.writeN a l).read b = m.read b := by
  induction l generalizing m a with
  | nil => rfl
  | cons v l ih =>
    simp only [List.length_cons] at h
    have hb : b ≠ a := by omega
    simp only [Mem.writeN]
    rw [ih (m.write a v) (a + 1) (by omega), Mem.read_write, if_neg hb]

theorem Mem.read_writeN (m : Mem) (a i : Nat) (l : List (BitVec 8)) (h : i < l.length) :
    (m.writeN a l).read (a + i) = l[i] := by
  induction l generalizing m a i with
  | nil => simp at h
  | cons v l ih =>
    cases i with
    | zero => simp only [Mem.writeN, Nat.add_zero, List.getElem_cons_zero]; rw [Mem.read_writeN_ne _ _ _ _ (by omega)]; simp
    | succ i =>
      have e : a + (i + 1) = a + 1 + i := by omega
      simp only [Mem.writeN, List.getElem_cons_succ]
      rw [e, ih]

@[simp] theorem leBytes_length (n v : Nat) : (leBytes n v).length = n := by
  induction n generalizing v with
  | zero => rfl
  | succ n ih => simp [leBytes, ih]

@[simp] theorem Mem.readN_length (m : Mem) (a n : Nat) : (m.readN a n).length = n := by
  induction n generalizing a with
  | zero => rfl
  | succ n ih => simp [Mem.readN, ih]

/-- The little-endian bytes of a number give it back, cut to their count. -/
theorem leNat_leBytes (n v : Nat) : leNat (leBytes n v) = v % 256 ^ n := by
  induction n generalizing v with
  | zero => simp [leBytes, leNat, Nat.mod_one]
  | succ n ih =>
    simp only [leBytes, leNat, ih, BitVec.toNat_ofNat]
    rw [Nat.pow_succ 256 n, Nat.mul_comm (256 ^ n) 256, Nat.mod_mul]

/-! ### The canonical form -/

theorem mem_set {m : SMap (BitVec 8)} {k : Nat} {v : BitVec 8} {c : Nat × BitVec 8} (h : c ∈ SMap.set m k v) : c = (k, v) ∨ c ∈ m := by
  induction m with
  | nil => simp only [SMap.set, List.mem_singleton] at h; exact .inl h
  | cons e m ih =>
    obtain ⟨k', v'⟩ := e
    simp only [SMap.set] at h
    split at h
    · rcases List.mem_cons.1 h with h | h
      · exact .inl h
      · exact .inr (List.mem_cons_of_mem _ h)
    · split at h
      · rcases List.mem_cons.1 h with h | h
        · exact .inl h
        · exact .inr h
      · rcases List.mem_cons.1 h with h | h
        · exact .inr (h ▸ List.mem_cons_self)
        · rcases ih h with h | h
          · exact .inl h
          · exact .inr (List.mem_cons_of_mem _ h)

theorem set_rising {m : SMap (BitVec 8)} (k : Nat) (v : BitVec 8) (h : m.Pairwise fun x y => x.1 < y.1) :
    (SMap.set m k v).Pairwise fun x y => x.1 < y.1 := by
  induction m with
  | nil => simp [SMap.set]
  | cons e m ih =>
    obtain ⟨k', v'⟩ := e
    have h1 := List.pairwise_cons.1 h
    simp only [SMap.set]
    split
    · rename_i e; subst e
      exact List.pairwise_cons.2 ⟨h1.1, h1.2⟩
    · split
      · rename_i hlt
        refine List.pairwise_cons.2 ⟨?_, h⟩
        intro y hy
        rcases List.mem_cons.1 hy with hy | hy
        · subst hy; exact hlt
        · exact Nat.lt_trans hlt (h1.1 y hy)
      · refine List.pairwise_cons.2 ⟨?_, ih h1.2⟩
        intro y hy
        rcases mem_set hy with hy | hy
        · subst hy; show k' < k; omega
        · exact h1.1 y hy

theorem Mem.wf_nil : Mem.wf [] := ⟨List.Pairwise.nil, by simp⟩

/-- Taking entries out keeps the form. -/
theorem Mem.wf_filter {m : Mem} (p : Host.Cell → Bool) (h : m.wf) : Mem.wf (m.filter p) :=
  ⟨h.1.filter p, fun c hc => h.2 c (List.mem_filter.1 hc).1⟩

theorem Mem.wf_write {m : Mem} (a : Nat) (v : BitVec 8) (h : m.wf) : (m.write a v).wf := by
  unfold Mem.write
  split
  · exact Mem.wf_filter _ h
  · rename_i hv
    refine ⟨set_rising a v h.1, fun c hc => ?_⟩
    rcases mem_set hc with hc | hc
    · subst hc; exact hv
    · exact h.2 c hc

theorem Mem.wf_writeN {m : Mem} (a : Nat) (l : List (BitVec 8)) (h : m.wf) : (m.writeN a l).wf := by
  induction l generalizing m a with
  | nil => exact h
  | cons v l ih => exact ih (a + 1) (Mem.wf_write a v h)

theorem Mem.wf_writeLE {m : Mem} (a n v : Nat) (h : m.wf) : (m.writeLE a n v).wf := Mem.wf_writeN _ _ h

theorem Mem.wf_clear {m : Mem} (a n : Nat) (h : m.wf) : (m.clear a n).wf := Mem.wf_filter _ h

theorem Mem.wf_copy {m : Mem} (src dst n : Nat) (h : m.wf) : (m.copy src dst n).wf := by
  unfold Mem.copy
  suffices H : ∀ (l : List Host.Cell) (x : Mem), x.wf → (l.foldl (fun acc c => acc.write (dst + (c.1 - src)) c.2) x).wf from
    H _ _ (Mem.wf_clear _ _ h)
  intro l
  induction l with
  | nil => exact fun _ h => h
  | cons c l ih => exact fun x hx => ih _ (Mem.wf_write _ _ hx)

end Sys2Proof.Machine
end

