-- ==== Sys2Proof/Tests/Slice0.lean ====
section
/-! SUPPORT. The model's own tests: ill-formed commands, words of the core, and for every clause of a statement a state that meets its
hypotheses. -/
namespace Sys2Proof.Tests
open Sys2Proof Sys2Proof.Machine
set_option Elab.async false

/-! ### Small states -/

def t0 : Site := ⟨0, 0⟩
/-- ACLK at 2,000 MHz: a TCLK cycle is one tape cycle. -/
def clocked : State := State.reset.w .id F.ID_W2_ACLK_SET 2000
def tl (t : Tile) : State := clocked.setTile 0 t
/-- A running core with one instruction at address 0. -/
def core (i : CoreInstr) : State := { tl { Tile.reset with run := true, code := [(0, 0x10000)] } with mem := Mem.writeLE [] (iramAt 0 0) 4 (encodeCore i).toNat }
/-- The same with one register set. -/
def coreG (i : CoreInstr) (r : BitVec 5) (v : BitVec 64) : State := (core i).modTile 0 fun t => t.setG r v
/-- A tile with one descriptor in its queue. -/
def qd (d : Nat) : State := tl { Tile.reset with queue := [BitVec.ofNat 512 d] }
/-- A tile with one command in flight. -/
def fl (d : Nat) (ph : Phase) (due : Nat) (q : List (BitVec 512)) : State :=
  tl { Tile.reset with flight := [⟨0, BitVec.ofNat 512 d, ph, 0, due, 0, 0, 0, 0, []⟩], nextUid := 1, queue := q }

/-- Logical tile 0 of stack 0 at site 0. -/
def mapped (s : State) : State := (s.wb (.stk 0) (F.STK_LMAP_VALID 0) true).w (.stk 0) (F.STK_SMAP_LTILE 0) 0
def qmap (d : Nat) : State := mapped (qd d)
/-- A pattern of one stack with four tacks, and bolt 0 running it. -/
def pat0 : Pattern :=
  { stkMask := 1, fabric := false, thermal := 0, reserve := 0, tacks := 4, maxInt := 1000, tackLat := 10, slipLen := 5, coord := 0, dims := 0,
    aclk := 2000, tiles := [(0, 0, 0)], ranges := [], ports := 0, edgeBw := [], needle := [], seamBw := [], rings := [],
    scheds := [⟨[], 0, [(100, 0), (200, 0), (300, 0), (400, 0)]⟩], parent := 0xFF, children := 0, retag := [] }
def runs (s : State) : State :=
  (((mapped s).w (.bolt 0) F.BOLT_STACKS_STACKS 1).w (.bolt 0) F.PAT_STATUS_STATE 4).setBolt 0 { Bolt.reset with pat := some pat0, t0 := some 0 }
/-- The same with no tile present. -/
def runs0 (s : State) : State :=
  ((s.w (.bolt 0) F.BOLT_STACKS_STACKS 1).w (.bolt 0) F.PAT_STATUS_STATE 4).setBolt 0 { Bolt.reset with pat := some pat0, t0 := some 0 }
def qrun (d : Nat) : State := runs (qd d)

/-- A command in flight with a phase, its progress, its captured bytes and its own number. -/
def flw (d : BitVec 512) (ph : Phase) (prog : Nat) (cap : List (BitVec 8)) (aux : Nat) : State :=
  tl { Tile.reset with flight := [⟨0, d, ph, 0, 0, prog, 0, 0, aux, cap⟩], nextUid := 1 }
/-- SEND of 64 bytes from bobbin offset 0 of logical tile 0 to itself. -/
def SND : BitVec 512 := 7 + 0x200000000000 * 2 ^ 128 + 64 * 2 ^ 192

/-- A copy of 128 bytes and a gather of one 64-byte row within the tile's bobbin. -/
def CPY : BitVec 512 := 6 + 0x200000000100 * 2 ^ 128 + 0x200000001000 * 2 ^ 192 + 128 * 2 ^ 256
def GTH : BitVec 512 := 6 + 2 ^ 64 + 0x200000000100 * 2 ^ 128 + 0x200000001000 * 2 ^ 192 + 64 * 2 ^ 256 + 2 ^ 288
/-- A tile whose channel 0 has read its command's descriptor. -/
def chanS (d : BitVec 512) : State := ((mapped (flw d .running 0 [] 0)).chanRead 0 ⟨0, d, .running, 0, 0, 0, 0, 0, 0, []⟩).2
/-- A walk over one swatch whose list and table stand in edge stack 0. -/
def WLK : BitVec 512 := 6 + 2 ^ 65 + 0x8000000 * 2 ^ 128 + 64 * 2 ^ 288 + 2 ^ 344 + 3 * 2 ^ 352
def walkS : State :=
  let s : State := mapped (flw WLK .running 0 [] 0)
  let s : State := { s with mem := (s.mem.writeLE 0x1704000028 8 1).writeLE 0x8000000 4 0x80000005 }
  ((s.w (.stk 0) (F.SWT_SEG_COUNT_COUNT 0) 16).w (.stk 0) (F.SWT_SEG_BASE_BASE 0) 0x100).w (.stk 0) F.SWT_TABLE_BASE_LO_ADDR 1
def walkF : Flight := ⟨0, WLK, .running, 0, 0, 0, 0, 0, 0, []⟩
def walkY : State := (walkS.chanRead 0 walkF).2
/-- A message for channel 0 of site 0, whose RECV of 64 bytes is posted. -/
def msg3 : MeshMsg := ⟨3, 0, 160, 0, 0, 0, List.replicate 64 1, true⟩
def recvS : State :=
  { (flw 8 .running 0 [] 0).modTile 0 fun t => { t with recvs := [(0, some ⟨0, 0x40, 64, 0⟩)] } with mesh := [msg3] }

/-- A bolt of stack 0 with an admitted pattern, RESTORE applied and an image part of no tile at DPA 0. -/
def restS : State :=
  let s : State := ((clocked.w (.bolt 0) F.BOLT_STACKS_STACKS 1).w (.bolt 0) F.PAT_STATUS_STATE 2).wb (.stk 0) F.CTX_CTRL_RESTORE true
  { s.setBolt 0 { Bolt.reset with pat := some { pat0 with tiles := [] } } with mem := Mem.writeLE [] 0 8 0x151544358 }
/-- A loading bolt of stack 0 whose image at DPA 0 has no tiles and one tack: claims, tile programs and one schedule. -/
def imgB : List (BitVec 8) :=
  leBytes 8 (0x51544150 + 2 ^ 32 + 3 * 2 ^ 48) ++ leBytes 8 (0x230 + 28) ++ leBytes 8 (1 + 2 * 2 ^ 24 + 2 * 2 ^ 32 + 2 ^ 40) ++ leBytes 8 (1 + 10000000 * 2 ^ 32)
    ++ leBytes 8 (1000 + 5 * 2 ^ 32) ++ leBytes 8 (2000 * 2 ^ 48) ++ List.replicate 0xD0 0
    ++ leBytes 16 (1 + 0x100 * 2 ^ 32 + 0x130 * 2 ^ 64) ++ leBytes 16 (2 + 0x230 * 2 ^ 64) ++ leBytes 16 (6 + 28 * 2 ^ 32 + 0x230 * 2 ^ 64)
    ++ List.replicate 0x100 0 ++ leBytes 16 0 ++ leBytes 12 2000
def admitS : State :=
  let s : State := ((clocked.w (.bolt 0) F.BOLT_STACKS_STACKS 1).w (.bolt 0) F.PAT_STATUS_STATE 1).w4 0 (F.HST_BOLT_OWNER 0) 1
  { s with mem := Mem.writeN [] 0 imgB }
/-- Port 0 up. -/
def upS : State := clocked.setHport 0 { HostPort.reset with linkUp := true }
/-- The same with a halted core at a HALT. -/
def upCore : State := { upS with mem := Mem.writeLE [] (iramAt 0 0) 4 (encodeCore .halt).toNat }.modTile 0 fun x => { x with code := [(0, 0x10000)] }
/-- Step 8 of bring-up over and edge stack 0 trained. -/
def bar2S : State := { (upS.wb (.edge 0) F.EDGE_STATUS_TRAINED true) with hkc := { upS.hkc with memtested := true } }
/-- The same with every seam down and edge stack 9, of another base die, trained. -/
def cutS : State := (List.range 4).foldl (fun s n => s.w .rst (F.SEAM_STATUS_WIDTH n) 0) (bar2S.wb (.edge 9) F.EDGE_STATUS_TRAINED true)
/-- Ring 0 of unit 0 of edge stack 0 at offset 0 with one descriptor of two slots. -/
def ring (d : Nat) : State :=
  let s : State := ((clocked.wb (.nbu 0) (F.NBU_RING_CFG_EN 0) true).w (.nbu 0) (F.NBU_RING_CFG_SLOTS_M1 0) 1).w (.nbu 0) (F.NBU_RING_PTR_PROD 0) 1
  { s with mem := Mem.writeN [] 64 (leBytes 64 d) }
/-- The same on unit 1, whose ring belongs to bolt 0 with a prefix tree in edge stack 0. -/
def hashRing (d : Nat) : State :=
  let s : State := ((clocked.wb (.nbu 1) (F.NBU_RING_CFG_EN 0) true).w (.nbu 1) (F.NBU_RING_CFG_SLOTS_M1 0) 1).w (.nbu 1) (F.NBU_RING_PTR_PROD 0) 1
  let s : State := ((s.w (.bolt 0) F.BOLT_STACKS_STACKS 1).wb (.stk 0) F.SWT_CFG_EN true).wb (.stk 0) F.SWT_CFG_MODE true
  { s with mem := Mem.writeN [] 64 (leBytes 64 d) }
/-- The ring's descriptor on swatch 0 with an entry, and a descriptor on node 1 with its value; what a unit has taken. -/
def tableS (d v : Nat) : State := let s : State := ring d; { s with mem := s.mem.writeLE s.tableBase 8 v }
def nodeS (d v : Nat) : State := let s : State := hashRing d; { s with mem := s.mem.writeLE (s.treeBase (.stk 0) + 8) 8 v }
def takenOf (s : State) (k n : Nat) : State := (s.nbuTaken k 0 n).elim clocked (·.2)
/-- A TAKE in ring 0 of unit 0, for bolt 0 of stack 0 with one free swatch in edge stack 0. -/
def takeS : State := (((ring 10).w (.bolt 0) F.BOLT_STACKS_STACKS 1).w (.stk 0) (F.SWT_SEG_COUNT_COUNT 0) 1).wb (.stk 0) (F.SWT_SEG_FREE_EMPTY 0) false
/-- An INSERT of key 0 in ring 0 of unit 1, its bucket holding that key. -/
def fullS : State := let s : State := hashRing (8 + 2 ^ 16); { s with mem := s.mem.writeLE (s.treeBase (.stk 0)) 8 (2 ^ 45) }
/-- A FILL of one line at offset 8,192 of edge stack 0, and a request of site 0 to that line which waits for it. -/
def claimS (off kind : Nat) : State :=
  (ring (3 + 0x2000 * 2 ^ 128 + 64 * 2 ^ 192)).modTile 0 fun x => { x with waited := [⟨none, off, kind, 0, [(0, 0, 1)]⟩] }
def TIok : TrainInfo := ⟨15, 15, 0, 0, 0, 1, 1, 1, 3, 100, 5⟩
def FL1 : Flit := ⟨1, 0, 0, false, 0, 0, 0, false, 0, 0, true, 0, 0, 0, 0, List.replicate 240 0⟩
/-- Port 0 up at four lanes, claimed by bolt 0, whose pattern runs. -/
def fabRun (s : State) : State :=
  let s : State := ((runs s).modBolt 0 fun x => { x with pat := some { pat0 with ports := 1 } }).modFport 0 fun p => { p with both := 15 }
  (s.w (.fab 0) F.FAB_PORT_STATUS_STATE 7).w (.fab 0) F.FAB_PORT_STATUS_WIDTH 4
/-- The module at (1, 0, 0) of two, its port toward the root up. -/
def childS (s : State) : State :=
  ((s.w (.fab 0) F.FAB_COORD_X 1).w (.fab 0) F.FAB_COORD_DX_M1 1).w (.fab 0) F.FAB_PORT_STATUS_STATE 7
/-- Port 0 up and claimed in a fabric of two modules. -/
def twoS : State := (fabRun clocked).w (.fab 0) F.FAB_COORD_DX_M1 1
/-- A flit in the port's first slot. -/
def slotS : State := (fabRun clocked).modFport 0 fun p => { p with slots := [(0, ⟨FL1, true, 0, 0, 0, false⟩)] }
/-- Queue pair 0 of port 0 with one entry waiting, in rings of four. -/
def hostQ (_ : Nat) : State :=
  let s : State := ((upS.w4 0 (F.HST_Q_CTRL_EN 0) 1).w4 0 (F.HST_Q_CFG_SQ_SIZE_M1 0) 3).w4 0 (F.HST_Q_CFG_CQ_SIZE_M1 0) 3
  (s.setHport 0 { HostPort.reset with linkUp := true, busMaster := true }).setQp 0 0 { QPair.reset with sqTail := 1 }
/-- The same with a data move of which 64 bytes have gone. -/
def midQ (d : Nat) : State := (hostQ 0).setQp 0 0 { QPair.reset with sqHead := 1, sqTail := 1, moving := [(BitVec.ofNat 512 d, 64, 1)] }
/-- PCIe options: requests of 256 bytes. -/
def CFG0 : PcieConfig := ⟨1, 1, false, true, true, false, 0, 0, 0⟩
/-- Bring-up in a step, the HKC's image running. -/
def stepS (n : Nat) : State :=
  { clocked.w .mbx F.MBX_STATUS_STEP n with hkc := { clocked.hkc with powered := true, imageRuns := true }, pins := { clocked.pins with v48 := true, low := [] } }
/-- The boot ROM runs, and no image. -/
def romS : State := { stepS 0 with hkc := { (stepS 0).hkc with imageRuns := false } }
/-! ### Ill-formed commands are refused (one per check of WellFormed) -/

/-- Ill-formed commands: one for each check that `Instr.wf` makes. -/
def illFormed : List Instr :=
  [.privateRead t0 1, .privateRead t0 sliceBytes, .privateWrite t0 1 (List.replicate 64 0), .privateWrite t0 sliceBytes (List.replicate 64 0),
   .privateWrite t0 0 [], .edgeLineRequest 0 1 none none, .edgeLineRequest 0 edgeBytes none none, .edgeLineRequest 0 0 (some []) none,
   .needleRead 0 8 none, .needleRead 0 edgeBytes none, .bar2Read .p0 0 4097, .bar2Read .p0 0x1FFFFFFFFFF 2,
   .bar2Write .p0 0 (List.replicate 513 0) .good, .bar2Write .p0 0x1FFFFFFFFFF [0, 0] .good] ++
  [.scrubRead (.slice t0 1), .scrubRead (.slice t0 sliceAll), .scrubRead (.edge 0 1),
   .scrubRead (.edge 0 edgeBytes), .claimedLineRead 0 1, .claimedLineRead 0 edgeBytes, .claimedLineWrite 0 1 (List.replicate 64 0),
   .claimedLineWrite 0 edgeBytes (List.replicate 64 0), .claimedLineWrite 0 0 [], .flitReceive 0 [] 0 [] [], .seamFlitReceive 0 0 [] [],
   .fwSegment ⟨true, 0, 0, 0, (0, 0, 0), 0, 0⟩ 2 0 0 [], .hostToDevice .p0 0 0 [0] true, .mbxReservedCmd .p0 0x01, .rwtLoneWrite .p0 2 0,
   .txnStageWrite .p0 2 0]
theorem test_ill_formed_refused : illFormed.all (fun i => !i.wf) = true := by decide +kernel
theorem test_ill_formed_runs : (match exec (.rwtLoneWrite .p0 2 0) .reset with
    | .next _ => true
    | _ => false) = true := by decide +kernel

/-! ### Words of the core, written out from Tables 3.3 and 3.4 -/

theorem test_word_add : decodeCore 0b000000_00011_00001_00010_00000000000 = some (.alu .add 3 1 2) := by decide +kernel
theorem test_word_fn_unlisted : decodeCore 0b000000_00011_00001_00010_00000001100 = none := by decide +kernel
theorem test_word_addi : decodeCore 0b000001_00101_00100_1111111111111111 = some (.imm .addi 5 4 0xFFFF) := by decide +kernel
theorem test_word_shi_unused : decodeCore 0b000101_00101_00100_0000000010000000 = none := by decide +kernel
theorem test_word_beq : decodeCore 0b010000_00001_00010_0000000000000100 = some (.branch .eq 1 2 4) := by decide +kernel
theorem test_word_op_unlisted : decodeCore 0b000111_00000_00000_0000000000000000 = none := by decide +kernel

/-! ### A few values -/

/-- The check value of CRC-32C over the characters 1 to 9. -/
theorem test_crc32c : crc32c 0 [0x31, 0x32, 0x33, 0x34, 0x35, 0x36, 0x37, 0x38, 0x39] = 0xE3069283 := by decide +kernel
/-- ADD of g1 to itself wraps modulo 2^64 (Table 3.4). -/
theorem test_add_wraps : (match exec (.add t0 3 1 1) (coreG (.alu .add 3 1 1) 1 0x8000000000000001) with
    | .next s => ((s.tile 0).g.get 0 3, (s.tile 0).pc)
    | _ => (0, 0)) = (2, 4) := by decide +kernel

/-! ### The check of a segment of zeros -/

/-- The register of CRC-32C after `n` zero bytes. -/
def zr (r n : Nat) : Nat := (List.replicate n (0 : BitVec 8)).foldl (crcByteR 0x82F63B78) r
theorem zr_add (r a b : Nat) : zr r (a + b) = zr (zr r a) b := by
  unfold zr; rw [← List.replicate_append_replicate, List.foldl_append]
/-- The register's values after every further `k` zero bytes. -/
def zrChain (k : Nat) : Nat → List Nat → Bool
  | _, [] => true
  | r, v :: l => zr r k == v && zrChain k v l
theorem zr_of_chain (k : Nat) : ∀ (l : List Nat) (r : Nat), zrChain k r l = true → zr r (k * l.length) = (r :: l).getLast (by simp)
  | [], r, _ => by simp [zr]
  | v :: l, r, h => by
    simp only [zrChain, Bool.and_eq_true, beq_iff_eq] at h
    rw [List.length_cons, Nat.mul_add, Nat.mul_one, Nat.add_comm, zr_add, h.1, zr_of_chain k l v h.2]
    simp
theorem crc_replicate (n : Nat) : crc32c 0 (List.replicate n 0) = Nat.xor (zr 0xFFFFFFFF n) 0xFFFFFFFF := rfl
theorem zr_4096 : zr 0xFFFFFFFF (128 * 32) = 1728495222 :=
  zr_of_chain 128 [4158167844, 1200442991, 1158271177, 3473084991, 534250289, 3318006521, 225952960, 290529667, 2823063697, 1921003501,  1799837726, 175100626, 4225181274, 1540069788, 1357258748, 1534491824, 582457874, 332020171, 3827288015, 1307576961,  663433124, 609686098, 3628614574, 3746741852, 4052690100, 176297486, 397096062, 4151263722, 2176660693, 338346065,  1420788027, 1728495222] 0xFFFFFFFF (by decide +kernel)
theorem crc_zeros : crc32c 0 (List.replicate 4096 0) = 2566472073 := by
  rw [crc_replicate, show (4096 : Nat) = 128 * 32 from rfl, zr_4096]; rfl
theorem readN_nil : ∀ (n a : Nat), Mem.readN [] a n = List.replicate n 0
  | 0, _ => rfl
  | n + 1, a => by rw [Mem.readN, readN_nil n (a + 1), List.replicate_succ]; rfl
/-- A segment of no type is refused. -/
theorem segRefused_type (s : State) (seq crc : Nat) (l : List Byte) : (s.segRefused 0 seq crc l).1 = true := by
  simp [State.segRefused]
/-- A segment of zeros with its check is not refused where its type and number are allowed. -/
theorem segRefused_zeros (s : State) (ty seq : Nat) (h1 : (ty == 1 || ty == 2) = true) (h2 : (ty == 1 && s.hkc.imageRuns) = false)
    (h3 : (ty == 2 && s.hkc.verified2 && (s.stepNo == 9 || s.stepNo == 10)) = false)
    (h4 : decide ((if (s.staged ty).contains 0 then s.bodySegs ty else 256) < seq) = false) :
    (s.segRefused ty seq 2566472073 (List.replicate 4096 0)).1 = false := by
  simp only [State.segRefused, crc_zeros, h1, h2, h3, h4]; rfl

theorem segPost_ok : let s := (stepS 3).w .mbx F.MBX_SEG_CRC_CRC 2566472073
    (s.grants .hkc .mbx F.MBX_SEG_CTRL_POST.off = true) ∧ (s.b .mbx F.MBX_STATUS_SEG_BUSY = false)
      ∧ (s.segRefused (fget F.MBX_SEG_CTRL_TYPE 1025) (fget F.MBX_SEG_CTRL_SEQ 1025) (s.r .mbx F.MBX_SEG_CRC_CRC) (s.mem.readN (segWinAt 0) 4096)).1 = false := by
  refine ⟨by decide +kernel, by decide +kernel, ?_⟩
  have hr : ((stepS 3).w .mbx F.MBX_SEG_CRC_CRC 2566472073).r .mbx F.MBX_SEG_CRC_CRC = 2566472073 := by decide +kernel
  have hm : ((stepS 3).w .mbx F.MBX_SEG_CRC_CRC 2566472073).mem = [] := by decide +kernel
  rw [hr, hm, readN_nil]
  exact segRefused_zeros _ _ _ (by decide +kernel) (by decide +kernel) (by decide +kernel) (by decide +kernel)
theorem segPost_no : (((stepS 3).grants .hkc .mbx F.MBX_SEG_CTRL_POST.off = true)) ∧ ((stepS 3).b .mbx F.MBX_STATUS_SEG_BUSY = false)
      ∧ ((stepS 3).segRefused (fget F.MBX_SEG_CTRL_TYPE 0) (fget F.MBX_SEG_CTRL_SEQ 0) ((stepS 3).r .mbx F.MBX_SEG_CRC_CRC)
        ((stepS 3).mem.readN (segWinAt 0) 4096)).1 = true := by
  refine ⟨by decide +kernel, by decide +kernel, ?_⟩
  rw [show fget F.MBX_SEG_CTRL_TYPE 0 = 0 by decide +kernel]
  exact segRefused_type _ _ _ _

theorem fwSeg_wf (d : MgmtDest) (ty n : Nat) (c : Word) (k : Nat) (h : (k == 4096) = true) :
    (Instr.fwSegment d ty n c (List.replicate k 0)).wf = true := by
  show ((List.replicate k (0 : Byte)).length == 4096) = true
  rw [List.length_replicate]; exact h
theorem fwSeg_ok : let s := (stepS 9).wb (.fab 0) F.FAB_MGMT_CFG_FW_EN true
    let d : MgmtDest := ⟨true, 0, 0, 0, (0, 0, 0), 0, 0⟩
    let l : List Byte := List.replicate 4096 0
    ((Instr.fwSegment d 2 3 2566472073 l).wf = true) ∧ ((s.route d 0x05 (leBytes 2 2 ++ leBytes 2 3 ++ leBytes 4 (2566472073 : Word).toNat ++ l)).1 = true)
      ∧ (s.b (.fab 0) F.FAB_MGMT_CFG_FW_EN = true) ∧ ((2 : Nat) ≠ 1)
      ∧ ((s.route d 0x05 (leBytes 2 2 ++ leBytes 2 3 ++ leBytes 4 (2566472073 : Word).toNat ++ l)).2.stagePosted.segRefused 2 3 (2566472073 : Word).toNat l).1 = false := by
  refine ⟨?_, rfl, by decide +kernel, by decide, ?_⟩
  · exact fwSeg_wf ⟨true, 0, 0, 0, (0, 0, 0), 0, 0⟩ _ _ _ 4096 (by decide +kernel)
  · exact segRefused_zeros _ _ _ (by decide +kernel) (by decide +kernel) (by decide +kernel) (by decide +kernel)


/-! ### The walk's state, one condition at a time -/

theorem walk_live : walkS.live = true := by decide +kernel
theorem walk_chan : (walkS.tile t0.g).chanCmd (0 : Fin 4).val = some walkF := by decide +kernel
theorem walk_room : walkS.ringRoom t0.g = true := by decide +kernel
theorem walk_read : walkS.chanRead t0.g walkF = (some walkF, walkY) := by decide +kernel
theorem walk_free : walkY.walkWaits t0.g walkF = none := by decide +kernel
theorem walk_put : (walkRead walkY t0.g walkF).any (fun r => (r.2.2.2.put (bobbinAt t0.g (walkS.ringOff t0.g
    + walkS.ringProd t0.g % walkS.ringSlots t0.g * (walkOf walkF.desc).ss)) r.2.1).1.isNone) = true := by decide +kernel
theorem walk_is : isWalk walkF.desc = true := by decide +kernel
theorem walk_ok : walkS.live = true ∧ (walkS.tile t0.g).chanCmd (0 : Fin 4).val = some walkF ∧ isWalk walkF.desc = true ∧ walkS.ringRoom t0.g = true
    ∧ walkS.chanRead t0.g walkF = (some walkF, walkY) ∧ walkY.walkWaits t0.g walkF = none
    ∧ (walkRead walkY t0.g walkF).any (fun r => (r.2.2.2.put (bobbinAt t0.g (walkS.ringOff t0.g
      + walkS.ringProd t0.g % walkS.ringSlots t0.g * (walkOf walkF.desc).ss)) r.2.1).1.isNone) = true :=
  ⟨walk_live, walk_chan, walk_is, walk_room, walk_read, walk_free, walk_put⟩
/-! ### States that meet the hypotheses of the statements -/

set_option linter.unusedVariables false

theorem wit_StepRunsFront :
    (∃ (s : State), (s.pending = []) ∧ (s.rst.level ≠ 1) ∧ (∀ f, f < 12 → s.portUp f = false) ∧ (s.hkc.cmd = none) ∧ (∀ t ∈ s.tiles, ∀ u, u < 4 → s.r (.tile t.1) (F.TRC_TRIG_CFG_KIND u) ≠ 5))
    ∧ (∃ (s : State), (s.pending = []) ∧ (s.rst.level = 1) ∧ (∀ f, f < 12 → s.portUp f = false) ∧ (s.hkc.cmd = none) ∧ (∀ t ∈ s.tiles, ∀ u, u < 4 → s.r (.tile t.1) (F.TRC_TRIG_CFG_KIND u) ≠ 5)) :=
  ⟨⟨clocked, by decide +kernel⟩,
   ⟨{ State.reset with rst := { State.reset.rst with level := 1 } }, by decide +kernel⟩⟩

theorem wit_CoreAlu : ∃ (t : Site) (rd a b : BitVec 5) (s : State), (s.coreAt t.g (.alu .mulhu rd a b)) :=
  ⟨t0, 3, 1, 2, core (.alu .mulhu 3 1 2), by decide +kernel⟩

theorem wit_CoreImmediate :
    (∃ (t : Site) (rd a : BitVec 5) (i : BitVec 16) (s : State), (s.coreAt t.g (.shi rd a i)))
    ∧ (∃ (t : Site) (rd : BitVec 5) (i : BitVec 16) (s : State), (s.coreAt t.g (.lui rd i))) :=
  ⟨⟨t0, 3, 1, 0x43, core (.shi 3 1 0x43), by decide +kernel⟩,
   ⟨t0, 7, 0x8001, core (.lui 7 0x8001), by decide +kernel⟩⟩

theorem wit_CoreLoads : ∃ (t : Site) (rd a : BitVec 5) (i : BitVec 16) (m : Nat) (l : List (BitVec 8)) (s : State), (s.coreAt t.g (.load .byte rd a i)) ∧ (coreAddr t.g ((s.tile t.g).gr a + i.signExtend 64).toNat = some m) ∧ (((s.coreNow t.g (.load .byte rd a i)).peek m 1).1.toOption = some l) :=
  ⟨t0, 3, 1, 5, dsramAt 0 5, [0], coreG (.load .byte 3 1 5) 1 0x10000, by decide +kernel⟩

theorem wit_CoreStores :
    (∃ (t : Site) (rd a : BitVec 5) (i : BitVec 16) (m : Nat) (s : State), (s.coreAt t.g (.store .word rd a i)) ∧ (((s.tile t.g).gr a + i.signExtend 64).toNat % 4 = 0) ∧ (coreAddr t.g ((s.tile t.g).gr a + i.signExtend 64).toNat = some m) ∧ (((s.coreNow t.g (.store .word rd a i)).put m (leBytes 4 ((s.tile t.g).gr rd).toNat)).1 = none))
    ∧ (∃ (a : Nat) (l : List (BitVec 8)) (s : State), ((placeOf a).isDram = false) ∧ (l ≠ []) ∧ (a % 8 + l.length ≤ 8) ∧ (s.verdict (cwAt a) = .clean) ∧ ((s.put a l).1 = none)) :=
  ⟨⟨t0, 3, 1, 8, dsramAt 0 8, coreG (.store .word 3 1 8) 1 0x10000, by decide +kernel⟩,
   ⟨dsramAt 0 4, [1, 2, 3], clocked, by decide +kernel⟩⟩

theorem wit_CoreBranches : ∃ (t : Site) (a b : BitVec 5) (o : BitVec 16) (s : State), (s.coreAt t.g (.branch .ltu a b o)) :=
  ⟨t0, 0, 1, 5, core (.branch .ltu 0 1 5), by decide +kernel⟩

theorem wit_CoreControl :
    (∃ (t : Site) (off : BitVec 26) (s : State), (s.coreAt t.g (.j off)))
    ∧ (∃ (t : Site) (off : BitVec 26) (s : State), (s.coreAt t.g (.jal off)))
    ∧ (∃ (t : Site) (rd a : BitVec 5) (i : BitVec 16) (s : State), (s.coreAt t.g (.jr rd a i)))
    ∧ (∃ (t : Site) (rd : BitVec 5) (s : State), (s.coreAt t.g (.taper rd)))
    ∧ (∃ (t : Site) (s : State), (s.coreAt t.g .halt)) :=
  ⟨⟨t0, 3, core (.j 3), by decide +kernel⟩,
   ⟨t0, 0x3FFFFFF, core (.jal 0x3FFFFFF), by decide +kernel⟩,
   ⟨t0, 1, 1, 8, core (.jr 1 1 8), by decide +kernel⟩,
   ⟨t0, 3, (core (.taper 3)).advanceTo 77, by decide +kernel⟩,
   ⟨t0, core .halt, by decide +kernel⟩⟩

theorem wit_CoreQueue :
    (∃ (t : Site) (a : BitVec 5) (i : BitVec 16) (l : List (BitVec 8)) (s : State), (s.coreAt t.g (.cqpush a i)) ∧ (((s.tile t.g).gr a + i.signExtend 64).toNat % 64 = 0) ∧ (0x10000 ≤ ((s.tile t.g).gr a + i.signExtend 64).toNat ∧ ((s.tile t.g).gr a + i.signExtend 64).toNat < 0x20000) ∧ ((s.tile t.g).queue.length < 64) ∧ (((s.coreNow t.g (.cqpush a i)).peek (dsramAt t.g (((s.tile t.g).gr a + i.signExtend 64).toNat - 0x10000)) 64).1.toOption = some l))
    ∧ (∃ (t : Site) (d : BitVec 512) (due : Nat) (s : State), (s.live = true) ∧ (s.clocked t.g = true) ∧ ((s.tile t.g).pushing = some (d, due)))
    ∧ (∃ (t : Site) (a : BitVec 5) (s : State), (s.coreAt t.g (.cqwait a)) ∧ (s.b (.tile t.g) F.CQ_DONE_ANY = true) ∧ ((s.r (.tile t.g) F.CQ_DONE_SEQ + 2 ^ 16 - ((s.tile t.g).gr a).toNat % 2 ^ 16) % 2 ^ 16 < 2 ^ 15))
    ∧ (∃ (t : Site) (a : BitVec 5) (s : State), (s.coreAt t.g (.cqwait a)) ∧ ((s.b (.tile t.g) F.CQ_DONE_ANY = true →
      2 ^ 15 ≤ (s.r (.tile t.g) F.CQ_DONE_SEQ + 2 ^ 16 - ((s.tile t.g).gr a).toNat % 2 ^ 16) % 2 ^ 16)))
    ∧ (∃ (t : Site) (a : BitVec 5) (v : Nat) (s : State), ((s.tile t.g).waitSeq = some v) ∧ ((s.tile t.g).run = true) ∧ (s.live = true) ∧ (s.clocked t.g = true) ∧ (((s.tile t.g).gr a).toNat % 2 ^ 16 = v) ∧ (s.b (.tile t.g) F.CQ_DONE_ANY = true) ∧ ((s.r (.tile t.g) F.CQ_DONE_SEQ + 2 ^ 16 - v) % 2 ^ 16 < 2 ^ 15)) :=
  ⟨⟨t0, 1, 0, List.replicate 64 0, coreG (.cqpush 1 0) 1 0x10000, by decide +kernel⟩,
   ⟨t0, 7, 9, tl { Tile.reset with pushing := some (7, 9) }, by decide +kernel⟩,
   ⟨t0, 0, (core (.cqwait 0)).wb (.tile 0) F.CQ_DONE_ANY true, by decide +kernel⟩,
   ⟨t0, 0, core (.cqwait 0), by decide +kernel⟩,
   ⟨t0, 0, 0, (tl { Tile.reset with run := true, waitSeq := some 0 }).wb (.tile 0) F.CQ_DONE_ANY true, by decide +kernel⟩⟩

theorem wit_CoreFaults :
    (∃ (t : Site) (rd a b : BitVec 5) (c : Nat) (s : State), ((s.tile t.g).run = true) ∧ ((s.tile t.g).coreFree = true) ∧ (s.live = true) ∧ (s.clocked t.g = true) ∧ (((s.tile t.g).pc.toNat % 4 ≠ 0 ∧ c = 2) ∨ ((s.tile t.g).pc.toNat % 4 = 0 ∧ 0x10000 ≤ (s.tile t.g).pc.toNat ∧ c = 3)))
    ∧ (∃ (t : Site) (rd a : BitVec 5) (i : BitVec 16) (s : State), (s.coreAt t.g (.load .dword rd a i)) ∧ (((s.tile t.g).gr a + i.signExtend 64).toNat % 8 ≠ 0))
    ∧ (∃ (t : Site) (rd a : BitVec 5) (i : BitVec 16) (s : State), (s.coreAt t.g (.load .dword rd a i)) ∧ (((s.tile t.g).gr a + i.signExtend 64).toNat % 8 = 0) ∧ (coreAddr t.g ((s.tile t.g).gr a + i.signExtend 64).toNat = none)) :=
  ⟨⟨t0, 0, 0, 0, 2, tl { Tile.reset with run := true, pc := 2 }, by decide +kernel⟩,
   ⟨t0, 1, 0, 1, core (.load .dword 1 0 1), by decide +kernel⟩,
   ⟨t0, 1, 0, 0, core (.load .dword 1 0 0), by decide +kernel⟩⟩

theorem wit_IssueSync :
    (∃ (t : Site) (d : BitVec 512) (s : State), (((s.head t.g (isOp 0x00)).map (·.1)) = some d) ∧ ((((fun _ => resCheck fun d => !zeroFrom d 96) : Nat → State → BitVec 512 → Check × State) t.g ((s.head t.g (isOp 0x00)).map (·.2) |>.getD s) d).1 = .ok))
    ∧ (∃ (t : Site) (d : BitVec 512) (s : State), (((s.head t.g (isOp 0x0D)).map (·.1)) = some d) ∧ ((((fun _ => resCheck fun d => !zeroFrom d 69) : Nat → State → BitVec 512 → Check × State) t.g ((s.head t.g (isOp 0x0D)).map (·.2) |>.getD s) d).1 = .ok))
    ∧ (∃ (t : Site) (d : BitVec 512) (s : State), (((s.head t.g (isOp 0x0B)).map (·.1)) = some d) ∧ ((((fun _ => resCheck rngkBad) : Nat → State → BitVec 512 → Check × State) t.g ((s.head t.g (isOp 0x0B)).map (·.2) |>.getD s) d).1 = .ok)) :=
  ⟨⟨t0, 0, qd (0), by decide +kernel⟩,
   ⟨t0, 0x0D, qd (0x0D), by decide +kernel⟩,
   ⟨t0, 0x0B + 2 ^ 320, qd (0x0B + 2 ^ 320), by decide +kernel⟩⟩

theorem wit_IssueArrays :
    (∃ (t : Site) (d : BitVec 512) (s : State), (((s.head t.g (isOp 0x01)).map (·.1)) = some d) ∧ ((((fun g s d => s.mmCheck g d) : Nat → State → BitVec 512 → Check × State) t.g ((s.head t.g (isOp 0x01)).map (·.2) |>.getD s) d).1 = .ok))
    ∧ (∃ (t : Site) (d : BitVec 512) (s : State), (((s.head t.g (isOp 0x02)).map (·.1)) = some d) ∧ ((((fun g s d => s.mmCheck g d) : Nat → State → BitVec 512 → Check × State) t.g ((s.head t.g (isOp 0x02)).map (·.2) |>.getD s) d).1 = .ok)) :=
  ⟨⟨t0, 0x01 + 2 ^ 152 + 2 ^ 156, qd (0x01 + 2 ^ 152 + 2 ^ 156), by decide +kernel⟩,
   ⟨t0, 0x02 + 2 ^ 152 + 2 ^ 156, qd (0x02 + 2 ^ 152 + 2 ^ 156), by decide +kernel⟩⟩

theorem wit_IssueEngines :
    (∃ (t : Site) (d : BitVec 512) (s : State), (((s.head t.g (isOp 0x03)).map (·.1)) = some d) ∧ ((((fun g s d => s.attCheck g d) : Nat → State → BitVec 512 → Check × State) t.g ((s.head t.g (isOp 0x03)).map (·.2) |>.getD s) d).1 = .ok))
    ∧ (∃ (t : Site) (d : BitVec 512) (s : State), (((s.head t.g (isOp 0x04)).map (·.1)) = some d) ∧ ((((fun _ s d => s.bwdCheck d) : Nat → State → BitVec 512 → Check × State) t.g ((s.head t.g (isOp 0x04)).map (·.2) |>.getD s) d).1 = .ok))
    ∧ (∃ (t : Site) (d : BitVec 512) (s : State), (((s.head t.g (isOp 0x05)).map (·.1)) = some d) ∧ ((((fun g s d => s.vecCheck g d) : Nat → State → BitVec 512 → Check × State) t.g ((s.head t.g (isOp 0x05)).map (·.2) |>.getD s) d).1 = .ok)) :=
  ⟨⟨t0, 0x03 + 2 ^ 88 + 2 ^ 92, qd (0x03 + 2 ^ 88 + 2 ^ 92), by decide +kernel⟩,
   ⟨t0, 0x04 + 2 ^ 88 + 2 ^ 92, qd (0x04 + 2 ^ 88 + 2 ^ 92), by decide +kernel⟩,
   ⟨t0, 0x05 + 2 ^ 64 + 2 ^ 216 + 2 ^ 221 + 2 ^ 280 + 2 ^ 285, qd (0x05 + 2 ^ 64 + 2 ^ 216 + 2 ^ 221 + 2 ^ 280 + 2 ^ 285), by decide +kernel⟩⟩

theorem wit_IssueShuttle :
    (∃ (t : Site) (d : BitVec 512) (s : State), (((s.head t.g (fun d => opcodeOf d == 6 && shutKind d != 1 && shutKind d != 2)).map (·.1)) = some d) ∧ ((((copyCheck) : Nat → State → BitVec 512 → Check × State) t.g ((s.head t.g (fun d => opcodeOf d == 6 && shutKind d != 1 && shutKind d != 2)).map (·.2) |>.getD s) d).1 = .ok))
    ∧ (∃ (t : Site) (d : BitVec 512) (s : State), (((s.head t.g (fun d => opcodeOf d == 6 && shutKind d == 1)).map (·.1)) = some d) ∧ ((((gatherCheck) : Nat → State → BitVec 512 → Check × State) t.g ((s.head t.g (fun d => opcodeOf d == 6 && shutKind d == 1)).map (·.2) |>.getD s) d).1 = .ok))
    ∧ (∃ (t : Site) (d : BitVec 512) (s : State), (((s.head t.g (isWalk)).map (·.1)) = some d) ∧ ((((walkCheck) : Nat → State → BitVec 512 → Check × State) t.g ((s.head t.g (isWalk)).map (·.2) |>.getD s) d).1 = .ok))
    ∧ (∃ (t : Site) (d : BitVec 512) (s : State), (((s.head t.g (isOp 0x07)).map (·.1)) = some d) ∧ ((((sendCheck) : Nat → State → BitVec 512 → Check × State) t.g ((s.head t.g (isOp 0x07)).map (·.2) |>.getD s) d).1 = .ok))
    ∧ (∃ (t : Site) (d : BitVec 512) (s : State), (((s.head t.g (isOp 0x08)).map (·.1)) = some d) ∧ ((((sendCheck) : Nat → State → BitVec 512 → Check × State) t.g ((s.head t.g (isOp 0x08)).map (·.2) |>.getD s) d).1 = .ok)) :=
  ⟨⟨t0, 0x06, qmap (0x06), by decide +kernel⟩,
   ⟨t0, 0x06 + 2 ^ 64 + 64 * 2 ^ 256, qmap (0x06 + 2 ^ 64 + 64 * 2 ^ 256), by decide +kernel⟩,
   ⟨t0, 0x06 + 2 ^ 65 + 3 * 2 ^ 352 + 2 ^ 344, (qmap (0x06 + 2 ^ 65 + 3 * 2 ^ 352 + 2 ^ 344)).wb (.stk 0) F.SWT_CFG_EN true, by decide +kernel⟩,
   ⟨t0, 0x07, qmap (0x07), by decide +kernel⟩,
   ⟨t0, 0x08, qmap (0x08), by decide +kernel⟩⟩

theorem wit_IssueOrder :
    (∃ (t : Site) (d : BitVec 512) (s : State), (((fun g s => s.migrating g = false) : Nat → State → Prop) t.g s) ∧ (((s.head t.g (isOp 0x09)).map (·.1)) = some d) ∧ ((((tackCheck) : Nat → State → BitVec 512 → Check × State) t.g ((s.head t.g (isOp 0x09)).map (·.2) |>.getD s) d).1 = .ok))
    ∧ (∃ (t : Site) (d : BitVec 512) (s : State), (((s.head t.g (isOp 0x0A)).map (·.1)) = some d) ∧ ((((waitCheck) : Nat → State → BitVec 512 → Check × State) t.g ((s.head t.g (isOp 0x0A)).map (·.2) |>.getD s) d).1 = .ok))
    ∧ (∃ (t : Site) (d : BitVec 512) (s : State), (((fun g s => (s.chkU (dieChk g)).waiting < 16) : Nat → State → Prop) t.g s) ∧ (((s.head t.g (isOp 0x0C)).map (·.1)) = some d) ∧ ((((chkCheck) : Nat → State → BitVec 512 → Check × State) t.g ((s.head t.g (isOp 0x0C)).map (·.2) |>.getD s) d).1 = .ok)) :=
  ⟨⟨t0, 0x09, qrun (0x09), by decide +kernel⟩,
   ⟨t0, 0x0A, qrun (0x0A), by decide +kernel⟩,
   ⟨t0, 0x0C, (qmap (0x0C)).wb (.chk 0) F.CHK_STATUS_AVAILABLE true, by decide +kernel⟩⟩

theorem wit_ReservedOpcode : ∃ (t : Site) (d e : BitVec 512) (q : List (BitVec 512)) (x : State) (s : State), ((s.tile t.g).queue = d :: q) ∧ (0x0E ≤ opcodeOf d) ∧ (0x0E ≤ opcodeOf e) ∧ (s.mayIssue t.g d = true) ∧ (s.cqRead t.g d = (none, e, x)) :=
  ⟨t0, 0x0E, 0x0E, [], qd 0x0E, qd 0x0E, by decide +kernel⟩

theorem wit_IssueRefused : ∃ (t : Site) (d : BitVec 512) (x y : State) (code : Nat) (s : State), (s.head t.g (isOp 0x01) = some (d, x)) ∧ (x.mmCheck t.g d = (.refuse code, y)) :=
  ⟨t0, 0x1 + 2 ^ 511, qd (0x1 + 2 ^ 511), ((qd (0x1 + 2 ^ 511)).mmCheck 0 (0x1 + 2 ^ 511)).2, 2, qd (0x1 + 2 ^ 511), by decide +kernel⟩

theorem wit_SyncCompletes :
    (∃ (t : Site) (f : Flight) (s : State), (s.live = true) ∧ ((s.tile t.g).openOp 0x00 = some f) ∧ (f.phase = .running))
    ∧ (∃ (t : Site) (f : Flight) (s : State), (s.live = true) ∧ ((s.tile t.g).openOp 0x0D = some f) ∧ ((s.tile t.g).flight.all (fun x => !(decide (x.uid < f.uid) && x.phase != .done && (maskEng (dget f.desc 8 0 5)).any fun e => x.uses e)) = true))
    ∧ (∃ (t : Site) (f : Flight) (rest : List Flight) (s : State), (s.live = true) ∧ (s.clocked t.g = true) ∧ ((s.tile t.g).flight = f :: rest) ∧ (f.phase = .done))
    ∧ (∃ (t : Site) (s : State), (s.trace.stopped = false) ∧ ((s.tile t.g).faulted = true) ∧ ((s.tile t.g).flight.any (fun f => f.open_ && !f.uses .sync) = false)) :=
  ⟨⟨t0, ⟨0, 0, .running, 0, 9, 0, 0, 0, 0, []⟩, fl 0 .running 9 [], by decide +kernel⟩,
   ⟨t0, ⟨0, 0x0D, .running, 0, 0, 0, 0, 0, 0, []⟩, fl 0x0D .running 0 [], by decide +kernel⟩,
   ⟨t0, ⟨0, 0x7000000000000, .done, 0, 5, 0, 0, 0, 0, []⟩, [], fl 0x7000000000000 .done 5 [], by decide +kernel⟩,
   ⟨t0, tl { Tile.reset with faulted := true }, by decide +kernel⟩⟩

theorem wit_ArrayRuns :
    (∃ (t : Site) (f : Flight) (s : State), (s.live = true) ∧ (((s.tile t.g).flight.find? fun f => f.phase == .waiting && f.uses .array) = some f) ∧ (f.isMm = true) ∧ (((s.tile t.g).flight.find? fun e => e.phase == .running && e.uses .array) = none))
    ∧ (∃ (t : Site) (f e : Flight) (s : State), (s.live = true) ∧ (((s.tile t.g).flight.find? fun f => f.phase == .waiting && f.uses .array) = some f) ∧ (f.isMm = true) ∧ (((s.tile t.g).flight.find? fun e => e.phase == .running && e.uses .array) = some e) ∧ (e.isMm = true) ∧ ((mmOf f.desc).k ≠ 0) ∧ ((mmOf e.desc).k ≠ 0))
    ∧ (∃ (t : Site) (f : Flight) (s : State), (s.live = true) ∧ ((s.tile t.g).product = some f) ∧ (f.prog < 8 * (mmOf f.desc).fp) ∧ ((mmBeatIn s t.g f).1 = none) ∧ ((mmBeatOut s t.g f).1 = none))
    ∧ (∃ (t : Site) (f : Flight) (s : State), ((s.tile t.g).product = some f) ∧ (8 * (mmOf f.desc).fp ≤ f.prog)) :=
  ⟨⟨t0, ⟨0, (1 + 2 ^ 64 + 2 ^ 80 + 32 * 2 ^ 96 + 2 ^ 152 + 2 ^ 156 + 0x1000 * 2 ^ 160 + 0x2000 * 2 ^ 192), .waiting, 0, 0, 0, 0, 0, 0, []⟩, flw (1 + 2 ^ 64 + 2 ^ 80 + 32 * 2 ^ 96 + 2 ^ 152 + 2 ^ 156 + 0x1000 * 2 ^ 160 + 0x2000 * 2 ^ 192) .waiting 0 [] 0, by decide +kernel⟩,
   ⟨t0, ⟨1, (1 + 2 ^ 64 + 2 ^ 80 + 32 * 2 ^ 96 + 2 ^ 152 + 2 ^ 156 + 0x1000 * 2 ^ 160 + 0x2000 * 2 ^ 192), .waiting, 0, 0, 0, 0, 0, 0, []⟩, ⟨0, (1 + 2 ^ 64 + 2 ^ 80 + 32 * 2 ^ 96 + 2 ^ 152 + 2 ^ 156 + 0x1000 * 2 ^ 160 + 0x2000 * 2 ^ 192), .running, 0, 0, 0, 0, 0, 0, []⟩, tl { Tile.reset with flight := [⟨0, (1 + 2 ^ 64 + 2 ^ 80 + 32 * 2 ^ 96 + 2 ^ 152 + 2 ^ 156 + 0x1000 * 2 ^ 160 + 0x2000 * 2 ^ 192), .running, 0, 0, 0, 0, 0, 0, []⟩, ⟨1, (1 + 2 ^ 64 + 2 ^ 80 + 32 * 2 ^ 96 + 2 ^ 152 + 2 ^ 156 + 0x1000 * 2 ^ 160 + 0x2000 * 2 ^ 192), .waiting, 0, 0, 0, 0, 0, 0, []⟩] }, by decide +kernel⟩,
   ⟨t0, ⟨0, (1 + 2 ^ 64 + 2 ^ 80 + 32 * 2 ^ 96 + 2 ^ 152 + 2 ^ 156 + 0x1000 * 2 ^ 160 + 0x2000 * 2 ^ 192), .running, 0, 0, 0, 0, 0, 0, []⟩, flw (1 + 2 ^ 64 + 2 ^ 80 + 32 * 2 ^ 96 + 2 ^ 152 + 2 ^ 156 + 0x1000 * 2 ^ 160 + 0x2000 * 2 ^ 192) .running 0 [] 0, by decide +kernel⟩,
   ⟨t0, ⟨0, (1 + 2 ^ 64 + 2 ^ 80 + 32 * 2 ^ 96 + 2 ^ 152 + 2 ^ 156 + 0x1000 * 2 ^ 160 + 0x2000 * 2 ^ 192), .running, 0, 0, 99999, 0, 0, 0, []⟩, flw (1 + 2 ^ 64 + 2 ^ 80 + 32 * 2 ^ 96 + 2 ^ 152 + 2 ^ 156 + 0x1000 * 2 ^ 160 + 0x2000 * 2 ^ 192) .running 99999 [] 0, by decide +kernel⟩⟩

theorem wit_AttentionRuns :
    (∃ (t : Site) (f : Flight) (s : State), (s.live = true) ∧ ((s.tile t.g).attNow 3 = some f) ∧ (f.prog < (attOf f.desc).nb) ∧ (((attOf f.desc).ring && s.ringProd t.g == s.ringCons t.g) = false) ∧ (((attnBlockAt s t.g f).readRgns t.g (attnBlockIn s t.g f)).1 = none))
    ∧ (∃ (t : Site) (f : Flight) (s : State), (s.live = true) ∧ ((s.tile t.g).attNow 3 = some f) ∧ ((attOf f.desc).nb ≤ f.prog) ∧ (((s.advanceTo (f.start + s.tclkCycles (attOf f.desc).cycles)).readRgns t.g [(attOf f.desc).stR]).1 = none))
    ∧ (∃ (t : Site) (f : Flight) (s : State), (s.live = true) ∧ ((s.tile t.g).attNow 4 = some f) ∧ ((attOf f.desc).dqOff % 8 = 0) ∧ ((attOf f.desc).dkvOff % 8 = 0) ∧ (((s.advanceTo (f.start + s.tclkCycles (attOf f.desc).bwdCycles)).readRgns t.g [(attOf f.desc).qR, (attOf f.desc).doR, (attOf f.desc).oR, (attOf f.desc).statR, (attOf f.desc).kvR]).1 = none)) :=
  ⟨⟨t0, ⟨0, (3 + 2 ^ 64 + 2 ^ 88 + 2 ^ 92 + 2 ^ 102 + 2 ^ 103 + 64 * 2 ^ 160 + 0x1000 * 2 ^ 256 + 0x40 * 2 ^ 304 + 0x8000 * 2 ^ 280 + 0x10 * 2 ^ 368 + 0x10000 * 2 ^ 320 + 0x18000 * 2 ^ 344 + 0x20000 * 2 ^ 416), .waiting, 0, 0, 0, 0, 0, 0, []⟩, flw (3 + 2 ^ 64 + 2 ^ 88 + 2 ^ 92 + 2 ^ 102 + 2 ^ 103 + 64 * 2 ^ 160 + 0x1000 * 2 ^ 256 + 0x40 * 2 ^ 304 + 0x8000 * 2 ^ 280 + 0x10 * 2 ^ 368 + 0x10000 * 2 ^ 320 + 0x18000 * 2 ^ 344 + 0x20000 * 2 ^ 416) .waiting 0 [] 0, by decide +kernel⟩,
   ⟨t0, ⟨0, (3 + 2 ^ 64 + 2 ^ 88 + 2 ^ 92 + 2 ^ 102 + 2 ^ 103 + 64 * 2 ^ 160 + 0x1000 * 2 ^ 256 + 0x40 * 2 ^ 304 + 0x8000 * 2 ^ 280 + 0x10 * 2 ^ 368 + 0x10000 * 2 ^ 320 + 0x18000 * 2 ^ 344 + 0x20000 * 2 ^ 416), .running, 0, 0, 1, 0, 0, 0, []⟩, flw (3 + 2 ^ 64 + 2 ^ 88 + 2 ^ 92 + 2 ^ 102 + 2 ^ 103 + 64 * 2 ^ 160 + 0x1000 * 2 ^ 256 + 0x40 * 2 ^ 304 + 0x8000 * 2 ^ 280 + 0x10 * 2 ^ 368 + 0x10000 * 2 ^ 320 + 0x18000 * 2 ^ 344 + 0x20000 * 2 ^ 416) .running 1 [] 0, by decide +kernel⟩,
   ⟨t0, ⟨0, (4 + 2 ^ 88 + 2 ^ 92), .running, 0, 0, 0, 0, 0, 0, []⟩, flw (4 + 2 ^ 88 + 2 ^ 92) .running 0 [] 0, by decide +kernel⟩⟩

theorem wit_VectorRuns :
    (∃ (t : Site) (f : Flight) (s : State), (s.live = true) ∧ ((s.tile t.g).vecNow = some f) ∧ ((vecOf f.desc).kind = 0) ∧ (f.prog < (vecOf f.desc).groups) ∧ ((vecGroupRun s t.g f).1 = none) ∧ (((vecGroupRun s t.g f).2.1.puts.foldl (fun (acc : Option Nat × State) e => acc.2.putOn e.1 e.2 acc.1) (none, (vecGroupRun s t.g f).2.2)).1 = none))
    ∧ (∃ (t : Site) (f : Flight) (s : State), (s.live = true) ∧ ((s.tile t.g).vecNow = some f) ∧ ((vecOf f.desc).kind = 0) ∧ ((vecOf f.desc).groups ≤ f.prog))
    ∧ (∃ (t : Site) (f : Flight) (s : State), (s.live = true) ∧ ((s.tile t.g).vecNow = some f) ∧ ((vecOf f.desc).kind ≠ 0) ∧ ((vecRowsRun s t.g f).1 = none) ∧ (((vecRowsRun s t.g f).2.1.puts.foldl (fun (acc : Option Nat × State) e => acc.2.putOn e.1 e.2 acc.1) (none, (vecRowsRun s t.g f).2.2.2)).1 = none)) :=
  ⟨⟨t0, ⟨0, (5 + 2 ^ 96 + 2 ^ 128 + 2 ^ 152), .waiting, 0, 0, 0, 0, 0, 0, (List.replicate 32 0 ++ [0, 0, 0, 0, 0, 0, 0, 0])⟩, flw (5 + 2 ^ 96 + 2 ^ 128 + 2 ^ 152) .waiting 0 (List.replicate 32 0 ++ [0, 0, 0, 0, 0, 0, 0, 0]) 0, by decide +kernel⟩,
   ⟨t0, ⟨0, (5 + 2 ^ 96 + 2 ^ 128 + 2 ^ 152), .running, 0, 0, 1, 0, 0, 0, []⟩, flw (5 + 2 ^ 96 + 2 ^ 128 + 2 ^ 152) .running 1 [] 0, by decide +kernel⟩,
   ⟨t0, ⟨0, (5 + 2 ^ 64 + 2 ^ 128 + 2 ^ 152 + 2 ^ 216 + 2 ^ 221 + 0x100 * 2 ^ 256 + 2 ^ 280 + 2 ^ 285), .running, 0, 0, 0, 0, 0, 0, []⟩, flw (5 + 2 ^ 64 + 2 ^ 128 + 2 ^ 152 + 2 ^ 216 + 2 ^ 221 + 0x100 * 2 ^ 256 + 2 ^ 280 + 2 ^ 285) .running 0 [] 0, by decide +kernel⟩⟩

theorem wit_ShuttleMoves :
    (∃ (t : Site) (c : Fin 4) (f e : Flight) (src dst left n a b : Nat) (l : List (BitVec 8)) (y : State) (s : State), (s.live = true) ∧ ((s.tile t.g).chanCmd c.val = some f) ∧ (s.chanRead t.g f = (some e, y)) ∧ (e.op = 6) ∧ (shutKind e.desc = 0) ∧ ((copyOf e.desc).place e.prog = (src, dst, left)) ∧ (n = min left (min (lineLeft src) (lineLeft dst))) ∧ (y.translate t.g src n false = .at_ a) ∧ (y.cutOffBy t.g (shutSched e.desc) a = false) ∧ (y.waitsAt t.g e.uid a n = none) ∧ (((y.translate t.g dst n true).addr?.bind fun b => y.waitsAt t.g e.uid b n) = none) ∧ ((accRead y t.g e false a n).2.1.toOption = some l) ∧ ((accRead y t.g e false a n).2.2.translate t.g dst n true = .at_ b) ∧ ((accRead y t.g e false a n).2.2.cutOffBy t.g (shutSched e.desc) b = false) ∧ ((accWrite (accRead y t.g e false a n) t.g e b l).1 = none))
    ∧ (∃ (t : Site) (c : Fin 4) (f e : Flight) (a b : Nat) (ix l : List (BitVec 8)) (y : State) (s : State), (s.live = true) ∧ ((s.tile t.g).chanCmd c.val = some f) ∧ (s.chanRead t.g f = (some e, y)) ∧ (e.op = 6) ∧ (shutKind e.desc = 1) ∧ ((gatherIx y t.g e).1.toOption = some ix) ∧ ((gatherIx y t.g e).2.translate t.g (gatherAt e ix).1 (gatherAt e ix).2 false = .at_ a) ∧ ((gatherIx y t.g e).2.cutOffBy t.g (shutSched e.desc) a = false) ∧ ((gatherIx y t.g e).2.waitsAt t.g e.uid a (gatherAt e ix).2 = none) ∧ ((((gatherIx y t.g e).2.translate t.g ((gatherOf false e.desc).dst + e.prog) (gatherAt e ix).2 true).addr?.bind fun b => (gatherIx y t.g e).2.waitsAt t.g e.uid b (gatherAt e ix).2) = none) ∧ ((accRead (gatherIx y t.g e).2 t.g e ((gatherOf false e.desc).esz == 16) a (gatherAt e ix).2).2.1.toOption = some l) ∧ ((accRead (gatherIx y t.g e).2 t.g e ((gatherOf false e.desc).esz == 16) a (gatherAt e ix).2).2.2.translate t.g ((gatherOf false e.desc).dst + e.prog) (gatherAt e ix).2 true = .at_ b) ∧ ((accRead (gatherIx y t.g e).2 t.g e ((gatherOf false e.desc).esz == 16) a (gatherAt e ix).2).2.2.cutOffBy t.g (shutSched e.desc) b = false) ∧ ((accWrite (accRead (gatherIx y t.g e).2 t.g e ((gatherOf false e.desc).esz == 16) a (gatherAt e ix).2) t.g e b l).1 = none))
    ∧ (∃ (t : Site) (c : Fin 4) (f e : Flight) (m dst : Nat) (r : List Nat) (l : List (BitVec 8)) (y z : State) (s : State), (s.live = true) ∧ ((s.tile t.g).chanCmd c.val = some f) ∧ (s.chanRead t.g f = (some e, y)) ∧ (e.op = 7) ∧ (e.prog < sendLen e.desc) ∧ (sendRoute e.desc = 0) ∧ (y.translate t.g (sendAddr e.desc + e.prog) 64 false = .at_ m) ∧ ((y.fetchT m 64).1.toOption = some l) ∧ ((y.fetchT m 64).2 = z) ∧ (z.siteOf (sendTile e.desc) = some dst) ∧ (z.routeOf true (z.boltOf (t.g / 160)) (t.g / 480) (dst / 480) = some r)) :=
  ⟨⟨t0, 0, ⟨0, CPY, .running, 0, 0, 0, 0, 0, 0, []⟩, ⟨0, CPY, .running, 0, 0, 0, 0, 0, 0, []⟩, 0x200000000100, 0x200000001000, 128, 64, bobbinAt 0 0x100, bobbinAt 0 0x1000, List.replicate 64 0, chanS CPY, mapped (flw CPY .running 0 [] 0), by decide +kernel⟩,
   ⟨t0, 0, ⟨0, GTH, .running, 0, 0, 0, 0, 0, 0, []⟩, ⟨0, GTH, .running, 0, 0, 0, 0, 0, 0, []⟩, bobbinAt 0 0x100, bobbinAt 0 0x1000, [0, 0, 0, 0], List.replicate 64 0, chanS GTH, mapped (flw GTH .running 0 [] 0), by decide +kernel⟩,
   ⟨t0, 0, ⟨0, SND, .running, 0, 0, 0, 0, 0, 0, []⟩, ⟨0, SND, .running, 0, 0, 0, 0, 0, 0, []⟩, bobbinAt 0 0, 0, [0], List.replicate 64 0, chanS SND, ((chanS SND).fetchT (bobbinAt 0 0) 64).2, mapped (flw SND .running 0 [] 0), by decide +kernel⟩⟩

theorem wit_WalksAndMesh :
    (∃ (t : Site) (c : Fin 4) (f e : Flight) (y : State) (s : State), (s.live = true) ∧ ((s.tile t.g).chanCmd c.val = some f) ∧ (isWalk f.desc = true) ∧ (s.ringRoom t.g = true) ∧ (s.chanRead t.g f = (some e, y)) ∧ (y.walkWaits t.g e = none) ∧ ((walkRead y t.g e).any (fun r => (r.2.2.2.put (bobbinAt t.g (s.ringOff t.g + s.ringProd t.g % s.ringSlots t.g * (walkOf e.desc).ss)) r.2.1).1.isNone) = true))
    ∧ (∃ (m : Nat) (x : MeshMsg) (p : RecvPost) (f : Flight) (s : State), (s.live = true) ∧ ((s.mesh.find? fun x => x.id == m) = some x) ∧ (s.mesh.any (fun y => decide (y.id < m) && y.src == x.src && y.uid == x.uid) = false) ∧ ((s.tile x.dst).recvs.get none x.chan = some p) ∧ ((s.tile x.dst).flightOf p.uid = some f) ∧ (x.data.length ≤ p.len - p.got) ∧ (((s.meshTake x).put (bobbinAt x.dst (p.off + p.got)) x.data).1 = none))
    ∧ (∃ (t : Site) (c : Fin 4) (f : Flight) (s : State), (s.live = true) ∧ ((s.tile t.g).chanCmd c.val = some f) ∧ (f.op = 7) ∧ (sendRoute f.desc = 0) ∧ (f.prog = sendLen f.desc) ∧ (s.mesh.any (fun x => x.src == t.g && x.uid == f.uid) = false)) :=
  ⟨⟨t0, 0, walkF, walkF, walkY, walkS, walk_ok⟩,
   ⟨3, msg3, ⟨0, 0x40, 64, 0⟩, ⟨0, 8, .running, 0, 0, 0, 0, 0, 0, []⟩, recvS, by decide +kernel⟩,
   ⟨t0, 0, ⟨0, SND, .running, 0, 0, 64, 0, 0, 0, []⟩, flw SND .running 64 [] 0, by decide +kernel⟩⟩

theorem wit_TackArrivals :
    (∃ (t : Site) (b : Nat) (f : Flight) (s : State), (s.live = true) ∧ ((s.tile t.g).openOp 0x09 = some f) ∧ (s.runBolt t.g = some b) ∧ (f.phase = .running) ∧ ((s.tile t.g).faulted = false) ∧ ((s.tile t.g).reported = false) ∧ ((s.tile t.g).flight.any (fun y => decide (y.uid < f.uid) && y.phase != .done && !(s.preemptsAt b f.aux && stoppable y)) = false) ∧ (f.aux < (s.bolt b).tack))
    ∧ (∃ (t : Site) (b : Nat) (f : Flight) (s : State), (s.live = true) ∧ ((s.tile t.g).openOp 0x09 = some f) ∧ (s.runBolt t.g = some b) ∧ (f.phase = .running) ∧ ((s.tile t.g).faulted = false) ∧ ((s.tile t.g).reported = false) ∧ ((s.tile t.g).flight.any (fun y => decide (y.uid < f.uid) && y.phase != .done && !(s.preemptsAt b f.aux && stoppable y)) = false) ∧ (f.aux = (s.bolt b).tack))
    ∧ (∃ (t : Site) (b : Nat) (f : Flight) (s : State), (s.live = true) ∧ ((s.tile t.g).openOp 0x0A = some f) ∧ (s.runBolt t.g = some b) ∧ (f.phase = .running) ∧ (f.aux = 1) ∧ (s.boltPaused t.g = false))
    ∧ (∃ (t : Site) (b : Nat) (f : Flight) (s : State), (s.live = true) ∧ ((s.tile t.g).openOp 0x0A = some f) ∧ (s.runBolt t.g = some b) ∧ (f.phase = .running) ∧ (f.aux ≠ 1) ∧ (s.canReach b (dget f.desc 8 0 64) = true))
    ∧ (∃ (b : Fin 12) (p : Pattern) (d : Nat) (s : State), (s.live = true) ∧ ((s.bolt b).pat = some p) ∧ (s.deadlineOf b (s.bolt b).tack = some d) ∧ (s.patRuns b = true) ∧ ((s.bolt b).hasOwn = false) ∧ ((d ≤ s.countOf b ∨ s.canReach b d = true)))
    ∧ (∃ (b : Fin 12) (p : Pattern) (r : TackMsg) (s : State), (s.patLive b = true) ∧ ((s.bolt b).pat = some p) ∧ (p.kids.contains r.from_ = true) ∧ ((s.bolt b).tack ≤ r.tack))
    ∧ (∃ (b : Fin 12) (p : Pattern) (r : TackMsg) (s : State), (s.patLive b = true) ∧ ((s.bolt b).pat = some p) ∧ (p.kids.contains r.from_ = true) ∧ (r.tack < (s.bolt b).tack))
    ∧ (∃ (b : Fin 12) (p : Pattern) (r : TackMsg) (s : State), (s.trace.stopped = false) ∧ ((s.bolt b).pat = some p) ∧ (s.patRuns b = false) ∧ (p.kids.contains r.from_ = true))
    ∧ (∃ (b : Fin 12) (p : Pattern) (d : TackMsg) (s : State), (s.patLive b = true) ∧ ((s.bolt b).pat = some p) ∧ (p.isRoot = false) ∧ (d.tack = (s.bolt b).tack) ∧ ((s.bolt b).decision = none)) :=
  ⟨⟨t0, 0, ⟨0, 9, .running, 0, 0, 0, 0, 0, 0, []⟩, (runs (tl { Tile.reset with flight := [⟨0, 9, .running, 0, 0, 0, 0, 0, 0, []⟩], nextUid := 1 })).modBolt 0 fun x => { x with tack := 1 }, by decide +kernel⟩,
   ⟨t0, 0, ⟨0, 9, .running, 0, 0, 0, 0, 0, 0, []⟩, (runs (tl { Tile.reset with flight := [⟨0, 9, .running, 0, 0, 0, 0, 0, 0, []⟩], nextUid := 1 })), by decide +kernel⟩,
   ⟨t0, 0, ⟨0, 10, .running, 0, 0, 0, 0, 0, 1, []⟩, (runs (tl { Tile.reset with flight := [⟨0, 10, .running, 0, 0, 0, 0, 0, 1, []⟩], nextUid := 1 })), by decide +kernel⟩,
   ⟨t0, 0, ⟨0, 10 + 50 * 2 ^ 64, .running, 0, 0, 0, 0, 0, 0, []⟩, (runs (tl { Tile.reset with flight := [⟨0, 10 + 50 * 2 ^ 64, .running, 0, 0, 0, 0, 0, 0, []⟩], nextUid := 1 })), by decide +kernel⟩,
   ⟨0, pat0, 100, runs (tl Tile.reset), by decide +kernel⟩,
   ⟨0, { pat0 with fabric := true, parent := 3, children := 8 }, (⟨0, false, 0, none, [], 3, false⟩ : TackMsg), (runs (tl Tile.reset)).modBolt 0 fun x => { x with pat := some { pat0 with fabric := true, parent := 3, children := 8 } }, by decide +kernel⟩,
   ⟨0, { pat0 with fabric := true, parent := 3, children := 8 }, (⟨0, false, 0, none, [], 3, false⟩ : TackMsg), ((runs (tl Tile.reset)).modBolt 0 fun x => { x with pat := some { pat0 with fabric := true, parent := 3, children := 8 } }).modBolt 0 fun x => { x with tack := 1 }, by decide +kernel⟩,
   ⟨0, { pat0 with fabric := true, parent := 3, children := 8 }, (⟨0, false, 0, none, [], 3, false⟩ : TackMsg), ((runs (tl Tile.reset)).modBolt 0 fun x => { x with pat := some { pat0 with fabric := true, parent := 3, children := 8 } }).w (.bolt 0) F.PAT_STATUS_STATE 2, by decide +kernel⟩,
   ⟨0, { pat0 with fabric := true, parent := 3, children := 8 }, (⟨0, false, 0, none, [], 3, false⟩ : TackMsg), (runs (tl Tile.reset)).modBolt 0 fun x => { x with pat := some { pat0 with fabric := true, parent := 3, children := 8 } }, by decide +kernel⟩⟩

theorem wit_TackReleases :
    (∃ (b : Fin 12) (p : Pattern) (r : Nat) (s : State), (s.live = true) ∧ ((s.bolt b).pat = some p) ∧ (s.releaseOf b (s.bolt b).tack = some r) ∧ (s.patLive b = true) ∧ ((s.bolt b).pause = .none) ∧ ((s.bolt b).hasOwn = true) ∧ (s.preemptsAt b (s.bolt b).tack = false) ∧ ((s.bolt b).pauseBefore r = false) ∧ ((s.bolt b).decision = none))
    ∧ (∃ (b : Fin 12) (p : Pattern) (r : Nat) (m : TackMsg) (s : State), (s.live = true) ∧ ((s.bolt b).pat = some p) ∧ (s.releaseOf b (s.bolt b).tack = some r) ∧ (s.patLive b = true) ∧ ((s.bolt b).pause = .none) ∧ ((s.bolt b).hasOwn = true) ∧ (s.preemptsAt b (s.bolt b).tack = false) ∧ ((s.bolt b).pauseBefore r = false) ∧ ((s.bolt b).decision = some m) ∧ (m.late = true))
    ∧ (∃ (b : Fin 12) (p : Pattern) (r : Nat) (m : TackMsg) (s : State), (s.live = true) ∧ ((s.bolt b).pat = some p) ∧ (s.releaseOf b (s.bolt b).tack = some r) ∧ (s.patLive b = true) ∧ ((s.bolt b).pause = .none) ∧ ((s.bolt b).hasOwn = true) ∧ (s.preemptsAt b (s.bolt b).tack = false) ∧ ((s.bolt b).pauseBefore r = false) ∧ ((s.bolt b).decision = some m) ∧ (m.late = false) ∧ ((p.fabric = false ∨ (p.fit s.minw).isSome = true)) ∧ ((s.bolt b).stopPend = false))
    ∧ (∃ (b : Fin 12) (p : Pattern) (r : Nat) (m : TackMsg) (s : State), (s.live = true) ∧ ((s.bolt b).pat = some p) ∧ (s.releaseOf b (s.bolt b).tack = some r) ∧ (s.patLive b = true) ∧ ((s.bolt b).pause = .none) ∧ ((s.bolt b).hasOwn = true) ∧ (s.preemptsAt b (s.bolt b).tack = false) ∧ ((s.bolt b).pauseBefore r = false) ∧ ((s.bolt b).decision = some m) ∧ (m.late = false) ∧ ((p.fabric = false ∨ (p.fit s.minw).isSome = true)) ∧ ((s.bolt b).stopPend = true))
    ∧ (∃ (b : Fin 12) (p : Pattern) (r : Nat) (m : TackMsg) (s : State), (s.live = true) ∧ ((s.bolt b).pat = some p) ∧ (s.releaseOf b (s.bolt b).tack = some r) ∧ (s.patLive b = true) ∧ ((s.bolt b).pause = .none) ∧ ((s.bolt b).hasOwn = true) ∧ (s.preemptsAt b (s.bolt b).tack = false) ∧ ((s.bolt b).pauseBefore r = false) ∧ ((s.bolt b).decision = some m) ∧ (m.late = false) ∧ (p.fabric = true) ∧ (p.fit s.minw = none) ∧ ((s.bolt b).restoreTack ≠ some (s.bolt b).tack))
    ∧ (∃ (b : Fin 12) (p : Pattern) (h : Nat) (s : State), (s.patLive b = true) ∧ ((s.bolt b).pat = some p) ∧ ((s.bolt b).release = some h) ∧ ((s.bolt b).pause = .hold) ∧ (s.preemptsAt b (s.bolt b).tack = false) ∧ ((p.fabric = false ∨ (p.fit s.minw).isSome = true)) ∧ ((s.bolt b).stopPend = false))
    ∧ (∃ (b : Fin 12) (p : Pattern) (h : Nat) (s : State), (s.patLive b = true) ∧ ((s.bolt b).pat = some p) ∧ (p.isRoot = false))
    ∧ (∃ (b : Fin 12) (s : State), (s.patRuns b = true) ∧ ((s.bolt b).pause = .hold) ∧ ((s.bolt b).holdFlag = false)) :=
  ⟨⟨0, pat0, 110, (runs (tl Tile.reset)).modBolt 0 fun x => { x with reports := [⟨0, false, 0, none, [], 99, false⟩], tack := 0, decision := none }, by decide +kernel⟩,
   ⟨0, pat0, 110, ⟨0, true, 0, none, [], 99, false⟩, (runs (tl Tile.reset)).modBolt 0 fun x => { x with reports := [⟨0, false, 0, none, [], 99, false⟩], tack := 0, decision := some ⟨0, true, 0, none, [], 99, false⟩ }, by decide +kernel⟩,
   ⟨0, pat0, 110, ⟨0, false, 0, none, [], 99, false⟩, (runs (tl Tile.reset)).modBolt 0 fun x => { x with reports := [⟨0, false, 0, none, [], 99, false⟩], tack := 0, decision := some ⟨0, false, 0, none, [], 99, false⟩ }, by decide +kernel⟩,
   ⟨0, pat0, 110, ⟨0, false, 0, none, [], 99, false⟩, (runs (tl Tile.reset)).modBolt 0 fun x => { x with reports := [⟨0, false, 0, none, [], 99, false⟩], tack := 0, decision := some ⟨0, false, 0, none, [], 99, false⟩, stopPend := true }, by decide +kernel⟩,
   ⟨0, { pat0 with fabric := true, scheds := [⟨[4], 0, [(100, 0)]⟩] }, 110, ⟨0, false, 0, none, [], 99, false⟩, (runs (tl Tile.reset)).modBolt 0 fun x => { x with reports := [⟨0, false, 0, none, [], 99, false⟩], tack := 0, decision := some ⟨0, false, 0, none, [], 99, false⟩, pat := some { pat0 with fabric := true, scheds := [⟨[4], 0, [(100, 0)]⟩] } }, by decide +kernel⟩,
   ⟨0, pat0, 500, (runs (tl Tile.reset)).modBolt 0 fun x => { x with pause := .hold, pauseFrom := 110, release := some 500 }, by decide +kernel⟩,
   ⟨0, { pat0 with fabric := true, parent := 3, children := 8 }, 7, (runs (tl Tile.reset)).modBolt 0 fun x => { x with pat := some { pat0 with fabric := true, parent := 3, children := 8 } }, by decide +kernel⟩,
   ⟨0, (runs (tl Tile.reset)).modBolt 0 fun x => { x with pause := .hold }, by decide +kernel⟩⟩

theorem wit_Pauses :
    (∃ (b : Fin 12) (c : Nat) (p : Pattern) (s : State), (s.patLive b = true) ∧ ((s.bolt b).pat = some p) ∧ (p.isRoot = true))
    ∧ (∃ (b : Fin 12) (c : Nat) (p : Pattern) (s : State), (s.patLive b = true) ∧ ((s.bolt b).pat = some p) ∧ (p.isRoot = false))
    ∧ (∃ (b : Fin 12) (c : Nat) (p : Pattern) (s : State), (s.patLive b = true) ∧ ((s.bolt b).pat = some p) ∧ (p.isRoot = false))
    ∧ (∃ (b : Fin 12) (p : Pattern) (v : Nat) (l : List Nat) (s : State), (s.patLive b = true) ∧ ((s.bolt b).pat = some p) ∧ ((s.bolt b).slips = v :: l) ∧ ((s.bolt b).pause = .none) ∧ ((s.releaseOf b (s.bolt b).tack).any (fun r => decide (r ≤ l.foldl min v)) = false) ∧ ((s.bolt b).paces.any (fun q => decide (q.1 < (s.bolt b).tack)) = false))
    ∧ (∃ (b : Fin 12) (v : Nat) (s : State), (s.trace.stopped = false) ∧ ((s.bolt b).pause = .slip v))
    ∧ (∃ (b : Fin 12) (q : Nat × Nat) (s : State), (s.patLive b = true) ∧ (((s.bolt b).paces.find? fun q => decide (q.1 < (s.bolt b).tack)) = some q) ∧ ((s.bolt b).pause = .none))
    ∧ (∃ (b : Fin 12) (v : Nat) (s : State), (s.trace.stopped = false) ∧ ((s.bolt b).pause = .pace v)) :=
  ⟨⟨0, 5, pat0, runs (tl Tile.reset), by decide +kernel⟩,
   ⟨0, 5, { pat0 with fabric := true, parent := 3, children := 8 }, (runs (tl Tile.reset)).modBolt 0 fun x => { x with pat := some { pat0 with fabric := true, parent := 3, children := 8 } }, by decide +kernel⟩,
   ⟨0, 5, { pat0 with fabric := true, parent := 3, children := 8 }, (runs (tl Tile.reset)).modBolt 0 fun x => { x with pat := some { pat0 with fabric := true, parent := 3, children := 8 } }, by decide +kernel⟩,
   ⟨0, pat0, 20, [10], (runs (tl Tile.reset)).modBolt 0 fun x => { x with slips := [20, 10] }, by decide +kernel⟩,
   ⟨0, 30, (runs (tl Tile.reset)).modBolt 0 fun x => { x with pause := .slip 30, pauseFrom := 25 }, by decide +kernel⟩,
   ⟨0, (1, 5000), (runs (tl Tile.reset)).modBolt 0 fun x => { x with paces := [(1, 5000)], tack := 2, relAt := 110 }, by decide +kernel⟩,
   ⟨0, 30, (runs (tl Tile.reset)).modBolt 0 fun x => { x with pause := .pace 30, pauseFrom := 25 }, by decide +kernel⟩⟩

theorem wit_TapeCommands :
    (∃ (s : State), (s.b .tape F.TAPE_STATUS_ROOT = true) ∧ (s.b .tape F.TAPE_SYNC_CFG_IN_EN = true) ∧ (s.anyStarted = false))
    ∧ (∃ (e : Bool) (s : State), (s.b .tape F.TAPE_STATUS_ROOT = true) ∧ (s.b .tape F.TAPE_SYNC_CFG_IN_EN = true) ∧ ((s.anyStarted || e) = true))
    ∧ (∃ (e : Bool) (s : State), ((s.b .tape F.TAPE_STATUS_ROOT && s.b .tape F.TAPE_SYNC_CFG_IN_EN) = false))
    ∧ (∃ (s : State), (s.b .tape F.TAPE_SYNC_CFG_OUT_EN = true))
    ∧ (∃ (t1 t2 t3 t4 a : Int) (s : State), (s.parentPort.isSome = true) ∧ (s.anyStarted = false))
    ∧ (∃ (t1 t2 t3 t4 a : Int) (s : State), (s.parentPort.isSome = true) ∧ (s.anyStarted = true)) :=
  ⟨⟨(clocked.wb .tape F.TAPE_STATUS_ROOT true).wb .tape F.TAPE_SYNC_CFG_IN_EN true, by decide +kernel⟩,
   ⟨true, ((clocked.wb .tape F.TAPE_STATUS_ROOT true).wb .tape F.TAPE_SYNC_CFG_IN_EN true), by decide +kernel⟩,
   ⟨false, State.reset, by decide +kernel⟩,
   ⟨clocked.wb .tape F.TAPE_SYNC_CFG_OUT_EN true, by decide +kernel⟩,
   ⟨10, 20, 30, 35, 0, childS clocked, by decide +kernel⟩,
   ⟨10, 20, 30, 35, 0, childS (runs clocked), by decide +kernel⟩⟩

theorem wit_PatternLife :
    (∃ (b : Fin 12) (s : State), (s.b (.bolt b) F.PAT_CTRL_LOAD = true) ∧ (s.b .id F.ID_STATUS_READY = true) ∧ (s.patState b ≠ 1) ∧ (s.patState b ≠ 2) ∧ (s.patRuns b = false))
    ∧ (∃ (b : Fin 12) (s : State), (s.b (.bolt b) F.PAT_CTRL_LOAD = true) ∧ ((s.b .id F.ID_STATUS_READY = false ∨ s.patState b = 1 ∨ s.patState b = 2 ∨ s.patRuns b = true)))
    ∧ (∃ (b : Fin 12) (s : State), (s.patState b = 1) ∧ (s.migBusy b = false) ∧ (s.trace.stopped = false) ∧ ((s.admitRead b).any (fun r => (r.2.admitCheck b r.1).isNone) = true) ∧ ((s.bolt b).stopPend = false))
    ∧ (∃ (b : Fin 12) (s : State), (s.patState b = 1) ∧ (s.migBusy b = false) ∧ (s.trace.stopped = false) ∧ ((s.admitRead b).any (fun r => (r.2.admitCheck b r.1).isSome) = true))
    ∧ (∃ (b : Fin 12) (s : State), (s.patState b = 1) ∧ (s.migBusy b = false) ∧ (s.trace.stopped = false) ∧ ((s.retirePending b).runOf ((s.retirePending b).imageBase b) 0x100 = none))
    ∧ (∃ (b : Fin 12) (s : State), (s.b (.bolt b) F.PAT_CTRL_START = true) ∧ (s.patState b = 2) ∧ ((s.bolt b).t0 = none) ∧ ((s.bolt b).stitchAt + 100000 ≤ s.r2 (.bolt b) F.PAT_START_LO_T0 F.PAT_START_HI_T0))
    ∧ (∃ (b : Fin 12) (s : State), (s.b (.bolt b) F.PAT_CTRL_START = true) ∧ (s.patState b = 2) ∧ ((s.bolt b).t0 = none) ∧ (s.r2 (.bolt b) F.PAT_START_LO_T0 F.PAT_START_HI_T0 < (s.bolt b).stitchAt + 100000))
    ∧ (∃ (b : Fin 12) (s : State), (s.b (.bolt b) F.PAT_CTRL_START = true) ∧ ((s.patState b ≠ 2 ∨ (s.bolt b).t0.isSome = true)))
    ∧ (∃ (b : Fin 12) (t : Nat) (s : State), (s.live = true) ∧ (s.patState b = 2) ∧ ((s.bolt b).t0 = some t) ∧ ((s.bolt b).pat.isSome = true))
    ∧ (∃ (b : Fin 12) (s : State), (s.b (.bolt b) F.PAT_CTRL_STOP = true) ∧ ((s.patRuns b = true ∨ s.patState b = 1)))
    ∧ (∃ (b : Fin 12) (s : State), (s.b (.bolt b) F.PAT_CTRL_STOP = true) ∧ (s.patState b = 2))
    ∧ (∃ (b : Fin 12) (s : State), (s.patRuns b = true) ∧ (s.trace.stopped = false) ∧ ((s.boltTiles b).all (fun g => (s.tile g).haltExec) = true)) :=
  ⟨⟨0, (clocked.wb (.bolt 0) F.PAT_CTRL_LOAD true).wb .id F.ID_STATUS_READY true, by decide +kernel⟩,
   ⟨0, clocked.wb (.bolt 0) F.PAT_CTRL_LOAD true, by decide +kernel⟩,
   ⟨0, admitS, by decide +kernel⟩,
   ⟨0, clocked.w (.bolt 0) F.PAT_STATUS_STATE 1, by decide +kernel⟩,
   ⟨0, (clocked.w (.bolt 0) F.PAT_STATUS_STATE 1).w (.bolt 0) F.PAT_IMAGE_HI_ADDR 0xFFFF, by decide +kernel⟩,
   ⟨0, ((clocked.wb (.bolt 0) F.PAT_CTRL_START true).w (.bolt 0) F.PAT_STATUS_STATE 2).w (.bolt 0) F.PAT_START_LO_T0 200000, by decide +kernel⟩,
   ⟨0, (clocked.wb (.bolt 0) F.PAT_CTRL_START true).w (.bolt 0) F.PAT_STATUS_STATE 2, by decide +kernel⟩,
   ⟨0, clocked.wb (.bolt 0) F.PAT_CTRL_START true, by decide +kernel⟩,
   ⟨0, 500, (mapped (qd 0)).w (.bolt 0) F.PAT_STATUS_STATE 2 |>.setBolt 0 { Bolt.reset with pat := some pat0, t0 := some 500 }, by decide +kernel⟩,
   ⟨0, (runs clocked).wb (.bolt 0) F.PAT_CTRL_STOP true, by decide +kernel⟩,
   ⟨0, (clocked.wb (.bolt 0) F.PAT_CTRL_STOP true).w (.bolt 0) F.PAT_STATUS_STATE 2, by decide +kernel⟩,
   ⟨0, runs (tl { Tile.reset with haltExec := true }), by decide +kernel⟩⟩

theorem wit_Contexts :
    (∃ (b : Fin 12) (k : Nat) (l : List Nat) (s : State), (s.boltStacks b = k :: l) ∧ ((k :: l).all (fun k => s.b (.stk k) F.CTX_CTRL_SAVE) = true) ∧ ((s.bolt b).preempt = none) ∧ (s.patRuns b = true) ∧ ((s.b (.stk k) F.CTX_CTRL_AT_TACK && decide (s.r (.stk k) F.CTX_TACK_TACK_NO < (s.bolt b).tack)) = false))
    ∧ (∃ (b : Fin 12) (k : Nat) (l : List Nat) (s : State), (s.boltStacks b = k :: l) ∧ ((k :: l).all (fun k => s.b (.stk k) F.CTX_CTRL_SAVE) = true) ∧ ((s.bolt b).preempt = none) ∧ (s.patRuns b = false))
    ∧ (∃ (b : Fin 12) (k : Nat) (l : List Nat) (s : State), (s.boltStacks b = k :: l) ∧ ((k :: l).all (fun k => s.b (.stk k) F.CTX_CTRL_SAVE) = true) ∧ ((s.bolt b).preempt = none) ∧ (s.patRuns b = true) ∧ ((s.b (.stk k) F.CTX_CTRL_AT_TACK && decide (s.r (.stk k) F.CTX_TACK_TACK_NO < (s.bolt b).tack)) = true))
    ∧ (∃ (b : Fin 12) (r : Nat) (s : State), (s.live = true) ∧ ((s.bolt b).pat.isSome = true) ∧ (s.releaseOf b (s.bolt b).tack = some r) ∧ (s.preemptsAt b (s.bolt b).tack = true) ∧ (s.patRuns b = true) ∧ ((s.bolt b).saving = false) ∧ ((s.boltTiles b).all (fun g => s.savable g true) = true) ∧ ((s.boltTiles b).any ((s.boltTiles b).foldl State.stopWork s).midAccess = false) ∧ ((s.bolt b).pause = .hold))
    ∧ (∃ (b : Fin 12) (s : State), ((s.bolt b).saving = true))
    ∧ (∃ (b : Fin 12) (s : State), (s.boltStacks b ≠ []) ∧ ((s.boltStacks b).all (fun k => s.b (.stk k) F.CTX_CTRL_RESTORE && s.r (.stk k) F.CTX_STATUS_STATE != 4) = true) ∧ (s.patState b = 2) ∧ ((s.restoreCode b).1 = 0))
    ∧ (∃ (b : Fin 12) (s : State), (s.boltStacks b ≠ []) ∧ ((s.boltStacks b).all (fun k => s.b (.stk k) F.CTX_CTRL_RESTORE && s.r (.stk k) F.CTX_STATUS_STATE != 4) = true) ∧ (s.patState b = 2) ∧ ((s.restoreCode b).1 ≠ 0))
    ∧ (∃ (b : Fin 12) (s : State), (s.boltStacks b ≠ []) ∧ ((s.boltStacks b).all (fun k => s.b (.stk k) F.CTX_CTRL_RESTORE && s.r (.stk k) F.CTX_STATUS_STATE != 4) = true) ∧ (s.patState b ≠ 2))
    ∧ (∃ (b : Fin 12) (p : Pattern) (s : State), (s.live = true) ∧ ((s.bolt b).pat = some p) ∧ (s.boltStacks b ≠ []) ∧ (s.patState b = 2) ∧ ((s.boltStacks b).all (fun k => s.r (.stk k) F.CTX_STATUS_STATE == 4) = true)) :=
  ⟨⟨0, 0, [], (((runs clocked).wb (.stk 0) F.CTX_CTRL_SAVE true).wb (.stk 0) F.CTX_CTRL_AT_TACK true).w (.stk 0) F.CTX_TACK_TACK_NO 2, by decide +kernel⟩,
   ⟨0, 0, [], ((((runs clocked).wb (.stk 0) F.CTX_CTRL_SAVE true).wb (.stk 0) F.CTX_CTRL_AT_TACK true).w (.stk 0) F.CTX_TACK_TACK_NO 2).w (.bolt 0) F.PAT_STATUS_STATE 7, by decide +kernel⟩,
   ⟨0, 0, [], ((((runs clocked).wb (.stk 0) F.CTX_CTRL_SAVE true).wb (.stk 0) F.CTX_CTRL_AT_TACK true).w (.stk 0) F.CTX_TACK_TACK_NO 2).modBolt 0 fun x => { x with tack := 3 }, by decide +kernel⟩,
   ⟨0, 110, (runs0 clocked).modBolt 0 fun x => { x with pause := .hold, preempt := some none }, by decide +kernel⟩,
   ⟨0, (runs (tl Tile.reset)).modBolt 0 fun x => { x with saving := true, preempt := some none }, by decide +kernel⟩,
   ⟨0, restS, by decide +kernel⟩,
   ⟨0, { restS with mem := [] }, by decide +kernel⟩,
   ⟨0, restS.w (.bolt 0) F.PAT_STATUS_STATE 0, by decide +kernel⟩,
   ⟨0, { pat0 with tiles := [] }, restS.w (.stk 0) F.CTX_STATUS_STATE 4, by decide +kernel⟩⟩

theorem wit_RegisterWrites :
    (∃ (q : Req) (k : Blk) (r : RegSpec) (i off : Nat) (val : DWord) (s : State), (s.reaches q = true) ∧ (off % 4 = 0) ∧ (regAt off = some (k, r, i)) ∧ (s.inReset k = false) ∧ (s.barred q .bus k (off - k.base) = false) ∧ (s.mayWrite q (s.scopeOf k (off - k.base)) = true) ∧ (r.writable = true) ∧ (r.isRwt = false) ∧ ((match k with | .id => true | .tape => true | .bolt _ => true | .stk _ => true | .nbu _ => true | _ => false) = true) ∧ (r.badWrite (val.truncate 32) = false))
    ∧ (∃ (q : Req) (k : Blk) (r : RegSpec) (i off : Nat) (val : DWord) (s : State), (s.reaches q = true) ∧ (off % 4 = 0) ∧ (regAt off = some (k, r, i)) ∧ (s.inReset k = false) ∧ (s.barred q .bus k (off - k.base) = false) ∧ (s.mayWrite q (s.scopeOf k (off - k.base)) = true) ∧ (r.writable = true) ∧ (r.isRwt = false) ∧ ((match k with | .id => true | .tape => true | .bolt _ => true | .stk _ => true | .nbu _ => true | _ => false) = true) ∧ (r.badWrite (val.truncate 32) = true))
    ∧ (∃ (q : Req) (off : Nat) (val : DWord) (s : State), (s.reaches q = true) ∧ (off % 4 = 0) ∧ (regAt off = none))
    ∧ (∃ (q : Req) (k : Blk) (r : RegSpec) (i off : Nat) (val : DWord) (s : State), (s.reaches q = true) ∧ (off % 4 = 0) ∧ (regAt off = some (k, r, i)) ∧ (s.inReset k = false) ∧ (r.writable = true) ∧ ((s.barred q .bus k (off - k.base) || !s.mayWrite q (s.scopeOf k (off - k.base))) = true))
    ∧ (∃ (q : Req) (k : Blk) (r : RegSpec) (i off : Nat) (val : DWord) (s : State), (s.reaches q = true) ∧ (off % 4 = 0) ∧ (regAt off = some (k, r, i)) ∧ ((s.inReset k || !r.writable) = true))
    ∧ (∃ (q : Req) (off : Nat) (val : DWord) (s : State), (s.reaches q = true) ∧ (off % 8 = 0))
    ∧ (∃ (p : Port) (q : Req) (bar : Bar) (off n : Nat) (val : DWord) (s : State), (Req.port? q = some p) ∧ (s.portOn p.n = true) ∧ (sizeFits off n = false))
    ∧ (∃ (p : Port) (q : Req) (bar : Bar) (off n : Nat) (val : DWord) (s : State), (Req.port? q = some p) ∧ (s.portOn p.n = true))
    ∧ (∃ (p : Port) (q : Req) (bar : Bar) (off n : Nat) (val : DWord) (s : State), (Req.port? q = some p) ∧ (s.portOn p.n = true) ∧ ((s.hport p.n).ecrcCheck = true))
    ∧ (∃ (p : Port) (q : Req) (off : Nat) (val : DWord) (s : State), (Req.port? q = some p) ∧ (s.reaches q = true) ∧ (off % 4 = 0) ∧ (bar4At off = none)) :=
  ⟨⟨.p0, ((regAt ((Blk.stk 0).base + 0x2024)).elim .id (·.1)), ((regAt ((Blk.stk 0).base + 0x2024)).elim ⟨"", 0, 0, 0, 0, false, false, []⟩ (·.2.1)), ((regAt ((Blk.stk 0).base + 0x2024)).elim 0 (·.2.2)), (Blk.stk 0).base + 0x2024, 3, upS, by decide +kernel⟩,
   ⟨.p0, ((regAt ((Blk.stk 0).base + 0x2024)).elim .id (·.1)), ((regAt ((Blk.stk 0).base + 0x2024)).elim ⟨"", 0, 0, 0, 0, false, false, []⟩ (·.2.1)), ((regAt ((Blk.stk 0).base + 0x2024)).elim 0 (·.2.2)), (Blk.stk 0).base + 0x2024, 0x60, upS, by decide +kernel⟩,
   ⟨.p0, 28, 3, upS, by decide +kernel⟩,
   ⟨.p1, ((regAt ((Blk.stk 0).base + 0x2024)).elim .id (·.1)), ((regAt ((Blk.stk 0).base + 0x2024)).elim ⟨"", 0, 0, 0, 0, false, false, []⟩ (·.2.1)), ((regAt ((Blk.stk 0).base + 0x2024)).elim 0 (·.2.2)), (Blk.stk 0).base + 0x2024, 3, upS.setHport 1 { HostPort.reset with linkUp := true }, by decide +kernel⟩,
   ⟨.p0, ((regAt (0)).elim .id (·.1)), ((regAt (0)).elim ⟨"", 0, 0, 0, 0, false, false, []⟩ (·.2.1)), ((regAt (0)).elim 0 (·.2.2)), 0, 3, upS, by decide +kernel⟩,
   ⟨.p0, 0, 3, upS, by decide +kernel⟩,
   ⟨.p0, .p0, .bar0, 2, 4, 3, upS, by decide +kernel⟩,
   ⟨.p1, .p1, .bar0, 0, 4, 3, upS.setHport 1 { HostPort.reset with linkUp := true }, by decide +kernel⟩,
   ⟨.p1, .p1, .bar0, 0, 4, 3, upS.setHport 1 { HostPort.reset with linkUp := true, ecrcCheck := true }, by decide +kernel⟩,
   ⟨.p0, .p0, 0x10080, 3, upS, by decide +kernel⟩⟩

theorem wit_RegisterReads :
    (∃ (q : Req) (k : Blk) (r : RegSpec) (i off : Nat) (s : State), (s.reaches q = true) ∧ (off % 4 = 0) ∧ (regAt off = some (k, r, i)) ∧ (s.inReset k = false) ∧ ((match k with | .tile _ => false | _ => true) = true) ∧ (loReg k (off - k.base) = true) ∧ (s.latch.find (latchKey q.n off) = none))
    ∧ (∃ (q : Req) (k : Blk) (r : RegSpec) (i off : Nat) (v : BitVec 32) (s : State), (s.reaches q = true) ∧ (off % 4 = 0) ∧ (regAt off = some (k, r, i)) ∧ (s.inReset k = false) ∧ ((match k with | .tile _ => false | _ => true) = true) ∧ (s.latch.find (latchKey q.n off) = some v))
    ∧ (∃ (q : Req) (k : Blk) (r : RegSpec) (i off : Nat) (s : State), (s.reaches q = true) ∧ (off % 4 = 0) ∧ (regAt off = some (k, r, i)) ∧ (s.inReset k = false) ∧ ((match k with | .tile _ => false | _ => true) = true) ∧ (loReg k (off - k.base) = false) ∧ (s.latch.find (latchKey q.n off) = none))
    ∧ (∃ (q : Req) (off : Nat) (s : State), (s.reaches q = true) ∧ (off % 4 = 0) ∧ (((regAt off).all fun x => s.inReset x.1) = true)) :=
  ⟨⟨.p0, ((regAt (Blk.tape.base)).elim .id (·.1)), ((regAt (Blk.tape.base)).elim ⟨"", 0, 0, 0, 0, false, false, []⟩ (·.2.1)), ((regAt (Blk.tape.base)).elim 0 (·.2.2)), Blk.tape.base, upS.advanceTo (7 * 2 ^ 32), by decide +kernel⟩,
   ⟨.p0, ((regAt (Blk.tape.base + 4)).elim .id (·.1)), ((regAt (Blk.tape.base + 4)).elim ⟨"", 0, 0, 0, 0, false, false, []⟩ (·.2.1)), ((regAt (Blk.tape.base + 4)).elim 0 (·.2.2)), Blk.tape.base + 4, 7, { upS with latch := [(latchKey 0 (Blk.tape.base + 4), 7)] }, by decide +kernel⟩,
   ⟨.p0, ((regAt (0)).elim .id (·.1)), ((regAt (0)).elim ⟨"", 0, 0, 0, 0, false, false, []⟩ (·.2.1)), ((regAt (0)).elim 0 (·.2.2)), 0, upS, by decide +kernel⟩,
   ⟨.p0, 28, upS, by decide +kernel⟩⟩

theorem wit_LoneWrite : ∃ (q : Req) (k : Blk) (r : RegSpec) (i off : Nat) (val : Word) (s : State), (s.reaches q = true) ∧ ((Instr.rwtLoneWrite q off val).wf = true) ∧ (regAt off = some (k, r, i)) ∧ (r.isRwt = true) ∧ (r.paired = true) ∧ (s.inReset k = false) ∧ (s.barred q .bus k (off - k.base) = false) ∧ (s.mayWrite q (s.scopeOf k (off - k.base)) = true) ∧ (((s.txnExpire q.n).txn q.n).isOpen = false) :=
  ⟨.p0, ((regAt ((Blk.bolt 0).base + F.BOLT_STACKS_STACKS.off)).elim .id (·.1)), ((regAt ((Blk.bolt 0).base + F.BOLT_STACKS_STACKS.off)).elim ⟨"", 0, 0, 0, 0, false, false, []⟩ (·.2.1)), ((regAt ((Blk.bolt 0).base + F.BOLT_STACKS_STACKS.off)).elim 0 (·.2.2)), (Blk.bolt 0).base + F.BOLT_STACKS_STACKS.off, 1, upS, by decide +kernel⟩

theorem wit_TileRegisters :
    (∃ (q : Req) (t : Site) (i : CoreInstr) (s : State), (s.grants q (.tile t.g) F.CC_CTRL_RUN.off = true) ∧ ((s.tile t.g).faulted = false) ∧ ((s.tile t.g).run = false) ∧ ((s.tile t.g).codeOk = true) ∧ (s.clocked t.g = true) ∧ ((s.fetchInstr t.g).1 = .instr i))
    ∧ (∃ (q : Req) (t : Site) (s : State), (s.grants q (.tile t.g) F.CC_CTRL_RUN.off = true))
    ∧ (∃ (q : Req) (t : Site) (s : State), (s.grants q (.tile t.g) F.CC_CTRL_RUN.off = true) ∧ ((s.tile t.g).run = true))
    ∧ (∃ (q : Req) (t : Site) (i : CoreInstr) (s : State), (s.grants q (.tile t.g) F.CC_CTRL_STEP.off = true) ∧ ((s.tile t.g).coreFree = true) ∧ ((s.tile t.g).run = false) ∧ ((s.tile t.g).codeOk = true) ∧ (s.clocked t.g = true) ∧ ((s.fetchInstr t.g).1 = .instr i))
    ∧ (∃ (q : Req) (t : Site) (s : State), (s.reaches q = true) ∧ (s.inReset (.tile t.g) = false) ∧ (q ≠ .hkc) ∧ ((s.stackRuns (t.g / 160) = true ∨ (s.tile t.g).mode = .running)))
    ∧ (∃ (q : Req) (t : Site) (s : State), (s.reaches q = true) ∧ (s.inReset (.tile t.g) = false) ∧ (q ≠ .hkc) ∧ ((s.stackRuns (t.g / 160) = true ∨ (s.tile t.g).mode = .running)))
    ∧ (∃ (q : Req) (t : Site) (s : State), (s.reaches q = true) ∧ (s.inReset (.tile t.g) = false) ∧ (q ≠ .hkc) ∧ ((s.stackRuns (t.g / 160) = true ∨ (s.tile t.g).mode = .running)))
    ∧ (∃ (q : Req) (t : Site) (l : List (BitVec 8)) (s : State), (s.reaches q = true) ∧ (s.inReset (.tile t.g) = false) ∧ ((s.fetch (s.memAddr t.g) 4).1.toOption = some l))
    ∧ (∃ (q : Req) (t : Site) (val : Word) (s : State), (s.grants q (.tile t.g) F.CC_MEM_DATA_DATA.off = true) ∧ ((s.storeCw (s.memAddr t.g) (leBytes 4 val.toNat)).1 = true))
    ∧ (∃ (q : Req) (t : Site) (val : Word) (s : State), (s.reaches q = true) ∧ (s.inReset (.tile t.g) = false) ∧ (q ≠ .hkc) ∧ ((s.stackRuns (t.g / 160) = true ∨ (s.tile t.g).mode = .running)))
    ∧ (∃ (t : Site) (rd : BitVec 5) (i : BitVec 16) (v : BitVec 32) (y : State) (s : State), (s.coreAt t.g (.csrr rd i)) ∧ (i.toNat * 4 < 0x1000) ∧ ((s.coreNow t.g (.csrr rd i)).regRead 4 ((Blk.tile t.g).base + i.toNat * 4) = (some v, y)))
    ∧ (∃ (t : Site) (a : BitVec 5) (i : BitVec 16) (s : State), (s.coreAt t.g (.csrw a i)) ∧ (i.toNat * 4 < 0x1000))
    ∧ (∃ (t : Site) (a : BitVec 5) (i : BitVec 16) (k : Blk) (r : RegSpec) (j : Nat) (s : State), (s.coreAt t.g (.csrw a i)) ∧ (i.toNat * 4 < 0x60) ∧ (i.toNat * 4 ≠ F.CQ_DONE_WAIT_SEQ.off) ∧ (regAt ((Blk.tile t.g).base + i.toNat * 4) = some (k, r, j)) ∧ (s.inReset (.tile t.g) = false)) :=
  ⟨⟨.p0, t0, .halt, upCore, by decide +kernel⟩,
   ⟨.hkc, t0, core .halt, by decide +kernel⟩,
   ⟨.hkc, t0, core .halt, by decide +kernel⟩,
   ⟨.p0, t0, .halt, upCore, by decide +kernel⟩,
   ⟨.p0, t0, upCore.modTile 0 fun x => { x with run := true }, by decide +kernel⟩,
   ⟨.p0, t0, upCore.modTile 0 fun x => { x with run := true }, by decide +kernel⟩,
   ⟨.p0, t0, upCore.modTile 0 fun x => { x with run := true }, by decide +kernel⟩,
   ⟨.p0, t0, leBytes 4 (encodeCore .halt).toNat, upCore, by decide +kernel⟩,
   ⟨.p0, t0, 5, upCore, by decide +kernel⟩,
   ⟨.p0, t0, 5, upCore.modTile 0 fun x => { x with run := true }, by decide +kernel⟩,
   ⟨t0, 3, 0, 0x7FFFF00, ((core (.csrr 3 0)).coreNow t0.g (.csrr 3 0)), core (.csrr 3 0), by decide +kernel⟩,
   ⟨t0, 3, 0, core (.csrw 3 0), by decide +kernel⟩,
   ⟨t0, 3, BitVec.ofNat 16 (F.CC_CTRL_RUN.off / 4), ((regAt ((Blk.tile 0).base + F.CC_CTRL_RUN.off)).elim .id (·.1)), ((regAt ((Blk.tile 0).base + F.CC_CTRL_RUN.off)).elim ⟨"", 0, 0, 0, 0, false, false, []⟩ (·.2.1)), ((regAt ((Blk.tile 0).base + F.CC_CTRL_RUN.off)).elim 0 (·.2.2)), core (.csrw 3 (BitVec.ofNat 16 (F.CC_CTRL_RUN.off / 4))), by decide +kernel⟩⟩

theorem wit_MemoryLines :
    (∃ (t : Site) (off : Nat) (d : List (BitVec 8)) (s : State), ((Instr.privateRead t off).wf = true) ∧ (s.tileHeld t.g = false) ∧ (s.memLive = true) ∧ (((s.bankTake (sliceAt t.g off) (s.bankTurn (sliceAt t.g off) s.tape)).fetch (sliceAt t.g off) 64).1.toOption = some d))
    ∧ (∃ (t : Site) (off : Nat) (s : State), ((Instr.privateRead t off).wf = true) ∧ (s.tileHeld t.g = false) ∧ (s.memLive = true) ∧ (((s.bankTake (sliceAt t.g off) (s.bankTurn (sliceAt t.g off) s.tape)).fetch (sliceAt t.g off) 64).1.toOption = none))
    ∧ (∃ (t : Site) (off : Nat) (d : List Byte) (s : State), (Mem.wf s.mem) ∧ ((Instr.privateWrite t off d).wf = true) ∧ (s.tileHeld t.g = false) ∧ (s.sidebandDead t.g = false) ∧ (s.memLive = true))
    ∧ (∃ (e : Fin 12) (off : Nat) (r : Option (Site × Nat)) (d : List (BitVec 8)) (s : State), ((Instr.edgeLineRequest e off none r).wf = true) ∧ (s.edgeFree e.val off 0 r = true) ∧ (s.dieHeld (e.val / 3) = false) ∧ (s.memLive = true) ∧ ((((s.edgeGo e.val off 0 r).2.scheduled e.val (e.val * edgeBytes + off) false false (s.edgeGo e.val off 0 r).1 r).2.fetch (e.val * edgeBytes + off) 64).1.toOption = some d))
    ∧ (∃ (e : Fin 12) (off : Nat) (r : Option (Site × Nat)) (s : State), ((Instr.edgeLineRequest e off none r).wf = true) ∧ (s.edgeFree e.val off 0 r = true) ∧ (s.dieHeld (e.val / 3) = false) ∧ (s.memLive = true) ∧ ((((s.edgeGo e.val off 0 r).2.scheduled e.val (e.val * edgeBytes + off) false false (s.edgeGo e.val off 0 r).1 r).2.fetch (e.val * edgeBytes + off) 64).1.toOption = none))
    ∧ (∃ (e : Fin 12) (off : Nat) (r : Option (Site × Nat)) (d : List Byte) (s : State), ((Instr.edgeLineRequest e off (some d) r).wf = true) ∧ (s.edgeFree e.val off 1 r = true) ∧ (s.dieHeld (e.val / 3) = false) ∧ (s.memLive = true))
    ∧ (∃ (t : Site) (e : Fin 12) (wait off : Nat) (wr : Bool) (s : State), (s.clearOf (chanOf (e.val * edgeBytes + off)) s.tape = s.tape) ∧ ((s.crossing t.g (dieOf e.val) wr s.tape).1 = s.tape) ∧ (off < edgeBytes) ∧ (wait ≠ 0))
    ∧ (∃ (e : Fin 12) (off : Nat) (r : Option (Site × Nat)) (d : List (BitVec 8)) (s : State), ((Instr.needleRead e off r).wf = true) ∧ (s.edgeFree e.val off 2 r = true) ∧ (s.dieHeld (e.val / 3) = false) ∧ (s.memLive = true) ∧ ((((s.edgeGo e.val off 2 r).2.scheduled e.val (e.val * edgeBytes + off / 64 * 64) true false (s.edgeGo e.val off 2 r).1 r).2.fetch (e.val * edgeBytes + off / 64 * 64) 64).1.toOption = some d))
    ∧ (∃ (t : Site) (e : Fin 12) (off wait : Nat) (s : State), ((Instr.edgeLineRequest e off none (some (t, wait))).wf = true) ∧ (s.dieHeld (e.val / 3) = false) ∧ (s.memLive = true) ∧ (s.bellClaims (s.waitOf t.g none off 0 e.val).bells (off / 64 * 64) 64 = true))
    ∧ (∃ (t : Site) (e : Fin 12) (off wait : Nat) (s : State), ((Instr.needleRead e off (some (t, wait))).wf = true) ∧ (s.dieHeld (e.val / 3) = false) ∧ (s.memLive = true) ∧ (s.bellClaims (s.waitOf t.g none off 2 e.val).bells (off / 64 * 64) 64 = true))
    ∧ (∃ (e : Fin 12) (off : Nat) (d : List (BitVec 8)) (s : State), ((Instr.claimedLineRead e off).wf = true) ∧ ((s.fetch (e.val * edgeBytes + off) 64).1.toOption = some d))
    ∧ (∃ (e : Fin 12) (off : Nat) (d : List Byte) (s : State), ((Instr.claimedLineWrite e off d).wf = true)) :=
  ⟨⟨t0, 64, List.replicate 64 0, clocked.advanceTo 5, by decide +kernel⟩,
   ⟨t0, 64, { clocked with errs := [(sliceAt 0 64, ⟨[], true⟩)] }, by decide +kernel⟩,
   ⟨t0, 64, List.replicate 64 5, clocked, by decide +kernel⟩,
   ⟨0, 64, some (t0, 5), List.replicate 64 0, clocked.advanceTo 100, by decide +kernel⟩,
   ⟨0, 64, none, { clocked with errs := [(64, ⟨[], true⟩)] }, by decide +kernel⟩,
   ⟨0, 64, none, List.replicate 64 5, clocked, by decide +kernel⟩,
   ⟨t0, 3, 5, 64, false, clocked.advanceTo 100, by decide +kernel⟩,
   ⟨0, 80, some (t0, 0), List.replicate 64 0, clocked, by decide +kernel⟩,
   ⟨t0, 0, 8192, 0, claimS 8192 0, by decide +kernel⟩,
   ⟨t0, 0, 8192, 0, claimS 8192 2, by decide +kernel⟩,
   ⟨0, 64, List.replicate 64 0, clocked, by decide +kernel⟩,
   ⟨0, 64, List.replicate 64 5, clocked, by decide +kernel⟩⟩

theorem wit_HostMemory :
    (∃ (p : Port) (h n : Nat) (l : List (Nat × Nat)) (d : List (BitVec 8)) (s : State), (s.portOn p.n = true) ∧ (s.bar2Req p.n h n = some l) ∧ (l ≠ []) ∧ (l.any (fun x => s.cutOff p.n x.1) = false) ∧ ((s.readPieces l).1 = some d))
    ∧ (∃ (p : Port) (h n : Nat) (l : List (Nat × Nat)) (s : State), (s.portOn p.n = true) ∧ (s.bar2Req p.n h n = some l) ∧ (l ≠ []) ∧ (l.any (fun x => s.cutOff p.n x.1) = false) ∧ ((s.readPieces l).1 = none))
    ∧ (∃ (p : Port) (h n : Nat) (l : List (Nat × Nat)) (s : State), (s.portOn p.n = true) ∧ (s.bar2Req p.n h n = some l) ∧ (l.any (fun x => s.cutOff p.n x.1) = true))
    ∧ (∃ (p : Port) (h n : Nat) (s : State), (s.portOn p.n = true) ∧ (s.bar2Req p.n h n = some []))
    ∧ (∃ (p : Port) (h n : Nat) (s : State), (s.portOn p.n = true) ∧ (s.bar2Req p.n h n = none))
    ∧ (∃ (p : Port) (h : Nat) (d : List Byte) (l : List (Nat × Nat)) (s : State), (s.portOn p.n = true) ∧ (s.bar2Req p.n h d.length = some l) ∧ (l.any (fun x => s.cutOff p.n x.1) = false))
    ∧ (∃ (p : Port) (h a : Nat) (d : List Byte) (s : State), (s.portOn p.n = true) ∧ (d.length = 64) ∧ (s.bar2Req p.n h 64 = some [(a, 64)]) ∧ (s.cutOff p.n a = false) ∧ (a % 64 = 0))
    ∧ (∃ (p : Port) (h : Nat) (d : List Byte) (l : List (Nat × Nat)) (s : State), (s.portOn p.n = true) ∧ (s.bar2Req p.n h d.length = some l) ∧ (l.any (fun x => s.cutOff p.n x.1) = true))
    ∧ (∃ (p : Port) (h : Nat) (d : List Byte) (s : State), (s.portOn p.n = true))
    ∧ (∃ (p : Port) (h : Nat) (d : List Byte) (s : State), (s.portOn p.n = true) ∧ ((s.hport p.n).ecrcCheck = true))
    ∧ (∃ (p : Port) (h : Nat) (d : List Byte) (s : State), (s.portOn p.n = true) ∧ (s.bar2Req p.n h d.length = none)) :=
  ⟨⟨.p0, 32, 64, [(32, 32), (64, 32)], List.replicate 64 0, bar2S, by decide +kernel⟩,
   ⟨.p0, 64, 32, [(64, 32)], { bar2S with errs := [(64, ⟨[], true⟩)] }, by decide +kernel⟩,
   ⟨.p0, 9 * 4096, 32, [(9 * edgeBytes, 32)], cutS, by decide +kernel⟩,
   ⟨.p0, 64, 0, bar2S, by decide +kernel⟩,
   ⟨.p0, 64, 32, upS, by decide +kernel⟩,
   ⟨.p0, 64, [1, 2], [(64, 2)], bar2S, by decide +kernel⟩,
   ⟨.p0, 64, 64, List.replicate 64 7, bar2S, by decide +kernel⟩,
   ⟨.p0, 9 * 4096, [1, 2], [(9 * edgeBytes, 2)], cutS, by decide +kernel⟩,
   ⟨.p0, 64, [1, 2], upS, by decide +kernel⟩,
   ⟨.p0, 64, [1, 2], upS.setHport 0 { HostPort.reset with linkUp := true, ecrcCheck := true }, by decide +kernel⟩,
   ⟨.p0, 64, [1], upS, by decide +kernel⟩⟩

theorem wit_MemoryUpkeep :
    (∃ (t : Site) (off : Nat) (s : State), ((Instr.scrubRead (.slice t off)).wf = true) ∧ (s.scrubOn (.slice t off) = true) ∧ (s.idleSlot (LineRef.addr (.slice t off)) = true) ∧ (s.memLive = true))
    ∧ (∃ (e : Fin 12) (off : Nat) (s : State), ((Instr.scrubRead (.edge e off)).wf = true) ∧ (s.scrubOn (.edge e off) = true) ∧ (s.idleSlot (LineRef.addr (.edge e off)) = true) ∧ (s.memLive = true))
    ∧ (∃ (l : LineRef) (ps : List Nat) (s : State), ((Instr.scrubRead l).wf = true) ∧ (s.scrubOn l = true) ∧ (s.idleSlot l.addr = true) ∧ (s.memLive = true) ∧ (s.verdict l.addr = .corrected ps))
    ∧ (∃ (t : Site) (h : Fin 2) (need : Nat) (s : State), (s.therm.selfRefresh = false))
    ∧ (∃ (e : Fin 12) (h : Fin 32) (need : Nat) (s : State), (s.therm.selfRefresh = false) ∧ (s.dieHeld (e.val / 3) = false))
    ∧ (∃ (q : Req) (k : Fin 12) (val : Word) (s : State), (s.grants q (.stk k.val) F.PMEM_FLIP_CTRL_ARM.off = true))
    ∧ (∃ (q : Req) (k : Fin 12) (val : Word) (s : State), (s.grants q (.edge k.val) F.EDGE_FLIP_CTRL_ARM.off = true))
    ∧ (∃ (q : Req) (e : Fin 12) (val : Word) (s : State), (s.grants q (.edge e.val) F.EDGE_MARGIN_CTRL_START.off = true) ∧ ((s.edgeClaimed e.val || s.b (.edge e.val) F.EDGE_MARGIN_STAT_BUSY) = false))
    ∧ (∃ (q : Req) (e : Fin 12) (val : Word) (s : State), (s.grants q (.edge e.val) F.EDGE_MARGIN_CTRL_START.off = true) ∧ ((s.edgeClaimed e.val || s.b (.edge e.val) F.EDGE_MARGIN_STAT_BUSY) = true))
    ∧ (∃ (e : Fin 12) (a b c d : Byte) (s : State), (s.b (.edge e.val) F.EDGE_MARGIN_STAT_BUSY = true)) :=
  ⟨⟨t0, 64, clocked.wb (.stk 0) F.PMEM_CFG_SCRUB_EN true, by decide +kernel⟩,
   ⟨0, 64, clocked.wb (.edge 0) F.EDGE_CFG_SCRUB_EN true, by decide +kernel⟩,
   ⟨.edge 0 64, [3], { clocked.wb (.edge 0) F.EDGE_CFG_SCRUB_EN true with errs := [(64, ⟨[(3, 1)], false⟩)] }, by decide +kernel⟩,
   ⟨t0, 0, 1, clocked, by decide +kernel⟩,
   ⟨0, 3, 1, clocked, by decide +kernel⟩,
   ⟨.p0, 0, 0, upS, by decide +kernel⟩,
   ⟨.p0, 0, 0, upS, by decide +kernel⟩,
   ⟨.p0, 0, 0, upS, by decide +kernel⟩,
   ⟨.p0, 0, 0, upS.wb (.edge 0) F.EDGE_MARGIN_STAT_BUSY true, by decide +kernel⟩,
   ⟨0, 1, 2, 3, 4, clocked.wb (.edge 0) F.EDGE_MARGIN_STAT_BUSY true, by decide +kernel⟩⟩

theorem wit_NbuOperations :
    (∃ (e : Fin 12) (u : Fin 32) (r : Fin 4) (st : Nat) (s : State), (s.nbuVerdict (nbuNo e.val u.val) r.val 0x10 = some st))
    ∧ (∃ (e : Fin 12) (u : Fin 32) (r : Fin 4) (st : Nat) (s : State), (s.nbuVerdict (nbuNo e.val u.val) r.val 0x20 = some st))
    ∧ (∃ (e : Fin 12) (u : Fin 32) (r : Fin 4) (st : Nat) (s : State), (s.nbuVerdict (nbuNo e.val u.val) r.val 0x30 = some st))
    ∧ (∃ (e : Fin 12) (u : Fin 32) (r : Fin 4) (st : Nat) (s : State), (s.nbuVerdict (nbuNo e.val u.val) r.val 0x40 = some st))
    ∧ (∃ (e : Fin 12) (u : Fin 32) (r : Fin 4) (st : Nat) (s : State), (s.nbuVerdict (nbuNo e.val u.val) r.val 0x50 = some st))
    ∧ (∃ (e : Fin 12) (u : Fin 32) (r : Fin 4) (st : Nat) (s : State), (s.nbuVerdict (nbuNo e.val u.val) r.val 0x60 = some st))
    ∧ (∃ (e : Fin 12) (u : Fin 32) (r : Fin 4) (st : Nat) (s : State), (s.nbuVerdict (nbuNo e.val u.val) r.val 0x70 = some st))
    ∧ (∃ (e : Fin 12) (u : Fin 32) (r : Fin 4) (st : Nat) (s : State), (s.nbuVerdict (nbuNo e.val u.val) r.val 0x90 = some st))
    ∧ (∃ (e : Fin 12) (u : Fin 32) (r : Fin 4) (st : Nat) (s : State), (s.nbuVerdict (nbuNo e.val u.val) r.val 0x91 = some st))
    ∧ (∃ (e : Fin 12) (u : Fin 32) (r : Fin 4) (st : Nat) (s : State), (s.nbuVerdict (nbuNo e.val u.val) r.val 0x92 = some st)) :=
  ⟨⟨0, 0, 0, 0, ring (1 + 3 * 2 ^ 28 + 0x4000 * 2 ^ 64 + 2 ^ 320), by decide +kernel⟩,
   ⟨0, 0, 0, 0, ring (2 + 0x1000 * 2 ^ 64 + 0x2000 * 2 ^ 128 + 64 * 2 ^ 192), by decide +kernel⟩,
   ⟨0, 0, 0, 0, ring (3 + 0x2000 * 2 ^ 128 + 64 * 2 ^ 192), by decide +kernel⟩,
   ⟨0, 0, 0, 0, ring (4 + 0x1000 * 2 ^ 64 + 0x2000 * 2 ^ 128 + 64 * 2 ^ 192), by decide +kernel⟩,
   ⟨0, 0, 0, 0, ring (5 + 0x1000 * 2 ^ 64 + 64 * 2 ^ 192), by decide +kernel⟩,
   ⟨0, 0, 0, 0, ring (6 + 0x1000 * 2 ^ 64 + 0x2000 * 2 ^ 128 + 0x3000 * 2 ^ 256 + 2 ^ 320), by decide +kernel⟩,
   ⟨0, 0, 0, 0, ring (7 + 0x1000 * 2 ^ 64 + 0x2000 * 2 ^ 128 + 0x3000 * 2 ^ 256 + 2 ^ 320), by decide +kernel⟩,
   ⟨0, 0, 0, 0, ring (9 + 0x1000 * 2 ^ 64 + 64 * 2 ^ 192), by decide +kernel⟩,
   ⟨0, 0, 0, 0, ring (9 + 2 ^ 16 + 0x1000 * 2 ^ 64 + 64 * 2 ^ 192), by decide +kernel⟩,
   ⟨0, 0, 0, 0, ring (9 + 2 * 2 ^ 16 + 0x1000 * 2 ^ 64 + 0x2000 * 2 ^ 128 + 512 * 2 ^ 192), by decide +kernel⟩⟩

theorem wit_NbuTableAndTree :
    (∃ (e : Fin 12) (u : Fin 32) (r : Fin 4) (st : Nat) (s : State), (s.nbuVerdict (nbuNo e.val u.val) r.val 0xa0 = some st))
    ∧ (∃ (e : Fin 12) (u : Fin 32) (r : Fin 4) (st : Nat) (s : State), (s.nbuVerdict (nbuNo e.val u.val) r.val 0xa1 = some st))
    ∧ (∃ (e : Fin 12) (u : Fin 32) (r : Fin 4) (st : Nat) (s : State), (s.nbuVerdict (nbuNo e.val u.val) r.val 0xa2 = some st))
    ∧ (∃ (e : Fin 12) (u : Fin 32) (r : Fin 4) (st : Nat) (s : State), (s.nbuVerdict (nbuNo e.val u.val) r.val 0x80 = some st))
    ∧ (∃ (e : Fin 12) (u : Fin 32) (r : Fin 4) (st : Nat) (s : State), (s.nbuVerdict (nbuNo e.val u.val) r.val 0x81 = some st))
    ∧ (∃ (e : Fin 12) (u : Fin 32) (r : Fin 4) (st : Nat) (s : State), (s.nbuVerdict (nbuNo e.val u.val) r.val 0x82 = some st))
    ∧ (∃ (e : Fin 12) (u : Fin 32) (r : Fin 4) (st : Nat) (s : State), (s.nbuVerdict (nbuNo e.val u.val) r.val 0x83 = some st))
    ∧ (∃ (e : Fin 12) (u : Fin 32) (r : Fin 4) (st : Nat) (s : State), (s.nbuVerdict (nbuNo e.val u.val) r.val 0x84 = some st))
    ∧ (∃ (e : Fin 12) (u : Fin 32) (r : Fin 4) (st : Nat) (s : State), (s.nbuVerdict (nbuNo e.val u.val) r.val 0x85 = some st))
    ∧ (∃ (b : Fin 12) (m : TableMsg) (s : State), (s.nbuLive s.tableUnit = true))
    ∧ (∃ (e : Fin 12) (u : Fin 32) (r : Fin 4) (d : BitVec 512) (z : State) (q : Blk) (v : Nat) (s : State), (s.nbuTaken (nbuNo e.val u.val) r.val 0xa0 = some (d, z)) ∧ (z.swtStk (bits (nArg1 d) 4 4) = some q) ∧ (z.b q (F.SWT_SEG_FREE_EMPTY (bits (nArg1 d) 0 4)) = false) ∧ (z.r q (F.SWT_SEG_COUNT_COUNT (bits (nArg1 d) 0 4)) ≠ 0) ∧ ((z.swRead (z.r q (F.SWT_SEG_FREE_HEAD (bits (nArg1 d) 0 4)))).1.toOption = some v))
    ∧ (∃ (e : Fin 12) (u : Fin 32) (r : Fin 4) (d : BitVec 512) (z : State) (v : Nat) (s : State), (s.nbuTaken (nbuNo e.val u.val) r.val 0xa1 = some (d, z)) ∧ ((z.swRead (nArg1 d)).1.toOption = some v) ∧ (swState v = 1) ∧ (swRefs v ≠ 65535))
    ∧ (∃ (e : Fin 12) (u : Fin 32) (r : Fin 4) (d : BitVec 512) (z : State) (v : Nat) (s : State), (s.nbuTaken (nbuNo e.val u.val) r.val 0xa2 = some (d, z)) ∧ ((z.swRead (nArg1 d)).1.toOption = some v) ∧ (swState v = 1) ∧ (swRefs v ≤ 1))
    ∧ (∃ (e : Fin 12) (u : Fin 32) (r : Fin 4) (d : BitVec 512) (z : State) (v : Nat) (s : State), (s.nbuTaken (nbuNo e.val u.val) r.val 0xa2 = some (d, z)) ∧ ((z.swRead (nArg1 d)).1.toOption = some v) ∧ (swState v = 1) ∧ (1 < swRefs v))
    ∧ (∃ (e : Fin 12) (u : Fin 32) (r : Fin 4) (d : BitVec 512) (z : State) (b : Nat) (q : Blk) (h : Nat) (l : List (BitVec 8)) (v : Nat) (s : State), (s.nbuTaken (nbuNo e.val u.val) r.val 0x80 = some (d, z)) ∧ (z.treeBolt (nbuNo e.val u.val) r.val d = some b) ∧ (z.swtStk b = some q) ∧ ((z.hashKeyRun (nbuNo e.val u.val) q d).1 = some h) ∧ (((z.hashKeyRun (nbuNo e.val u.val) q d).2.nbuRead (nbuNo e.val u.val) (z.bucketAt q h) 64).1.toOption = some l) ∧ (hashFind (nodesOf l) (h % 2 ^ 19) (h / 2 ^ 19) false = (v, none)))
    ∧ (∃ (e : Fin 12) (u : Fin 32) (r : Fin 4) (d : BitVec 512) (z : State) (b : Nat) (q : Blk) (h : Nat) (l : List (BitVec 8)) (v : Nat) (i : Nat) (s : State), (s.nbuTaken (nbuNo e.val u.val) r.val 0x81 = some (d, z)) ∧ (z.treeBolt (nbuNo e.val u.val) r.val d = some b) ∧ (z.swtStk b = some q) ∧ ((z.hashKeyRun (nbuNo e.val u.val) q d).1 = some h) ∧ (((z.hashKeyRun (nbuNo e.val u.val) q d).2.nbuRead (nbuNo e.val u.val) (z.bucketAt q h) 64).1.toOption = some l) ∧ (hashFind (nodesOf l) (h % 2 ^ 19) (h / 2 ^ 19) true = (v, some i)))
    ∧ (∃ (e : Fin 12) (u : Fin 32) (r : Fin 4) (d : BitVec 512) (z : State) (b : Nat) (q : Blk) (h : Nat) (l : List (BitVec 8)) (v : Nat) (s : State), (s.nbuTaken (nbuNo e.val u.val) r.val 0x81 = some (d, z)) ∧ (z.treeBolt (nbuNo e.val u.val) r.val d = some b) ∧ (z.swtStk b = some q) ∧ ((z.hashKeyRun (nbuNo e.val u.val) q d).1 = some h) ∧ (((z.hashKeyRun (nbuNo e.val u.val) q d).2.nbuRead (nbuNo e.val u.val) (z.bucketAt q h) 64).1.toOption = some l) ∧ (hashFind (nodesOf l) (h % 2 ^ 19) (h / 2 ^ 19) true = (v, none)))
    ∧ (∃ (e : Fin 12) (u : Fin 32) (r : Fin 4) (d : BitVec 512) (z : State) (b : Nat) (q : Blk) (l : List (BitVec 8)) (s : State), (s.nbuTaken (nbuNo e.val u.val) r.val 0x82 = some (d, z)) ∧ (z.treeBolt (nbuNo e.val u.val) r.val d = some b) ∧ (z.swtStk b = some q) ∧ ((z.nbuRead (nbuNo e.val u.val) (z.treeBase q % edgeBytes + 8 * nArg1 d) 8).1.toOption = some l) ∧ (ndState (leNat l) = 1))
    ∧ (∃ (e : Fin 12) (u : Fin 32) (r : Fin 4) (d : BitVec 512) (z : State) (b : Nat) (q : Blk) (l : List (BitVec 8)) (s : State), (s.nbuTaken (nbuNo e.val u.val) r.val 0x83 = some (d, z)) ∧ (z.treeBolt (nbuNo e.val u.val) r.val d = some b) ∧ (z.swtStk b = some q) ∧ ((z.nbuRead (nbuNo e.val u.val) (z.treeBase q % edgeBytes + 8 * nArg1 d) 8).1.toOption = some l) ∧ (ndState (leNat l) = 2) ∧ (ndRefs (leNat l) ≠ 65535))
    ∧ (∃ (e : Fin 12) (u : Fin 32) (r : Fin 4) (d : BitVec 512) (z : State) (b : Nat) (q : Blk) (l : List (BitVec 8)) (s : State), (s.nbuTaken (nbuNo e.val u.val) r.val 0x84 = some (d, z)) ∧ (z.treeBolt (nbuNo e.val u.val) r.val d = some b) ∧ (z.swtStk b = some q) ∧ ((z.nbuRead (nbuNo e.val u.val) (z.treeBase q % edgeBytes + 8 * nArg1 d) 8).1.toOption = some l) ∧ (ndState (leNat l) = 2) ∧ (0 < ndRefs (leNat l)))
    ∧ (∃ (e : Fin 12) (u : Fin 32) (r : Fin 4) (d : BitVec 512) (z : State) (b : Nat) (q : Blk) (l : List (BitVec 8)) (s : State), (s.nbuTaken (nbuNo e.val u.val) r.val 0x85 = some (d, z)) ∧ (z.treeBolt (nbuNo e.val u.val) r.val d = some b) ∧ (z.swtStk b = some q) ∧ ((z.nbuRead (nbuNo e.val u.val) (z.treeBase q % edgeBytes + 8 * nArg1 d) 8).1.toOption = some l) ∧ (ndState (leNat l) = 2) ∧ (ndRefs (leNat l) = 0)) :=
  ⟨⟨0, 0, 0, 0, ring (10), by decide +kernel⟩,
   ⟨0, 0, 0, 0, ring (10 + 2 ^ 16), by decide +kernel⟩,
   ⟨0, 0, 0, 0, ring (10 + 2 * 2 ^ 16), by decide +kernel⟩,
   ⟨0, 1, 0, 0, hashRing (8), by decide +kernel⟩,
   ⟨0, 1, 0, 0, hashRing (8 + 2 ^ 16), by decide +kernel⟩,
   ⟨0, 1, 0, 0, hashRing (8 + 2 * 2 ^ 16), by decide +kernel⟩,
   ⟨0, 1, 0, 0, hashRing (8 + 3 * 2 ^ 16), by decide +kernel⟩,
   ⟨0, 1, 0, 0, hashRing (8 + 4 * 2 ^ 16), by decide +kernel⟩,
   ⟨0, 1, 0, 0, hashRing (8 + 5 * 2 ^ 16), by decide +kernel⟩,
   ⟨0, .take 0, clocked, by decide +kernel⟩,
   ⟨0, 0, 0, 10, takenOf (takeS) 0 0xa0, .stk 0, 0, takeS, by decide +kernel⟩,
   ⟨0, 0, 0, 10 + 2 ^ 16, takenOf (tableS (10 + 2 ^ 16) 5) 0 0xa1, 5, tableS (10 + 2 ^ 16) 5, by decide +kernel⟩,
   ⟨0, 0, 0, 10 + 2 * 2 ^ 16, takenOf (tableS (10 + 2 * 2 ^ 16) 5) 0 0xa2, 5, tableS (10 + 2 * 2 ^ 16) 5, by decide +kernel⟩,
   ⟨0, 0, 0, 10 + 2 * 2 ^ 16, takenOf (tableS (10 + 2 * 2 ^ 16) 9) 0 0xa2, 9, tableS (10 + 2 * 2 ^ 16) 9, by decide +kernel⟩,
   ⟨0, 1, 0, 8, takenOf (hashRing (8)) 1 0x80, 0, .stk 0, 0, List.replicate 64 0, 0xFFFFFFFF, hashRing (8), by decide +kernel⟩,
   ⟨0, 1, 0, 8 + 2 ^ 16, takenOf (hashRing (8 + 2 ^ 16)) 1 0x81, 0, .stk 0, 0, List.replicate 64 0, 0, 0, hashRing (8 + 2 ^ 16), by decide +kernel⟩,
   ⟨0, 1, 0, 8 + 2 ^ 16, takenOf (fullS) 1 0x81, 0, .stk 0, 0, leBytes 8 (2 ^ 45) ++ List.replicate 56 0, 0, fullS, by decide +kernel⟩,
   ⟨0, 1, 0, 8 + 2 * 2 ^ 16 + 2 ^ 352, takenOf (nodeS (8 + 2 * 2 ^ 16 + 2 ^ 352) (7 + 2 ^ 45)) 1 0x82, 0, .stk 0, leBytes 8 (7 + 2 ^ 45), nodeS (8 + 2 * 2 ^ 16 + 2 ^ 352) (7 + 2 ^ 45), by decide +kernel⟩,
   ⟨0, 1, 0, 8 + 3 * 2 ^ 16 + 2 ^ 352, takenOf (nodeS (8 + 3 * 2 ^ 16 + 2 ^ 352) (7 + 2 ^ 46)) 1 0x83, 0, .stk 0, leBytes 8 (7 + 2 ^ 46), nodeS (8 + 3 * 2 ^ 16 + 2 ^ 352) (7 + 2 ^ 46), by decide +kernel⟩,
   ⟨0, 1, 0, 8 + 4 * 2 ^ 16 + 2 ^ 352, takenOf (nodeS (8 + 4 * 2 ^ 16 + 2 ^ 352) (7 + 2 ^ 46 + 2 ^ 47)) 1 0x84, 0, .stk 0, leBytes 8 (7 + 2 ^ 46 + 2 ^ 47), nodeS (8 + 4 * 2 ^ 16 + 2 ^ 352) (7 + 2 ^ 46 + 2 ^ 47), by decide +kernel⟩,
   ⟨0, 1, 0, 8 + 5 * 2 ^ 16 + 2 ^ 352, takenOf (nodeS (8 + 5 * 2 ^ 16 + 2 ^ 352) (7 + 2 ^ 46)) 1 0x85, 0, .stk 0, leBytes 8 (7 + 2 ^ 46), nodeS (8 + 5 * 2 ^ 16 + 2 ^ 352) (7 + 2 ^ 46), by decide +kernel⟩⟩

theorem wit_NbuSteps :
    (∃ (e : Fin 12) (u : Fin 32) (o : NbuOp) (s : State), (s.nbuLive (nbuNo e.val u.val) = true) ∧ (s.nbuNext (nbuNo e.val u.val) = some o) ∧ (o.ring < 4) ∧ (nOp o.desc ≠ 1) ∧ (nOp o.desc ≠ 9))
    ∧ (∃ (e : Fin 12) (u : Fin 32) (r : Fin 4) (val : Word) (s : State), ((s.r (.nbu (nbuNo e.val u.val)) (F.NBU_RING_BASE_BASE r.val) * 64) + 64 ≤ edgeBytes) ∧ ((s.readCw (e.val * edgeBytes + (s.r (.nbu (nbuNo e.val u.val)) (F.NBU_RING_BASE_BASE r.val) * 64))).1 = true) ∧ (s.b (.nbu (nbuNo e.val u.val)) (F.NBU_RING_CFG_EN r.val) = true) ∧ ((val.toNat % 2 ^ 16 + 2 ^ 16 - s.r (.nbu (nbuNo e.val u.val)) (F.NBU_RING_PTR_CONS r.val)) % 2 ^ 16 ≤ s.r (.nbu (nbuNo e.val u.val)) (F.NBU_RING_CFG_SLOTS_M1 r.val) + 1))
    ∧ (∃ (e : Fin 12) (u : Fin 32) (r : Fin 4) (val : Word) (s : State), ((s.r (.nbu (nbuNo e.val u.val)) (F.NBU_RING_BASE_BASE r.val) * 64) + 64 ≤ edgeBytes) ∧ ((s.readCw (e.val * edgeBytes + (s.r (.nbu (nbuNo e.val u.val)) (F.NBU_RING_BASE_BASE r.val) * 64))).1 = true) ∧ (s.b (.nbu (nbuNo e.val u.val)) (F.NBU_RING_CFG_EN r.val) = true) ∧ (s.r (.nbu (nbuNo e.val u.val)) (F.NBU_RING_CFG_SLOTS_M1 r.val) + 1 < (val.toNat % 2 ^ 16 + 2 ^ 16 - s.r (.nbu (nbuNo e.val u.val)) (F.NBU_RING_PTR_CONS r.val)) % 2 ^ 16)) :=
  ⟨⟨0, 0, ⟨0, 3 + 0x2000 * 2 ^ 128 + 64 * 2 ^ 192, 0, 0, 0, [], false, false, [], [], [], [], [], [], none⟩, ((clocked.wb (.nbu 0) (F.NBU_RING_CFG_EN 0) true).w (.nbu 0) (F.NBU_RING_CFG_SLOTS_M1 0) 1).setNbu 0 { Nbu.reset with ops := [(0, some ⟨0, 3 + 0x2000 * 2 ^ 128 + 64 * 2 ^ 192, 0, 0, 0, [], false, false, [], [], [], [], [], [], none⟩)] }, by decide +kernel⟩,
   ⟨0, 0, 0, 1, ring 0, by decide +kernel⟩,
   ⟨0, 0, 0, 9, ring 0, by decide +kernel⟩⟩

theorem wit_FabricPorts :
    (∃ (f : Fin 12) (i : TrainInfo) (s : State), (s.portState f = 1))
    ∧ (∃ (f : Fin 12) (i : TrainInfo) (s : State), (s.portState f = 2))
    ∧ (∃ (f : Fin 12) (i : TrainInfo) (s : State), (s.portState f = 3) ∧ ((i.laneMask &&& ~~~(s.maskedLanes f)) ≠ 0))
    ∧ (∃ (f : Fin 12) (i : TrainInfo) (s : State), (s.portState f = 3) ∧ ((i.laneMask &&& ~~~(s.maskedLanes f)) = 0) ∧ ((s.fport f).attempts < 3))
    ∧ (∃ (f : Fin 12) (i : TrainInfo) (s : State), (s.portState f = 4))
    ∧ (∃ (f : Fin 12) (i : TrainInfo) (s : State), (s.portState f = 5) ∧ ((i.farX, i.farY, i.farZ) = neighbourOf (s.fport f).geo.1 (s.fport f).geo.2 f ∧ i.farPort = partnerPort f ∧ (i.farDX, i.farDY, i.farDZ) = (s.fport f).geo.2) ∧ (((List.range 4).foldl (fun m l => if s.b (.fab f.val) (F.FAB_LANE_PASSED l) then m ||| BitVec.ofNat 4 (2 ^ l) else m) (0 : BitVec 4) &&& i.farMask) ≠ 0))
    ∧ (∃ (f : Fin 12) (i : TrainInfo) (s : State), (s.portState f = 5) ∧ (¬ ((i.farX, i.farY, i.farZ) = neighbourOf (s.fport f).geo.1 (s.fport f).geo.2 f ∧ i.farPort = partnerPort f ∧ (i.farDX, i.farDY, i.farDZ) = (s.fport f).geo.2)))
    ∧ (∃ (f : Fin 12) (i : TrainInfo) (s : State), (s.portState f = 6) ∧ (s.portBolt f = none))
    ∧ (∃ (f : Fin 12) (s : State), (1 ≤ s.portState f ∧ s.portState f ≤ 6) ∧ ((s.fport f).attempts < 3))
    ∧ (∃ (f : Fin 12) (s : State), (1 ≤ s.portState f ∧ s.portState f ≤ 6) ∧ (3 ≤ (s.fport f).attempts))
    ∧ (∃ (q : Req) (f : Fin 12) (s : State), (s.grants q (.fab f.val) F.FAB_PORT_CTRL_RETRAIN.off = true) ∧ (s.portBolt f = none) ∧ (s.b (.fab f.val) F.FAB_PORT_CTRL_EN = true) ∧ (1 < s.axisSize f))
    ∧ (∃ (q : Req) (f : Fin 12) (s : State), (s.grants q (.fab f.val) F.FAB_PORT_CTRL_RETRAIN.off = true) ∧ (s.portBolt f = none) ∧ ((s.b (.fab f.val) F.FAB_PORT_CTRL_EN = false ∨ s.axisSize f ≤ 1)))
    ∧ (∃ (q : Req) (f : Fin 12) (s : State), (s.grants q (.fab f.val) F.FAB_PORT_CTRL_RETRAIN.off = true) ∧ ((s.portBolt f).isSome = true))
    ∧ (∃ (f : Fin 12) (mask : BitVec 4) (s : State), (s.portUp f = true) ∧ ((s.fport f).both &&& ~~~((s.fport f).failing ||| mask) ≠ 0))
    ∧ (∃ (f : Fin 12) (mask : BitVec 4) (s : State), (s.portUp f = true) ∧ ((s.fport f).both &&& ~~~((s.fport f).failing ||| mask) = 0) ∧ ((mask &&& ~~~(s.fport f).failing) ≠ 0))
    ∧ (∃ (f : Fin 12) (lane : Fin 4) (us : Nat) (s : State), (s.portUp f = true) ∧ (s.r (.fab f.val) F.FAB_LANE_FAIL_CFG_LOCK_LOSS_US ≤ us) ∧ ((s.fport f).both &&& ~~~((s.fport f).failing ||| BitVec.ofNat 4 (2 ^ lane.val)) ≠ 0))
    ∧ (∃ (f : Fin 12) (s : State), (s.portUp f = true))
    ∧ (∃ (f : Fin 12) (s : State), (s.portUp f = true))
    ∧ (∃ (d : MgmtDest) (ty : Byte) (l : List Byte) (s : State), ([1, 2, 3, 4, 5].contains ty.toNat = false) ∧ ((s.route d ty.toNat l).1 = true)) :=
  ⟨⟨0, TIok, (clocked.w (.fab 0) F.FAB_PORT_STATUS_STATE 1), by decide +kernel⟩,
   ⟨0, TIok, (clocked.w (.fab 0) F.FAB_PORT_STATUS_STATE 2), by decide +kernel⟩,
   ⟨0, TIok, (clocked.w (.fab 0) F.FAB_PORT_STATUS_STATE 3), by decide +kernel⟩,
   ⟨0, { TIok with laneMask := 0 }, (clocked.w (.fab 0) F.FAB_PORT_STATUS_STATE 3), by decide +kernel⟩,
   ⟨0, TIok, (clocked.w (.fab 0) F.FAB_PORT_STATUS_STATE 4), by decide +kernel⟩,
   ⟨0, TIok, (clocked.w (.fab 0) F.FAB_PORT_STATUS_STATE 5).wb (.fab 0) (F.FAB_LANE_PASSED 1) true, by decide +kernel⟩,
   ⟨0, { TIok with farPort := 4 }, (clocked.w (.fab 0) F.FAB_PORT_STATUS_STATE 5), by decide +kernel⟩,
   ⟨0, TIok, (clocked.w (.fab 0) F.FAB_PORT_STATUS_STATE 6).modFport 0 fun p => { p with both := 15 }, by decide +kernel⟩,
   ⟨0, (clocked.w (.fab 0) F.FAB_PORT_STATUS_STATE 3), by decide +kernel⟩,
   ⟨0, (clocked.w (.fab 0) F.FAB_PORT_STATUS_STATE 3).modFport 0 fun p => { p with attempts := 3 }, by decide +kernel⟩,
   ⟨.p0, 0, ((upS.w (.fab 0) F.FAB_COORD_DX_M1 1).wb (.fab 0) F.FAB_PORT_CTRL_EN true).w (.fab 0) F.FAB_PORT_STATUS_STATE 7, by decide +kernel⟩,
   ⟨.p0, 0, upS.wb (.fab 0) F.FAB_PORT_CTRL_EN true, by decide +kernel⟩,
   ⟨.p0, 0, fabRun upS, by decide +kernel⟩,
   ⟨0, 2, fabRun clocked, by decide +kernel⟩,
   ⟨0, 15, fabRun clocked, by decide +kernel⟩,
   ⟨0, 1, 1000, fabRun clocked, by decide +kernel⟩,
   ⟨0, fabRun clocked, by decide +kernel⟩,
   ⟨0, fabRun clocked, by decide +kernel⟩,
   ⟨⟨true, 0, 0, 0, (0, 0, 0), 0, 0⟩, 9, [], clocked, by decide +kernel⟩⟩

theorem wit_FabricFlits :
    (∃ (f : Fin 12) (b q : Nat) (x : Placed) (l : SMap Placed) (s : State), ((s.fport f).slots = (q, x) :: l) ∧ (s.portBolt f = some b) ∧ (s.patRuns b = true) ∧ (s.live = true) ∧ (s.portUp f = true) ∧ ((slotCount (s.fabWidth f) q ≤ s.countOf b ∨ s.canReach b (slotCount (s.fabWidth f) q) = true)))
    ∧ (∃ (f : Fin 12) (b q : Nat) (x : Placed) (l : SMap Placed) (s : State), ((s.fport f).slots = (q, x) :: l) ∧ (s.portBolt f = some b) ∧ (s.patRuns b = true) ∧ (s.live = true) ∧ (s.portUp f = true) ∧ ((slotCount (s.fabWidth f) q ≤ s.countOf b ∨ s.canReach b (slotCount (s.fabWidth f) q) = true)) ∧ (x.flit.type = 1) ∧ (s.trace.stopped = false) ∧ ((s.fport f).backlog = []) ∧ ((s.fport f).resv = []) ∧ ((s.fport f).replay = []) ∧ (s.tape ≤ ((s.bolt b).tapeOf (slotCount (s.fabWidth f) q))) ∧ (x.at_ ≤ ((s.bolt b).tapeOf (slotCount (s.fabWidth f) q))) ∧ ((s.fport f).busyUntil ≤ boundary (flitTime (s.fabWidth f)) ((s.bolt b).tapeOf (slotCount (s.fabWidth f) q))))
    ∧ (∃ (f : Fin 12) (raw : List Byte) (due : Nat) (fl : Flit) (cr : List (Fin 4 × Nat)) (s : State), ((Instr.flitReceive f raw due [] cr).wf = true) ∧ (s.portUp f = true) ∧ (flitOk raw = true) ∧ (readFlit raw = fl) ∧ (fl.type ≠ 0) ∧ (fl.seq = ((s.fport f).rxSeq + 1) % 8192))
    ∧ (∃ (f : Fin 12) (raw : List Byte) (due : Nat) (fl : Flit) (cr : List (Fin 4 × Nat)) (s : State), ((Instr.flitReceive f raw due [] cr).wf = true) ∧ (s.portUp f = true) ∧ (flitOk raw = true) ∧ (readFlit raw = fl) ∧ (fl.type ≠ 0) ∧ (fl.seq = ((s.fport f).rxSeq + 1) % 8192) ∧ (fl.nak = false) ∧ ((s.fport f).backlog = []) ∧ ((s.fport f).resv = []))
    ∧ (∃ (f : Fin 12) (raw : List Byte) (due : Nat) (fl : Flit) (cr : List (Fin 4 × Nat)) (g p : Nat) (s : State), ((Instr.flitReceive f raw due [] cr).wf = true) ∧ (s.portUp f = true) ∧ (flitOk raw = true) ∧ (readFlit raw = fl) ∧ (fl.type ≠ 0) ∧ (fl.seq = ((s.fport f).rxSeq + 1) % 8192) ∧ (fl.nak = false) ∧ ((s.fport f).backlog = []) ∧ ((s.fport f).resv = []) ∧ (fl.type = 1) ∧ (s.trace.stopped = false) ∧ (s.rst.level = 0) ∧ (fl.hx = 0 ∧ fl.hy = 0 ∧ fl.hz = 0) ∧ (fl.last = true) ∧ (s.frameHop (fl.srcX, fl.srcY, fl.srcZ) = some p) ∧ (s.siteOf fl.ftile = some g))
    ∧ (∃ (f : Fin 12) (raw : List Byte) (due : Nat) (fl : Flit) (cr : List (Fin 4 × Nat)) (p : Nat) (s : State), ((Instr.flitReceive f raw due [] cr).wf = true) ∧ (s.portUp f = true) ∧ (flitOk raw = true) ∧ (readFlit raw = fl) ∧ (fl.type ≠ 0) ∧ (fl.seq = ((s.fport f).rxSeq + 1) % 8192) ∧ (fl.nak = false) ∧ ((s.fport f).backlog = []) ∧ ((s.fport f).resv = []) ∧ (fl.type = 1) ∧ (s.trace.stopped = false) ∧ (s.rst.level = 0) ∧ (fl.hx = 0 ∧ fl.hy = 0 ∧ fl.hz = 0) ∧ (fl.last = true) ∧ (s.frameHop (fl.srcX, fl.srcY, fl.srcZ) = some p) ∧ (s.siteOf fl.ftile = none))
    ∧ (∃ (f : Fin 12) (raw : List Byte) (due : Nat) (fl : Flit) (cr : List (Fin 4 × Nat)) (s : State), ((Instr.flitReceive f raw due [] cr).wf = true) ∧ (s.portUp f = true) ∧ (flitOk raw = true) ∧ (readFlit raw = fl) ∧ (fl.nak = false) ∧ ((s.fport f).backlog = []) ∧ ((s.fport f).resv = []) ∧ (fl.type ≠ 0) ∧ ((fl.seq = (s.fport f).rxSeq ∨ 4096 < (fl.seq + 8192 - (s.fport f).rxSeq) % 8192)) ∧ ((s.fport f).rxSeq < 8192))
    ∧ (∃ (f : Fin 12) (raw : List Byte) (due : Nat) (fl : Flit) (cr : List (Fin 4 × Nat)) (s : State), ((Instr.flitReceive f raw due [] cr).wf = true) ∧ (s.portUp f = true) ∧ (flitOk raw = true) ∧ (readFlit raw = fl) ∧ (fl.nak = false) ∧ ((s.fport f).backlog = []) ∧ ((s.fport f).resv = []) ∧ (fl.type ≠ 0) ∧ (1 < (fl.seq + 8192 - (s.fport f).rxSeq) % 8192 ∧ (fl.seq + 8192 - (s.fport f).rxSeq) % 8192 ≤ 4096) ∧ ((s.fport f).nakOut = false))
    ∧ (∃ (f : Fin 12) (raw : List Byte) (due : Nat) (cr : List (Fin 4 × Nat)) (s : State), ((Instr.flitReceive f raw due [] cr).wf = true) ∧ (s.portUp f = true) ∧ (flitOk raw = false))
    ∧ (∃ (f : Fin 12) (x : Flit × Nat × Nat) (l : List (Flit × Nat × Nat)) (s : State), ((s.fport f).replay = x :: l) ∧ (s.portUp f = true))
    ∧ (∃ (t : Site) (c : Fin 4) (f : Flight) (s : State), ((s.tile t.g).chanCmd c.val = some f) ∧ (s.trace.stopped = false) ∧ (f.op = 7) ∧ (sendRoute f.desc = 1) ∧ (f.prog = sendLen f.desc))
    ∧ (∃ (t : Site) (c : Fin 4) (f : Flight) (s : State), ((s.tile t.g).chanCmd c.val = some f) ∧ (s.trace.stopped = false) ∧ (f.op = 7) ∧ (sendRoute f.desc = 1)) :=
  ⟨⟨0, 0, 0, ⟨FL1, true, 0, 0, 0, false⟩, [], slotS, by decide +kernel⟩,
   ⟨0, 0, 0, ⟨FL1, true, 0, 0, 0, false⟩, [], slotS, by decide +kernel⟩,
   ⟨0, flitBytes { FL1 with seq := 1 }, 0, (readFlit (flitBytes { FL1 with seq := 1 })), [], fabRun clocked, by decide +kernel⟩,
   ⟨0, flitBytes { FL1 with seq := 1 }, 0, (readFlit (flitBytes { FL1 with seq := 1 })), [(1, 2)], fabRun clocked, by decide +kernel⟩,
   ⟨0, flitBytes { FL1 with seq := 1, srcX := 1 }, 0, (readFlit (flitBytes { FL1 with seq := 1, srcX := 1 })), [], 0, 0, twoS, by decide +kernel⟩,
   ⟨0, flitBytes { FL1 with seq := 1, srcX := 1, ftile := 5 }, 0, (readFlit (flitBytes { FL1 with seq := 1, srcX := 1, ftile := 5 })), [], 0, twoS, by decide +kernel⟩,
   ⟨0, flitBytes { FL1 with seq := 1 }, 0, (readFlit (flitBytes { FL1 with seq := 1 })), [], (fabRun clocked).modFport 0 fun p => { p with rxSeq := 1 }, by decide +kernel⟩,
   ⟨0, flitBytes { FL1 with seq := 3 }, 0, (readFlit (flitBytes { FL1 with seq := 3 })), [], fabRun clocked, by decide +kernel⟩,
   ⟨0, List.replicate 256 1, 0, [(2, 3)], fabRun clocked, by decide +kernel⟩,
   ⟨0, (FL1, 0, 5), [], (fabRun clocked).modFport 0 fun p => { p with replay := [(FL1, 0, 5)] }, by decide +kernel⟩,
   ⟨t0, 0, ⟨0, SND + 2 ^ 64, .running, 0, 0, 64, 0, 0, 0, []⟩, flw (SND + 2 ^ 64) .running 64 [] 0, by decide +kernel⟩,
   ⟨t0, 0, ⟨0, SND + 2 ^ 64, .running, 0, 0, 64, 0, 0, 0, []⟩, flw (SND + 2 ^ 64) .running 64 [] 0, by decide +kernel⟩⟩

theorem wit_HostQueues :
    (∃ (p : Port) (n : Fin 64) (val : Word) (s : State), (s.portOn p.n = true) ∧ ((s.hport p.n).d3hot = false) ∧ (s.qOn p.n n.val = true) ∧ (val.toNat % 2 ^ 16 < s.sqSize p.n n.val))
    ∧ (∃ (p : Port) (n : Fin 64) (val : Word) (s : State), (s.portOn p.n = true) ∧ ((s.hport p.n).d3hot = false) ∧ ((s.qOn p.n n.val = false ∨ s.sqSize p.n n.val ≤ val.toNat % 2 ^ 16)))
    ∧ (∃ (p : Port) (n : Fin 64) (val : Word) (s : State), (s.portOn p.n = true) ∧ ((s.hport p.n).d3hot = false) ∧ (s.qOn p.n n.val = true) ∧ (val.toNat % 2 ^ 16 < s.cqSize p.n n.val))
    ∧ (∃ (p : Port) (n : Fin 64) (val : Word) (s : State), (s.portOn p.n = true) ∧ ((s.hport p.n).d3hot = false) ∧ ((s.qOn p.n n.val = false ∨ s.cqSize p.n n.val ≤ val.toNat % 2 ^ 16)))
    ∧ (∃ (p : Port) (n : Fin 64) (s : State), (s.portOn p.n = true) ∧ ((s.hport p.n).d3hot = false) ∧ (s.b .id F.ID_STATUS_READY = true))
    ∧ (∃ (p : Port) (n : Fin 64) (s : State), (s.portOn p.n = true) ∧ ((s.hport p.n).d3hot = false) ∧ (s.b .id F.ID_STATUS_READY = false))
    ∧ (∃ (p : Port) (n : Fin 64) (s : State), (s.portOn p.n = true) ∧ ((s.hport p.n).d3hot = false))
    ∧ (∃ (p : Port) (n : Fin 64) (d : Desc) (l : List Byte) (s : State), (hOp d = 1) ∧ (s.hostWaits p n.val d = false) ∧ ((s.qp p.n n.val).moving.find? (fun x => x.1 == d) = none) ∧ (hReserved d = false) ∧ (hMisaligned d = false) ∧ (hLen d ≠ 0))
    ∧ (∃ (p : Port) (n : Fin 64) (d : Desc) (l : List Byte) (done hd : Nat) (s : State), (hOp d = 1) ∧ ((s.qp p.n n.val).moving.find? (fun x => x.1 == d) = some (d, done, hd)) ∧ (s.rst.level = 0) ∧ (s.rst.steps = false) ∧ (s.portAvail p.n = true) ∧ (hReserved d = false) ∧ (hMisaligned d = false) ∧ (hLen d ≠ 0))
    ∧ (∃ (p : Port) (n : Fin 64) (d : Desc) (l : List Byte) (s : State), (hOp d = 1) ∧ (s.hostWaits p n.val d = false) ∧ ((s.qp p.n n.val).moving.find? (fun x => x.1 == d) = none) ∧ (hReserved d = false) ∧ (hMisaligned d = false) ∧ (hLen d = 64) ∧ (l.length = 64) ∧ (64 ≤ (s.hport p.n).readSize) ∧ (s.notEdge (hDpa d) = none) ∧ (s.cutOff p.n (hDpa d) = false))
    ∧ (∃ (p : Port) (n : Fin 64) (d : Desc) (len : Nat) (s : State), (hOp d = 2) ∧ (s.hostWaits p n.val d = false) ∧ ((s.qp p.n n.val).moving.find? (fun x => x.1 == d) = none) ∧ (hReserved d = false) ∧ (hMisaligned d = false) ∧ (hLen d ≠ 0))
    ∧ (∃ (p : Port) (n : Fin 64) (d : Desc) (len done hd : Nat) (s : State), (hOp d = 2) ∧ ((s.qp p.n n.val).moving.find? (fun x => x.1 == d) = some (d, done, hd)) ∧ (s.rst.level = 0) ∧ (s.rst.steps = false) ∧ (s.portAvail p.n = true) ∧ (hReserved d = false) ∧ (hMisaligned d = false) ∧ (hLen d ≠ 0))
    ∧ (∃ (p : Port) (n : Fin 64) (d : Desc) (s : State), (s.shutHeld (hDie d) = false) ∧ ((hOp d = 3 ∨ hOp d = 0 ∨ 4 < hOp d)) ∧ (s.hostWaits p n.val d = false) ∧ ((s.qp p.n n.val).moving.find? (fun x => x.1 == d) = none) ∧ (hReserved d = true))
    ∧ (∃ (p : Port) (n : Fin 64) (d : Desc) (s : State), (s.shutHeld (hDie d) = false) ∧ (hOp d = 3) ∧ (s.hostWaits p n.val d = false) ∧ ((s.qp p.n n.val).moving.find? (fun x => x.1 == d) = none) ∧ (hReserved d = false) ∧ ((((s.hostStart p n.val).bCopyCheck d).1 ≠ 0 ∨ (copyOf d).total = 0)))
    ∧ (∃ (p : Port) (n : Fin 64) (d : Desc) (s : State), (s.shutHeld (hDie d) = false) ∧ (hOp d = 3) ∧ (s.hostWaits p n.val d = false) ∧ ((s.qp p.n n.val).moving.find? (fun x => x.1 == d) = none) ∧ (hReserved d = false) ∧ (((s.hostStart p n.val).bCopyCheck d).1 = 0) ∧ ((copyOf d).total ≠ 0))
    ∧ (∃ (p : Port) (n : Fin 64) (d : Desc) (done hd : Nat) (s : State), (s.shutHeld (hDie d) = false) ∧ (hOp d = 3) ∧ ((s.qp p.n n.val).moving.find? (fun x => x.1 == d) = some (d, done, hd)) ∧ (s.rst.level = 0) ∧ (s.rst.steps = false) ∧ (s.portAvail p.n = true))
    ∧ (∃ (p : Port) (n : Fin 64) (d : Desc) (s : State), (s.shutHeld (hDie d) = false) ∧ ((hOp d = 4 ∨ hOp d = 0 ∨ 4 < hOp d)) ∧ (s.hostWaits p n.val d = false) ∧ ((s.qp p.n n.val).moving.find? (fun x => x.1 == d) = none) ∧ (hReserved d = true))
    ∧ (∃ (p : Port) (n : Fin 64) (d : Desc) (s : State), (s.shutHeld (hDie d) = false) ∧ (hOp d = 4) ∧ (s.hostWaits p n.val d = false) ∧ ((s.qp p.n n.val).moving.find? (fun x => x.1 == d) = none) ∧ (hReserved d = false) ∧ ((((s.hostStart p n.val).bGatherCheck d).1 ≠ 0 ∨ ((gatherOf true d).count * (gatherOf true d).esz) = 0)))
    ∧ (∃ (p : Port) (n : Fin 64) (d : Desc) (s : State), (s.shutHeld (hDie d) = false) ∧ (hOp d = 4) ∧ (s.hostWaits p n.val d = false) ∧ ((s.qp p.n n.val).moving.find? (fun x => x.1 == d) = none) ∧ (hReserved d = false) ∧ (((s.hostStart p n.val).bGatherCheck d).1 = 0) ∧ (((gatherOf true d).count * (gatherOf true d).esz) ≠ 0))
    ∧ (∃ (p : Port) (n : Fin 64) (d : Desc) (done hd : Nat) (s : State), (s.shutHeld (hDie d) = false) ∧ (hOp d = 4) ∧ ((s.qp p.n n.val).moving.find? (fun x => x.1 == d) = some (d, done, hd)) ∧ (s.rst.level = 0) ∧ (s.rst.steps = false) ∧ (s.portAvail p.n = true))
    ∧ (∃ (p : Port) (n : Fin 64) (d : Desc) (len : Nat) (ok : Bool) (s : State), ((hOp d = 2 ∨ hOp d = 0 ∨ 4 < hOp d)) ∧ (s.hostWaits p n.val d = false) ∧ ((s.qp p.n n.val).moving.find? (fun x => x.1 == d) = none) ∧ (hReserved d = true))
    ∧ (∃ (p : Port) (n : Fin 64) (d : Desc) (len : Nat) (ok : Bool) (s : State), (hOp d = 2) ∧ (s.hostWaits p n.val d = false) ∧ ((s.qp p.n n.val).moving.find? (fun x => x.1 == d) = none) ∧ (hReserved d = false) ∧ (hMisaligned d = true))
    ∧ (∃ (p : Port) (n : Fin 64) (d : Desc) (len : Nat) (ok : Bool) (s : State), (hOp d = 2) ∧ (s.hostWaits p n.val d = false) ∧ ((s.qp p.n n.val).moving.find? (fun x => x.1 == d) = none) ∧ (hReserved d = false) ∧ (hMisaligned d = false) ∧ (hLen d = 0))
    ∧ (∃ (p : Port) (n : Fin 64) (d : Desc) (len : Nat) (s : State), (hOp d = 2) ∧ (s.hostWaits p n.val d = false) ∧ ((s.qp p.n n.val).moving.find? (fun x => x.1 == d) = none) ∧ (hReserved d = false) ∧ (hMisaligned d = false) ∧ (hLen d ≠ 0))
    ∧ (∃ (p : Port) (n : Fin 64) (d : Desc) (len : Nat) (done hd : Nat) (s : State), (hOp d = 2) ∧ ((s.qp p.n n.val).moving.find? (fun x => x.1 == d) = some (d, done, hd)) ∧ (s.rst.level = 0) ∧ (s.rst.steps = false) ∧ (s.portAvail p.n = true) ∧ (hReserved d = false) ∧ (hMisaligned d = false) ∧ (hLen d ≠ 0))
    ∧ (∃ (p : Port) (n : Fin 64) (d : Desc) (l : List Byte) (ok : Bool) (s : State), ((hOp d = 1 ∨ hOp d = 0 ∨ 4 < hOp d)) ∧ (s.hostWaits p n.val d = false) ∧ ((s.qp p.n n.val).moving.find? (fun x => x.1 == d) = none) ∧ (hReserved d = true))
    ∧ (∃ (p : Port) (n : Fin 64) (d : Desc) (l : List Byte) (ok : Bool) (s : State), (hOp d = 1) ∧ (s.hostWaits p n.val d = false) ∧ ((s.qp p.n n.val).moving.find? (fun x => x.1 == d) = none) ∧ (hReserved d = false) ∧ (hMisaligned d = true))
    ∧ (∃ (p : Port) (n : Fin 64) (d : Desc) (l : List Byte) (ok : Bool) (s : State), (hOp d = 1) ∧ (s.hostWaits p n.val d = false) ∧ ((s.qp p.n n.val).moving.find? (fun x => x.1 == d) = none) ∧ (hReserved d = false) ∧ (hMisaligned d = false) ∧ (hLen d = 0))
    ∧ (∃ (p : Port) (n : Fin 64) (d : Desc) (l : List Byte) (s : State), (hOp d = 1) ∧ (s.hostWaits p n.val d = false) ∧ ((s.qp p.n n.val).moving.find? (fun x => x.1 == d) = none) ∧ (hReserved d = false) ∧ (hMisaligned d = false) ∧ (hLen d ≠ 0))
    ∧ (∃ (p : Port) (n : Fin 64) (d : Desc) (l : List Byte) (done hd : Nat) (s : State), (hOp d = 1) ∧ ((s.qp p.n n.val).moving.find? (fun x => x.1 == d) = some (d, done, hd)) ∧ (s.rst.level = 0) ∧ (s.rst.steps = false) ∧ (s.portAvail p.n = true) ∧ (hReserved d = false) ∧ (hMisaligned d = false) ∧ (hLen d ≠ 0))
    ∧ (∃ (p : Port) (n : Fin 64) (c st dt pr hd : Nat) (l : List (Nat × Nat × Nat × Nat × Nat)) (s : State), ((s.qp p.n n.val).doneQ = (c, st, dt, pr, hd) :: l) ∧ (s.cqFull p.n n.val = false) ∧ (s.portAvail p.n = true)) :=
  ⟨⟨.p0, 0, 1, hostQ 0, by decide +kernel⟩,
   ⟨.p0, 0, 5, hostQ 0, by decide +kernel⟩,
   ⟨.p0, 0, 1, hostQ 0, by decide +kernel⟩,
   ⟨.p0, 0, 5, hostQ 0, by decide +kernel⟩,
   ⟨.p0, 0, upS.wb .id F.ID_STATUS_READY true, by decide +kernel⟩,
   ⟨.p0, 0, upS, by decide +kernel⟩,
   ⟨.p0, 0, hostQ 0, by decide +kernel⟩,
   ⟨.p0, 0, 1 + 0x40 * 2 ^ 128 + 64 * 2 ^ 192, List.replicate 64 9, hostQ 0, by decide +kernel⟩,
   ⟨.p0, 0, 1 + 0x40 * 2 ^ 128 + 128 * 2 ^ 192, List.replicate 64 9, 64, 1, midQ (1 + 0x40 * 2 ^ 128 + 128 * 2 ^ 192), by decide +kernel⟩,
   ⟨.p0, 0, 1 + 0x40 * 2 ^ 128 + 64 * 2 ^ 192, List.replicate 64 9, hostQ 0, by decide +kernel⟩,
   ⟨.p0, 0, 2 + 0x40 * 2 ^ 128 + 64 * 2 ^ 192, 64, hostQ 0, by decide +kernel⟩,
   ⟨.p0, 0, 2 + 0x40 * 2 ^ 128 + 128 * 2 ^ 192, 64, 64, 1, midQ (2 + 0x40 * 2 ^ 128 + 128 * 2 ^ 192), by decide +kernel⟩,
   ⟨.p0, 0, 3 + 2 ^ 9, hostQ 0, by decide +kernel⟩,
   ⟨.p0, 0, 3, hostQ 0, by decide +kernel⟩,
   ⟨.p0, 0, 3 + 0x100000 * 2 ^ 128 + 0x1000 * 2 ^ 192 + 128 * 2 ^ 256, hostQ 0, by decide +kernel⟩,
   ⟨.p0, 0, 3 + 0x100000 * 2 ^ 128 + 0x1000 * 2 ^ 192 + 128 * 2 ^ 256, 0, 1, (hostQ 0).setQp 0 0 { QPair.reset with sqHead := 1, sqTail := 1, moving := [(3 + 0x100000 * 2 ^ 128 + 0x1000 * 2 ^ 192 + 128 * 2 ^ 256, 0, 1)] }, by decide +kernel⟩,
   ⟨.p0, 0, 4 + 2 ^ 9, hostQ 0, by decide +kernel⟩,
   ⟨.p0, 0, 4, hostQ 0, by decide +kernel⟩,
   ⟨.p0, 0, 4 + 2 ^ 64 + 0x100000 * 2 ^ 128 + 0x1000 * 2 ^ 192 + 64 * 2 ^ 256 + 2 ^ 288, hostQ 0, by decide +kernel⟩,
   ⟨.p0, 0, 4 + 2 ^ 64 + 0x100000 * 2 ^ 128 + 0x1000 * 2 ^ 192 + 64 * 2 ^ 256 + 2 ^ 288, 0, 1, (hostQ 0).setQp 0 0 { QPair.reset with sqHead := 1, sqTail := 1, moving := [(4 + 2 ^ 64 + 0x100000 * 2 ^ 128 + 0x1000 * 2 ^ 192 + 64 * 2 ^ 256 + 2 ^ 288, 0, 1)] }, by decide +kernel⟩,
   ⟨.p0, 0, 2 + 2 ^ 9, 64, true, hostQ 0, by decide +kernel⟩,
   ⟨.p0, 0, 2 + 2 ^ 64, 64, true, hostQ 0, by decide +kernel⟩,
   ⟨.p0, 0, 2, 64, false, hostQ 0, by decide +kernel⟩,
   ⟨.p0, 0, 2 + 64 * 2 ^ 192, 64, hostQ 0, by decide +kernel⟩,
   ⟨.p0, 0, 2 + 0x40 * 2 ^ 128 + 128 * 2 ^ 192, 64, 64, 1, midQ (2 + 0x40 * 2 ^ 128 + 128 * 2 ^ 192), by decide +kernel⟩,
   ⟨.p0, 0, 1 + 2 ^ 9, List.replicate 64 9, true, hostQ 0, by decide +kernel⟩,
   ⟨.p0, 0, 1 + 2 ^ 64, List.replicate 64 9, true, hostQ 0, by decide +kernel⟩,
   ⟨.p0, 0, 1, List.replicate 64 9, false, hostQ 0, by decide +kernel⟩,
   ⟨.p0, 0, 1 + 64 * 2 ^ 192, List.replicate 64 9, hostQ 0, by decide +kernel⟩,
   ⟨.p0, 0, 1 + 0x40 * 2 ^ 128 + 128 * 2 ^ 192, List.replicate 64 9, 64, 1, midQ (1 + 0x40 * 2 ^ 128 + 128 * 2 ^ 192), by decide +kernel⟩,
   ⟨.p0, 0, 1, 0, 0, 64, 1, [], (hostQ 0).setQp 0 0 { QPair.reset with doneQ := [(1, 0, 0, 64, 1)] }, by decide +kernel⟩⟩

theorem wit_HostPorts :
    (∃ (p dst : Port) (s : State), (s.portOn p.n = true) ∧ ((s.hport p.n).d3hot = false) ∧ (p.n = s.ctrlPort))
    ∧ (∃ (p dst : Port) (s : State), (s.portOn p.n = true) ∧ ((s.hport p.n).d3hot = false) ∧ (p.n ≠ s.ctrlPort))
    ∧ (∃ (p : Port) (s : State), (s.portOn p.n = true) ∧ ((s.hport p.n).d3hot = false) ∧ (p.n ≠ s.ctrlPort) ∧ (s.portAvail s.ctrlPort = false))
    ∧ (∃ (p : Port) (s : State), (s.portOn p.n = true) ∧ ((s.hport p.n).d3hot = false) ∧ ((p.n = s.ctrlPort ∨ s.portAvail s.ctrlPort = true)))
    ∧ (∃ (p : Port) (b : Fin 12) (s : State), (s.portOn p.n = true) ∧ ((s.hport p.n).d3hot = false) ∧ (s.owner b.val = none))
    ∧ (∃ (p : Port) (b : Fin 12) (s : State), (s.portOn p.n = true) ∧ ((s.hport p.n).d3hot = false) ∧ (s.owner b.val ≠ none))
    ∧ (∃ (p : Port) (b : Fin 12) (s : State), (s.portOn p.n = true) ∧ ((s.hport p.n).d3hot = false) ∧ (s.owner b.val = some p.n))
    ∧ (∃ (p : Port) (b : Fin 12) (s : State), (s.portOn p.n = true) ∧ ((s.hport p.n).d3hot = false) ∧ (s.owner b.val ≠ some p.n))
    ∧ (∃ (p : Port) (b : Fin 12) (s : State), (s.portOn p.n = true) ∧ ((s.hport p.n).d3hot = false) ∧ (s.owner b.val = some (1 - p.n)) ∧ (s.portAvail (1 - p.n) = false))
    ∧ (∃ (p : Port) (b : Fin 12) (s : State), (s.portOn p.n = true) ∧ ((s.hport p.n).d3hot = false) ∧ ((s.owner b.val ≠ some (1 - p.n) ∨ s.portAvail (1 - p.n) = true)))
    ∧ (∃ (p : Port) (s : State), ((s.hport p.n).linkUp = true))
    ∧ (∃ (p : Port) (s : State), ((s.hport p.n).flr = true))
    ∧ (∃ (p : Port) (k : PcieLink) (s : State), (s.romRuns = true))
    ∧ (∃ (p : Port) (d m : Bool) (c : PcieConfig) (s : State), ((s.hport p.n).linkUp = true))
    ∧ (∃ (l : List Byte) (s : State), (s.romRuns = true))
    ∧ (∃ (l : List Byte) (s : State), (s.romRuns = true) ∧ (s.hkc.imageRuns = true))
    ∧ (∃ (l : List Byte) (s : State), (s.romRuns = true) ∧ (s.hkc.imageRuns = false))
    ∧ (∃ (a : BitVec 7) (s : State), (s.romRuns = true))
    ∧ (∃ (a : BitVec 7) (s : State), (s.romRuns = true) ∧ (s.mgmt.i3c = none)) :=
  ⟨⟨.p0, .p1, upS, by decide +kernel⟩,
   ⟨.p1, .p1, upS.setHport 1 { HostPort.reset with linkUp := true }, by decide +kernel⟩,
   ⟨.p1, clocked.setHport 1 { HostPort.reset with linkUp := true }, by decide +kernel⟩,
   ⟨.p0, upS, by decide +kernel⟩,
   ⟨.p0, 0, upS, by decide +kernel⟩,
   ⟨.p0, 0, upS.w4 0 (F.HST_BOLT_OWNER 0) 2, by decide +kernel⟩,
   ⟨.p0, 0, upS.w4 0 (F.HST_BOLT_OWNER 0) 1, by decide +kernel⟩,
   ⟨.p0, 0, upS, by decide +kernel⟩,
   ⟨.p0, 0, upS.w4 0 (F.HST_BOLT_OWNER 0) 2, by decide +kernel⟩,
   ⟨.p0, 0, upS, by decide +kernel⟩,
   ⟨.p0, upS, by decide +kernel⟩,
   ⟨.p0, upS.setHport 0 { HostPort.reset with linkUp := true, flr := true }, by decide +kernel⟩,
   ⟨.p0, ⟨4, 5⟩, romS, by decide +kernel⟩,
   ⟨.p0, false, true, CFG0, upS, by decide +kernel⟩,
   ⟨[], romS, by decide +kernel⟩,
   ⟨[], stepS 0, by decide +kernel⟩,
   ⟨[], romS, by decide +kernel⟩,
   ⟨9, stepS 0, by decide +kernel⟩,
   ⟨9, stepS 0, by decide +kernel⟩⟩

theorem wit_BringupSteps :
    (∃ (s : State), (s.hkc.powered = false) ∧ (s.pins.v48 = true) ∧ (s.rst.level = 0) ∧ (s.stepNo = 0))
    ∧ (∃ (a b : Option PcieLink) (s : State), (s.onStep 2 = true) ∧ (((a.isSome && !s.pins.low.contains .perst0) || (b.isSome && !s.pins.low.contains .perst1)) = true) ∧ (s.imageFull 1 = false))
    ∧ (∃ (a b : Option PcieLink) (s : State), (s.onStep 2 = true) ∧ (((a.isSome && !s.pins.low.contains .perst0) || (b.isSome && !s.pins.low.contains .perst1)) = true) ∧ (s.imageFull 1 = true) ∧ (s.r .mbx F.MBX_BOOT_CFG_STOP_BEFORE ≠ 3))
    ∧ (∃ (s : State), (s.onStep 5 = true) ∧ (s.fuses.badDie.contains 0 = false))
    ∧ (∃ (s : State), (s.onStep 5 = true) ∧ (s.fuses.badDie.contains 0 = true))
    ∧ (∃ (l : List (Fin 12)) (s : State), (s.onStep 6 = true))
    ∧ (∃ (l : List (Fin 12)) (s : State), (s.onStep 6 = true))
    ∧ (∃ (eyes : List PinEye) (l : List ItemFail) (s : State), (s.onStep 7 = true))
    ∧ (∃ (rows banks : List (ChanRef × Nat)) (pins : List (ChanRef × Fin 72 × Fin 8)) (l : List ItemFail) (s : State), (s.onStep 8 = true))
    ∧ (∃ (s : State), (s.onStep 10 = true) ∧ (s.coreStart = false) ∧ ((List.range 12).any (fun k => (List.range 160).any fun i => s.siteLeft (k * 160 + i)) = true))
    ∧ (∃ (t : Site) (a : Fin 17) (s : State), (s.onStep 10 = true) ∧ (s.coreStart = false) ∧ (s.siteLeft t.g = true))
    ∧ (∃ (l : List ItemFail) (s : State), (s.onStep 10 = true) ∧ (s.coreStart = false) ∧ ((List.range 12).any (fun k => (List.range 160).any fun i => s.siteLeft (k * 160 + i)) = false))
    ∧ (∃ (s : State), (s.onStep 11 = true))
    ∧ (∃ (q : Req) (s : State), (s.grants q .mbx F.MBX_BOOT_CFG_STOP_BEFORE.off = true) ∧ (s.r .mbx F.MBX_STATUS_STATE = 4) ∧ ((s.stepNo ≠ 3 ∨ s.imageFull 1 = false)))
    ∧ (∃ (q : Req) (s : State), (s.grants q .mbx F.MBX_BOOT_CFG_STOP_BEFORE.off = true) ∧ (s.r .mbx F.MBX_STATUS_STATE = 4) ∧ (s.stepNo = 3) ∧ (s.imageFull 1 = true) ∧ (s.rst.level = 0) ∧ (s.rst.want = 0)) :=
  ⟨⟨{ stepS 0 with hkc := { State.reset.hkc with powered := false } }, by decide +kernel⟩,
   ⟨some ⟨4, 5⟩, none, (stepS 2), by decide +kernel⟩,
   ⟨some ⟨4, 5⟩, none, (stepS 2) |> fun s => { s with hkc := { s.hkc with staged1 := [0] } }, by decide +kernel⟩,
   ⟨(stepS 5), by decide +kernel⟩,
   ⟨(stepS 5) |> fun s => { s with fuses := { s.fuses with dies := [(0, ⟨0, false, 0, false⟩)] } }, by decide +kernel⟩,
   ⟨[], (stepS 6), by decide +kernel⟩,
   ⟨[], (stepS 6), by decide +kernel⟩,
   ⟨[], [], (stepS 7), by decide +kernel⟩,
   ⟨[], [], [], [], (stepS 8), by decide +kernel⟩,
   ⟨(stepS 10), by decide +kernel⟩,
   ⟨t0, 4, (stepS 10), by decide +kernel⟩,
   ⟨[], (stepS 10) |> fun s => { s with hkc := { s.hkc with stackFail := List.range 12 } }, by decide +kernel⟩,
   ⟨(stepS 11), by decide +kernel⟩,
   ⟨.hkc, (stepS 5).w .mbx F.MBX_STATUS_STATE 4, by decide +kernel⟩,
   ⟨.hkc, (stepS 3).w .mbx F.MBX_STATUS_STATE 4 |> fun s => { s with hkc := { s.hkc with staged1 := [0] } }, by decide +kernel⟩⟩

theorem wit_Firmware :
    (∃ (q : Req) (val : Word) (s : State), (s.grants q .mbx F.MBX_SEG_CTRL_POST.off = true) ∧ (s.b .mbx F.MBX_STATUS_SEG_BUSY = false) ∧ ((s.segRefused (fget F.MBX_SEG_CTRL_TYPE val) (fget F.MBX_SEG_CTRL_SEQ val) (s.r .mbx F.MBX_SEG_CRC_CRC) (s.mem.readN (segWinAt 0) 4096)).1 = false))
    ∧ (∃ (q : Req) (val : Word) (s : State), (s.grants q .mbx F.MBX_SEG_CTRL_POST.off = true) ∧ (s.b .mbx F.MBX_STATUS_SEG_BUSY = false) ∧ ((s.segRefused (fget F.MBX_SEG_CTRL_TYPE val) (fget F.MBX_SEG_CTRL_SEQ val) (s.r .mbx F.MBX_SEG_CRC_CRC) (s.mem.readN (segWinAt 0) 4096)).1 = true))
    ∧ (∃ (q : Req) (val : Word) (s : State), (s.grants q .mbx F.MBX_SEG_CTRL_POST.off = true) ∧ (s.b .mbx F.MBX_STATUS_SEG_BUSY = true))
    ∧ (∃ (ty n : Nat) (s : State), (s.hkc.staging = some (ty, n)))
    ∧ (∃ (d : MgmtDest) (ty n : Nat) (crc : Word) (l : List Byte) (s : State), ((Instr.fwSegment d ty n crc l).wf = true) ∧ ((s.route d 0x05 (leBytes 2 ty ++ leBytes 2 n ++ leBytes 4 crc.toNat ++ l)).1 = true) ∧ (s.b (.fab 0) F.FAB_MGMT_CFG_FW_EN = true) ∧ (ty ≠ 1) ∧ (((s.route d 0x05 (leBytes 2 ty ++ leBytes 2 n ++ leBytes 4 crc.toNat ++ l)).2.stagePosted.segRefused ty n crc.toNat l).1 = false))
    ∧ (∃ (d : MgmtDest) (n : Nat) (crc : Word) (l : List Byte) (s : State), ((Instr.fwSegment d 1 n crc l).wf = true))
    ∧ (∃ (s : State), (s.onStep 4 = true) ∧ (s.imageFull 1 = true) ∧ (s.hkc.imageRuns = false))
    ∧ (∃ (s : State), (s.rst.level = 0) ∧ (s.hkc.imageRuns = true) ∧ (s.hkc.verified2 = false) ∧ (s.imageFull 2 = true))
    ∧ (∃ (s : State), (s.onStep 9 = true) ∧ (s.hkc.shortFw = []) ∧ (s.coreStart = false) ∧ (s.hkc.verified2 = true))
    ∧ (∃ (s : State), (s.onStep 9 = true) ∧ (s.hkc.shortFw = []) ∧ (s.coreStart = true) ∧ ((List.range 1920).all (fun g => !s.siteLeft g || s.hkc.copies.find g == some s.hkc.fwDigest) = true))
    ∧ (∃ (t : Site) (short : List (Site × BitVec 32)) (differ : List Site) (m : BitVec 32) (s : State), (s.onStep 9 = true) ∧ (s.hkc.shortFw = []) ∧ ((s.coreStart || s.hkc.verified2) = true) ∧ (s.siteLeft t.g = true) ∧ (((short.find? fun y => y.1.g == t.g).map (·.2)) = some m) ∧ (m ≠ 0xFFFFFFFF))
    ∧ (∃ (s : State), (s.onStep 9 = true) ∧ (s.hkc.shortFw ≠ []) ∧ (s.hkc.verified2 = true))
    ∧ (∃ (t : Site) (short : List (Site × BitVec 32)) (differ : List Site) (m : BitVec 32) (s : State), (s.onStep 9 = true) ∧ (s.hkc.verified2 = true) ∧ (s.hkc.shortFw.any (fun e => e.1 == t.g) = true) ∧ (((short.find? fun y => y.1.g == t.g).map (·.2)) = some m) ∧ (m ≠ 0xFFFFFFFF)) :=
  ⟨⟨.hkc, 1025, (stepS 3).w .mbx F.MBX_SEG_CRC_CRC 2566472073, segPost_ok⟩,
   ⟨.hkc, 0, (stepS 3), segPost_no⟩,
   ⟨.hkc, 1, (stepS 3).wb .mbx F.MBX_STATUS_SEG_BUSY true, by decide +kernel⟩,
   ⟨1, 3, (stepS 3) |> fun s => { s with hkc := { s.hkc with staging := some (1, 3) } }, by decide +kernel⟩,
   ⟨⟨true, 0, 0, 0, (0, 0, 0), 0, 0⟩, 2, 3, 2566472073, List.replicate 4096 0, (stepS 9).wb (.fab 0) F.FAB_MGMT_CFG_FW_EN true, fwSeg_ok⟩,
   ⟨⟨true, 0, 0, 0, (0, 0, 0), 0, 0⟩, 3, 0, List.replicate 4096 0, clocked, by decide +kernel⟩,
   ⟨(stepS 4) |> fun s => { s with hkc := { s.hkc with imageRuns := false, staged1 := [0] } }, by decide +kernel⟩,
   ⟨(stepS 9) |> fun s => { s with hkc := { s.hkc with staged2 := [0] } }, by decide +kernel⟩,
   ⟨(stepS 9) |> fun s => { s with hkc := { s.hkc with verified2 := true } }, by decide +kernel⟩,
   ⟨(stepS 9).w .rst F.RST_CAUSE_LEVEL 3 |> fun s => { s with hkc := { s.hkc with copies := [(0, 5)], fwDigest := 5, siteFail := (List.range 160).drop 1, stackFail := (List.range 12).drop 1 } }, by decide +kernel⟩,
   ⟨t0, [(t0, 1)], [], 1, (stepS 9) |> fun s => { s with hkc := { s.hkc with verified2 := true } }, by decide +kernel⟩,
   ⟨(stepS 9) |> fun s => { s with hkc := { s.hkc with shortFw := [(0, 1)], verified2 := true } }, by decide +kernel⟩,
   ⟨t0, [(t0, 1)], [], 1, (stepS 9) |> fun s => { s with hkc := { s.hkc with shortFw := [(0, 1)], verified2 := true } }, by decide +kernel⟩⟩

theorem wit_MailboxCommands :
    (∃ (q : Req) (a : Bool) (i n : Nat) (s : State), (s.grants q .mbx F.MBX_CMD_CMD.off = true) ∧ (s.hkc.imageRuns = true) ∧ (s.hkc.cmd = none) ∧ (s.b .mbx F.MBX_STATUS_CMD_BUSY = false) ∧ (s.store.leaf = some (a, i, n)) ∧ (i < 65536))
    ∧ (∃ (q : Req) (s : State), (s.grants q .mbx F.MBX_CMD_CMD.off = true) ∧ (s.hkc.imageRuns = true) ∧ (s.hkc.cmd = none) ∧ (s.b .mbx F.MBX_STATUS_CMD_BUSY = false) ∧ (s.store.leaf.all (fun x => decide (65536 ≤ x.2.1)) = true))
    ∧ (∃ (q : Req) (s : State), (s.grants q .mbx F.MBX_CMD_CMD.off = true) ∧ (s.hkc.imageRuns = true) ∧ (s.hkc.cmd = none) ∧ (s.b .mbx F.MBX_STATUS_CMD_BUSY = false))
    ∧ (∃ (q : Req) (s : State), (s.grants q .mbx F.MBX_CMD_CMD.off = true) ∧ (s.hkc.imageRuns = true) ∧ (s.hkc.cmd = none) ∧ (s.b .mbx F.MBX_STATUS_CMD_BUSY = false) ∧ (s.r .mbx (F.MBX_ARG_ARG 0) % 2 ^ 16 = 0xFFFF))
    ∧ (∃ (q : Req) (s : State), (s.grants q .mbx F.MBX_CMD_CMD.off = true) ∧ (s.hkc.imageRuns = true) ∧ (s.hkc.cmd = none) ∧ (s.b .mbx F.MBX_STATUS_CMD_BUSY = false) ∧ (s.r .mbx (F.MBX_ARG_ARG 0) % 2 ^ 16 < 512))
    ∧ (∃ (q : Req) (s : State), (s.grants q .mbx F.MBX_CMD_CMD.off = true) ∧ (s.hkc.imageRuns = true) ∧ (s.hkc.cmd = none) ∧ (s.b .mbx F.MBX_STATUS_CMD_BUSY = false) ∧ (512 ≤ s.r .mbx (F.MBX_ARG_ARG 0) % 2 ^ 16) ∧ (s.r .mbx (F.MBX_ARG_ARG 0) % 2 ^ 16 ≠ 0xFFFF))
    ∧ (∃ (q : Req) (c : Byte) (s : State), ((Instr.mbxReservedCmd q c).wf = true) ∧ (s.grants q .mbx F.MBX_CMD_CMD.off = true) ∧ (s.hkc.imageRuns = true) ∧ (s.hkc.cmd = none) ∧ (s.b .mbx F.MBX_STATUS_CMD_BUSY = false))
    ∧ (∃ (q : Req) (s : State), (s.grants q .mbx F.MBX_CMD_CMD.off = true) ∧ (s.hkc.imageRuns = true) ∧ (s.b .mbx F.MBX_STATUS_CMD_BUSY = true))
    ∧ (∃ (q : Req) (s : State), (s.grants q .mbx F.MBX_CMD_CMD.off = true) ∧ (s.hkc.imageRuns = true) ∧ (s.b .mbx F.MBX_STATUS_CMD_BUSY = true))
    ∧ (∃ (q : Req) (s : State), (s.grants q .mbx F.MBX_CMD_CMD.off = true) ∧ (s.hkc.imageRuns = true) ∧ (s.b .mbx F.MBX_STATUS_CMD_BUSY = true))
    ∧ (∃ (q : Req) (c : Byte) (s : State), ((Instr.mbxReservedCmd q c).wf = true) ∧ (s.grants q .mbx F.MBX_CMD_CMD.off = true) ∧ (s.hkc.imageRuns = true) ∧ (s.b .mbx F.MBX_STATUS_CMD_BUSY = true)) :=
  ⟨⟨.hkc, true, 0, 0, (stepS 11), by decide +kernel⟩,
   ⟨.hkc, (stepS 11) |> fun s => { s with store := { s.store with leafA := some (65536, 0) } }, by decide +kernel⟩,
   ⟨.hkc, (stepS 11), by decide +kernel⟩,
   ⟨.hkc, (stepS 11).w .mbx (F.MBX_ARG_ARG 0) 0xFFFF, by decide +kernel⟩,
   ⟨.hkc, (stepS 11), by decide +kernel⟩,
   ⟨.hkc, (stepS 11).w .mbx (F.MBX_ARG_ARG 0) 600, by decide +kernel⟩,
   ⟨.hkc, 9, (stepS 11), by decide +kernel⟩,
   ⟨.hkc, (stepS 11).wb .mbx F.MBX_STATUS_CMD_BUSY true, by decide +kernel⟩,
   ⟨.hkc, (stepS 11).wb .mbx F.MBX_STATUS_CMD_BUSY true, by decide +kernel⟩,
   ⟨.hkc, (stepS 11).wb .mbx F.MBX_STATUS_CMD_BUSY true, by decide +kernel⟩,
   ⟨.hkc, 9, (stepS 11).wb .mbx F.MBX_STATUS_CMD_BUSY true, by decide +kernel⟩⟩

theorem wit_ResetRequests :
    (∃ (q : Req) (s : State), (s.grants q .rst F.RST_CMD_KEY.off = true))
    ∧ (∃ (q : Req) (s : State), (s.grants q .rst F.RST_CMD_KEY.off = true))
    ∧ (∃ (q : Req) (s : State), (s.grants q .rst F.RST_CMD_KEY.off = true))
    ∧ (∃ (d : MgmtDest) (n : Nat) (s : State), ((s.route d 0x03 (leBytes 4 (BitVec.ofNat 32 (0x5EA30000 + n)).toNat)).1 = true) ∧ (s.b (.fab 0) F.FAB_MGMT_CFG_RESET_EN = true) ∧ (n = 2 ∨ n = 3 ∧ s.rst.wasReady = true))
    ∧ (∃ (d : MgmtDest) (key : Word) (s : State), ((s.route d 0x03 (leBytes 4 key.toNat)).1 = true) ∧ (s.b (.fab 0) F.FAB_MGMT_CFG_RESET_EN = false))
    ∧ (∃ (ns : Nat) (b : Bool) (s : State), (1200 ≤ ns ∨ 1000 ≤ ns ∧ b = true))
    ∧ (∃ (ns : Nat) (b : Bool) (s : State), (1200 ≤ ns ∨ 1000 ≤ ns ∧ b = true))
    ∧ (∃ (ns : Nat) (s : State), (ns < 1000))
    ∧ (∃ (ns : Nat) (s : State), (ns < 1000))
    ∧ (∃ (p : ResetPin) (s : State), (p ∈ s.pins.low))
    ∧ (∃ (s : State), (s.hkc.imageRuns = true))
    ∧ (∃ (d : Fin 4) (s : State), (bit (s.r .rst F.RST_CLK_STATUS_DIE_LOCK) d.val = true))
    ∧ (∃ (s : State), (s.b .rst F.RST_CLK_STATUS_FABREF = true))
    ∧ (∃ (s : State), (s.pins.fabref = false) ∧ (s.b .rst F.RST_CLK_STATUS_HOLDOVER = true)) :=
  ⟨⟨.hkc, clocked, by decide +kernel⟩,
   ⟨.hkc, clocked, by decide +kernel⟩,
   ⟨.hkc, clocked, by decide +kernel⟩,
   ⟨⟨true, 0, 0, 0, (0, 0, 0), 0, 0⟩, 2, clocked.wb (.fab 0) F.FAB_MGMT_CFG_RESET_EN true, by decide +kernel⟩,
   ⟨⟨true, 0, 0, 0, (0, 0, 0), 0, 0⟩, 2, clocked, by decide +kernel⟩,
   ⟨1200, false, clocked, by decide +kernel⟩,
   ⟨1000, true, clocked, by decide +kernel⟩,
   ⟨999, clocked, by decide +kernel⟩,
   ⟨999, clocked, by decide +kernel⟩,
   ⟨.por, { clocked with pins := { clocked.pins with low := [.por] } }, by decide +kernel⟩,
   ⟨stepS 11, by decide +kernel⟩,
   ⟨1, clocked.w .rst F.RST_CLK_STATUS_DIE_LOCK 15, by decide +kernel⟩,
   ⟨clocked.wb .rst F.RST_CLK_STATUS_FABREF true, by decide +kernel⟩,
   ⟨(clocked.wb .rst F.RST_CLK_STATUS_HOLDOVER true) |> fun s => { s with pins := { s.pins with fabref := false } }, by decide +kernel⟩⟩

theorem wit_ResetLevels :
    (∃ (s : State), (s.rst.want = 1) ∧ (s.store.pulse ≤ s.tape))
    ∧ (∃ (s : State), (s.rst.want = 2) ∧ (s.store.pulse ≤ s.tape))
    ∧ (∃ (s : State), (s.rst.want = 3) ∧ (s.store.pulse ≤ s.tape))
    ∧ (∃ (s : State), (s.rst.want = 2) ∧ (s.tape < s.store.pulse))
    ∧ (∃ (s : State), (s.rst.waits = true) ∧ (s.rst.want = 2))
    ∧ (∃ (s : State), (s.mayRelease = true) ∧ (s.rst.level = 1))
    ∧ (∃ (s : State), (s.mayRelease = true) ∧ (s.rst.level = 2))
    ∧ (∃ (s : State), (s.mayRelease = true) ∧ (s.rst.level = 3))
    ∧ (∃ (s : State), (s.pins.v48 = true))
    ∧ (∃ (s : State), (s.pins.v48 = true))
    ∧ (∃ (s : State), (s.pins.v48 = false) ∧ (s.rst.level = 1) ∧ (s.rst.want = 0) ∧ (s.rst.heldShut = false) ∧ (.por ∉ s.pins.low) ∧ (.sysrst ∉ s.pins.low)) :=
  ⟨⟨({ clocked with rst := { clocked.rst with want := 1, causes := 16 } }), by decide +kernel⟩,
   ⟨({ clocked with rst := { clocked.rst with want := 2, causes := 16 } }), by decide +kernel⟩,
   ⟨({ clocked with rst := { clocked.rst with want := 3, causes := 16 } }), by decide +kernel⟩,
   ⟨({ clocked with rst := { clocked.rst with want := 2, causes := 16 } }) |> fun s => { s with store := { s.store with pulse := 9 } }, by decide +kernel⟩,
   ⟨({ clocked with rst := { clocked.rst with want := 2, causes := 16 } }) |> fun s => { s with store := { s.store with pulse := 9 }, rst := { s.rst with waits := true } }, by decide +kernel⟩,
   ⟨{ clocked with rst := { clocked.rst with level := 1, since := 5 }, pins := { clocked.pins with v48 := true, low := [] } }, by decide +kernel⟩,
   ⟨{ clocked with rst := { clocked.rst with level := 2, since := 5 }, pins := { clocked.pins with v48 := true, low := [] } }, by decide +kernel⟩,
   ⟨{ clocked with rst := { clocked.rst with level := 3, since := 5 }, pins := { clocked.pins with v48 := true, low := [] } }, by decide +kernel⟩,
   ⟨stepS 11, by decide +kernel⟩,
   ⟨stepS 11, by decide +kernel⟩,
   ⟨{ clocked with rst := { clocked.rst with level := 1 }, pins := { clocked.pins with v48 := false, low := [] } }, by decide +kernel⟩⟩

theorem wit_BlockResets :
    (∃ (q : Req) (s : State), (s.grants q .rst F.RST_BLK_CTRL_RESET.off = true) ∧ (s.rst.blk = none) ∧ (s.blkSel = none))
    ∧ (∃ (q : Req) (b : BlockRef) (s : State), (s.grants q .rst F.RST_BLK_CTRL_RESET.off = true) ∧ (s.rst.blk = none) ∧ (s.blkSel = some b) ∧ (s.blkUnavailable b = true))
    ∧ (∃ (q : Req) (t : Site) (s : State), (s.grants q .rst F.RST_BLK_CTRL_RESET.off = true) ∧ (s.rst.blk = none) ∧ (s.blkSel = some (.tile t)) ∧ (s.blkUnavailable (.tile t) = false) ∧ (s.stackRuns t.stack.val = true))
    ∧ (∃ (q : Req) (t : Site) (s : State), (s.grants q .rst F.RST_BLK_CTRL_RESET.off = true) ∧ (s.rst.blk = none) ∧ (s.blkSel = some (.tile t)) ∧ (s.blkUnavailable (.tile t) = false) ∧ (s.stackRuns t.stack.val = false) ∧ ((s.tile t.g).drained = false))
    ∧ (∃ (q : Req) (t : Site) (s : State), (s.grants q .rst F.RST_BLK_CTRL_RESET.off = true) ∧ (s.rst.blk = none) ∧ (s.blkSel = some (.tile t)) ∧ (s.blkUnavailable (.tile t) = false) ∧ (s.stackRuns t.stack.val = false) ∧ ((s.tile t.g).drained = true) ∧ (s.sendersTo (fun g => g == t.g) = []))
    ∧ (∃ (q : Req) (t : Site) (s : State), (s.grants q .rst F.RST_BLK_CTRL_RESET.off = true) ∧ (s.rst.blk = none) ∧ (s.blkSel = some (.tile t)) ∧ (s.blkUnavailable (.tile t) = false) ∧ (s.stackRuns t.stack.val = false))
    ∧ (∃ (b : BlockRef) (x : Nat) (s : State), (s.rst.blk = some (b, x)))
    ∧ (∃ (b : BlockRef) (e : Byte) (s : State), (e.toNat ≠ s.epochOf b))
    ∧ (∃ (b : BlockRef) (e : Byte) (s : State), (e.toNat = s.epochOf b))
    ∧ (∃ (k : Fin 12) (s : State), (bit (s.r .rst F.RST_CLK_STATUS_STACK_LOCK) k.val = true)) :=
  ⟨⟨.hkc, clocked.w .rst F.RST_BLK_SEL_TYPE 0, by decide +kernel⟩,
   ⟨.hkc, .tile t0, { (clocked.w .rst F.RST_BLK_SEL_TYPE 1) with hkc := { clocked.hkc with stackFail := [0] } }, by decide +kernel⟩,
   ⟨.hkc, t0, (runs clocked).w .rst F.RST_BLK_SEL_TYPE 1, by decide +kernel⟩,
   ⟨.hkc, t0, (fl 0 .running 0 []).w .rst F.RST_BLK_SEL_TYPE 1, by decide +kernel⟩,
   ⟨.hkc, t0, (tl { Tile.reset with pc := 8 }).w .rst F.RST_BLK_SEL_TYPE 1, by decide +kernel⟩,
   ⟨.hkc, t0, (fl 0 .running 0 []).w .rst F.RST_BLK_SEL_TYPE 1, by decide +kernel⟩,
   ⟨.tile t0, 5, { clocked with rst := { clocked.rst with blk := some (.tile t0, 5) } }, by decide +kernel⟩,
   ⟨.tile t0, 3, clocked, by decide +kernel⟩,
   ⟨.tile t0, 0, clocked, by decide +kernel⟩,
   ⟨1, clocked.w .rst F.RST_CLK_STATUS_STACK_LOCK 0xFFF, by decide +kernel⟩⟩

theorem wit_Transactions :
    (∃ (q : Req) (s : State), (s.grants q .cfg F.CFG_TXN_BEGIN_BASTE.off = true) ∧ ((s.txn q.n).isOpen = false))
    ∧ (∃ (q : Req) (s : State), (s.grants q .cfg F.CFG_TXN_BEGIN_BASTE.off = true) ∧ ((s.txn q.n).isOpen = true) ∧ (s.tape < (s.txn q.n).baste + 10000000))
    ∧ (∃ (q : Req) (s : State), (s.grants q .cfg F.CFG_TXN_ROLLBACK_UNPICK.off = true) ∧ ((s.txn q.n).isOpen = true) ∧ (s.tape < (s.txn q.n).baste + 10000000))
    ∧ (∃ (q : Req) (s : State), (s.grants q .cfg F.CFG_TXN_ROLLBACK_UNPICK.off = true) ∧ ((s.txn q.n).isOpen = false))
    ∧ (∃ (q : Req) (k : Blk) (r : RegSpec) (i off : Nat) (val : Word) (s : State), ((Instr.txnStageWrite q off val).wf = true) ∧ (s.reaches q = true) ∧ (regAt off = some (k, r, i)) ∧ (r.isRwt = true) ∧ (s.inReset k = false) ∧ (s.barred q .bus k (off - k.base) = false) ∧ (s.mayWrite q (s.scopeOf k (off - k.base)) = true) ∧ ((s.txn q.n).isOpen = true) ∧ (s.tape < (s.txn q.n).baste + 10000000))
    ∧ (∃ (q : Req) (s : State), (s.grants q .cfg F.CFG_TXN_COMMIT_STITCH.off = true) ∧ ((s.txn q.n).isOpen = false))
    ∧ (∃ (q : Req) (s : State), (s.grants q .cfg F.CFG_TXN_COMMIT_STITCH.off = true) ∧ ((s.txn q.n).isOpen = true) ∧ (s.tape < (s.txn q.n).baste + 10000000) ∧ ((s.txn q.n).full = true))
    ∧ (∃ (q : Req) (x : Stitched) (s : State), (s.grants q .cfg F.CFG_TXN_COMMIT_STITCH.off = true) ∧ ((s.txn q.n).isOpen = true) ∧ (s.tape < (s.txn q.n).baste + 10000000) ∧ ((s.txn q.n).full = false) ∧ ((s.txnCheck q false (s.txn q.n).staged).toOption = some x))
    ∧ (∃ (q : Req) (s : State), (s.grants q .cfg F.CFG_TXN_COMMIT_STITCH.off = true) ∧ ((s.txn q.n).isOpen = true) ∧ (s.tape < (s.txn q.n).baste + 10000000) ∧ ((s.txn q.n).full = false) ∧ ((s.txnCheck q false (s.txn q.n).staged).toOption = none))
    ∧ (∃ (q : Req) (k : Blk) (r : RegSpec) (i off : Nat) (val : Word) (x : Stitched) (s : State), ((Instr.rwtLoneWrite q off val).wf = true) ∧ (s.reaches q = true) ∧ (regAt off = some (k, r, i)) ∧ (r.isRwt = true) ∧ (s.inReset k = false) ∧ (s.barred q .bus k (off - k.base) = false) ∧ (s.mayWrite q (s.scopeOf k (off - k.base)) = true) ∧ (r.paired = false) ∧ ((s.txn q.n).isOpen = false) ∧ ((s.txnCheck q true [(off, val)]).toOption = some x))
    ∧ (∃ (q : Req) (k : Blk) (r : RegSpec) (i off : Nat) (val : Word) (s : State), ((Instr.rwtLoneWrite q off val).wf = true) ∧ (s.reaches q = true) ∧ (regAt off = some (k, r, i)) ∧ (r.isRwt = true) ∧ (s.inReset k = false) ∧ (s.barred q .bus k (off - k.base) = false) ∧ (s.mayWrite q (s.scopeOf k (off - k.base)) = true) ∧ (r.paired = false) ∧ ((s.txn q.n).isOpen = false) ∧ ((s.txnCheck q true [(off, val)]).toOption = none))
    ∧ (∃ (s : State), (s.nextApply = none))
    ∧ (∃ (x : Stitched) (t : Nat) (s : State), (s.nextApply = some (x, t)) ∧ ((x.writes.any fun w => s.nowBarred x.req w.1) = false) ∧ ((x.writes.any fun w => (locate w.1).any s.inReset) = false))
    ∧ (∃ (x : Stitched) (t : Nat) (s : State), (s.nextApply = some (x, t)) ∧ ((x.writes.any fun w => s.nowBarred x.req w.1) = false) ∧ ((x.writes.any fun w => (locate w.1).any s.inReset) = true)) :=
  ⟨⟨.p0, upS, by decide +kernel⟩,
   ⟨.p0, (upS.setTxn 0 { Txn.reset with isOpen := true, staged := [] }), by decide +kernel⟩,
   ⟨.p0, (upS.setTxn 0 { Txn.reset with isOpen := true, staged := [(0, 0)] }), by decide +kernel⟩,
   ⟨.p0, upS, by decide +kernel⟩,
   ⟨.p0, (((regAt ((Blk.bolt 0).base + F.BOLT_STACKS_STACKS.off)).map fun x => x.1).getD .id), (((regAt ((Blk.bolt 0).base + F.BOLT_STACKS_STACKS.off)).map fun x => x.2.1).getD ⟨"", 0, 0, 0, 0, false, false, []⟩), (((regAt ((Blk.bolt 0).base + F.BOLT_STACKS_STACKS.off)).map fun x => x.2.2).getD 0), (Blk.bolt 0).base + F.BOLT_STACKS_STACKS.off, 1, (upS.setTxn 0 { Txn.reset with isOpen := true, staged := [] }), by decide +kernel⟩,
   ⟨.p0, upS, by decide +kernel⟩,
   ⟨.p0, upS.setTxn 0 { Txn.reset with isOpen := true, full := true }, by decide +kernel⟩,
   ⟨.p0, ⟨.p0, [], 1024, none, false, 0⟩, (upS.setTxn 0 { Txn.reset with isOpen := true, staged := [] }), by decide +kernel⟩,
   ⟨.p0, (upS.setTxn 0 { Txn.reset with isOpen := true, staged := [((Blk.bolt 0).base + F.BOLT_STACKS_STACKS.off, 1)] }).w (.bolt 1) F.BOLT_STACKS_STACKS 1, by decide +kernel⟩,
   ⟨.p0, (((regAt ((Blk.thm.base + F.PWR_LIMIT_SET_LIMIT.off))).map fun x => x.1).getD .id), (((regAt ((Blk.thm.base + F.PWR_LIMIT_SET_LIMIT.off))).map fun x => x.2.1).getD ⟨"", 0, 0, 0, 0, false, false, []⟩), (((regAt ((Blk.thm.base + F.PWR_LIMIT_SET_LIMIT.off))).map fun x => x.2.2).getD 0), (Blk.thm.base + F.PWR_LIMIT_SET_LIMIT.off), 1, ⟨.p0, [((Blk.thm.base + F.PWR_LIMIT_SET_LIMIT.off), 1)], 1024, none, true, 0⟩, upS, by decide +kernel⟩,
   ⟨.p0, (((regAt ((Blk.thm.base + F.THM_CFG_L1_MS.off))).map fun x => x.1).getD .id), (((regAt ((Blk.thm.base + F.THM_CFG_L1_MS.off))).map fun x => x.2.1).getD ⟨"", 0, 0, 0, 0, false, false, []⟩), (((regAt ((Blk.thm.base + F.THM_CFG_L1_MS.off))).map fun x => x.2.2).getD 0), (Blk.thm.base + F.THM_CFG_L1_MS.off), 0, upS, by decide +kernel⟩,
   ⟨upS, by decide +kernel⟩,
   ⟨⟨.p0, [((Blk.bolt 0).base + F.BOLT_STACKS_STACKS.off, 1)], 1024, none, true, 0⟩, 1024, { upS with stitched := [⟨.p0, [((Blk.bolt 0).base + F.BOLT_STACKS_STACKS.off, 1)], 1024, none, true, 0⟩] }, by decide +kernel⟩,
   ⟨⟨.p0, [((Blk.bolt 0).base + F.BOLT_STACKS_STACKS.off, 1)], 1024, none, true, 0⟩, 1024, { upS with stitched := [⟨.p0, [((Blk.bolt 0).base + F.BOLT_STACKS_STACKS.off, 1)], 1024, none, true, 0⟩], rst := { upS.rst with level := 3 } }, by decide +kernel⟩⟩

theorem wit_TxnTimeout :
    (∃ (q : Req) (s : State), ((s.txn q.n).isOpen = true) ∧ (s.tape ≤ (s.txn q.n).baste + 10000000))
    ∧ (∃ (q : Req) (s : State), (s.grants q .cfg F.CFG_TXN_COMMIT_STITCH.off = true) ∧ ((s.txn q.n).isOpen = true) ∧ ((s.txn q.n).baste + 10000000 ≤ s.tape)) :=
  ⟨⟨.p0, (upS.setTxn 0 { Txn.reset with isOpen := true, staged := [] }), by decide +kernel⟩,
   ⟨.p0, { ((upS.setTxn 0 { Txn.reset with isOpen := true, staged := [] })) with tape := 10000000 }, by decide +kernel⟩⟩

theorem wit_BoltOperations :
    (∃ (b : Fin 12) (s : State), (s.opAsked b.val 1 = true))
    ∧ (∃ (b : Fin 12) (l : List Site) (a : List (Site × Fin 17)) (s : State), (s.opAsked b.val 2 = true))
    ∧ (∃ (b : Fin 12) (l : List Site) (s : State), (s.opAsked b.val 3 = true))
    ∧ (∃ (b : Fin 12) (s : State), ((s.bolt b.val).op ≠ 0)) :=
  ⟨⟨0, ((clocked.w (.bolt 0) F.BOLT_STACKS_STACKS 1).w (.stk 0) F.STK_BOLT_OP_OP 1), by decide +kernel⟩,
   ⟨0, [], [], ((clocked.w (.bolt 0) F.BOLT_STACKS_STACKS 1).w (.stk 0) F.STK_BOLT_OP_OP 2), by decide +kernel⟩,
   ⟨0, [], ((clocked.w (.bolt 0) F.BOLT_STACKS_STACKS 1).w (.stk 0) F.STK_BOLT_OP_OP 3), by decide +kernel⟩,
   ⟨0, ((clocked.w (.bolt 0) F.BOLT_STACKS_STACKS 1).w (.stk 0) F.STK_BOLT_OP_OP 3) |> fun s => s.modBolt 0 fun x => { x with op := 3 }, by decide +kernel⟩⟩

theorem wit_ThermalAndPower :
    (∃ (rd : List (Nat × Int)) (s : State), (s.hkc.imageRuns = true) ∧ (s.rst.wasReady = true) ∧ (s.store.pulse ≤ s.tape))
    ∧ (∃ (s : State), (s.hkc.imageRuns = true))
    ∧ (∃ (c : Nat) (v : Int) (s : State), (c < 4608) ∧ (v ≤ deg 160) ∧ ((s.sensor c).bad = false) ∧ (s.rst.heldShut = false) ∧ (s.hkc.powered = true) ∧ (v < tripAt (if c < 3840 then c / 320 else 12 + (c - 3840) / 64)))
    ∧ (∃ (c : Nat) (v : Int) (s : State), (c < 4608) ∧ (v ≤ deg 160) ∧ ((s.sensor c).bad = false) ∧ (s.rst.heldShut = false) ∧ (s.hkc.powered = true) ∧ (tripAt (if c < 3840 then c / 320 else 12 + (c - 3840) / 64) ≤ v) ∧ ((s.sensor c).hits = 0))
    ∧ (∃ (c : Nat) (v : Int) (s : State), (c < 4608) ∧ (v ≤ deg 160) ∧ ((s.sensor c).bad = false) ∧ (s.hkc.imageRuns = true) ∧ (s.hkc.powered = true) ∧ (tripAt (if c < 3840 then c / 320 else 12 + (c - 3840) / 64) ≤ v) ∧ ((s.sensor c).hits = 1) ∧ (s.rst.level = 0) ∧ (s.rst.wasReady = true) ∧ (s.rst.heldShut = false))
    ∧ (∃ (s : State), (s.hkc.imageRuns = true) ∧ (s.hkc.powered = true) ∧ (s.rst.level = 0) ∧ (s.rst.wasReady = true) ∧ (s.rst.heldShut = false))
    ∧ (∃ (s : State), (s.hkc.imageRuns = false) ∧ (s.hkc.powered = true) ∧ (s.rst.heldShut = false))
    ∧ (∃ (h : Nat) (s : State), (h < 20000))
    ∧ (∃ (h : Nat) (s : State), (s.hkc.imageRuns = true) ∧ (s.flowOn = true) ∧ (20000 ≤ h) ∧ (s.therm.flowAt = none))
    ∧ (∃ (h x : Nat) (s : State), (s.hkc.imageRuns = true) ∧ (s.flowOn = true) ∧ (20000 ≤ h) ∧ (s.therm.flowAt = some x) ∧ (x < s.tape) ∧ (s.flowMinOn = true → s.tape - x ≤ s.flowBound))
    ∧ (∃ (h x : Nat) (s : State), (s.hkc.imageRuns = true) ∧ (s.flowMinOn = true) ∧ (20000 ≤ h) ∧ (s.therm.flowAt = some x) ∧ (x < s.tape) ∧ (s.flowBound < s.tape - x) ∧ (s.rst.level = 0) ∧ (s.rst.wasReady = true) ∧ (s.rst.heldShut = false))
    ∧ (∃ (x : Nat) (s : State), (s.hkc.imageRuns = true) ∧ (s.flowMinOn = true) ∧ (s.therm.flowAt = some x) ∧ (s.store.pulse ≤ s.tape) ∧ (s.rst.level = 0) ∧ (s.rst.wasReady = true) ∧ (s.rst.heldShut = false))
    ∧ (∃ (q : Req) (s : State), (s.grants q .thm F.THM_SHUTDOWN_CLEAR.off = true) ∧ (s.rst.heldShut = true) ∧ (((List.range 40).any (fun d => decide (warnAt d ≤ s.domRead d)) || s.b .thm F.THM_STATUS_COOL_WARN || s.flowLow) = false))
    ∧ (∃ (q : Req) (s : State), (s.grants q .thm F.THM_SHUTDOWN_CLEAR.off = true) ∧ (s.rst.heldShut = true) ∧ (((List.range 40).any (fun d => decide (warnAt d ≤ s.domRead d)) || s.b .thm F.THM_STATUS_COOL_WARN || s.flowLow) = true)) :=
  ⟨⟨[(0, 800)], ({ stepS 12 with rst := { (stepS 12).rst with wasReady := true } }), by decide +kernel⟩,
   ⟨({ stepS 12 with rst := { (stepS 12).rst with wasReady := true } }), by decide +kernel⟩,
   ⟨0, 800, ({ stepS 12 with rst := { (stepS 12).rst with wasReady := true } }), by decide +kernel⟩,
   ⟨0, 1840, ({ stepS 12 with rst := { (stepS 12).rst with wasReady := true } }), by decide +kernel⟩,
   ⟨0, 1840, ({ stepS 12 with rst := { (stepS 12).rst with wasReady := true } }) |> fun s => { s with therm := { s.therm with sensors := [(0, { Sensor.reset with hits := 1 })] } }, by decide +kernel⟩,
   ⟨({ stepS 12 with rst := { (stepS 12).rst with wasReady := true } }), by decide +kernel⟩,
   ⟨{ clocked with hkc := { clocked.hkc with powered := true } }, by decide +kernel⟩,
   ⟨19999, ({ stepS 12 with rst := { (stepS 12).rst with wasReady := true } }) |> fun s => s.w .thm F.THM_FLOW_CFG_K 600, by decide +kernel⟩,
   ⟨20000, ({ stepS 12 with rst := { (stepS 12).rst with wasReady := true } }) |> fun s => s.w .thm F.THM_FLOW_CFG_K 600, by decide +kernel⟩,
   ⟨20000, 0, ({ stepS 12 with rst := { (stepS 12).rst with wasReady := true } }) |> fun s => { s.w .thm F.THM_FLOW_CFG_K 600 with tape := 20000000, therm := { s.therm with flowAt := some 0 } }, by decide +kernel⟩,
   ⟨20000, 0, ({ stepS 12 with rst := { (stepS 12).rst with wasReady := true } }) |> fun s => { s.w .thm F.THM_FLOW_CFG_K 600 with tape := 2000000000, therm := { s.therm with flowAt := some 0 } }, by decide +kernel⟩,
   ⟨0, ({ stepS 12 with rst := { (stepS 12).rst with wasReady := true } }) |> fun s => { s.w .thm F.THM_FLOW_CFG_K 600 with therm := { s.therm with flowAt := some 0 } }, by decide +kernel⟩,
   ⟨.hkc, ({ clocked with rst := { clocked.rst with heldShut := true, level := 3 }, pins := { clocked.pins with thermtrip := true } }), by decide +kernel⟩,
   ⟨.hkc, ({ clocked with rst := { clocked.rst with heldShut := true, level := 3 }, pins := { clocked.pins with thermtrip := true } }).wb .thm F.THM_STATUS_COOL_WARN true, by decide +kernel⟩⟩

theorem wit_VerticalLinks :
    (∃ (t : Site) (g : Fin 8) (c : Fin 2) (s : State), ((s.chan (sliceChan t.g 0)).sideband.contains (g.val, c.val) = true))
    ∧ (∃ (t : Site) (g : Fin 8) (c : Fin 2) (s : State), ((s.chan (sliceChan t.g 0)).sideband.contains (g.val, c.val) = false) ∧ ((s.chan (sliceChan t.g 0)).sideband.contains (g.val, 1 - c.val) = false))
    ∧ (∃ (t : Site) (g : Fin 8) (c : Fin 2) (d : Nat) (s : State), ((s.chan (sliceChan t.g 0)).sideband.contains (g.val, c.val) = false) ∧ ((s.chan (sliceChan t.g 0)).sideband.contains (g.val, 1 - c.val) = true) ∧ (s.migUnder t.stack.val = false) ∧ (s.migs = []) ∧ (s.ltile t.g ≠ 0xFE) ∧ (s.freeSpare t.stack.val = some d) ∧ (s.stackFree t.stack.val = false))
    ∧ (∃ (t : Site) (g : Fin 8) (c : Fin 2) (s : State), ((s.chan (sliceChan t.g 0)).sideband.contains (g.val, c.val) = false) ∧ ((s.chan (sliceChan t.g 0)).sideband.contains (g.val, 1 - c.val) = true) ∧ (s.migUnder t.stack.val = false) ∧ (s.migs = []) ∧ (s.ltile t.g ≠ 0xFE) ∧ (s.freeSpare t.stack.val = none) ∧ (s.stackFree t.stack.val = false))
    ∧ (∃ (t : Site) (g : Fin 8) (c : Fin 2) (s : State), ((s.chan (sliceChan t.g 0)).sideband.contains (g.val, c.val) = false) ∧ ((s.chan (sliceChan t.g 0)).sideband.contains (g.val, 1 - c.val) = true) ∧ (s.migUnder t.stack.val = false) ∧ (s.migs = []) ∧ (s.ltile t.g ≠ 0xFE) ∧ (s.stackFree t.stack.val = true))
    ∧ (∃ (t : Site) (c : Fin 2) (p : Fin 72) (l : List (Fin 8)) (s : State), ((s.chan (sliceChan t.g c.val)).hot p.val = false))
    ∧ (∃ (t : Site) (c : Fin 2) (p : Fin 72) (l : List (Fin 8)) (s : State), ((s.chan (sliceChan t.g c.val)).hot p.val = true) ∧ (s.memLive = true) ∧ (s.idleWindow (sliceChan t.g c.val) = true) ∧ ((s.chan (sliceChan t.g c.val)).spares.length + l.eraseDups.length ≤ 16) ∧ ((s.chan (sliceChan t.g c.val)).erasures.length ≤ 4))
    ∧ (∃ (t : Site) (c : Fin 2) (p : Fin 72) (i : Fin 8) (s : State), ((s.chan (sliceChan t.g c.val)).hot p.val = true) ∧ (s.memLive = true) ∧ (s.idleWindow (sliceChan t.g c.val) = true) ∧ (16 ≤ (s.chan (sliceChan t.g c.val)).spares.length) ∧ ((s.chan (sliceChan t.g c.val)).erasures.contains p.val = false) ∧ ((s.chan (sliceChan t.g c.val)).erasures.length < 4))
    ∧ (∃ (k : Fin 12) (s : State), (s.r (.stk k.val) F.VC_MIG_STATUS_STATE ≠ 1))
    ∧ (∃ (k : Fin 12) (s : State), (s.r (.stk k.val) F.VC_MIG_STATUS_STATE = 1) ∧ (s.r (.stk k.val) F.VC_MIG_DONE_LINES < migLines) ∧ (s.memLive = true) ∧ (s.idleSlot (sliceAt (s.migSrc k.val) (64 * s.r (.stk k.val) F.VC_MIG_DONE_LINES)) = true) ∧ (s.idleSlot (sliceAt (k.val * 160 + s.r (.stk k.val) F.VC_MIG_STATUS_DST_SITE) (64 * s.r (.stk k.val) F.VC_MIG_DONE_LINES)) = true) ∧ ((s.chan (chanOf (sliceAt (s.migSrc k.val) (64 * s.r (.stk k.val) F.VC_MIG_DONE_LINES)))).erasures.length < 9) ∧ (s.verdict (sliceAt (s.migSrc k.val) (64 * s.r (.stk k.val) F.VC_MIG_DONE_LINES)) = .clean) ∧ (Mem.wf s.mem))
    ∧ (∃ (k : Fin 12) (s : State), (s.r (.stk k.val) F.VC_MIG_STATUS_STATE = 1) ∧ (s.r (.stk k.val) F.VC_MIG_DONE_LINES < migLines) ∧ (s.memLive = true) ∧ (s.idleSlot (sliceAt (s.migSrc k.val) (64 * s.r (.stk k.val) F.VC_MIG_DONE_LINES)) = true) ∧ (s.idleSlot (sliceAt (k.val * 160 + s.r (.stk k.val) F.VC_MIG_STATUS_DST_SITE) (64 * s.r (.stk k.val) F.VC_MIG_DONE_LINES)) = true) ∧ (9 ≤ (s.chan (chanOf (sliceAt (s.migSrc k.val) (64 * s.r (.stk k.val) F.VC_MIG_DONE_LINES)))).erasures.length))
    ∧ (∃ (k : Fin 12) (s : State), (s.r (.stk k.val) F.VC_MIG_STATUS_STATE = 1) ∧ (s.r (.stk k.val) F.VC_MIG_DONE_LINES < migLines) ∧ (s.memLive = true) ∧ (s.idleSlot (sliceAt (s.migSrc k.val) (64 * s.r (.stk k.val) F.VC_MIG_DONE_LINES)) = true) ∧ (s.idleSlot (sliceAt (k.val * 160 + s.r (.stk k.val) F.VC_MIG_STATUS_DST_SITE) (64 * s.r (.stk k.val) F.VC_MIG_DONE_LINES)) = true) ∧ ((s.chan (chanOf (sliceAt (s.migSrc k.val) (64 * s.r (.stk k.val) F.VC_MIG_DONE_LINES)))).erasures.length < 9) ∧ (s.verdict (sliceAt (s.migSrc k.val) (64 * s.r (.stk k.val) F.VC_MIG_DONE_LINES)) = .ue))
    ∧ (∃ (k : Fin 12) (s : State), (s.r (.stk k.val) F.VC_MIG_STATUS_STATE = 1) ∧ (migLines ≤ s.r (.stk k.val) F.VC_MIG_DONE_LINES) ∧ (s.stackFree k.val = false))
    ∧ (∃ (k : Fin 12) (s : State), (s.r (.stk k.val) F.VC_MIG_STATUS_STATE = 1) ∧ (migLines ≤ s.r (.stk k.val) F.VC_MIG_DONE_LINES) ∧ (s.stackFree k.val = true) ∧ (s.migs = []))
    ∧ (∃ (n : Fin 4) (d : Fin 2) (x : List Byte) (l : List (Fin 128 × Fin 16)) (s : State), (s.seamUp n.val = false))
    ∧ (∃ (n : Fin 4) (d : Fin 2) (x : List Byte) (l : List (Fin 128 × Fin 16)) (s : State), (s.seamUp n.val = true) ∧ (seamOk x = true) ∧ ((s.seam (2 * n.val + d.val)).failed.any (fun y => y != x) = false))
    ∧ (∃ (n : Fin 4) (d : Fin 2) (x : List Byte) (l : List (Fin 128 × Fin 16)) (s : State), (s.seamUp n.val = true) ∧ (seamOk x = false))
    ∧ (∃ (n : Fin 4) (d : Fin 2) (x y : List Byte) (a : Fin 128) (b : Fin 16) (s : State), (s.seamUp n.val = true) ∧ (seamOk x = true) ∧ ((s.seam (2 * n.val + d.val)).failed = some y) ∧ (y ≠ x) ∧ (((s.seam (2 * n.val + d.val)).hits.get [] (a.val * 16 + b.val)).length < 7))
    ∧ (∃ (n : Fin 4) (d : Fin 2) (x y : List Byte) (a : Fin 128) (b : Fin 16) (s : State), (s.seamUp n.val = true) ∧ (seamOk x = true) ∧ ((s.seam (2 * n.val + d.val)).failed = some y) ∧ (y ≠ x) ∧ (7 ≤ ((s.seam (2 * n.val + d.val)).hits.get [] (a.val * 16 + b.val)).length) ∧ (s.tape < ((s.seam (2 * n.val + d.val)).hits.get [] (a.val * 16 + b.val)).getD 6 0 + 1000000) ∧ ((s.seam (2 * n.val + d.val)).spared.contains a.val = false))
    ∧ (∃ (n : Fin 4) (d : Fin 2) (x y : List Byte) (a : Fin 128) (b : Fin 16) (s : State), (s.seamUp n.val = true) ∧ (seamOk x = true) ∧ ((s.seam (2 * n.val + d.val)).failed = some y) ∧ (y ≠ x) ∧ (7 ≤ ((s.seam (2 * n.val + d.val)).hits.get [] (a.val * 16 + b.val)).length) ∧ (s.tape < ((s.seam (2 * n.val + d.val)).hits.get [] (a.val * 16 + b.val)).getD 6 0 + 1000000) ∧ ((s.seam (2 * n.val + d.val)).spared.contains a.val = true))
    ∧ (∃ (q : Req) (n : Fin 4) (a b : Bool) (s : State), (s.grants q .rst (F.SEAM_CTRL_RETRAIN n.val).off = true) ∧ (s.seamClaimed n.val = false))
    ∧ (∃ (q : Req) (n : Fin 4) (a b : Bool) (s : State), (s.grants q .rst (F.SEAM_CTRL_RETRAIN n.val).off = true) ∧ (s.seamClaimed n.val = true))
    ∧ (∃ (q : Req) (s : State), (s.grants q .rst (F.RST_BD_CTRL_RESET 0).off = true))
    ∧ (∃ (q : Req) (d : Fin 4) (s : State), (s.grants q .rst (F.RST_BD_CTRL_RESET d.val).off = true) ∧ (d ≠ 0) ∧ (s.dieHeld d.val = false) ∧ (((List.range 12).any (fun b => s.patBusy b && s.touches b d.val)) = false))
    ∧ (∃ (q : Req) (d : Fin 4) (s : State), (s.grants q .rst (F.RST_BD_CTRL_RESET d.val).off = true) ∧ (d ≠ 0) ∧ (s.dieHeld d.val = false) ∧ (((List.range 12).any (fun b => s.patBusy b && s.touches b d.val)) = true))
    ∧ (∃ (q : Req) (s : State), (s.grants q .rst (F.RST_BD_CTRL_RESET 0).off = true))
    ∧ (∃ (q : Req) (d : Fin 4) (s : State), (s.grants q .rst (F.RST_BD_CTRL_RESET d.val).off = true) ∧ (d ≠ 0) ∧ (s.dieHeld d.val = false))
    ∧ (∃ (d : Fin 4) (s : State), (SMap.find s.rst.bd d.val = none))
    ∧ (∃ (d : Fin 4) (x : Nat) (s : State), (SMap.find s.rst.bd d.val = some x)) :=
  ⟨⟨t0, 3, 0, clocked.setChan (sliceChan 0 0) { (clocked.chan 0) with sideband := [(3, 0)] }, by decide +kernel⟩,
   ⟨t0, 3, 1, clocked, by decide +kernel⟩,
   ⟨t0, 3, 1, 1, (runs clocked).setChan (sliceChan 0 0) { (clocked.chan 0) with sideband := [(3, 0)] }, by decide +kernel⟩,
   ⟨t0, 3, 1, (runs ((List.range 160).foldl (fun s i => s.w (.stk 0) (F.STK_SMAP_LTILE i) 0xFE) clocked)).setChan (sliceChan 0 0) { (clocked.chan 0) with sideband := [(3, 0)] }, by decide +kernel⟩,
   ⟨t0, 3, 1, (mapped clocked).setChan (sliceChan 0 0) { (clocked.chan 0) with sideband := [(3, 0)] }, by decide +kernel⟩,
   ⟨t0, 0, 5, [2], clocked, by decide +kernel⟩,
   ⟨t0, 0, 5, [2, 2], clocked.setChan 0 { clocked.chan 0 with posHits := [(5, List.replicate 16 0)], winNext := 1 }, by decide +kernel⟩,
   ⟨t0, 0, 5, 2, clocked.setChan 0 { clocked.chan 0 with posHits := [(5, List.replicate 16 0)], winNext := 1, spares := List.replicate 16 (0, 0) }, by decide +kernel⟩,
   ⟨0, clocked, by decide +kernel⟩,
   ⟨0, ((clocked.w (.stk 0) F.VC_MIG_STATUS_STATE 1).w (.stk 0) F.VC_MIG_STATUS_DST_SITE 150), by decide +kernel⟩,
   ⟨0, ((clocked.w (.stk 0) F.VC_MIG_STATUS_STATE 1).w (.stk 0) F.VC_MIG_STATUS_DST_SITE 150).setChan 0 { clocked.chan 0 with erasures := List.range 9 }, by decide +kernel⟩,
   ⟨0, { ((clocked.w (.stk 0) F.VC_MIG_STATUS_STATE 1).w (.stk 0) F.VC_MIG_STATUS_DST_SITE 150) with errs := [(sliceAt 0 0, ⟨[], true⟩)] }, by decide +kernel⟩,
   ⟨0, (runs ((clocked.w (.stk 0) F.VC_MIG_STATUS_STATE 1).w (.stk 0) F.VC_MIG_STATUS_DST_SITE 150)).w (.stk 0) F.VC_MIG_DONE_LINES 6356992, by decide +kernel⟩,
   ⟨0, (((clocked.w (.stk 0) F.VC_MIG_STATUS_STATE 1).w (.stk 0) F.VC_MIG_STATUS_DST_SITE 150)).w (.stk 0) F.VC_MIG_DONE_LINES 6356992, by decide +kernel⟩,
   ⟨0, 1, [], [], clocked.w .rst (F.SEAM_STATUS_WIDTH 0) 0, by decide +kernel⟩,
   ⟨0, 1, List.replicate 62 0 ++ leBytes 2 (crc16 (List.replicate 62 0)), [(3, 2)], clocked.w .rst (F.SEAM_STATUS_WIDTH 0) 2, by decide +kernel⟩,
   ⟨0, 1, List.replicate 64 1, [], clocked.w .rst (F.SEAM_STATUS_WIDTH 0) 2, by decide +kernel⟩,
   ⟨0, 1, List.replicate 62 0 ++ leBytes 2 (crc16 (List.replicate 62 0)), [1], 3, 2, (clocked.w .rst (F.SEAM_STATUS_WIDTH 0) 2).setSeam 1 { Seam.reset with failed := some [1], tries := 1 }, by decide +kernel⟩,
   ⟨0, 1, List.replicate 62 0 ++ leBytes 2 (crc16 (List.replicate 62 0)), [1], 3, 2, (clocked.w .rst (F.SEAM_STATUS_WIDTH 0) 2).setSeam 1 { Seam.reset with failed := some [1], tries := 1, hits := [(50, List.replicate 7 0)] }, by decide +kernel⟩,
   ⟨0, 1, List.replicate 62 0 ++ leBytes 2 (crc16 (List.replicate 62 0)), [1], 3, 2, (clocked.w .rst (F.SEAM_STATUS_WIDTH 0) 2).setSeam 1 { Seam.reset with failed := some [1], tries := 1, hits := [(50, List.replicate 7 0)], spared := [3] }, by decide +kernel⟩,
   ⟨.hkc, 1, true, false, clocked, by decide +kernel⟩,
   ⟨.hkc, 0, true, false, (runs clocked).modBolt 0 fun x => { x with pat := some { pat0 with seamBw := [5] } }, by decide +kernel⟩,
   ⟨.hkc, clocked, by decide +kernel⟩,
   ⟨.hkc, 2, clocked, by decide +kernel⟩,
   ⟨.hkc, 1, (runs clocked).modBolt 0 fun x => { x with pat := some { pat0 with rings := [(3, 0, 0, 0, 0)] } }, by decide +kernel⟩,
   ⟨.hkc, clocked, by decide +kernel⟩,
   ⟨.hkc, 2, clocked, by decide +kernel⟩,
   ⟨2, clocked, by decide +kernel⟩,
   ⟨2, 5, { clocked with rst := { clocked.rst with bd := [(2, 5)] } }, by decide +kernel⟩⟩

theorem wit_ErrorsAndChecks :
    (∃ (q : Req) (s : State), (s.grants q .err F.ERR_STATUS_FATAL.off = true))
    ∧ (∃ (p : Port) (val : Word) (r : ErrRec) (s : State), (s.grants (match p with | .p0 => Req.p0 | .p1 => Req.p1) .err F.ERR_LOG_SEL_SLOT.off = true) ∧ (SMap.find (if fget F.ERR_LOG_SEL_STORE val = 1 then s.store.fatals else s.log) (fget F.ERR_LOG_SEL_SLOT val) = some r))
    ∧ (∃ (q : Req) (d : Fin 4) (val : Word) (s : State), (s.grants q (.chk d.val) F.CHK_SUB_CTRL_GO.off = true) ∧ ((s.r2 (.chk d.val) F.CHK_SUB_ADDR_LO_DPA F.CHK_SUB_ADDR_HI_DPA) < edgeEnd) ∧ (fget F.CHK_SUB_CTRL_ALG val ≠ 3) ∧ ((s.chkU d.val).waiting < 16))
    ∧ (∃ (q : Req) (d : Fin 4) (val : Word) (s : State), (s.grants q (.chk d.val) F.CHK_SUB_CTRL_GO.off = true) ∧ ((edgeEnd ≤ (s.r2 (.chk d.val) F.CHK_SUB_ADDR_LO_DPA F.CHK_SUB_ADDR_HI_DPA) ∨ fget F.CHK_SUB_CTRL_ALG val = 3)))
    ∧ (∃ (q : Req) (d : Fin 4) (val : Word) (s : State), (s.grants q (.chk d.val) F.CHK_SUB_CTRL_GO.off = true) ∧ ((s.r2 (.chk d.val) F.CHK_SUB_ADDR_LO_DPA F.CHK_SUB_ADDR_HI_DPA) < edgeEnd) ∧ (fget F.CHK_SUB_CTRL_ALG val ≠ 3) ∧ (16 ≤ (s.chkU d.val).waiting))
    ∧ (∃ (d : Fin 4) (s : State), ((s.chkU d.val).turn = none))
    ∧ (∃ (d : Fin 4) (j : ChkJob) (s : State), (s.live = true) ∧ (s.chkHeld d.val = false) ∧ ((s.chkU d.val).turn = some j) ∧ (j.begun = false) ∧ (j.resume = none) ∧ (j.tile = none) ∧ (j.load = false) ∧ (s.r (.chk d.val) (F.CHK_CTX_STAT_LAST_ALIVE j.ctx) = j.alive))
    ∧ (∃ (d : Fin 4) (j : ChkJob) (l : List (BitVec 8)) (s : State), (s.live = true) ∧ (s.chkHeld d.val = false) ∧ ((s.chkU d.val).turn = some j) ∧ (j.begun = true) ∧ (j.tile = none) ∧ (j.len < 2 ^ 40) ∧ (s.ctxBytes d.val j.ctx < j.len) ∧ (j.len - s.ctxBytes d.val j.ctx ≤ lineLeft (j.addr + s.ctxBytes d.val j.ctx)) ∧ (j.addr + j.len ≤ edgeEnd) ∧ (s.cutOff d.val (j.addr + s.ctxBytes d.val j.ctx) = false) ∧ ((s.fetch (j.addr + s.ctxBytes d.val j.ctx) (j.len - s.ctxBytes d.val j.ctx)).1.toOption = some l))
    ∧ (∃ (q : Req) (d : Fin 4) (n : Fin 16) (hi : Bool) (val : Word) (s : State), (s.grants q (.chk d.val) (if hi then F.CHK_CTX_VAL_HI_VALUE n.val else F.CHK_CTX_VAL_LO_VALUE n.val).off = true) ∧ ((s.chkU d.val).busy n.val = false))
    ∧ (∃ (q : Req) (d : Fin 4) (n : Fin 16) (hi : Bool) (val : Word) (s : State), (s.grants q (.chk d.val) (if hi then F.CHK_CTX_VAL_HI_VALUE n.val else F.CHK_CTX_VAL_LO_VALUE n.val).off = true) ∧ ((s.chkU d.val).busy n.val = true)) :=
  ⟨⟨.hkc, { (clocked.wb .err F.ERR_STATUS_FATAL true) with pins := { clocked.pins with fault := true } }, by decide +kernel⟩,
   ⟨.p0, 0, ⟨5, 1, 2, 3, 4, 5, 6, 7, none, 1, 9⟩, { upS with log := [(0, ⟨5, 1, 2, 3, 4, 5, 6, 7, none, 1, 9⟩)] }, by decide +kernel⟩,
   ⟨.hkc, 1, 0x11, clocked, by decide +kernel⟩,
   ⟨.hkc, 1, 0x3, clocked, by decide +kernel⟩,
   ⟨.hkc, 1, 0x1, clocked.setChkU 1 { ChkUnit.reset with jobs := List.replicate 16 ⟨0, none, 64, 64, 0, 0, 1, false, 0, 0, false, none⟩ }, by decide +kernel⟩,
   ⟨2, clocked, by decide +kernel⟩,
   ⟨0, ⟨4, none, 64, 64, 0, 0, 0, false, 0, 0, false, none⟩, clocked.setChkU 0 { ChkUnit.reset with jobs := [⟨4, none, 64, 64, 0, 0, 0, false, 0, 0, false, none⟩] }, by decide +kernel⟩,
   ⟨0, ⟨4, none, 64, 64, 0, 0, 1, false, 0, 0, true, none⟩, List.replicate 64 0, (clocked.setChkU 0 { ChkUnit.reset with jobs := [⟨4, none, 64, 64, 0, 0, 1, false, 0, 0, true, none⟩] }), by decide +kernel⟩,
   ⟨.hkc, 2, 3, true, 7, clocked, by decide +kernel⟩,
   ⟨.hkc, 0, 0, true, 7, (clocked.setChkU 0 { ChkUnit.reset with jobs := [⟨4, none, 64, 64, 0, 0, 1, false, 0, 0, true, none⟩] }), by decide +kernel⟩⟩

theorem wit_TraceAndDebug :
    (∃ (q : Req) (t : Site) (val : Word) (s : State), (s.grants q (.tile t.g) F.TRC_HEM_CFG_EN.off = true) ∧ (s.b (.tile t.g) F.TRC_HEM_CFG_EN = false) ∧ ((fget F.TRC_HEM_CFG_MODE val = 3 → s.spillBad t.g (s.privClaim t.g) = false)))
    ∧ (∃ (q : Req) (t : Site) (val : Word) (s : State), (s.grants q (.tile t.g) F.TRC_HEM_CFG_EN.off = true) ∧ (s.b (.tile t.g) F.TRC_HEM_CFG_EN = false) ∧ (fget F.TRC_HEM_CFG_MODE val = 3) ∧ (s.spillBad t.g (s.privClaim t.g) = true))
    ∧ (∃ (q : Req) (t : Site) (val : Word) (s : State), (s.grants q (.tile t.g) F.TRC_HEM_SEL_SLOT.off = true) ∧ ((s.tile t.g).hem.runLost = 0) ∧ ((s.tile t.g).hem.words = []))
    ∧ (∃ (q : Req) (t : Site) (val : Word) (s : State), (s.grants q (.tile t.g) F.TRC_HEM_SEL_SLOT.off = true) ∧ ((s.tile t.g).hem.runLost = 0) ∧ (SMap.find (s.tile t.g).hem.words (2 * fget F.TRC_HEM_SEL_SLOT val) = some ⟨[], true⟩))
    ∧ (∃ (t : Site) (s : State), (Mem.wf s.mem) ∧ (s.live = true) ∧ ((s.tile t.g).hem.hstate ≠ 0) ∧ ((s.tile t.g).hem.mode = 3) ∧ (s.spillBad t.g (s.privClaim t.g) = false) ∧ (4 ≤ (s.tile t.g).hem.queued) ∧ ((s.r (.tile t.g) F.TRC_SPILL_PTR_NEXT) + 4 ≤ (s.r (.tile t.g) F.TRC_SPILL_LEN_LEN * 4096)) ∧ (s.idleSlot (sliceAt t.g (s.r (.tile t.g) F.TRC_SPILL_BASE_BASE * 65536 + 16 * (s.r (.tile t.g) F.TRC_SPILL_PTR_NEXT))) = true) ∧ (s.sidebandDead t.g = false) ∧ ((s.tile t.g).hem.runLost = 0) ∧ ((s.tile t.g).hem.words = []))
    ∧ (∃ (t : Site) (x : Nat) (s : State), ((s.tile t.g).hem.freezeAt = some x) ∧ (s.trace.stopped = false))
    ∧ (∃ (d : MgmtDest) (tx : Nat) (id : Byte) (stop : Bool) (s : State), ((s.route d 0x04 (leBytes 8 tx ++ [id] ++ leBytes 1 (b2n stop))).1 = true) ∧ (s.b (.fab 0) F.FAB_MGMT_CFG_XTRIG_EN = true))
    ∧ (∃ (d : MgmtDest) (tx : Nat) (id : Byte) (stop : Bool) (s : State), ((s.route d 0x04 (leBytes 8 tx ++ [id] ++ leBytes 1 (b2n stop))).1 = true) ∧ (s.b (.fab 0) F.FAB_MGMT_CFG_XTRIG_EN = false))
    ∧ (∃ (t : Site) (tx : Nat) (id : Byte) (s : State), (s.live = true) ∧ (s.tileHeld t.g = false) ∧ (s.trace.xtrigs.contains (tx, id) = true))
    ∧ (∃ (q : Req) (val : Word) (a : AttrAcc) (s : State), (s.grants q .trc F.TRC_ATTR_SEL_ENTRY.off = true) ∧ (s.trace.attr[fget F.TRC_ATTR_SEL_ENTRY val]? = some a))
    ∧ (∃ (q : Req) (s : State), (s.grants q .trc F.TRC_ATTR_CTRL_CLEAR.off = true))
    ∧ (∃ (s : State), (s.b .trc F.TRC_STOP_CTRL_ARM = true) ∧ (s.r .trc F.TRC_STOP_STATUS_STATE = 0) ∧ (s.tape < s.r2 .trc F.TRC_STOP_TAPE_LO_TAPE F.TRC_STOP_TAPE_HI_TAPE))
    ∧ (∃ (x : Nat) (s : State), (s.b .trc F.TRC_STOP_CTRL_ARM = false) ∧ (s.r .trc F.TRC_STOP_STATUS_STATE = 1) ∧ (s.b .trc F.TRC_STOP_STATUS_TRIGGERED = false) ∧ (s.trace.armed = some x) ∧ (s.tape < x))
    ∧ (∃ (x : Nat) (s : State), (s.trace.armed = some x) ∧ (s.r .trc F.TRC_STOP_STATUS_STATE = 1))
    ∧ (∃ (s : State), (s.b .trc F.TRC_STOP_CTRL_DUMP = true) ∧ (s.r .trc F.TRC_STOP_STATUS_STATE = 2) ∧ (edgeEnd < s.dumpBase + s.dumpLen))
    ∧ (∃ (s : State), (s.b .trc F.TRC_STOP_CTRL_DUMP = true) ∧ (s.r .trc F.TRC_STOP_STATUS_STATE = 2) ∧ (s.dumpBase + s.dumpLen ≤ edgeEnd))
    ∧ (∃ (s : State), (s.r .trc F.TRC_STOP_STATUS_STATE = 3))
    ∧ (∃ (s : State), (s.pins.v48 = false))
    ∧ (∃ (s : State), (s.pins.v48 = false))
    ∧ (∃ (l : List Bool) (s : State), (s.pins.v48 = false))
    ∧ (∃ (l : List Bool) (s : State), (s.pins.v48 = false))
    ∧ (∃ (v : DWord) (s : State), (s.pins.v48 = false))
    ∧ (∃ (v : Byte) (s : State), (s.pins.v48 = false))
    ∧ (∃ (s : State), (s.pins.v48 = true))
    ∧ (∃ (s : State), (s.pins.v48 = true))
    ∧ (∃ (l : List Bool) (s : State), (s.pins.v48 = true))
    ∧ (∃ (l : List Bool) (s : State), (s.pins.v48 = true) ∧ (s.jtagOn = true))
    ∧ (∃ (l : List Bool) (s : State), (s.pins.v48 = true) ∧ (s.jtagOn = false))
    ∧ (∃ (v : DWord) (s : State), (s.pins.v48 = true) ∧ (s.jtagOn = true) ∧ (v.getLsbD 58 = false))
    ∧ (∃ (v : DWord) (s : State), (s.pins.v48 = true) ∧ (s.jtagOn = true) ∧ (v.getLsbD 58 = true) ∧ (s.jtagBad (bits v.toNat 32 26) (v.truncate 32) = true))
    ∧ (∃ (v : DWord) (s : State), (s.pins.v48 = true) ∧ (s.jtagOn = true) ∧ (v.getLsbD 58 = true) ∧ (s.jtagBad (bits v.toNat 32 26) (v.truncate 32) = false) ∧ (bits v.toNat 32 26 ≠ Blk.trc.base + F.TRC_DBG_CFG_JTAG_EN.off))
    ∧ (∃ (v : DWord) (s : State), (s.pins.v48 = true) ∧ (s.jtagOn = false))
    ∧ (∃ (v : Byte) (s : State), (s.pins.v48 = true) ∧ (s.jtagOn = true) ∧ (v.toNat % 4 ≠ 0) ∧ (v.toNat % 4 < 3 ∨ s.rst.wasReady = true))
    ∧ (∃ (v : Byte) (s : State), (s.pins.v48 = true) ∧ (s.jtagOn = true) ∧ (v.toNat % 4 = 0))
    ∧ (∃ (v : Byte) (s : State), (s.pins.v48 = true) ∧ (s.jtagOn = false))
    ∧ (∃ (l : Byte) (s : State), (s.hkcCycles = true))
    ∧ (∃ (l : Byte) (s : State), (s.hkcCycles = false)) :=
  ⟨⟨.hkc, t0, 0, clocked, by decide +kernel⟩,
   ⟨.hkc, t0, 6, clocked, by decide +kernel⟩,
   ⟨.hkc, t0, 3, clocked, by decide +kernel⟩,
   ⟨.hkc, t0, 3, clocked.setTile 0 { Tile.reset with hem := { Hem.reset with words := [(6, ⟨[], true⟩)] } }, by decide +kernel⟩,
   ⟨t0, (((clocked.setTile 0 { Tile.reset with hem := { Hem.reset with hstate := 1, queued := 4, next := 4, cfg := 7 } }).w (.tile 0) F.TRC_SPILL_LEN_LEN 1).w (.tile 0) F.TRC_SPILL_BASE_BASE 0), by decide +kernel⟩,
   ⟨t0, 9, clocked.setTile 0 { Tile.reset with hem := { Hem.reset with hstate := 1, freezeAt := some 9 } }, by decide +kernel⟩,
   ⟨⟨true, 0, 0, 0, (0, 0, 0), 0, 0⟩, 7, 5, true, (clocked.wb (.fab 0) F.FAB_MGMT_CFG_XTRIG_EN true).wb .trc F.TRC_XTRIG_CFG_XSTOP_EN true, by decide +kernel⟩,
   ⟨⟨true, 0, 0, 0, (0, 0, 0), 0, 0⟩, 7, 5, true, clocked.wb (.fab 0) F.FAB_MGMT_CFG_XTRIG_EN false, by decide +kernel⟩,
   ⟨t0, 7, 5, { (clocked.w (.tile 0) (F.TRC_TRIG_CFG_KIND 1) 8).w (.tile 0) (F.TRC_TRIG_VAL_VALUE 1) 5 with trace := { clocked.trace with xtrigs := [(7, 5)] } }, by decide +kernel⟩,
   ⟨.hkc, 0, ⟨3, 4, 5, 6, 7, 8, 0⟩, { clocked with trace := { clocked.trace with attr := [⟨3, 4, 5, 6, 7, 8, 0⟩] } }, by decide +kernel⟩,
   ⟨.hkc, { clocked with trace := { clocked.trace with attr := [⟨3, 4, 5, 6, 7, 8, 0⟩] } }, by decide +kernel⟩,
   ⟨(clocked.wb .trc F.TRC_STOP_CTRL_ARM true).w .trc F.TRC_STOP_TAPE_LO_TAPE 50, by decide +kernel⟩,
   ⟨50, { clocked.w .trc F.TRC_STOP_STATUS_STATE 1 with trace := { clocked.trace with armed := some 50 } }, by decide +kernel⟩,
   ⟨50, { clocked.w .trc F.TRC_STOP_STATUS_STATE 1 with trace := { clocked.trace with armed := some 50 } }, by decide +kernel⟩,
   ⟨((clocked.wb .trc F.TRC_STOP_CTRL_DUMP true).w .trc F.TRC_STOP_STATUS_STATE 2).w .trc F.TRC_DUMP_BASE_HI_ADDR 0xFFFF, by decide +kernel⟩,
   ⟨(clocked.wb .trc F.TRC_STOP_CTRL_DUMP true).w .trc F.TRC_STOP_STATUS_STATE 2, by decide +kernel⟩,
   ⟨(clocked.wb .trc F.TRC_STOP_CTRL_DUMP true).w .trc F.TRC_STOP_STATUS_STATE 3, by decide +kernel⟩,
   ⟨{ clocked with pins := { clocked.pins with v48 := false } }, by decide +kernel⟩,
   ⟨{ clocked with pins := { clocked.pins with v48 := false } }, by decide +kernel⟩,
   ⟨[true], { clocked with pins := { clocked.pins with v48 := false } }, by decide +kernel⟩,
   ⟨[true], { clocked with pins := { clocked.pins with v48 := false } }, by decide +kernel⟩,
   ⟨0, { clocked with pins := { clocked.pins with v48 := false } }, by decide +kernel⟩,
   ⟨2, { clocked with pins := { clocked.pins with v48 := false } }, by decide +kernel⟩,
   ⟨clocked, by decide +kernel⟩,
   ⟨clocked, by decide +kernel⟩,
   ⟨[true, false], clocked, by decide +kernel⟩,
   ⟨[true, false], (clocked.wb .trc F.TRC_DBG_CFG_JTAG_EN true), by decide +kernel⟩,
   ⟨[true], clocked, by decide +kernel⟩,
   ⟨0, (clocked.wb .trc F.TRC_DBG_CFG_JTAG_EN true), by decide +kernel⟩,
   ⟨0x7FFFFFF00000000, (clocked.wb .trc F.TRC_DBG_CFG_JTAG_EN true), by decide +kernel⟩,
   ⟨BitVec.ofNat 64 (5 + (Blk.trc.base + F.TRC_XTRIG_CFG_ID.off) * 2 ^ 32 + 2 ^ 58), (clocked.wb .trc F.TRC_DBG_CFG_JTAG_EN true), by decide +kernel⟩,
   ⟨0, clocked, by decide +kernel⟩,
   ⟨2, (clocked.wb .trc F.TRC_DBG_CFG_JTAG_EN true), by decide +kernel⟩,
   ⟨4, (clocked.wb .trc F.TRC_DBG_CFG_JTAG_EN true), by decide +kernel⟩,
   ⟨2, clocked, by decide +kernel⟩,
   ⟨5, clocked, by decide +kernel⟩,
   ⟨5, { clocked with rst := { clocked.rst with level := 2 } }, by decide +kernel⟩⟩

end Sys2Proof.Tests
end

section
/-! PROOFS. The scope statements: the registers and the state right after reset (R9), and the write of a paired field outside a transaction (R13). -/
namespace Sys2Proof.Machine

/-! ### The state after reset (R9) -/

/-- With nothing stored, a BAR0 register reads its Reset word. -/
theorem State.word_of_regs_nil {s : State} (h : s.regs = []) (off : Nat) : s.word off = regReset off := by
  rw [State.word, h, SMap.get_nil]

/-- With nothing stored, a BAR4 register reads its Reset word. -/
theorem State.word4_of_bar4_nil {s : State} (h : s.bar4 = []) (p off : Nat) : s.word4 p off = bar4Reset off := by
  rw [State.word4, h, SMap.get_nil]

theorem State.tile_reset (g : Nat) : State.reset.tile g = Tile.reset := SMap.get_nil _ g
theorem State.bolt_reset (b : Nat) : State.reset.bolt b = Bolt.reset := SMap.get_nil _ b
theorem State.txn_reset (q : Nat) : State.reset.txn q = Txn.reset := SMap.get_nil _ q

/-- Settles O2: nothing is stored at reset, so every read answers its default. R9 gives the registers with a numeric Reset column; that the
other fields are 0, and queues, patterns, transactions and the log empty, is the model's own choice (log entries 4 and 5). -/
theorem resetRegisters : Obligations.ResetRegisters := by
  refine ⟨State.word_of_regs_nil rfl, State.word4_of_bar4_nil rfl, fun g => ?_, fun b => ?_, fun q => ?_, rfl, rfl, rfl⟩
  · rw [State.tile_reset]; exact ⟨rfl, rfl, rfl⟩
  · rw [State.bolt_reset]; rfl
  · rw [State.txn_reset]; rfl

/-! ### Where a register is -/

theorem RegSpec.writable_of_isRwt {r : RegSpec} (h : r.isRwt = true) : r.writable = true := by
  simp only [RegSpec.isRwt, List.any_eq_true, beq_iff_eq] at h
  obtain ⟨f, hf, hacc⟩ := h
  exact List.any_eq_true.2 ⟨f, hf, by rw [hacc]; rfl⟩

/-- The block that `regAt` names is the one that holds the offset. -/
theorem locate_of_regAt {off : Nat} {k : Blk} {r : RegSpec} {i : Nat} (h : regAt off = some (k, r, i)) : locate off = some k := by
  unfold regAt at h
  split at h
  · cases h
  · rename_i hl
    split at h
    · cases h
    · split at h
      · cases h
      · cases h; exact hl

/-- The ERR block holds every offset from 0x50000 to below 0x60000. -/
theorem locate_err {off : Nat} (hlo : 0x50000 ≤ off) (hhi : off < 0x60000) : locate off = some .err := by
  have below : ∀ n, n ≤ 0x50000 → ¬ off < n := fun n hn => by omega
  simp [locate, below, hhi]

/-- A register of another block than ERR lies outside the ERR block, the only one that logging writes. -/
theorem outside_err_of_regAt {off : Nat} {k : Blk} {r : RegSpec} {i : Nat} (h : regAt off = some (k, r, i)) (hk : k ≠ .err) :
    off < 0x50000 ∨ 0x60000 ≤ off := by
  by_cases hin : 0x50000 ≤ off ∧ off < 0x60000
  · have herr : locate off = some .err := locate_err hin.1 hin.2
    rw [locate_of_regAt h] at herr
    exact absurd (Option.some.inj herr) hk
  · omega

/-! ### A write of an RWT register -/

/-- What a logged refusal of the register path can change. -/
theorem logReg_log (s : State) (q off : Nat) : LogOnly s (s.logReg q off) := logEv_log s _

/-- The end of an overdue transaction (R374) writes no register. -/
@[simp] theorem State.txnExpire_acc_word (s : State) (q o : Nat) : (s.txnExpire q).word o = s.word o := by
  unfold State.txnExpire
  dsimp only
  split
  · exact State.setTxn_acc_word _ _ _ _
  · rfl

/-- An aligned 4-byte request that reaches the module is a write of the register path (R306, R313). -/
theorem State.request_of_reaches {s : State} {q : Req} {off : Nat} (hr : s.reaches q = true) (ha : off % 4 = 0) (v : BitVec 32) :
    s.request q .bar0 off 4 (v.zeroExtend 64) = s.regWrite q .bus off v := by
  have hfits : sizeFits off 4 = true := by simp [sizeFits, ha]
  have hv : (v.zeroExtend 64).truncate 32 = v := by simp
  have hw : s.writeReq q .bar0 off 4 (v.zeroExtend 64) = s.regWrite q .bus off v := by
    simp only [State.writeReq, if_true, State.writeWord, hv]
  unfold State.request
  unfold State.reaches at hr
  split
  · rw [if_pos ⟨rfl, hfits⟩, hw]
  · rename_i p hp
    rw [hp] at hr
    obtain ⟨hon, hd3⟩ : s.portOn p.n = true ∧ (s.hport p.n).d3hot = false := by simpa using hr
    have hsize : s.sizeOk p.n off 4 = true := by simp [State.sizeOk, hfits, hd3]
    simp only [hon, hsize, Bool.not_true, Bool.false_eq_true, if_false, hw]

/-- A write of an RWT register that neither a reset, a bar nor the scope keeps out goes to the requester's transaction (R97, R311, R373). -/
theorem State.regWrite_rwt {s : State} {q : Req} {off : Nat} {k : Blk} {r : RegSpec} {i : Nat} (hat : regAt off = some (k, r, i))
    (hrwt : r.isRwt = true) (hreset : s.inReset k = false) (hbar : s.barred q .bus k (off - k.base) = false)
    (hscope : s.mayWrite q (s.scopeOf k (off - k.base)) = true) (v : BitVec 32) :
    s.regWrite q .bus off v = s.rwtWrite q r off v := by
  simp [State.regWrite, State.regWriteBy, hat, hreset, hbar, hscope, hrwt, RegSpec.writable_of_isRwt hrwt]

/-- With no transaction open a write of a paired field is refused: LONE_PAIRED and the log, no register (R13). -/
theorem State.rwtWrite_paired {s : State} {q : Req} {r : RegSpec} (hpair : r.paired = true)
    (hclosed : ((s.txnExpire q.n).txn q.n).isOpen = false) (off : Nat) (v : BitVec 32) :
    s.rwtWrite q r off v = ((s.txnExpire q.n).setTxn q.n (((s.txnExpire q.n).txn q.n).setErr 2)).logReg q.n off := by
  simp [State.rwtWrite, hclosed, hpair]

/-- Settles O36: the row is a request that reaches the register path, which refuses it; logging changes no register outside the ERR block. -/
theorem loneWrite : Obligations.LoneWrite := by
  intro q k r i off val s hreach hwf hat hrwt hpair hreset hbar hscope hclosed
  have haligned : off % 4 = 0 := by simpa [Instr.wf] using hwf
  have hrow : rwtAt off = true := by simp [rwtAt, hat, hrwt]
  have hexec : exec (.rwtLoneWrite q off val) s = .next (s.request q .bar0 off 4 (val.zeroExtend 64)) := by
    show execRwtLoneWrite q off val s = _
    simp [execRwtLoneWrite, hrow, hclosed]
  have hrefused : s.request q .bar0 off 4 (val.zeroExtend 64)
      = ((s.txnExpire q.n).setTxn q.n (((s.txnExpire q.n).txn q.n).setErr 2)).logReg q.n off := by
    rw [State.request_of_reaches hreach haligned, State.regWrite_rwt hat hrwt hreset hbar hscope, State.rwtWrite_paired hpair hclosed]
  refine ⟨_, hexec, hrefused, fun hk => ?_⟩
  rw [hrefused, (logReg_log _ _ _).words off (outside_err_of_regAt hat hk), State.setTxn_acc_word, State.txnExpire_acc_word]

end Sys2Proof.Machine
end

section
/-! PROOFS. The refusal of the command at the head of a queue (R70, R71, R90): what the read of its entry changes, what a command fault
records, and that a reserved opcode is refused with code 0x01. -/
namespace Sys2Proof.Machine

/-! ### Observation and the log together -/

/-- Observation of site `g` and the error log change no tile but for the tracing of `g`, no memory, and no register outside the trace
registers and the ERR block. -/
structure Reported (g : Nat) (s t : State) : Prop where
  mem    : t.mem = s.mem
  others : ∀ g', g' ≠ g → t.tile g' = s.tile g'
  tile   : (t.tile g).untraced = (s.tile g).untraced
  words  : ∀ off, traceWord g off = false → (off < 0x50000 ∨ 0x60000 ≤ off) → t.word off = s.word off

section
variable {g : Nat} {s t u : State}

theorem Reported.refl (g : Nat) (s : State) : Reported g s s := ⟨rfl, fun _ _ => rfl, rfl, fun _ _ _ => rfl⟩

theorem Reported.trans (a : Reported g s t) (b : Reported g t u) : Reported g s u where
  mem := b.mem.trans a.mem
  others g' h := (b.others g' h).trans (a.others g' h)
  tile := b.tile.trans a.tile
  words off h h' := (b.words off h h').trans (a.words off h h')

theorem TraceOnly.reported (h : TraceOnly g s t) : Reported g s t := ⟨h.mem, h.others, h.tile, fun off ho _ => h.words off ho⟩

theorem LogOnly.reported (g : Nat) (h : LogOnly s t) : Reported g s t :=
  have tile (g' : Nat) : t.tile g' = s.tile g' := by simp only [State.tile, h.tiles]
  ⟨h.mem, fun g' _ => tile g', by rw [tile], fun off _ ho => h.words off ho⟩

theorem Reported.queue (h : Reported g s t) : (t.tile g).queue = (s.tile g).queue :=
  show (t.tile g).untraced.queue = (s.tile g).untraced.queue by rw [h.tile]

theorem Reported.flight (h : Reported g s t) : (t.tile g).flight = (s.tile g).flight :=
  show (t.tile g).untraced.flight = (s.tile g).untraced.flight by rw [h.tile]

/-- The registers of a tile's window below its trace registers, which start at 0x400 (Table 17.8). -/
theorem Reported.r (h : Reported g s t) (f : Fld) (hf : f.off < 0x400) : t.r (.tile g) f = s.r (.tile g) f := by
  have hbase : 0x2000000 ≤ (Blk.tile g).base := by simp only [Blk.base]; omega
  have hword : t.word ((Blk.tile g).base + f.off) = s.word ((Blk.tile g).base + f.off) := by
    refine h.words _ ?_ (.inr (by omega))
    simp only [traceWord, Bool.or_eq_false_iff, decide_eq_false_iff_not]
    omega
  simp only [State.r, hword]

theorem Reported.b (h : Reported g s t) (f : Fld) (hf : f.off < 0x400) : t.b (.tile g) f = s.b (.tile g) f := by
  simp only [State.b, h.r f hf]

end

/-! ### Reading an entry of the command queue (R174) -/

theorem Site.g_lt (t : Site) : t.g < 1920 := by
  have hstack := t.stack.isLt
  have hsite := t.site.isLt
  simp only [Site.g]
  omega

/-- The words of a queue's 64 entries are SRAM words of its own site. -/
theorem placeOf_cqAt {g slot i : Nat} (hg : g < 1920) (hslot : slot < 64) (hi : i < 8) :
    placeOf (cqAt g slot + 8 * i) = .cq g (slot * 64 + 8 * i) := by
  have hrel : cqAt g slot + 8 * i = 0x600000000000 + (g * 0x1000 + (slot * 64 + 8 * i)) := by simp only [cqAt]; omega
  rw [hrel]
  unfold placeOf
  iterate 6 rw [if_neg (by omega)]
  rw [if_pos (by omega), Nat.add_sub_cancel_left]
  congr 1 <;> omega

section
variable {g cw o : Nat} (hcw : placeOf cw = .cq g o)
include hcw

/-- The stored copies of queue words are apart from the hem, so making one sound touches no tile. -/
theorem sound_reported (s : State) : Reported g s (s.sound cw) := by
  simp only [State.sound, hcw]
  exact ⟨rfl, fun _ _ => rfl, rfl, fun _ _ _ => rfl⟩

theorem stuck_reported (s : State) : Reported g s (s.stuck cw) := by
  simp only [State.stuck, hcw]
  exact ⟨rfl, fun _ _ => rfl, rfl, fun _ _ _ => rfl⟩

/-- A corrected queue word is counted in its site's events and logged. -/
theorem correct_reported (s : State) (ps : List Nat) : Reported g s (s.correct cw ps) := by
  have hcnt : Reported g s ((s.sound cw).cnt g 0x14 1) := (sound_reported hcw s).trans (cnt_trace _ _ _ _).reported
  simp only [State.correct, hcw, Place.isDram, Place.site]
  exact hcnt.trans ((logEv_log _ _).reported g)

end

/-- A free value drawn. -/
theorem Reported.draw (g : Nat) (s : State) (n : Nat) : Reported g s { s with free := n } :=
  ⟨rfl, fun _ _ => rfl, rfl, fun _ _ _ => rfl⟩

/-- Words of site `g`'s queue read in order: each is sound, corrected, or answered as uncorrectable. -/
theorem wordsRead_reported {g base n w : Nat} (hplace : ∀ i < n, ∃ o, placeOf (base + 8 * i) = .cq g o) (s : State) (d : BitVec w) :
    Reported g s (s.wordsRead base n d).2.2 := by
  unfold State.wordsRead
  refine List.foldlRecOn (motive := fun acc : Option Nat × BitVec w × State => Reported g s acc.2.2) _ _ (.refl g s) ?_
  rintro ⟨cw, e, x⟩ hx i hi
  obtain ⟨o, ho⟩ := hplace i (List.mem_range.1 hi)
  cases cw with
  | some cw => exact hx
  | none =>
    dsimp only
    split
    · exact hx
    · exact hx.trans (correct_reported ho _ _)
    · exact hx
    · have hdraw := hx.trans (.draw g x (x.free + 1))
      split
      · exact hdraw.trans (stuck_reported ho _)
      · exact hdraw.trans (sound_reported ho _)

theorem cqRead_reported (t : Site) (s : State) (d : BitVec 512) : Reported t.g s (s.cqRead t.g d).2.2 :=
  wordsRead_reported (fun _ hi => ⟨_, placeOf_cqAt (Site.g_lt t) (Nat.mod_lt _ (by decide)) hi⟩) s d

/-! ### The record of a command fault (R90 to R92) -/

/-- A field of another register of the same block. -/
theorem State.r_w_off (s : State) (k : Blk) (f f' : Fld) (v : Nat) (h : f'.off ≠ f.off) : (s.w k f v).r k f' = s.r k f' :=
  s.r_w_ne k k f f' v (by omega)

theorem opcodeOf_lt (d : BitVec 512) : opcodeOf d < 2 ^ 8 := Nat.mod_lt _ (by decide)
theorem seqOf_lt (d : BitVec 512) : seqOf d < 2 ^ 16 := Nat.mod_lt _ (by decide)

/-- What CMD_FAULT_CODE and CMD_FAULT_STAT hold of a recorded fault (Table 3.14). -/
structure FaultRecorded (g code : Nat) (d : BitVec 512) (refusal : Bool) (u : State) : Prop where
  code    : u.r (.tile g) F.CMD_FAULT_CODE_CODE = code
  opcode  : u.r (.tile g) F.CMD_FAULT_CODE_OPCODE = opcodeOf d
  seq     : u.r (.tile g) F.CMD_FAULT_CODE_SEQ = seqOf d
  valid   : u.b (.tile g) F.CMD_FAULT_STAT_VALID = true
  refusal : u.b (.tile g) F.CMD_FAULT_STAT_REFUSAL = refusal

/-- The register writes of `State.setFault`, whose last step also reads the state before them: named once, so that terms stay small. -/
def State.faultWords (s : State) (g : Nat) (f : CmdFault) : State :=
  let k := Blk.tile g
  let d := f.desc.getD 0
  let s := ((s.w k F.CMD_FAULT_CODE_CODE f.code).w k F.CMD_FAULT_CODE_OPCODE (opcodeOf d)).w k F.CMD_FAULT_CODE_SEQ (seqOf d)
  let s := (s.w k F.CMD_FAULT_IDS_LAYER (layerOf d)).w k F.CMD_FAULT_IDS_OPERATOR (operatorOf d)
  let s := s.w2 k F.CMD_FAULT_PROG_LO_PROG F.CMD_FAULT_PROG_HI_PROG f.prog
  let s := s.w2 k F.CMD_FAULT_ADDR_LO_ADDR F.CMD_FAULT_ADDR_HI_ADDR f.addr
  (s.wb k F.CMD_FAULT_STAT_VALID true).wb k F.CMD_FAULT_STAT_REFUSAL f.refusal

theorem setFault_eq (s : State) (g : Nat) (f : CmdFault) :
    s.setFault g f = (s.faultWords g f).modTile g fun t => { t with faultAt := some (s.tape, f.order) } := rfl

/-- A one-bit field just written. -/
theorem State.b_wb_same (s : State) (k : Blk) (f : Fld) (v : Bool) (hlo : f.lo < 32) (hw : f.w = 1) : (s.wb k f v).b k f = v := by
  rw [State.b, State.wb, s.r_w_same k f _ (by omega), hw]
  cases v <;> rfl

/-- Another field of the same register. -/
theorem State.b_wb_disjoint (s : State) (k : Blk) (f f' : Fld) (v : Bool) (ho : f'.off = f.off) (h : f'.lo + f'.w ≤ 32)
    (hd : f'.lo + f'.w ≤ f.lo ∨ f.lo + f.w ≤ f'.lo) : (s.wb k f v).b k f' = s.b k f' := by
  rw [State.b, State.wb, s.r_w_disjoint k f f' _ ho h hd, State.b]

theorem faultWords_recorded (s : State) (g : Nat) (f : CmdFault) (hcode : f.code < 2 ^ 8) :
    FaultRecorded g f.code (f.desc.getD 0) f.refusal (s.faultWords g f) where
  code := by
    simp (disch := decide) only [State.faultWords, State.wb, State.w2, State.r_w_off, State.r_w_disjoint, State.r_w_same]
    exact Nat.mod_eq_of_lt hcode
  opcode := by
    simp (disch := decide) only [State.faultWords, State.wb, State.w2, State.r_w_off, State.r_w_disjoint, State.r_w_same]
    exact Nat.mod_eq_of_lt (opcodeOf_lt _)
  seq := by
    simp (disch := decide) only [State.faultWords, State.wb, State.w2, State.r_w_off, State.r_w_same]
    exact Nat.mod_eq_of_lt (seqOf_lt _)
  valid := by simp (disch := decide) only [State.faultWords, State.b_wb_disjoint, State.b_wb_same]
  refusal := by simp (disch := decide) only [State.faultWords, State.b_wb_same]

theorem FaultRecorded.modTile {g code : Nat} {d : BitVec 512} {refusal : Bool} {s : State} (a : FaultRecorded g code d refusal s)
    (g' : Nat) (f : Tile → Tile) : FaultRecorded g code d refusal (s.modTile g' f) where
  code := (State.modTile_acc_r s g' f _ _).trans a.code
  opcode := (State.modTile_acc_r s g' f _ _).trans a.opcode
  seq := (State.modTile_acc_r s g' f _ _).trans a.seq
  valid := (State.modTile_acc_b s g' f _ _).trans a.valid
  refusal := (State.modTile_acc_b s g' f _ _).trans a.refusal

theorem FaultRecorded.of_reported {g code : Nat} {d : BitVec 512} {refusal : Bool} {s t : State} (a : FaultRecorded g code d refusal s)
    (h : Reported g s t) : FaultRecorded g code d refusal t where
  code := (h.r _ (by decide)).trans a.code
  opcode := (h.r _ (by decide)).trans a.opcode
  seq := (h.r _ (by decide)).trans a.seq
  valid := (h.b _ (by decide)).trans a.valid
  refusal := (h.b _ (by decide)).trans a.refusal

/-- Tile `g` keeps its queue and its commands in flight, and memory and the other tiles are as they were. -/
structure KeepsWork (g : Nat) (s t : State) : Prop where
  queue  : (t.tile g).queue = (s.tile g).queue
  flight : (t.tile g).flight = (s.tile g).flight
  mem    : t.mem = s.mem
  others : ∀ g', g' ≠ g → t.tile g' = s.tile g'

theorem KeepsWork.trans {g : Nat} {s t u : State} (a : KeepsWork g s t) (b : KeepsWork g t u) : KeepsWork g s u where
  queue := b.queue.trans a.queue
  flight := b.flight.trans a.flight
  mem := b.mem.trans a.mem
  others g' h := (b.others g' h).trans (a.others g' h)

theorem Reported.keepsWork {g : Nat} {s t : State} (h : Reported g s t) : KeepsWork g s t := ⟨h.queue, h.flight, h.mem, h.others⟩

/-- An update of a tile that leaves its queue and its commands in flight. -/
theorem KeepsWork.modTile (s : State) (g : Nat) (f : Tile → Tile) (hq : (f (s.tile g)).queue = (s.tile g).queue)
    (hf : (f (s.tile g)).flight = (s.tile g).flight) : KeepsWork g s (s.modTile g f) where
  queue := by rw [State.tile_modTile_same, hq]
  flight := by rw [State.tile_modTile_same, hf]
  mem := rfl
  others g' h := by rw [State.tile_modTile, if_neg h]

theorem KeepsWork.w (s : State) (g : Nat) (k : Blk) (f : Fld) (v : Nat) : KeepsWork g s (s.w k f v) := ⟨rfl, rfl, rfl, fun _ _ => rfl⟩

theorem faultWords_keepsWork (s : State) (g : Nat) (f : CmdFault) : KeepsWork g s (s.faultWords g f) := by
  constructor
  case queue => simp [State.faultWords]
  case flight => simp [State.faultWords]
  case mem => simp [State.faultWords]
  case others => simp [State.faultWords]

theorem setFault_keepsWork (s : State) (g : Nat) (f : CmdFault) : KeepsWork g s (s.setFault g f) := by
  rw [setFault_eq]
  exact (faultWords_keepsWork s g f).trans (.modTile _ g _ rfl rfl)

theorem fillFault_keepsWork (s : State) (g : Nat) (f : CmdFault) : KeepsWork g s (s.fillFault g f) := by
  unfold State.fillFault
  dsimp only
  split
  · split
    · exact ((setFault_keepsWork s g f).trans (.w _ g _ _ _)).trans (.modTile _ g _ rfl rfl)
    · exact (KeepsWork.w s g _ _ _).trans (.modTile _ g _ rfl rfl)
  · exact setFault_keepsWork s g f

/-- With VALID clear the registers take the fault (R92). -/
theorem fillFault_of_not_valid {s : State} {g : Nat} (h : s.b (.tile g) F.CMD_FAULT_STAT_VALID = false) (f : CmdFault) :
    s.fillFault g f = s.setFault g f := by
  simp [State.fillFault, h]

/-- A command fault is the record of the fault, its report, and the faulted state of the tile. -/
theorem commandFault_eq (s : State) (g : Nat) (f : CmdFault) :
    ∃ y, Reported g (s.fillFault g f) y ∧ s.commandFault g f = y.modTile g fun t => { t with faulted := true, drainSet := false } :=
  ⟨_, ((logEv_log _ _).reported g).trans ((hemPut_trace _ _ _ _ _).reported.trans (trigger_trace _ _ _ _).reported), rfl⟩

theorem commandFault_faulted (s : State) (g : Nat) (f : CmdFault) : ((s.commandFault g f).tile g).faulted = true := by
  obtain ⟨y, -, h⟩ := commandFault_eq s g f
  rw [h, State.tile_modTile_same]

theorem commandFault_keepsWork (s : State) (g : Nat) (f : CmdFault) : KeepsWork g s (s.commandFault g f) := by
  obtain ⟨y, hy, h⟩ := commandFault_eq s g f
  rw [h]
  exact (fillFault_keepsWork s g f).trans (hy.keepsWork.trans (.modTile _ g _ rfl rfl))

theorem commandFault_recorded {s : State} {g : Nat} (hv : s.b (.tile g) F.CMD_FAULT_STAT_VALID = false) (f : CmdFault)
    (hcode : f.code < 2 ^ 8) : FaultRecorded g f.code (f.desc.getD 0) f.refusal (s.commandFault g f) := by
  obtain ⟨y, hy, h⟩ := commandFault_eq s g f
  rw [fillFault_of_not_valid hv, setFault_eq] at hy
  rw [h]
  exact ((((faultWords_recorded s g f hcode).modTile g _).of_reported hy).modTile g _)

/-! ### The refusal of a reserved opcode (R71) -/

/-- A head of the row's kind whose entry reads and whose check refuses it stays, with the tile faulted (R70). -/
theorem issue_refuse {s x y : State} {g code : Nat} {kind : BitVec 512 → Bool} {chk : State → BitVec 512 → Check × State}
    {go : State → Nat → BitVec 512 → State} {d e : BitVec 512} {q : List (BitVec 512)} (hq : (s.tile g).queue = d :: q)
    (hkind : kind d = true) (hissue : s.mayIssue g d = true) (hread : s.cqRead g d = (none, e, x))
    (hflags : (reservedFlags e && opcodeOf e < 0x0E) = false) (hchk : chk x e = (.refuse code, y)) :
    s.issue g kind chk go = y.refuse g e code := by
  simp [State.issue, hq, hkind, hissue, hread, hflags, hchk]

theorem exec_reservedOpcode {t : Site} {s x : State} {d e : BitVec 512} {q : List (BitVec 512)} (hq : (s.tile t.g).queue = d :: q)
    (hd : 0x0E ≤ opcodeOf d) (he : 0x0E ≤ opcodeOf e) (hissue : s.mayIssue t.g d = true) (hread : s.cqRead t.g d = (none, e, x)) :
    exec (.reservedOpcode t) s = .next (x.refuse t.g e 0x01) :=
  congrArg _ (issue_refuse hq (decide_eq_true hd) hissue hread (by simp [he]) rfl)

/-- Settles O20: the read of the head's entry only corrects and reports, and the refusal is a command fault with code 0x01. R71 gives the
code; that it stands also where reserved flag bits are set, for which R75 gives 0x02, is the model's own choice (log entry 92). -/
theorem reservedOpcode : Obligations.ReservedOpcode := by
  intro t d e q x s hq hd he hissue hread
  have hx : Reported t.g s x := by simpa [hread] using cqRead_reported t s d
  have hkeep : KeepsWork t.g x (x.refuse t.g e 0x01) := commandFault_keepsWork _ _ _
  have hwork := hx.keepsWork.trans hkeep
  refine ⟨_, exec_reservedOpcode hq hd he hissue hread, commandFault_faulted _ _ _, hwork.queue.trans hq, hwork.flight, hkeep.mem,
    hwork.others, fun hvalid => ?_⟩
  obtain ⟨hcode, hopcode, hseq, hset, hrefusal⟩ := commandFault_recorded ((hx.b _ (by decide)).trans hvalid)
    { desc := some e, code := 0x01, refusal := true, order := (x.tile t.g).nextUid } (show 0x01 < 2 ^ 8 by decide)
  exact ⟨hcode, hopcode, hseq, hset, hrefusal⟩

end Sys2Proof.Machine
end

section
/-! PROOFS. The end of a configuration transaction by timeout (R369, R374): a transaction open 10,000,000 tape cycles after its baste is
unpicked, by the tape reaching that cycle or by a later stitch of its requester. -/
namespace Sys2Proof.Machine

/-! ### A granted write of a register that acts at once -/

/-- A granted write of a register without RWT fields is stored and its block acts (R97, R306, R311). -/
theorem State.write0_of_grants {s : State} {q : Req} {k : Blk} {rel i : Nat} {r : RegSpec} (hgrant : s.grants q k rel = true)
    (halign : (k.base + rel) % 4 = 0) (hat : regAt (k.base + rel) = some (k, r, i)) (hwritable : r.writable = true)
    (hplain : r.isRwt = false) (v : BitVec 32) :
    s.write0 q k rel v = s.regSet State.ccCtrl q .bus k r (k.base + rel) v := by
  obtain ⟨⟨⟨hreach, hreset⟩, hbar⟩, hscope⟩ :
      ((s.reaches q = true ∧ s.inReset k = false) ∧ s.barred q .bus k rel = false) ∧ s.mayWrite q (s.scopeOf k rel) = true := by
    simpa [State.grants] using hgrant
  rw [State.write0, State.request_of_reaches hreach halign]
  simp [State.regWrite, State.regWriteBy, hat, hreset, hbar, hscope, hwritable, hplain]

/-- The CFG block stores nothing in the register file: a write without reserved encodings is what the block does with it. -/
theorem State.regSet_cfg {r : RegSpec} {v : BitVec 32} (hv : r.badWrite v = false) (ctrl : State → Nat → BitVec 32 → State) (s : State)
    (q : Req) (via : Via) (off : Nat) : s.regSet ctrl q via .cfg r off v = s.cfgSet q (off - Blk.cfg.base) v := by
  simp [State.regSet, State.writeReady, elsewhere, hv]

/-- CFG_TXN_COMMIT has one field, the write-only STITCH, which takes a 1 (Table 13.6). -/
theorem regAt_cfgTxnCommit : ∃ r, regAt (Blk.cfg.base + F.CFG_TXN_COMMIT_STITCH.off) = some (.cfg, r, 0)
    ∧ r.writable = true ∧ r.isRwt = false ∧ r.badWrite 1 = false :=
  ⟨_, rfl, by decide⟩

/-- The row STITCH of a granted requester stitches (R371). -/
theorem exec_stitch_of_grants {s : State} {q : Req} (hgrant : s.grants q .cfg F.CFG_TXN_COMMIT_STITCH.off = true) :
    exec (.stitch q) s = .next (s.stitch q) := by
  obtain ⟨r, hat, hwritable, hplain, htakes⟩ := regAt_cfgTxnCommit
  have hwrite : s.write0 q .cfg F.CFG_TXN_COMMIT_STITCH.off 1 = s.stitch q := calc
    _ = s.regSet State.ccCtrl q .bus .cfg r (Blk.cfg.base + F.CFG_TXN_COMMIT_STITCH.off) 1 :=
      State.write0_of_grants hgrant (by decide) hat hwritable hplain 1
    _ = s.cfgSet q F.CFG_TXN_COMMIT_STITCH.off 1 := State.regSet_cfg htakes _ s q .bus _
    _ = s.stitch q := rfl
  exact congrArg _ hwrite

/-! ### A transaction that is due -/

/-- The transaction after its timeout: closed, with what was staged discarded and RESULT 4 (R374). -/
def Txn.timedOut (t : Txn) : Txn := { t with isOpen := false, staged := [], full := false, result := 4 }

@[simp] theorem Txn.timedOut_isOpen (t : Txn) : t.timedOut.isOpen = false := rfl

theorem State.txnExpire_of_due {s : State} {q : Nat} (hopen : (s.txn q).isOpen = true) (hdue : (s.txn q).baste + 10000000 ≤ s.tape) :
    s.txnExpire q = s.setTxn q (s.txn q).timedOut := if_pos ⟨hopen, hdue⟩

/-- The row TXN_TIMEOUT of an open transaction takes the tape to 10,000,000 cycles after the baste, where the transaction is due. -/
theorem exec_txnTimeout_of_open {s : State} {q : Req} (hopen : (s.txn q.n).isOpen = true) :
    exec (.txnTimeout q) s
      = .next ((s.advanceTo ((s.txn q.n).baste + 10000000)).setTxn q.n (s.txn q.n).timedOut) := by
  show execTxnTimeout q s = _
  have hexpire : (s.advanceTo ((s.txn q.n).baste + 10000000)).txnExpire q.n
      = (s.advanceTo ((s.txn q.n).baste + 10000000)).setTxn q.n (s.txn q.n).timedOut :=
    State.txnExpire_of_due hopen (Nat.le_max_right _ _)
  simp only [execTxnTimeout, hopen, if_true, hexpire]

/-- A stitch finds a due transaction already unpicked: it sets NO_TXN in what the timeout left (R369, R374). -/
theorem State.stitch_of_due {s : State} {q : Req} (hopen : (s.txn q.n).isOpen = true)
    (hdue : (s.txn q.n).baste + 10000000 ≤ s.tape) :
    s.stitch q = (s.setTxn q.n (s.txn q.n).timedOut).setTxn q.n ((s.txn q.n).timedOut.setErr 1) := by
  simp [State.stitch, State.txnExpire_of_due hopen hdue]

/-- Settles O55: at the cycle itself the row times the open transaction out and touches nothing else; from then on a stitch does the same
first, and then finds none open. -/
theorem txnTimeout : Obligations.TxnTimeout := by
  refine ⟨fun q s hopen hbefore => ?_, fun q s hgrant hopen hdue => ?_⟩
  · refine ⟨_, exec_txnTimeout_of_open hopen, ?_⟩
    rw [State.txn_setTxn_same]
    exact ⟨rfl, rfl, rfl, Nat.max_eq_right hbefore, rfl, rfl, rfl, rfl, fun x hx => by simp [State.txn_setTxn, hx]⟩
  · refine ⟨_, (exec_stitch_of_grants hgrant).trans (congrArg _ (State.stitch_of_due hopen hdue)), ?_⟩
    rw [State.txn_setTxn_same]
    exact ⟨rfl, rfl, rfl, rfl, rfl, rfl, fun x hx => by simp [State.txn_setTxn, hx]⟩

end Sys2Proof.Machine
end
